-- ==== Sys2Proof/Word.lean ====
section
/-!
DEFINITION. The word types of the machine and their plainest arithmetic (spec 00 R2, R3).
-/
namespace Sys2Proof

/-- A byte of memory. -/
abbrev Byte := BitVec 8
/-- A 32-bit register (a vector register, R32). -/
abbrev W32 := BitVec 32
/-- A 64-bit register (a scalar register, a pointer, a PC). -/
abbrev W64 := BitVec 64

/-- Bits `[lo + len - 1 : lo]` of a natural number (R2). -/
def bitsOf (x lo len : Nat) : Nat := x / 2 ^ lo % 2 ^ len

/-- A truth value as a bit. -/
def bitOf (b : Bool) : Nat := if b then 1 else 0

/-- The signed value of the low `w` bits of `x`. -/
def signedOf (w x : Nat) : Int :=
  let y := x % 2 ^ w
  if w != 0 && y / 2 ^ (w - 1) == 1 then (y : Int) - (2 ^ w : Nat) else (y : Int)

/-- An exact integer reduced modulo 2^w (R104). -/
def wrapNat (w : Nat) (x : Int) : Nat := (x % ((2 ^ w : Nat) : Int)).toNat

end Sys2Proof
end

