-- ==== Sys2Proof/Machine/Numbers.lean ====
section
/-!
DEFINITION. Numbers and formats: exact dyadic values, rounding, the IEEE formats, binary8 and the storage
formats (04 R95 to R129).
-/
namespace Sys2Proof.Machine
open Sys2Proof

/-- The value a format's code stands for: a NaN, an infinity, or (-1)^neg · m · 2^e. -/
inductive Num where
  | nan (signalling : Bool)
  | inf (neg : Bool)
  | fin (neg : Bool) (m : Nat) (e : Int)
  deriving DecidableEq, Repr, Inhabited

/-- An IEEE format (R96): exponent bits, trailing bits, bias. -/
structure Fmt where
  eb : Nat
  tb : Nat
  bias : Nat
  deriving DecidableEq, Repr, Inhabited

def Fmt.f32 : Fmt := ⟨8, 23, 127⟩
def Fmt.f16 : Fmt := ⟨5, 10, 15⟩
def Fmt.bf16 : Fmt := ⟨8, 7, 127⟩

/-- How a result is rounded (R27, R101 to R105, R112): the mode (6: the faithful choice of R161, up if `up`),
saturation, flushing and the generator's draw. -/
structure Rnd where
  mode : Nat := 0
  sat  : Bool := false
  ftz  : Bool := false
  r    : Nat := 0
  up   : Bool := false
  deriving DecidableEq, Repr, Inhabited

/-- Flags NV, DZ, OF, UF and NX (R106). -/
abbrev Flags := BitVec 5
def flNV : Flags := 1
def flDZ : Flags := 2
def flOF : Flags := 4
def flUF : Flags := 8
def flNX : Flags := 16

def lenOf (m : Nat) : Nat := if m = 0 then 0 else Nat.log2 m + 1

/-- The exact value of a code of an IEEE format (R96, R98). -/
def Fmt.decode (f : Fmt) (x : Nat) : Num :=
  let t := bitsOf x 0 f.tb
  let e := bitsOf x f.tb f.eb
  let neg := bitsOf x (f.tb + f.eb) 1 == 1
  if e = 2 ^ f.eb - 1 then
    if t = 0 then .inf neg else .nan (bitsOf t (f.tb - 1) 1 == 0)
  else if e = 0 then .fin neg t (1 - (f.bias : Int) - f.tb)
  else .fin neg (2 ^ f.tb + t) ((e : Int) - f.bias - f.tb)

/-- The canonical quiet NaN (R96). -/
def Fmt.cnan (f : Fmt) : Nat := (2 ^ f.eb - 1) * 2 ^ f.tb + 2 ^ (f.tb - 1)
def Fmt.sign (f : Fmt) (neg : Bool) : Nat := bitOf neg * 2 ^ (f.tb + f.eb)
def Fmt.infc (f : Fmt) (neg : Bool) : Nat := f.sign neg + (2 ^ f.eb - 1) * 2 ^ f.tb
def Fmt.maxc (f : Fmt) (neg : Bool) : Nat := f.sign neg + (2 ^ f.eb - 1) * 2 ^ f.tb - 1

/-- m · 2^e rounded to a multiple of 2^q (R101, R112): the multiple, and whether it differs. In a format of one significant bit every
significand is 1, so that R101's "even significand" does not decide an RNE tie (R118): the larger magnitude is taken there
(DESIGN CHOICE, log 23). -/
def roundAt (rd : Rnd) (neg : Bool) (m : Nat) (e q : Int) : Nat × Bool :=
  if q ≤ e then (m * 2 ^ (e - q).toNat, false)
  else
    let sh := (q - e).toNat
    if lenOf m + 34 < sh then
      (if m != 0 && ((rd.mode == 2 && !neg) || (rd.mode == 3 && neg) || (rd.mode == 6 && rd.up)) then 1 else 0, m != 0)
    else
      let k := m / 2 ^ sh
      let rem := m % 2 ^ sh
      let up := match rd.mode with
        | 0 => decide (2 ^ sh < 2 * rem) || (decide (2 * rem = 2 ^ sh) && k % 2 == 1)
        | 2 => !neg && rem != 0
        | 3 => neg && rem != 0
        | 4 => decide (2 ^ sh ≤ 2 * rem)
        | 5 => decide (2 ^ 32 ≤ rem * 2 ^ 32 / 2 ^ sh + rd.r)
        | 6 => rd.up && rem != 0
        | _ => false
      (if up then k + 1 else k, rem != 0)

/-- A nonzero magnitude m · 2^e rounded to p bits with an unbounded exponent: normalised significand and exponent. -/
def roundFree (rd : Rnd) (neg : Bool) (m : Nat) (e : Int) (p : Nat) : Nat × Int × Bool :=
  let q := e + lenOf m - p
  let (k, ix) := roundAt rd neg m e q
  if k = 2 ^ p then (2 ^ (p - 1), q + 1, ix) else (k, q, ix)

/-- Whether an overflow in this mode gives an infinity (R102). -/
def toInf (mode : Nat) (neg : Bool) : Bool :=
  match mode with
  | 1 => false
  | 2 => !neg
  | 3 => neg
  | _ => true

/-- An exact value rounded to an IEEE format: code and flags (R101 to R105). -/
def Fmt.round (f : Fmt) (rd : Rnd) (x : Num) : Nat × Flags :=
  match x with
  | .nan _ => (f.cnan, 0)
  | .inf neg => (if rd.sat then f.maxc neg else f.infc neg, 0)
  | .fin neg m e =>
    if m = 0 then (f.sign neg, 0)
    else
      let qmin : Int := 1 - f.bias - f.tb
      let qmax : Int := (2 ^ f.eb - 2 : Nat) - f.bias - f.tb
      let (_, qu, _) := roundFree rd neg m e (f.tb + 1)
      if qmax < qu then
        (if rd.sat || !toInf rd.mode neg then f.maxc neg else f.infc neg, flOF ||| flNX)
      else
        let q := max (e + lenOf m - (f.tb + 1)) qmin
        let (k, ix) := roundAt rd neg m e q
        if qu < qmin then
          if rd.ftz then (f.sign neg, flUF ||| flNX)
          else (f.sign neg + (q - qmin).toNat * 2 ^ f.tb + k, if ix then flUF ||| flNX else 0)
        else (f.sign neg + (q - qmin).toNat * 2 ^ f.tb + k, if ix then flNX else 0)

/-! ### Exact arithmetic -/

def Num.isNan : Num → Bool
  | .nan _ => true
  | _ => false
def Num.isSig : Num → Bool
  | .nan b => b
  | _ => false
def Num.isInf : Num → Bool
  | .inf _ => true
  | _ => false
def Num.isZero : Num → Bool
  | .fin _ m _ => m == 0
  | _ => false
def Num.neg : Num → Bool
  | .nan _ => false
  | .inf n => n
  | .fin n _ _ => n
def Num.negate : Num → Num
  | .nan b => .nan b
  | .inf n => .inf (!n)
  | .fin n m e => .fin (!n) m e

/-- The signed integer v · 2^e of a finite value at a common exponent. -/
def Num.at (x : Num) (e : Int) : Int :=
  match x with
  | .fin n m k => (if n then -1 else 1) * (m : Int) * 2 ^ (k - e).toNat
  | _ => 0
def Num.exp : Num → Int
  | .fin _ m e => if m = 0 then 0 else e
  | _ => 0

/-- An exact sum of non-NaN values (R151): none where infinities of opposite signs meet. An exact zero sum of values
that are not all zeros of one sign is +0, or −0 under RD. -/
def sumNum (mode : Nat) (xs : List Num) : Option Num :=
  let pos := xs.any fun x => x.isInf && !x.neg
  let neg := xs.any fun x => x.isInf && x.neg
  if pos && neg then none
  else if pos then some (.inf false)
  else if neg then some (.inf true)
  else
    let nz := xs.filter fun x => !x.isZero
    match nz with
    | [] => some (.fin (if xs.all fun x => x.neg then true else if xs.all fun x => !x.neg then false
        else mode == 3) 0 0)
    | [x] => some x
    | x :: r =>
      let e := r.foldl (fun e y => min e y.exp) x.exp
      let v : Int := nz.foldl (fun (a : Int) y => a + y.at e) 0
      if v = 0 then some (.fin (mode == 3) 0 0)
      else some (.fin (decide (v < 0)) v.natAbs e)

/-- An exact product of non-NaN values: none for 0 × ∞. -/
def mulNum (a b : Num) : Option Num :=
  match a, b with
  | .fin n m e, .fin n' m' e' => some (.fin (n != n') (m * m') (e + e'))
  | _, _ => if a.isZero || b.isZero then none else some (.inf (a.neg != b.neg))

/-- A result rounded once: an invalid operation or a signalling input raises NV and gives the canonical NaN, another
NaN input gives it without a flag (R99, R100, R151). -/
def Fmt.finish (f : Fmt) (rd : Rnd) (ins : List Num) (x : Option Num) : Nat × Flags :=
  if x.isNone || ins.any Num.isSig then (f.cnan, flNV)
  else if ins.any Num.isNan then (f.cnan, 0)
  else f.round rd (x.getD (.nan false))

def fpAdd (f : Fmt) (rd : Rnd) (a b : Nat) : Nat × Flags :=
  let x := f.decode a; let y := f.decode b
  f.finish rd [x, y] (if x.isNan || y.isNan then some (.nan false) else sumNum rd.mode [x, y])

def fpSub (f : Fmt) (rd : Rnd) (a b : Nat) : Nat × Flags :=
  let x := f.decode a; let y := f.decode b
  f.finish rd [x, y] (if x.isNan || y.isNan then some (.nan false) else sumNum rd.mode [x, y.negate])

def fpMul (f : Fmt) (rd : Rnd) (a b : Nat) : Nat × Flags :=
  let x := f.decode a; let y := f.decode b
  f.finish rd [x, y] (if x.isNan || y.isNan then some (.nan false) else mulNum x y)

/-- `fma` (R151): 0 × ∞ is invalid even where c is a quiet NaN. -/
def fpFma (f : Fmt) (rd : Rnd) (a b c : Nat) : Nat × Flags :=
  let x := f.decode a; let y := f.decode b; let z := f.decode c
  f.finish rd [x, y, z]
    (if x.isNan || y.isNan then some (.nan false)
     else match mulNum x y with
      | none => none
      | some p => if z.isNan then some (.nan false) else sumNum rd.mode [p, z])

/-- `fscl` (R151). -/
def fpScl (f : Fmt) (rd : Rnd) (a : Nat) (n : Int) : Nat × Flags :=
  let x := f.decode a
  f.finish rd [x] (some (match x with
    | .fin s m e => .fin s m (e + n)
    | y => y))

/-- The order of two non-NaN values, −0 below +0 where `zeros` (R152), else equal (R153). -/
def numLt (zeros : Bool) (a b : Num) : Bool :=
  match a, b with
  | .inf n, .inf n' => n && !n'
  | .inf n, _ => n
  | _, .inf n' => !n'
  | x, y =>
    if x.isZero && y.isZero then zeros && x.neg && !y.neg
    else
      let e := min x.exp y.exp
      decide (x.at e < y.at e)

/-- `fmin`, `fmax` (R152). -/
def fpMinMax (f : Fmt) (isMax : Bool) (a b : Nat) : Nat × Flags :=
  let x := f.decode a; let y := f.decode b
  let fl := if x.isSig || y.isSig then flNV else 0
  if x.isNan && y.isNan then (f.cnan, fl)
  else if x.isNan then (b, fl)
  else if y.isNan then (a, fl)
  else if isMax then (if numLt true x y then b else a, fl)
  else (if numLt true y x then b else a, fl)

/-- `famax` (R152). -/
def fpAMax (f : Fmt) (a b : Nat) : Nat × Flags :=
  let x := f.decode a; let y := f.decode b
  let fl := if x.isSig || y.isSig then flNV else 0
  let a' := bitsOf a 0 (f.tb + f.eb)
  let b' := bitsOf b 0 (f.tb + f.eb)
  if x.isNan || y.isNan then (f.cnan, fl) else (max a' b', fl)

/-- `fcmp` (R153): the truth value and the flags. -/
def fpCmp (f : Fmt) (cond a b : Nat) : Bool × Flags :=
  let x := f.decode a; let y := f.decode b
  let un := x.isNan || y.isNan
  let sg := x.isSig || y.isSig
  let lt := !un && numLt false x y
  let gt := !un && numLt false y x
  let eq := !un && !lt && !gt
  let v := match cond with
    | 0 => eq
    | 1 => !eq
    | 2 => lt
    | 3 => lt || eq
    | 4 => gt
    | 5 => gt || eq
    | 6 => un
    | _ => !un
  (v, if sg || (un && decide (2 ≤ cond) && decide (cond ≤ 5)) then flNV else 0)

/-- `frnd` (R155): to an integral value of the same format; NX is not raised. -/
def fpRnd (f : Fmt) (rd : Rnd) (a : Nat) : Nat × Flags :=
  match f.decode a with
  | .nan s => (f.cnan, if s then flNV else 0)
  | .inf _ => (a, 0)
  | .fin neg m e =>
    if m = 0 || decide (0 ≤ e) then (a, 0)
    else
      let (k, ix) := roundAt rd neg m e 0
      if !ix then (a, 0)
      else if k = 0 then (f.sign neg, 0)
      else ((f.round {} (.fin neg k 0)).1, 0)

/-- `fclass` (R156). -/
def fpClass (f : Fmt) (a : Nat) : Nat :=
  match f.decode a with
  | .nan true => 2 ^ 8
  | .nan false => 2 ^ 9
  | .inf neg => if neg then 2 ^ 0 else 2 ^ 7
  | .fin neg m _ =>
    if m = 0 then (if neg then 2 ^ 3 else 2 ^ 4)
    else if m < 2 ^ f.tb then (if neg then 2 ^ 2 else 2 ^ 5)
    else (if neg then 2 ^ 1 else 2 ^ 6)

/-! ### Integers from floating values, and integer results -/

/-- A value rounded to an integer and held to bounds (R121, R158): value and flags. -/
def toInt (rd : Rnd) (lo hi : Int) (x : Num) : Int × Flags :=
  match x with
  | .nan _ => (0, flNV)
  | .inf neg => (if neg then lo else hi, flNV)
  | .fin neg m e =>
    if decide (200 < e) && m != 0 then (if neg then lo else hi, flNV)
    else
      let (k, ix) := roundAt rd neg m e 0
      let v : Int := if neg then -(k : Int) else k
      if v < lo then (lo, flNV) else if hi < v then (hi, flNV) else (v, if ix then flNX else 0)

/-- The value of an integer. -/
def ofInt (x : Int) : Num := .fin (decide (x < 0)) x.natAbs 0

/-! ### The binary8 family (R116 to R119) -/

def b8P (c : Nat) : Nat := c % 8
def b8U (c : Nat) : Bool := bitsOf c 3 1 == 1
def b8X (c : Nat) : Bool := bitsOf c 4 1 == 1
/-- Whether a code of 0x40–0x5F or 0x60–0x7F names a format (R95). -/
def b8Ok (c : Nat) : Bool := decide (0x40 ≤ c) && decide (c ≤ 0x7F) && c % 8 != 0
def b8Bias (c : Nat) : Nat := 2 ^ ((if b8U c then 9 else 8) - b8P c - 1)
def b8Nan (c : Nat) : Nat := if b8U c then 0xFF else 0x80
/-- The largest finite body (R117). -/
def b8Max (c : Nat) : Nat := (if b8U c then 0xFE else 0x7F) - bitOf (b8X c)

/-- `decode8` (R116). -/
def decode8 (c x : Nat) : Num :=
  let p := b8P c
  let s := !b8U c && x / 128 == 1
  let body := if b8U c then x else x % 128
  if x = b8Nan c then .nan false
  else if b8X c && !b8U c && body == 0x7F then .inf s
  else if b8X c && b8U c && x == 0xFE then .inf false
  else
    let e := body / 2 ^ (p - 1)
    let t := body % 2 ^ (p - 1)
    let q : Int := -(b8Bias c : Int) - (p - 1 : Nat)
    if e = 0 then .fin s t (1 + q) else .fin s (2 ^ (p - 1) + t) (e + q)

/-- The sign bit of a signed code. -/
def b8Sign (c : Nat) (neg : Bool) : Nat := if b8U c then 0 else bitOf neg * 128
def b8Inf (c : Nat) (neg : Bool) : Nat := if b8U c then 0xFE else bitOf neg * 128 + 0x7F

/-- What an overflow gives (R119). -/
def b8Over (c : Nat) (rd : Rnd) (neg : Bool) : Nat :=
  if rd.sat then b8Sign c neg + b8Max c
  else if !b8X c then b8Nan c
  else if toInf rd.mode neg then b8Inf c neg else b8Sign c neg + b8Max c

/-- Conversion to binary8 (R118, R119): code and flags. -/
def encode8 (c : Nat) (rd : Rnd) (x : Num) : Nat × Flags :=
  match x with
  | .nan s => (b8Nan c, if s then flNV else 0)
  | .inf neg => if b8U c && neg then (if rd.sat then 0 else b8Nan c, flNV) else (b8Over c rd neg, 0)
  | .fin neg m e =>
    if m = 0 then (0, 0)
    else
      let p := b8P c
      let qmin : Int := 1 - (b8Bias c : Int) - (p - 1 : Nat)
      let (ku, qu, _) := roundFree rd neg m e p
      let q := max (e + lenOf m - p) qmin
      let (k, ix) := roundAt rd neg m e q
      if b8U c && neg && k != 0 then (if rd.sat then 0 else b8Nan c, flNV)
      else if qu < qmin then
        if rd.ftz || k = 0 then (0, if rd.ftz || ix then flUF ||| flNX else 0)
        else (b8Sign c neg + (q - qmin).toNat * 2 ^ (p - 1) + k, if ix then flUF ||| flNX else 0)
      else if b8Max c < (qu - qmin).toNat * 2 ^ (p - 1) + ku then (b8Over c rd neg, flOF ||| flNX)
      else (b8Sign c neg + (q - qmin).toNat * 2 ^ (p - 1) + k, if ix then flNX else 0)

/-! ### Storage formats by code (R95, R120 to R126) -/

/-- Element bits of a storage format; 0 for a reserved code and for the canonical layout. -/
def fmtBits (c : Nat) : Nat :=
  match c with
  | 0x00 => 32 | 0x01 => 16 | 0x02 => 16 | 0x03 => 32 | 0x04 => 16
  | 0x08 => 8 | 0x09 => 6 | 0x0A => 4 | 0x0B => 2 | 0x0C => 1
  | 0x10 => 3 | 0x11 => 4
  | 0x18 => 8 | 0x19 => 6 | 0x1A => 4 | 0x1B => 2
  | _ => if b8Ok c then 8 else 0

def fmtScaled (c : Nat) : Bool := (decide (0x18 ≤ c) && decide (c ≤ 0x1B)) || (b8Ok c && decide (0x60 ≤ c))
def fmtCodebook (c : Nat) : Bool := c == 0x10 || c == 0x11
def fmtPlanes (c : Nat) : Nat := if decide (0x80 ≤ c) && decide (c ≤ 0x8F) then c - 0x7F else 0
def fmtOk (c : Nat) : Bool := fmtBits c != 0 || fmtPlanes c != 0

/-- The value of an element's bits in a plain format (R96, R116, R120); a scaled format's element before its scale. -/
def fmtDecode (c x : Nat) : Num :=
  match c with
  | 0x00 => Fmt.f32.decode x
  | 0x01 => Fmt.f16.decode x
  | 0x02 => Fmt.bf16.decode x
  | 0x0C => ofInt (if x = 0 then 1 else -1)
  | _ => if b8Ok c then decode8 c x else ofInt (signedOf (fmtBits c) x)

/-- An exact value converted to a plain storage format (R118, R119, R121): bits and flags. -/
def fmtEncode (c : Nat) (rd : Rnd) (x : Num) : Nat × Flags :=
  match c with
  | 0x00 => let (b, fl) := Fmt.f32.round rd x; (b, if x.isSig then flNV else fl)
  | 0x01 => let (b, fl) := Fmt.f16.round rd x; (b, if x.isSig then flNV else fl)
  | 0x02 => let (b, fl) := Fmt.bf16.round rd x; (b, if x.isSig then flNV else fl)
  | 0x0C =>
    let minus := match x with
      | .fin n m _ => n && m != 0
      | .inf n => n
      | .nan _ => false
    let exact := match x with
      | .fin _ m e => m != 0 && decide (lenOf m + e = 1) && m == 2 ^ (lenOf m - 1)
      | _ => false
    (bitOf minus, if x.isNan then flNV else if exact then 0 else flNX)
  | _ =>
    if b8Ok c then encode8 c rd x
    else
      let w := fmtBits c
      let (v, fl) := toInt rd (-(2 ^ (w - 1) : Nat)) ((2 ^ (w - 1) : Nat) - 1) x
      (wrapNat w v, fl)

/-- A value times an S8 scale (R123): the byte 0xFF makes it a NaN. -/
def scaleBy (c : Nat) (x : Num) : Num :=
  if c = 0xFF then .nan false
  else match x with
    | .fin n m e => .fin n m (e + c - 127)
    | y => y

/-! ### Stochastic rounding (R111 to R115) -/

/-- One step of a generator (R111). -/
def rngStep (s : W64) : W64 :=
  let s := s ^^^ (s <<< 13)
  let s := s ^^^ (s >>> 7)
  s ^^^ (s <<< 17)
/-- The draw of a state (R111). -/
def rngDraw (s : W64) : Nat := s.toNat / 2 ^ 32
/-- An n32 rotated left (R113, R159). -/
def rotl32 (x n : Nat) : Nat := (x * 2 ^ (n % 32) % 2 ^ 32) + x / 2 ^ (32 - n % 32)

end Sys2Proof.Machine
end

