-- ==== Sys2Proof/Syntax.lean ====
section
/-!
DEFINITION. The syntax: one constructor of Instr for each row of spec/opcode_table.json. The rows are the
instructions of the fetch lines (02), the transducer instructions (13 R362, R363) and the steps of the
machine's other agents (95). A step's arguments name the agent and hold what the world outside supplies.
-/
namespace Sys2Proof

/-- The fields of a full 96-bit instruction but for OP (R25, R27 to R31). `mid` is bits [47:32]: MOD, COND and
[35:32] in format R, POL/TYPE, SCOPE, ORD and SCALE in format M, AUX16 in formats B and E. -/
structure Fields where
  g   : BitVec 4
  sub : BitVec 4
  d   : BitVec 8
  a   : BitVec 8
  b   : BitVec 8
  c   : BitVec 8
  mid : BitVec 16
  imm : BitVec 32
  deriving DecidableEq, Repr, Inhabited

/-- One short operation of a pair, format P (R38). -/
structure ShortOp where
  sop  : BitVec 6
  pred : BitVec 3
  d    : BitVec 7
  a    : BitVec 7
  b    : BitVec 7
  c    : BitVec 7
  type : BitVec 3
  zero : BitVec 8
  deriving DecidableEq, Repr, Inhabited

/-- The registers that a REGISTER_WRITE can name: those that have no behaviour of their own (R396, R426, R428,
R451, R471, R472, R475, R482, R486, and the tables of the hypervisor complex, R316, R329, R407, R480); a word of a PCIe
function's register window, by its offset, and the context that a function owns (R428). -/
inductive RegName where
  | cmigctl (cluster : Nat) | cmigstat (cluster : Nat) | cisland (cluster : Nat) | pcurlim
  | cboostStat (ctx : Nat) | cdbgctlDen (ctx : Nat) | stkcapAlert (stack : Nat)
  | qbase (ctx queue : Nat) | qctl (ctx queue : Nat)
  | fresAddr (ctx : Nat) | fresMode (ctx : Nat) | killAddr (ctx : Nat) | pto
  | route (dev : Nat) | window (part index word : Nat)
  | ctxRoot (ctx : Nat) | ctxAsn (ctx : Nat) | ctxWin (ctx : Nat) | autoCow (ctx : Nat) | quota (ctx tier item : Nat)
  | partition (cluster : Nat) | fnWindow (fn off : Nat) | fnContext (fn : Nat)
  deriving DecidableEq, Repr, Inhabited

/-- A request that reaches device memory from outside: through the fabric (R481) or the host link (R484). An atomic
names its operation, 4096 × TYPE + 16 × OP + SUB, and the value `cas` compares. -/
structure RemoteReq where
  ctx   : Nat
  addr  : Nat
  size  : Nat
  write : Bool
  atomic : Bool
  data  : Nat
  aop   : Nat
  cmp   : Nat
  deriving DecidableEq, Repr, Inhabited

/-- What the check of a signed image finds: whether its signature is right under a public key, the key's index and the
image's version (R490); and its SHAKE256 measurement (R491). -/
structure ImageSig where
  valid   : Bool
  key     : Nat
  version : Nat
  digest  : Nat := 0
  deriving DecidableEq, Repr, Inhabited

/-- What a stage of bring-up meets (R492): the images that it verifies, the firmware and the function tables; the layers that each
stack's base die reports; the CXL links or fabric ports that fail to train; the routing tables; and the code that the stage gives
if it fails. -/
structure StageLoad where
  code   : Nat := 0
  images : List ImageSig := []
  live   : List (Nat × Nat) := []
  lost   : List Nat := []
  routes : List (Nat × List Nat) := []
  deriving DecidableEq, Repr, Inhabited

/-- Every row of the opcode table. -/
inductive Instr where
  /-- NOP, R80. -/
  | nop (f : Fields)
  /-- WAIT, R81. -/
  | wait (f : Fields)
  /-- YIELD, R80. -/
  | yield (f : Fields)
  /-- TRAP, R474. -/
  | trap (f : Fields)
  /-- BRK, R475. -/
  | brk (f : Fields)
  /-- FENCE, R313. -/
  | fence (f : Fields)
  /-- IFENCE, R314. -/
  | ifence (f : Fields)
  /-- RDSR, R83. -/
  | rdsr (f : Fields)
  /-- WRSR, R83. -/
  | wrsr (f : Fields)
  /-- EXIT, R82. -/
  | exit (f : Fields)
  /-- TRIG, R453. -/
  | trig (f : Fields)
  /-- POST, R454. -/
  | post (f : Fields)
  /-- POST_END, R454. -/
  | postEnd (f : Fields)
  /-- FRES_RESUME, R476. -/
  | fresResume (f : Fields)
  /-- FRES_KILL, R476. -/
  | fresKill (f : Fields)
  /-- FRES_REBIND, R476. -/
  | fresRebind (f : Fields)
  /-- EP, R394. -/
  | ep (f : Fields)
  /-- MIG_L, R394. -/
  | migL (f : Fields)
  /-- MIG_D, R394. -/
  | migD (f : Fields)
  /-- EMU, R55. -/
  | emu (f : Fields)
  /-- BRA, R86. -/
  | bra (f : Fields)
  /-- BRX, R86. -/
  | brx (f : Fields)
  /-- CALL, R86. -/
  | call (f : Fields)
  /-- CALLX, R86. -/
  | callx (f : Fields)
  /-- RET, R86. -/
  | ret (f : Fields)
  /-- BRS, R87. -/
  | brs (f : Fields)
  /-- WSYNC, R88. -/
  | wsync (f : Fields)
  /-- ADD, R142. -/
  | add (f : Fields)
  /-- SUB, R142. -/
  | sub (f : Fields)
  /-- MUL, R142. -/
  | mul (f : Fields)
  /-- MULHI, R142. -/
  | mulhi (f : Fields)
  /-- MAD, R142. -/
  | mad (f : Fields)
  /-- MIN, R142. -/
  | min (f : Fields)
  /-- MAX, R142. -/
  | max (f : Fields)
  /-- ABS, R142. -/
  | abs (f : Fields)
  /-- AND, R142. -/
  | and (f : Fields)
  /-- OR, R142. -/
  | or (f : Fields)
  /-- XOR, R142. -/
  | xor (f : Fields)
  /-- ANDN, R142. -/
  | andn (f : Fields)
  /-- SHL, R142. -/
  | shl (f : Fields)
  /-- SHR, R142. -/
  | shr (f : Fields)
  /-- SAR, R142. -/
  | sar (f : Fields)
  /-- CMP, R144. -/
  | cmp (f : Fields)
  /-- SEL, R145. -/
  | sel (f : Fields)
  /-- MOV, R145. -/
  | mov (f : Fields)
  /-- MOVI, R146. -/
  | movi (f : Fields)
  /-- POPC, R143. -/
  | popc (f : Fields)
  /-- CLZ, R143. -/
  | clz (f : Fields)
  /-- BREV, R143. -/
  | brev (f : Fields)
  /-- BFE, R147. -/
  | bfe (f : Fields)
  /-- BFI, R147. -/
  | bfi (f : Fields)
  /-- ADDSH, R142. -/
  | addsh (f : Fields)
  /-- IDIV, R149. -/
  | idiv (f : Fields)
  /-- PLOG, R166. -/
  | plog (f : Fields)
  /-- PMOV_GET, R167. -/
  | pmovGet (f : Fields)
  /-- PMOV_SET, R167. -/
  | pmovSet (f : Fields)
  /-- PERM, R148. -/
  | perm (f : Fields)
  /-- RNG, R150. -/
  | rng (f : Fields)
  /-- ROT, R142. -/
  | rot (f : Fields)
  /-- CLAMP, R142. -/
  | clamp (f : Fields)
  /-- FADD, R151. -/
  | fadd (f : Fields)
  /-- FSUB, R151. -/
  | fsub (f : Fields)
  /-- FMUL, R151. -/
  | fmul (f : Fields)
  /-- FMA, R151. -/
  | fma (f : Fields)
  /-- FMIN, R152. -/
  | fmin (f : Fields)
  /-- FMAX, R152. -/
  | fmax (f : Fields)
  /-- FCMP, R153. -/
  | fcmp (f : Fields)
  /-- FSGN, R154. -/
  | fsgn (f : Fields)
  /-- FRND, R155. -/
  | frnd (f : Fields)
  /-- FCLASS, R156. -/
  | fclass (f : Fields)
  /-- FDOT4, R157. -/
  | fdot4 (f : Fields)
  /-- FSCL, R151. -/
  | fscl (f : Fields)
  /-- FAMAX, R152. -/
  | famax (f : Fields)
  /-- CVT, R158. -/
  | cvt (f : Fields)
  /-- PACK, R159. -/
  | pack (f : Fields)
  /-- UNPACK, R160. -/
  | unpack (f : Fields)
  /-- RCP, R161. -/
  | rcp (f : Fields)
  /-- RSQ, R161. -/
  | rsq (f : Fields)
  /-- SQRT, R161. -/
  | sqrt (f : Fields)
  /-- EXP2, R161. -/
  | exp2 (f : Fields)
  /-- LOG2, R161. -/
  | log2 (f : Fields)
  /-- SIN, R161. -/
  | sin (f : Fields)
  /-- COS, R161. -/
  | cos (f : Fields)
  /-- TANH, R161. -/
  | tanh (f : Fields)
  /-- ACT, R163. -/
  | act (f : Fields)
  /-- SHFL, R173. -/
  | shfl (f : Fields)
  /-- VOTE, R174. -/
  | vote (f : Fields)
  /-- BALLOT, R174. -/
  | ballot (f : Fields)
  /-- WRED, R175. -/
  | wred (f : Fields)
  /-- SCAN, R175. -/
  | scan (f : Fields)
  /-- MATCH, R176. -/
  | matchl (f : Fields)
  /-- ELECT, R177. -/
  | elect (f : Fields)
  /-- RDLANE, R178. -/
  | rdlane (f : Fields)
  /-- WRLANE, R178. -/
  | wrlane (f : Fields)
  /-- LD, R196. -/
  | ld (f : Fields)
  /-- ST, R199. -/
  | st (f : Fields)
  /-- LDS, R196. -/
  | lds (f : Fields)
  /-- STS, R199. -/
  | sts (f : Fields)
  /-- PF, R201. -/
  | pf (f : Fields)
  /-- CWB, R202. -/
  | cwb (f : Fields)
  /-- CWB_SYNC, R203. -/
  | cwbSync (f : Fields)
  /-- MKPTR, R204. -/
  | mkptr (f : Fields)
  /-- PTRQ, R205. -/
  | ptrq (f : Fields)
  /-- ATOM, R215. -/
  | atom (f : Fields)
  /-- CAS, R215. -/
  | cas (f : Fields)
  /-- REDM, R215. -/
  | redm (f : Fields)
  /-- FATOM, R215. -/
  | fatom (f : Fields)
  /-- FREDM, R215. -/
  | fredm (f : Fields)
  /-- AMXR, R217. -/
  | amxr (f : Fields)
  /-- BINIT, R223. -/
  | binit (f : Fields)
  /-- BARRIVE, R224. -/
  | barrive (f : Fields)
  /-- BWAIT, R226. -/
  | bwait (f : Fields)
  /-- BEXPECT, R225. -/
  | bexpect (f : Fields)
  /-- BEXPECT_ARRIVE, R225. -/
  | bexpectArrive (f : Fields)
  /-- BTEST, R227. -/
  | btest (f : Fields)
  /-- NBAR_SYNC, R229. -/
  | nbarSync (f : Fields)
  /-- NBAR_ARRIVE, R229. -/
  | nbarArrive (f : Fields)
  /-- QINIT, R232. -/
  | qinit (f : Fields)
  /-- QPUSH, R233. -/
  | qpush (f : Fields)
  /-- QPOP, R233. -/
  | qpop (f : Fields)
  /-- XSWAP, R235. -/
  | xswap (f : Fields)
  /-- KICK, R265. -/
  | kick (f : Fields)
  /-- TDEF, R266. -/
  | tdef (f : Fields)
  /-- TSTAT, R267. -/
  | tstat (f : Fields)
  /-- TREL, R268. -/
  | trel (f : Fields)
  /-- TLD, R269. -/
  | tld (f : Fields)
  /-- TSTR, R269. -/
  | tstr (f : Fields)
  /-- ATAB, R164. -/
  | atab (f : Fields)
  /-- MRES, R288. -/
  | mres (f : Fields)
  /-- MREL, R289. -/
  | mrel (f : Fields)
  /-- MFENCE, R290. -/
  | mfence (f : Fields)
  /-- MGO, R291. -/
  | mgo (f : Fields)
  /-- MWAIT, R292. -/
  | mwait (f : Fields)
  /-- PGQ, R343. -/
  | pgq (f : Fields)
  /-- PGADV, R344. -/
  | pgadv (f : Fields)
  /-- BOP, R422. -/
  | bop (f : Fields)
  /-- TCOMMIT, R414. -/
  | tcommit (f : Fields)
  /-- TABORT, R423. -/
  | tabort (f : Fields)
  /-- URET, R423. -/
  | uret (f : Fields)
  /-- TSPAWN, R423. -/
  | tspawn (f : Fields)
  /-- CTLOAD, R424. -/
  | ctload (f : Fields)
  /-- CBIND, R378. -/
  | cbind (f : Fields)
  /-- CBUILD, R379. -/
  | cbuild (f : Fields)
  /-- IMX, R48. -/
  | imx (f : Fields)
  /-- POL, R49. -/
  | pol (f : Fields)
  /-- DADD, R54. -/
  | dadd (f : Fields)
  /-- DMUL, R54. -/
  | dmul (f : Fields)
  /-- DFMA, R54. -/
  | dfma (f : Fields)
  /-- DDIV, R54. -/
  | ddiv (f : Fields)
  /-- DSQRT, R54. -/
  | dsqrt (f : Fields)
  /-- DCVT, R54. -/
  | dcvt (f : Fields)
  /-- SHORT_PAIR, R43. -/
  | shortPair (first second : ShortOp)
  /-- TX_GET_IMM, R363. -/
  | txGetImm (d : BitVec 3) (n : BitVec 12)
  /-- TX_GET_REG, R363. -/
  | txGetReg (d : BitVec 3) (b : BitVec 3)
  /-- TX_PEEK_IMM, R363. -/
  | txPeekImm (d : BitVec 3) (n : BitVec 12)
  /-- TX_PEEK_REG, R363. -/
  | txPeekReg (d : BitVec 3) (b : BitVec 3)
  /-- TX_PUT_IMM, R363. -/
  | txPutImm (a : BitVec 3) (n : BitVec 12)
  /-- TX_PUT_REG, R363. -/
  | txPutReg (a : BitVec 3) (b : BitVec 3)
  /-- TX_LI, R363. -/
  | txLi (d : BitVec 3) (i : BitVec 24)
  /-- TX_MOV, R363. -/
  | txMov (d : BitVec 3) (a : BitVec 3)
  /-- TX_ADD_IMM, R363. -/
  | txAddImm (d : BitVec 3) (a : BitVec 3) (n : BitVec 12)
  /-- TX_ADD_REG, R363. -/
  | txAddReg (d : BitVec 3) (a : BitVec 3) (b : BitVec 3)
  /-- TX_SUB_IMM, R363. -/
  | txSubImm (d : BitVec 3) (a : BitVec 3) (n : BitVec 12)
  /-- TX_SUB_REG, R363. -/
  | txSubReg (d : BitVec 3) (a : BitVec 3) (b : BitVec 3)
  /-- TX_XOR_IMM, R363. -/
  | txXorImm (d : BitVec 3) (a : BitVec 3) (n : BitVec 12)
  /-- TX_XOR_REG, R363. -/
  | txXorReg (d : BitVec 3) (a : BitVec 3) (b : BitVec 3)
  /-- TX_AND_IMM, R363. -/
  | txAndImm (d : BitVec 3) (a : BitVec 3) (n : BitVec 12)
  /-- TX_AND_REG, R363. -/
  | txAndReg (d : BitVec 3) (a : BitVec 3) (b : BitVec 3)
  /-- TX_OR_IMM, R363. -/
  | txOrImm (d : BitVec 3) (a : BitVec 3) (n : BitVec 12)
  /-- TX_OR_REG, R363. -/
  | txOrReg (d : BitVec 3) (a : BitVec 3) (b : BitVec 3)
  /-- TX_SHL_IMM, R363. -/
  | txShlImm (d : BitVec 3) (a : BitVec 3) (n : BitVec 12)
  /-- TX_SHL_REG, R363. -/
  | txShlReg (d : BitVec 3) (a : BitVec 3) (b : BitVec 3)
  /-- TX_SHR_IMM, R363. -/
  | txShrImm (d : BitVec 3) (a : BitVec 3) (n : BitVec 12)
  /-- TX_SHR_REG, R363. -/
  | txShrReg (d : BitVec 3) (a : BitVec 3) (b : BitVec 3)
  /-- TX_SAR_IMM, R363. -/
  | txSarImm (d : BitVec 3) (a : BitVec 3) (n : BitVec 12)
  /-- TX_SAR_REG, R363. -/
  | txSarReg (d : BitVec 3) (a : BitVec 3) (b : BitVec 3)
  /-- TX_SEXT_IMM, R363. -/
  | txSextImm (d : BitVec 3) (a : BitVec 3) (n : BitVec 12)
  /-- TX_SEXT_REG, R363. -/
  | txSextReg (d : BitVec 3) (a : BitVec 3) (b : BitVec 3)
  /-- TX_ZZE, R363. -/
  | txZze (d : BitVec 3) (a : BitVec 3) (w : BitVec 12)
  /-- TX_ZZD, R363. -/
  | txZzd (d : BitVec 3) (a : BitVec 3) (w : BitVec 12)
  /-- TX_TBL, R363. -/
  | txTbl (d : BitVec 3) (a : BitVec 3)
  /-- TX_TBL_IMM, R363. -/
  | txTblImm (d : BitVec 3) (a : BitVec 3) (m : BitVec 12)
  /-- TX_PDEC, R368. -/
  | txPdec (d : BitVec 3)
  /-- TX_PENC, R368. -/
  | txPenc (a : BitVec 3)
  /-- TX_BFW, R363. -/
  | txBfw (c : BitVec 3) (a : BitVec 3) (b : BitVec 3) (skip : BitVec 6)
  /-- TX_REP_IMM, R363. -/
  | txRepImm (n : BitVec 12)
  /-- TX_REP_REG, R363. -/
  | txRepReg (a : BitVec 3)
  /-- TX_ENDR, R363. -/
  | txEndr
  /-- TX_EOB, R363. -/
  | txEob (d : BitVec 3)
  /-- TX_DONE, R363. -/
  | txDone
  /-- TX_FAIL, R363. -/
  | txFail (c : BitVec 12)
  /-- WARP_RESORT, R62. -/
  | warpResort (w : Nat)
  /-- WSYNC_RELEASE, R90. -/
  | wsyncRelease (w : Nat)
  /-- WARP_FREE, R92. -/
  | warpFree (w : Nat)
  /-- QUEUE_OP_COMPLETE, R134. -/
  | queueOpComplete (w : Nat) (queue : Nat)
  /-- TILE_OP_COMPLETE, R269. -/
  | tileOpComplete (w : Nat)
  /-- FORWARD, R298. -/
  | forward (w : Nat) (load : Nat) (lane : Nat)
  /-- READ, R298. -/
  | read (w : Nat) (load : Nat) (lane : Nat)
  /-- DRAIN, R298. -/
  | drain (w : Nat)
  /-- PROPAGATE, R297. -/
  | propagate (wid : Nat) (view : Nat)
  /-- HOME_RMW, R298. -/
  | homeRmw (w : Nat)
  /-- ENGINE_READ, R308. -/
  | engineRead (core : Nat) (engine : Nat) (rec : Nat) (piece : Nat)
  /-- ENGINE_WRITE, R308. -/
  | engineWrite (core : Nat) (engine : Nat) (rec : Nat) (piece : Nat)
  /-- KICK_GATE, R308. -/
  | kickGate (core : Nat)
  /-- COPY_RECORD_START, R254. -/
  | copyRecordStart (core : Nat)
  /-- BYTE_ARRIVE, R259. -/
  | byteArrive (core : Nat) (rec : Nat) (piece : Nat)
  /-- BARRIER_UPDATE, R219. -/
  | barrierUpdate (w : Nat)
  /-- BWAIT_TIMEOUT, R226. -/
  | bwaitTimeout (w : Nat) (lane : Nat)
  /-- QUEUE_STEP, R233. -/
  | queueStep (core : Nat) (queue : Nat)
  /-- QUEUE_TIMEOUT, R233. -/
  | queueTimeout (w : Nat) (lane : Nat)
  /-- SWAP, R235. -/
  | swap (block : Nat)
  /-- TRIG_STEP, R453. -/
  | trigStep (w : Nat)
  /-- MATRIX_OP_START, R275. -/
  | matrixOpStart (core : Nat)
  /-- MATRIX_OP_FINISH, R284. -/
  | matrixOpFinish (core : Nat)
  /-- SNARE_CHECKPOINT, R338. -/
  | snareCheckpoint (w : Nat)
  /-- SNARE_BATCH, R340. -/
  | snareBatch (w : Nat)
  /-- BATCH_PROMOTION, R341; `drop` other than 0 drops a `.warm` hint where its tenant is at QUOTA (R344). -/
  | batchPromotion (batch : Nat) (drop : Nat)
  /-- COW_BREAK, R327. -/
  | cowBreak (ctx : Nat) (va : Nat)
  /-- TLB_INVALIDATION, R324. -/
  | tlbInvalidation (index : Nat)
  /-- PAGE_MAP, R326. -/
  | pageMap (ctx : Nat) (va : Nat) (level : Nat) (leaf : Nat)
  /-- PAGE_UNMAP, R326. -/
  | pageUnmap (ctx : Nat) (va : Nat)
  /-- AGING_SWEEP, R330. -/
  | agingSweep (ctx : Nat)
  /-- DEMOTION, R331. -/
  | demotion (ctx : Nat) (tier : Nat) (target : Nat)
  /-- CHUNK_OPEN, R333. -/
  | chunkOpen (frame : Nat) (chunk : Nat)
  /-- CHUNK_COMMIT, R333. -/
  | chunkCommit (frame : Nat) (chunk : Nat)
  /-- REBIND, R360. -/
  | rebind (ctx : Nat) (va : Nat) (bind : Nat)
  /-- BURST_REPLY, R346. -/
  | burstReply (port : Nat) (tag : Nat) (status : Nat)
  /-- CODEC_FILL, R370. -/
  | codecFill (ctx : Nat) (va : Nat)
  /-- WRITE_BACK, R372. -/
  | writeBack (ctx : Nat) (va : Nat)
  /-- CACHE_SOFT_ERROR, R354. -/
  | cacheSoftError (ctx : Nat) (va : Nat)
  /-- LAYER_ALERT, R351. -/
  | layerAlert (stack : Nat) (layer : Nat)
  /-- MAPOUT, R351. -/
  | mapout (stack : Nat)
  /-- MAPOUT_COMPLETE, R351. -/
  | mapoutComplete (stack : Nat)
  /-- BOOST_GRANT, R408. -/
  | boostGrant (port : Nat) (index : Nat)
  /-- ABORT_SIGNAL, R410. -/
  | abortSignal (w : Nat) (lane : Nat)
  /-- UNDO_REPLAY, R412. -/
  | undoReplay (w : Nat) (lane : Nat)
  /-- TASK_RESTART, R411. -/
  | taskRestart (w : Nat) (lane : Nat)
  /-- SPAWN_ENQUEUE, R414. -/
  | spawnEnqueue (w : Nat) (lane : Nat)
  /-- MIGRATION_REQUEST, R388. -/
  | migrationRequest (w : Nat)
  /-- MIGRATION_GRANT, R389. -/
  | migrationGrant (cluster : Nat) (w : Nat)
  /-- DECLINE, R390. -/
  | decline (cluster : Nat) (w : Nat)
  /-- MIGRATION_SEQUENCE, R391. -/
  | migrationSequence (w : Nat)
  /-- FAULT_RECORD, R465. -/
  | faultRecord (rec : Nat)
  /-- TOCSIN, R478. -/
  | tocsin (region : Nat)
  /-- QUEUE_DOORBELL, R428. -/
  | queueDoorbell (ctx : Nat) (queue : Nat) (tail : Nat)
  /-- QERR_CLEAR, R432. -/
  | qerrClear (ctx : Nat) (queue : Nat)
  /-- LAUNCH, R436. -/
  | launch (ctx : Nat) (queue : Nat)
  /-- GRAPH, R444. -/
  | graph (ctx : Nat) (queue : Nat)
  /-- GRAPH_NODE, R444. -/
  | graphNode (ctx : Nat) (queue : Nat)
  /-- WAIT_COMMAND, R429. -/
  | waitCommand (ctx : Nat) (queue : Nat)
  /-- WAIT_SATISFIED, R431. -/
  | waitSatisfied (ctx : Nat) (queue : Nat)
  /-- SIGNAL, R429. -/
  | signal (ctx : Nat) (queue : Nat)
  /-- COPY, R433. -/
  | copy (ctx : Nat) (queue : Nat)
  /-- BLOCK_DISPATCH, R438. -/
  | blockDispatch (region : Nat)
  /-- DEPENDENT_LAUNCH_START, R445. -/
  | dependentLaunchStart (region : Nat)
  /-- END_REQUEST, R440. -/
  | endRequest (region : Nat)
  /-- REGION_COMPLETE, R442. -/
  | regionComplete (region : Nat)
  /-- TIME_SLICE_END, R446. -/
  | timeSliceEnd (part : Nat) (next : Nat)
  /-- QUANTUM_EXPIRY, R446. -/
  | quantumExpiry (region : Nat) (cluster : Nat)
  /-- PREEMPTION, R447. -/
  | preemption (region : Nat) (cluster : Nat)
  /-- PREEMPT_SAVE, R448. -/
  | preemptSave (region : Nat) (cluster : Nat)
  /-- RESTORE, R450. -/
  | restore (index : Nat)
  /-- CURRENT_ARBITRATION, R451: the rail's current, each island's demand beside its `mgo`, its temperature. -/
  | currentArbitration (inow : Nat) (demands : List Nat) (temps : List Nat)
  /-- ISLAND_STEP, R487. -/
  | islandStep (cluster : Nat) (target : Nat)
  /-- CAGE_UPDATE, R488. -/
  | cageUpdate (cluster : Nat) (guardband : Nat) (flimit : Nat) (eoldays : Nat)
  /-- LIFETIME_SAVE, R489. -/
  | lifetimeSave
  /-- HOST_FRES_RESUME, R471. -/
  | hostFresResume (ctx : Nat)
  /-- HOST_FRES_KILL, R471. -/
  | hostFresKill (ctx : Nat)
  /-- HOST_FRES_REBIND, R471. -/
  | hostFresRebind (ctx : Nat)
  /-- HOST_KILL, R472. -/
  | hostKill (ctx : Nat)
  /-- FUNCTION_RESET, R472. -/
  | functionReset (ctx : Nat)
  /-- CDBGCTL_RUN, R475. -/
  | cdbgctlRun (ctx : Nat)
  /-- REGISTER_WRITE, R451. -/
  | registerWrite (reg : RegName) (value : Nat)
  /-- DXT_LOAD, R52. -/
  | dxtLoad (cluster : Nat) (dxt : Nat) (sig : ImageSig)
  /-- ATTESTATION_REPORT, R491. -/
  | attestationReport (nonce : Nat)
  /-- BRING_UP, R492. -/
  | bringUp (ok : Bool) (load : StageLoad)
  /-- RECOVERY_IMAGE, R492. -/
  | recoveryImage (sig : ImageSig)
  /-- FLIT_RESEND, R479. -/
  | flitResend (port : Nat)
  /-- RETRAIN_TIMEOUT, R479. -/
  | retrainTimeout (port : Nat)
  /-- PORT_DOWN, R483. -/
  | portDown (port : Nat)
  /-- PAUSE_FLIT, R482. -/
  | pauseFlit (port : Nat) (cls : Nat)
  /-- RESUME_FLIT, R482. -/
  | resumeFlit (port : Nat) (cls : Nat)
  /-- PAUSE_TIMEOUT, R482. -/
  | pauseTimeout (port : Nat) (cls : Nat)
  /-- REMOTE_ACCESS, R481. -/
  | remoteAccess (req : RemoteReq)
  /-- BANK_FLIP, R164. -/
  | bankFlip (core : Nat)
  /-- PACK_COMMAND, R359. -/
  | packCommand (ctx : Nat) (va : Nat) (bind : Nat) (frame : Nat)
  /-- HOST_MEMORY_ACCESS, R484. -/
  | hostMemoryAccess (req : RemoteReq)
  /-- CXL_LINK_LOSS, R485. -/
  | cxlLinkLoss (link : Nat)
  /-- CXL_LINK_RETURN, R485. -/
  | cxlLinkReturn (link : Nat)
  deriving DecidableEq, Repr, Inhabited

end Sys2Proof
end

