-- ==== Sys2Proof/Machine/State.lean ====
section
/-!
DEFINITION. The machine's state, all of it plain data (see INVENTORY.md, State, for the rule behind each field),
the reasons a step can stop, and the state after reset.
-/
namespace Sys2Proof.Machine
open Sys2Proof

/-- Every byte of memory: pairs (location, byte), locations strictly rising, no byte equal to 0, which is what an
unlisted location reads as (log 6). -/
abbrev Memory := List Host.Cell

/-- The state of a thread in its warp's PC table (R60). -/
inductive TState where
  | ready | waiting | parked | exited
  deriving DecidableEq, Repr, Inhabited

/-- What a WAITING thread waits for (R60). -/
inductive Waiting where
  | nothing
  | bwait (obj phase deadline span : Nat) (pred : BitVec 8)
  | nbar (bar : Nat) (phase : Bool)
  | queue (isPush : Bool) (owner id : Nat)
  | xswap
  | mig (id : Nat) (toL : Bool)
  | mres
  | boost
  | spawns
  | backoff (until_ : Nat)
  | undo                        -- no wait of R60: a READY task between two steps of the loop of R411
  deriving DecidableEq, Repr, Inhabited

/-- The hidden state of a task (R398 to R401). -/
structure Task where
  seq      : W64 := 0
  aborts   : W32 := 0
  live     : Bool := false
  arg      : W64 := 0
  depth    : Nat := 0
  ubase    : W64 := 0
  pushed   : Bool := false      -- `ubase` has been set
  undoMode : Bool := false
  inverse  : Bool := false
  pendingAbort : Bool := false
  ports    : BitVec 48 := 0
  spawns   : List W64 := []
  killed   : Bool := false      -- it exits once its inverses have run (R417)
  fresh    : Bool := false      -- launched, and not live before its first issue (R399)
  owed     : Bool := false      -- its last grant's undo record is not pushed (R422)
  unwinding : Bool := false     -- its replay has waited for the younger tasks in undo mode (R411)
  leaving  : Bool := false      -- it waits at an `exit` that acts as `tcommit` (R414)
  deriving DecidableEq, Repr, Inhabited

/-- One thread: its PC table entry (R60) and its context (R74, R165). -/
structure Thread where
  tid     : Nat := 0
  pc      : W64 := 0
  st      : TState := .exited
  age     : Nat := 0
  wait    : Waiting := .nothing
  v       : List W32 := []
  p       : BitVec 8 := 0
  fpctl   : W32 := 0
  fpflags : W32 := 0
  rngs    : W64 := 1
  ustk    : W64 := 0
  task    : Task := {}
  triggered : Bool := false
  inEmu   : Bool := false
  unchecked : Bool := false    -- it stands at a target that Porvor has not been able to check yet (R23)
  covered : List Nat := []
  reads   : List Nat := []     -- writes its loads read, for a later fence (R313)
  markers : List Nat := []     -- its release markers (R303)
  swapCov : List Nat := []     -- its covered set at its last space 7 store (R236)
  ran     : Option W64 := none -- its half-group has executed the bundle's instruction, and this is its next PC (R66, R179)
  deriving DecidableEq, Repr, Inhabited

/-- What a store FIFO entry does when it leaves (R295, R298, R202). -/
inductive FifoKind where
  | store
  | atomic (ty op : Nat) (operand compare : Nat) (ret : Bool) (dst : BitVec 8) (acq : Bool)
  | marker
  | trig
  | cwb (sync : Bool)
  | post (ends : Bool)
  deriving DecidableEq, Repr, Inhabited

/-- One entry of a warp store FIFO: one write event (R296), an atomic of one lane, a release marker or a cwb. -/
structure FifoEnt where
  wid     : Nat
  op      : Nat
  kind    : FifoKind
  lane    : Nat
  cells   : List Host.Cell
  va      : W64
  release : Bool
  scope   : Nat
  covered : List Nat
  pc      : W64
  space   : Nat
  ep      : W32 := 0xFFFFFFFF
  since   : Nat := 0
  why     : Option Nat := none      -- the reason it failed for at its home (R200, R216)
  entry   : Nat := 0                -- the codec error log entry of its fill (R374)
  undo    : Bool := false           -- its task was in undo mode (R418)
  quiet   : Bool := false           -- no counter holds it: a grant's undo record (R75, R422)
  soft    : Bool := false           -- it failed at damaged bytes of a cached line, which is precise (R354)
  deriving DecidableEq, Repr, Inhabited

/-- A write through a window that has left its FIFO and not reached the remote home (R309, R483): its warp, its core. -/
structure FabReq where
  warp : Nat
  core : Nat
  ent  : FifoEnt
  deriving DecidableEq, Repr, Inhabited

/-- One lane of a pending load: where its bytes lie and those it has (R298). -/
structure LoadLane where
  lane  : Nat
  loc   : Nat
  va    : W64
  space : Nat
  got   : List (Option Byte)
  done  : Bool := false
  why   : Option Nat := none        -- the reason its data did not return for (R197)
  again : Bool := false             -- RESUME reissued it (R197)
  deriving DecidableEq, Repr, Inhabited

/-- A pending load (R196). -/
structure Load where
  id    : Nat
  dst   : BitVec 8
  size  : Nat
  acq   : Bool
  scope : Nat
  pc    : W64
  ep    : W32 := 0xFFFFFFFF
  since : Nat := 0
  signed : Bool := false
  entry : Nat := 0                  -- the codec error log entry of its fill (R374)
  undo  : Bool := false             -- a task of it was in undo mode (R418)
  lanes : List LoadLane
  deriving DecidableEq, Repr, Inhabited

/-- A register that a result goes to: a vector register of a lane, a scalar register or a predicate of a lane. -/
inductive RegRef where
  | v (lane r : Nat)
  | s (r : Nat)
  | p (lane r : Nat)
  deriving DecidableEq, Repr, Inhabited

/-- A result on its way to a register. -/
structure RegWrite where
  ref : RegRef
  val : W64
  deriving DecidableEq, Repr, Inhabited

/-- An entry of the special-function (0) or conversion (1) queue (R130 to R135). -/
structure QueueOp where
  queue  : Nat
  writes : List RegWrite
  flags  : List (Nat × BitVec 5)
  trapMask : W64
  trapCause : Nat
  bank   : Option Nat
  pc     : W64
  lanes  : List Nat       -- the bundle that waits at the instruction where it can trap (R109), else none
  deriving DecidableEq, Repr, Inhabited

/-- A tld or tstr that has issued and not finished (R269). -/
structure TileOp where
  id    : Nat := 0              -- its place among the operations of its warp
  tile  : Nat
  core  : Nat
  store : Bool
  writes : List (Nat × BitVec 8 × Nat × Nat)   -- lane, register field, location, bytes
  data  : List Host.Cell
  deriving DecidableEq, Repr, Inhabited

/-- A pending one-word unit of a barrier update (R219, R534): what the bank's atomic unit will do. -/
inductive BarOp where
  | arrive (sum : Nat)
  | expect (bytes : Nat) (arrive : Bool)
  | init (n : Nat)
  deriving DecidableEq, Repr, Inhabited

/-- A barrier update that waits for its bank: the object, the update, the lanes of B. -/
structure BarPend where
  loc    : Nat
  op     : BarOp
  lanes  : List Nat
  deriving DecidableEq, Repr, Inhabited

/-- A pre-decoded prefix that waits for its target (R48 to R51). -/
structure Pfx where
  isImx : Bool
  hi    : W32
  pol   : BitVec 4
  scope : BitVec 4
  ord   : BitVec 4
  pc    : W64
  deriving DecidableEq, Repr, Inhabited

/-- What holds a warp at an instruction that has started, with the bundle that waits there (R71, R109, R164, R179, R202,
R313). -/
inductive Hold where
  | free
  | trapOp
  | again                       -- it issues the same instruction again until that is done (R424)
  | cwbSync (op : Nat) (bundle : List Nat)
  | atab (bundle : List Nat)
  | barrier (bundle : List Nat)
  | ep (id : Nat) (toL : Bool)
  deriving DecidableEq, Repr, Inhabited

/-- Snare mode (R338 to R340): the fault, the pages of its batch, the lanes that run ahead, their issues, the registers
whose values are unknown, the destinations of loads that no `wait` has covered, and the checkpoint. -/
structure Snare where
  running  : Bool
  ended    : Bool := false
  cause    : Nat
  mask     : W64
  addr     : W64
  pages    : List Nat
  lanes    : List Nat
  issues   : Nat := 0
  unknown  : List Nat := []
  loads    : List (List Nat) := []
  saveThreads : List Thread := []
  saveBundle : List Nat := []
  saveS    : List W64 := []
  saveCtr  : List Nat := []
  saveEp   : W32 := 0
  saveSince : Nat := 0
  deriving DecidableEq, Repr, Inhabited

/-- A resident warp (R67, R68). -/
structure Warp where
  key    : Nat
  ctx    : Nat
  region : Nat
  block  : Nat
  wnum   : Nat
  onL    : Bool
  core   : Nat
  slot   : Nat
  quarter : Nat := 0            -- its first register-file quarter (R69)
  home   : Option Nat
  width  : Nat
  lw     : Bool := false
  threads : List Thread
  bundle : List Nat := []
  s      : List W64
  ld : Nat := 0
  st : Nat := 0
  cp : Nat := 0
  tm : Nat := 0
  sb     : List (Nat × BitVec 8 × Bool) := []   -- scoreboard: operation, destination field, 64-bit
  fifo   : List FifoEnt := []
  loads  : List Load := []
  overs  : List (Nat × RegRef) := []            -- a pending load, and a register of its that a younger instruction wrote (R197)
  queue  : List QueueOp := []
  tileOps : List TileOp := []
  barOps : List BarPend := []
  ep     : W32 := 0xFFFFFFFF
  since  : Nat := 0
  issues : Nat := 0
  sorted : Nat := 0             -- issues since the last re-sort (R62)
  sizes  : List Nat := []
  credit : Nat := 1
  yielded : Bool := false
  pfx    : Option Pfx := none
  hold   : Hold := .free
  snare  : Option Snare := none
  stopped : List Nat := []      -- the records that stop this warp
  suspended : Bool := false
  draining : Bool := false
  saved  : Bool := false
  migrating : Bool := false
  mgos   : Nat := 0
  nextOp : Nat := 0
  trapsOff : List Nat := []     -- lanes whose next issue is the replay of R469 with the trap enables taken as 0
  failed : List FifoEnt := []   -- entries that have left the FIFO and failed at their home (R200, R216)
  blocked : List Nat := []      -- stores held by a record of their own (R371)
  deriving DecidableEq, Repr, Inhabited

/-- What a block holds on one of its cores (R207, R228, R230, R239, R241). -/
structure Allot where
  core  : Nat
  sBase : Nat
  wBase : Nat
  xBase : Nat
  aBase : Nat
  tBase : Nat
  nBase : Nat
  qBase : Nat
  deriving DecidableEq, Repr, Inhabited

/-- A block placed on a cluster (R438). -/
structure Block where
  id     : Nat
  ctx    : Nat
  region : Nat
  index  : Nat
  cluster : Nat
  onL    : Bool
  allots : List Allot
  threads : Nat
  spad   : Nat
  wbuf   : Nat
  xbuf   : Nat
  abuf   : Nat
  tiles  : Nat
  nbars  : Nat
  queues : Nat
  shadow : Bool
  spawned : Bool := false
  started : Nat := 0
  trigd  : Nat := 0             -- triggered threads of its freed warps (R448)
  swapCov : List Nat := []      -- what the space 7 stores of its freed warps are ordered after (R236)
  deriving DecidableEq, Repr, Inhabited

/-- A named barrier (R228). -/
structure NBar where
  count   : Nat := 0
  arrived : Nat := 0
  phase   : Bool := false
  covered : List Nat := []      -- what this phase's arrivals release (R229)
  deriving DecidableEq, Repr, Inhabited

/-- A queue descriptor (R230). -/
structure QDesc where
  base  : W32 := 0
  logn  : Nat := 0
  valid : Bool := false
  head  : BitVec 16 := 0
  tail  : BitVec 16 := 0
  allow : Nat := 0
  covs  : List (List Nat) := [] -- what the push of each entry released (R233)
  deriving DecidableEq, Repr, Inhabited

/-- A waiting qpush or qpop (R233). -/
structure QWait where
  owner : Nat
  id    : Nat
  warp  : Nat
  lanes : List Nat
  push  : Bool
  vals  : List W32
  covered : List Nat
  dst   : BitVec 8
  pred  : Option (BitVec 8)
  deadline : Option Nat
  span  : Nat := 0              -- its timeout, which begins again at a restoration (R450)
  deriving DecidableEq, Repr, Inhabited

/-- The tag of the last writer of a line (R353). -/
structure WriterTag where
  warp   : Nat
  region : Nat
  ctx    : Nat
  block  : Nat
  core   : Nat
  onL    : Bool
  slot   : Nat
  lane   : Nat
  engine : Bool
  pc     : W64
  twin   : W64
  ep     : W32
  since  : Nat
  undo   : Bool := false        -- its task was in undo mode (R418)
  nowarp : Bool := false        -- written by an agent that is no warp's (R433, R481, R484)
  deriving DecidableEq, Repr, Inhabited

/-- The state of a tile (R245). -/
inductive TileState where
  | empty | filling | ready | draining
  deriving DecidableEq, Repr, Inhabited

/-- A tile table entry (R241 to R245). -/
structure Tile where
  w0    : W64 := 0
  w1    : W64 := 0
  inUse : Bool := false
  state : TileState := .empty
  gen   : Nat := 1
  users : Nat := 0
  relPending : Bool := false
  deriving DecidableEq, Repr, Inhabited

/-- A piece of a copy request (R258, R259). -/
structure Piece where
  first  : Nat
  count  : Nat
  bytes  : Nat
  data   : Option (List Byte) := none
  wids   : List Nat := []
  put    : List Nat := []       -- the destination bytes written so far (R308)
  written : Bool := false
  counted : Bool := false
  missing : Bool := false
  failed  : Bool := false
  deriving DecidableEq, Repr, Inhabited

/-- Where a copy request record stands (R252 to R257, R262): not started, held in its slot by its source tile, on the wait
list for its table tile, running, restored and without a slot yet, or refused at its start. -/
inductive RecSt where
  | new | held | waiting | running | restored | refused
  deriving DecidableEq, Repr, Inhabited

/-- A copy request record in the engine (R248, R252 to R264): its place in its chain, the pieces of its current chunk,
the first unit behind that chunk, and the bytes counted. -/
structure CopyRec where
  id     : Nat
  kick   : Nat
  head   : Nat
  place  : Nat
  off    : Nat
  words  : List W64 := []
  st     : RecSt := .new
  pieces : List Piece := []
  unit   : Nat := 0
  counted : Nat := 0
  stopped : Bool := false
  passed : Bool := false        -- RESUME let it go past the limit of its chain (R264)
  deriving DecidableEq, Repr, Inhabited

/-- A kick in a core's queue (R252, R265): `left` records are not finished. -/
structure Kick where
  id    : Nat
  warp  : Nat
  block : Nat
  seed  : W32
  off   : Nat
  n     : Nat
  tag   : WriterTag
  gate  : List Nat
  gated : Bool := false
  left  : Nat
  deriving DecidableEq, Repr, Inhabited

/-- A matrix operation with its latched parameters (R275, R276): the K-blocks or passes done, the outputs that a NaN block
has met, what it read of its tiles for the current one, word by word and then whole, the damaged words among that, and the
tiles whose damage is recorded (R278, R283, R285, R286). -/
structure MOp where
  warp  : Nat
  block : Nat
  words : List W64
  tag   : WriterTag
  started : Bool := false
  step  : Nat := 0
  nans  : List Nat := []
  part  : List Host.Cell := []
  data  : Option (List Host.Cell) := none
  bad   : List Nat := []
  told  : List Nat := []
  written : Bool := false
  deriving DecidableEq, Repr, Inhabited

/-- An activation-table bank (R162). -/
structure ActBank where
  valid : Bool := false
  bytes : List Byte := []
  deriving DecidableEq, Repr, Inhabited

/-- A cached translation (R323): address-space number, VA of the page, size level, leaf. -/
structure TlbEnt where
  asn   : Nat
  page  : Nat
  level : Nat
  leaf  : W64
  deriving DecidableEq, Repr, Inhabited

/-- A line of an L-core's data cache (R182, R202): 128 bytes, first to evict, written since its last write-back. -/
structure DLine where
  line  : Nat
  soon  : Bool := false
  dirty : Bool := false
  deriving DecidableEq, Repr, Inhabited

/-- A core of either class (R10, R11). -/
structure Core where
  nbars  : List (Nat × NBar) := []
  queues : List (Nat × QDesc) := []
  readable : Nat := 0
  tiles  : List (Nat × Tile) := []
  kicks  : List Kick := []
  recs   : List CopyRec := []
  kickCt : Nat := 0
  meHolder : Option Nat := none
  meReqs : List Nat := []
  meRelease : Bool := false
  meQueue : List MOp := []
  act0   : ActBank := {}
  act1   : ActBank := {}
  actCur : Bool := false
  actCtx : Option Nat := none    -- the context whose tables these are (R137)
  atab   : Option (Nat × Nat × List Nat) := none     -- warp, scratchpad location, lanes
  icache : List (Nat × Nat × List Byte) := []   -- context, line address, its 64 bytes
  dcache : List DLine := []
  tlb    : List TlbEnt := []
  picked : List Nat := []        -- quarters that a bundle occupies in the current cycle (R70)
  rota   : List (Nat × Nat) := []   -- priority class, the warp slot visited last (R72)
  deriving DecidableEq, Repr, Inhabited

/-- A migration request in a cluster's queue (R388, R389). -/
structure MigReq where
  warp  : Nat
  ep    : Nat
  toL   : Bool
  core  : Nat
  time  : Nat
  granted : Bool := false
  slot  : Nat := 0
  quarter : Nat := 0
  deriving DecidableEq, Repr, Inhabited

/-- A cluster with its island (R396, R451, R488, R52). -/
structure Cluster where
  pen    : Bool := true
  aen    : Bool := true
  dthr   : BitVec 8 := 0x80
  lcthr  : BitVec 5 := 14
  decl   : W32 := 0
  migDone : W32 := 0
  migq   : List MigReq := []
  fmin   : Nat := 20
  fmax   : Nat := 40
  fnow   : Nat := 40
  vnow   : Nat := 675
  grant  : Nat := 0
  guardband : Nat := 0
  flimit : Nat := 44
  eoldays : Nat := 0xFFFF
  cycles : W64 := 0
  cycRem : Nat := 0
  dxt    : Nat := 0
  dxtNext : Option Nat := none
  temp   : Nat := 0             -- hottest sensor, °C (R486)
  hot    : Bool := false        -- granted only enough for FMIN (R486)
  tLow   : Nat := 0             -- the lowest and highest temperatures of the thermal cycle so far (R489)
  tHigh  : Nat := 0
  tempHist : List (Nat × Nat) := []   -- hours by temperature bin and by supply bin (R489)
  voltHist : List (Nat × Nat) := []
  tlb     : List TlbEnt := []
  deriving DecidableEq, Repr, Inhabited

/-- A grant record of a boost arbiter (R407). -/
structure Grant where
  seq  : W64
  obj  : Nat
  kind : Nat
  ctx  : Nat
  undo : Bool
  arg0 : W32
  kept : Bool := false
  deriving DecidableEq, Repr, Inhabited

/-- A boost request waiting for its arbiter (R408). -/
structure BoostReq where
  warp : Nat
  lane : Nat
  seq  : W64
  ctx  : Nat
  obj  : W64
  kind : Nat
  args : List W32
  pc   : W64
  ep    : W32 := 0xFFFFFFFF
  since : Nat := 0
  run   : Nat := 0              -- which `bop` of its warp sent it, with other lanes (R513)
  judged : Bool := false        -- it has been judged, and waits to be judged again
  waits : List W64 := []        -- the younger holders it has had aborted (R408)
  deriving DecidableEq, Repr, Inhabited

/-- What a BOOST-RELEASE of one grant releases (R419). -/
structure BoostRel where
  ctx  : Nat
  obj  : Nat
  kind : Nat
  arg0 : W32
  covered : List Nat
  deriving DecidableEq, Repr, Inhabited

/-- A queued spawn: its argument, its sequence number, and what its first issue acquires (R414, R415). -/
structure SpawnEnt where
  arg : W64
  seq : W64
  covered : List Nat
  deriving DecidableEq, Repr, Inhabited

/-- A block of a memory-side cache: one codec block, or one 128-byte line of an unbound page (R352 to R354). -/
structure Line where
  pa     : Nat
  bytes  : Nat
  ctx    : Nat
  va     : Nat
  bind   : Nat
  units  : List Nat := []           -- the 16-byte units of it that are dirty (R352)
  cls    : Nat := 0                 -- 0 normal, 1 first to evict, 2 persist (R182)
  held   : Option Nat := none       -- the reason of the record that holds it (R375)
  logged : Nat := 0                 -- the codec error log entry of the failure that holds it (R374)
  retry  : Bool := false            -- its `cwb.sync` is replayed and may try it again (R203, R376)
  soft   : List Nat := []           -- damaged bytes (R354)
  tag    : Option WriterTag := none
  deriving DecidableEq, Repr, Inhabited

/-- A codec error log entry (R374). -/
structure ErrEnt where
  decoder : Bool
  index   : Nat
  imm     : Option Nat
  reason  : Nat
  tag     : Option WriterTag
  deriving DecidableEq, Repr, Inhabited

/-- The kinds of packet (R345): READ64 and READ128 are a read of one burst and of two. -/
inductive PacketKind where
  | read | write | atomic
  deriving DecidableEq, Repr, Inhabited

/-- A tagged packet in flight to the base die (R345, R346); a request held at its port has no tag yet. -/
structure Packet where
  tag  : Nat
  burst : Nat
  count : Nat
  kind : PacketKind := .read
  deriving DecidableEq, Repr, Inhabited

/-- A memory port (R345 to R375, R407). -/
structure Port where
  lines  : List Line := []
  errlog : List ErrEnt := []
  rawCount : Nat := 0
  packets : List Packet := []
  waiting : List Packet := []       -- requests held for a tag or for a packet of their burst (R345, R346)
  wants  : List (Nat × Nat) := []   -- 128-byte line, the class that its next allocation takes (R182)
  reads  : List Nat := []           -- blocks whose stored bytes a READ has asked for, and that have not come in (R345)
  pfs    : List (Nat × Nat × Nat) := []   -- blocks without a fill that `pf` asked for: context, address, location (R201)
  grants : List Grant := []
  breqs  : List BoostReq := []
  running : Option (Nat × Nat) := none   -- the `bop` whose requests the boost arbiter is judging: warp and run (R513)
  rels   : List BoostRel := []
  deriving DecidableEq, Repr, Inhabited

/-- The capacity register of a stack (R350). -/
structure Stack where
  live   : BitVec 16 := 0xFFFF
  nlayer : Nat := 16
  alayer : Nat := 0
  alert  : Bool := false
  mapout : Bool := false
  cap    : Nat := 64
  deriving DecidableEq, Repr, Inhabited

/-- A codec binding installed in a slot (R355, R356). -/
structure Binding where
  bsize  : Nat
  packed : Bool
  xfault : Bool
  group  : Nat
  ebound : Nat
  dbound : Nat
  enc    : List W32
  dec    : List W32
  table  : List Byte
  built  : Bool
  deriving DecidableEq, Repr, Inhabited

/-- A kind descriptor of a commutativity table (R403). -/
structure Kind where
  inv    : Nat
  argc   : Nat
  valid  : Bool
  noundo : Bool
  dpc    : W64
  lpc    : W64
  deriving DecidableEq, Repr, Inhabited

/-- A commutativity table in force (R402, R404). -/
structure CTable where
  kinds  : List Kind
  entries : List Nat
  deriving DecidableEq, Repr, Inhabited

/-- A command that the CP has started (R429, R430). -/
structure Cmd where
  index  : Nat
  opc    : Nat
  words  : List W64
  done   : Bool := false
  node   : W64 := 0
  steps  : Nat := 0
  run    : Bool := false        -- the region of the current node runs (R444)
  pieces : List Piece := []
  unit   : Nat := 0
  stopped : Bool := false
  saved  : Bool := false        -- a COPY that the end of a time slice has stopped and saved (R433)
  covered : List Nat := []      -- what its completion releases (R431)
  deriving DecidableEq, Repr, Inhabited

/-- A command queue of a function's register window (R428). -/
structure CQueue where
  base  : W64 := 0
  qlog  : Nat := 0
  prio  : Nat := 0
  en    : Bool := false
  err   : Bool := false
  head  : W32 := 0
  tail  : W32 := 0
  erridx : W32 := 0
  next  : W32 := 0
  cmds  : List Cmd := []
  covered : List Nat := []      -- what its completed commands released (R431)
  deriving DecidableEq, Repr, Inhabited

/-- A fabric window (R480). -/
structure FWin where
  valid : Bool := false
  rd    : Bool := false
  wr    : Bool := false
  at_   : Bool := false
  dev   : Nat := 0
  rctx  : Nat := 0
  rbase : Nat := 0
  size  : Nat := 0
  deriving DecidableEq, Repr, Inhabited

/-- The frame limits of a tenant in one tier (R329). -/
structure Quota where
  quota : Nat := 0
  high  : Nat := 0
  low   : Nat := 0
  pool  : Nat := 0
  demoting : Bool := false
  deriving DecidableEq, Repr, Inhabited

/-- What the memory service holds of a tenant, whose frames its window marks (R316, R327, R329): the limits of each tier,
auto-COW, and the pool. -/
structure Tenant where
  quotas : List (Nat × Quota) := []
  autoCow : Bool := false
  poolFrames : List Nat := []
  deriving DecidableEq, Repr, Inhabited

/-- The migration registers of a cluster, as a context holds them while another's time slice runs (R396). -/
structure MigRegs where
  pen    : Bool := true
  aen    : Bool := true
  dthr   : BitVec 8 := 0x80
  lcthr  : BitVec 5 := 14
  decl   : W32 := 0
  migDone : W32 := 0
  deriving DecidableEq, Repr, Inhabited

/-- A context (R316, R427): partition × 8 + slot is its number. -/
structure Context where
  root   : Nat := 0
  asn    : BitVec 8 := 0
  win    : Nat := 0
  taskCt : W64 := 0
  ctable : Option CTable := none
  ctBusy : Bool := false
  unk    : W32 := 0
  aborts : W32 := 0
  den    : Bool := false
  halted : Bool := false
  queues : List (Nat × CQueue) := []
  fresAddr : W64 := 0
  fresMode : Nat := 0
  fresOk : Bool := false
  killAddr : W64 := 0
  killOk : Bool := false
  binds  : List (Nat × Binding) := []
  rootRegion : Option Nat := none
  mig    : List (Nat × MigRegs) := []
  acts   : List (Nat × ActBank × ActBank × Bool) := []   -- its tables of cores that hold another context's (R137)
  deriving DecidableEq, Repr, Inhabited

/-- The STATE of a region (R434). -/
inductive RState where
  | idle | pending | running | suspended | complete | killed
  deriving DecidableEq, Repr, Inhabited

/-- A region that the CP has launched (R434 to R445), with its kernel's header (R383). -/
structure Region where
  rcb    : Nat
  ctx    : Nat
  group  : Bool
  parent : Nat
  depth  : Nat
  state  : RState
  kobj   : Nat := 0
  hdr    : W64 := 0
  dOff : Nat := 0
  dLen : Nat := 0
  lOff : Nat := 0
  lLen : Nat := 0
  dEntry : Nat := 0
  lEntry : Nat := 0
  epOff : Nat := 0
  emuOff : Nat := 0
  emuCnt : Nat := 0
  blocks : Nat := 0
  bthreads : Nat := 0
  ncore  : Nat := 0
  alloc  : W64 := 0
  prio   : Nat := 0
  weight : Nat := 1
  frames : List Nat := []
  restart : Bool := false
  quantum : Nat := 0
  maxd   : Nat := 0
  maxl   : Nat := 0
  faultRegion : Nat := 0
  policy : Nat := 0
  msien  : Bool := false
  vector : Nat := 0
  rlog   : Nat := 4
  ring   : W64 := 0
  tocsin : W64 := 0
  deadline : Nat := 0
  producer : Nat := 0
  started : Bool := false
  next   : Nat := 0
  redo   : List Nat := []
  freed  : Nat := 0
  endReq : Bool := false
  endSent : Bool := false
  untrig : Nat := 0
  dependants : Bool := false
  count  : W64 := 0
  tocStop : Bool := false
  used   : List (Nat × Nat) := []
  meanSum : Nat := 0
  meanCt : Nat := 0
  seqBase : W64 := 0
  spawnq : List SpawnEnt := []
  queue  : Nat := 0
  cmd    : Nat := 0
  preempt : List (Nat × Nat) := []   -- cluster, choice: 0 requested, 1 drain, 2 save, 3 discard
  covered : List Nat := []      -- the writes of its freed warps, for its completion (R442)
  startCov : List Nat := []     -- what its threads acquire at launch (R305, R431, R445)
  credit : Nat := 0             -- blocks left in this round of the rotation (R439)
  trigCov : List Nat := []      -- what its TRIG steps released (R445, R453)
  deriving DecidableEq, Repr, Inhabited

/-- What a resolution of a record acts on (R469). -/
inductive Resolves where
  | nothing
  | replay (warp : Nat) (mask : W64)
  | fp (warp : Nat) (mask : W64) (lanes : List Nat)
  | after (warp : Nat) (mask : W64) (lanes : List Nat) (unit : Nat)
  | load (warp load : Nat) (mask : W64)
  | store (warp op : Nat)
  | atomic (warp op : Nat)
  | copy (onCore recId : Nat) (atStart sized : Bool)
  | line (port pa : Nat)
  | sync (warp : Nat) (mask : W64) (pas : List Nat)
  | tocsin (region : Nat)
  deriving DecidableEq, Repr, Inhabited

/-- A fault record (R462): raised, waiting for its ring, outstanding or resolved (R465 to R468). -/
structure Rec where
  id     : Nat
  ctx    : Nat
  region : Nat
  words  : List W64
  slot   : Option W64 := none
  written : Bool := false
  resolved : Bool := false
  toService : Bool := false
  toDebug : Bool := false
  tick   : W64 := 0
  who    : Option Nat := none       -- the warp that it names through a writer tag or an operation (R93, R457)
  later  : Option Nat := none       -- the mode of a resolution that waits for the restoration (R470)
  acts   : Resolves
  deriving DecidableEq, Repr, Inhabited

/-- A write that has entered coherence order and not yet reached every view (R295 to R298). -/
structure Write where
  wid   : Nat
  cells : List (Nat × BitVec 8 × BitVec 8)    -- location, byte before, byte written
  views : List Nat
  olds  : List (Nat × Nat) := []              -- location, the write that stood there before (R297)
  deriving DecidableEq, Repr, Inhabited

/-- What a later acquire can learn of a write (R301 to R303). -/
structure WMeta where
  wid     : Nat
  release : Bool
  scope   : Nat
  core    : Nat
  warp    : Nat
  covered : List Nat
  heads   : List Nat
  deriving DecidableEq, Repr, Inhabited

/-- The parts of the Ordering Machine beyond the FIFOs (R295): in-flight writes in coherence order, what releases
cover, and the last writer of each location. -/
structure Ordering where
  flight : List Write := []
  metas  : List WMeta := []
  last   : List (Nat × Nat) := []
  bars   : List (Nat × List Nat) := []   -- barrier object and phase: what its arrivals released (R226)
  next   : Nat := 1
  deriving DecidableEq, Repr, Inhabited

/-- A move of a frame (R333 to R337): where it lies and goes, its tier and size there, the 4 KiB chunks that are open
and committed, and whether every leaf names the new frame; whether it is being undone, and the chunks open on their way back
(R335). -/
structure Move where
  src   : Nat
  dst   : Nat
  tier  : Nat
  level : Nat
  opened : List Nat := []
  committed : List Nat := []
  moved : Bool := false
  undo  : Bool := false
  back  : List Nat := []
  deriving DecidableEq, Repr, Inhabited

/-- A batch of missing pages at the memory service (R340, R341, R261). -/
structure Batch where
  id    : Nat
  ctx   : Nat
  pages : List Nat
  recId : Option Nat
  copy  : Option (Nat × Nat) := none
  deriving DecidableEq, Repr, Inhabited

/-- An invalidation that has not completed (R324). -/
structure Inval where
  ctx   : Nat
  page  : Nat
  level : Nat
  frees : Option Nat
  size  : Nat := 0              -- the bytes that it frees
  also  : List (Nat × Nat) := []   -- other places that it frees, and their bytes
  brk   : Bool := false         -- a copy-on-write break's: writes wait for it (R327, R328)
  frame : Option Nat := none    -- the place that the old entry mapped (R324)
  deriving DecidableEq, Repr, Inhabited

/-- A copy-on-write break that has read the count of its frame (R327, R328): the leaf, its entry then, the count. -/
structure Break where
  ctx   : Nat
  page  : Nat
  e     : Nat
  n     : Nat
  deriving DecidableEq, Repr, Inhabited

/-- The memory service's state (12). -/
structure Paging where
  tenants : List (Nat × Tenant) := []    -- by tenant window
  cowWaits : List (Nat × Nat) := []      -- leaves that a write waits at: context and page (R327)
  breaks : List Break := []
  frt    : List (Nat × BitVec 16) := []
  moves  : List Move := []
  barred : List (Nat × Nat) := []        -- a frame whose move was undone, and the record that it waits for (R335)
  batches : List Batch := []
  batchCt : Nat := 0
  invals : List Inval := []
  deriving DecidableEq, Repr, Inhabited

/-- A fabric port (R479, R482). -/
structure FPort where
  up     : Bool := false
  resends : Nat := 0
  paused : List (Nat × W64) := []    -- class and the tick since which it is paused
  training : Option W64 := none      -- the tick at which it began to retrain
  queue  : List FabReq := []         -- writes accepted and not yet at their remote home (R295, R309)
  deriving DecidableEq, Repr, Inhabited

/-- The links of the device (18). -/
structure Links where
  fports : List (Nat × FPort) := []
  routes : List (Nat × List Nat) := []
  windows : List (Nat × FWin) := []     -- partition × 4096 + window
  pto    : Nat := 1000000
  cxlUp  : List Nat := []
  hostUp : Bool := false
  hostCxl : Bool := false               -- the host link has trained as CXL (R484)
  funcs  : List (Nat × Nat) := []       -- PCIe function and the context that it owns (R428)
  reply  : Option (Nat × Nat) := none   -- the last reply to a request from outside: a reason or 16, and a value
  far    : List (Nat × Nat) := []       -- remote 128 KiB pages: 1 not present there yet, 2 refused there (R481)
  deriving DecidableEq, Repr, Inhabited

/-- What an attestation report holds of the machine (R491): the nonce, the identity leaf that certified its key, the
number of the signature, the measurements of the firmware images and function tables, the expansion table of each cluster, the
fuses, and the lifetime counters. -/
structure Report where
  nonce : Nat
  leaf  : Nat
  sig   : Nat
  images : List Nat
  dxts  : List (Nat × Nat)
  fuses : List Nat × Nat
  counters : List (Nat × W64)
  deriving DecidableEq, Repr, Inhabited

/-- Device-wide registers (R486 to R492). -/
structure Device where
  stage  : Nat := 0
  fail   : Bool := false
  code   : Nat := 0
  ilim   : Nat := 3300
  pcap   : Nat := 3400
  tjmax  : Nat := 105
  inow   : Nat := 0
  counters : List (Nat × W64) := []
  saved  : List (Nat × W64) := []
  savedHists : List (Nat × List (Nat × Nat) × List (Nat × Nat)) := []   -- each island's histograms as saved (R489)
  revoked : List Nat := []              -- fused: revoked key indices, and the minimum version (R490)
  minVer : Nat := 0
  images : List Nat := []               -- measurements of the images loaded since the reset (R490, R491)
  health : List Nat := []
  idLeaf : Nat := 0
  attCt  : Nat := 0
  reports : List Report := []
  attKey : Bool := false                -- an attestation key has been made (R491)
  hourRem : Nat := 0                    -- ticks of the current powered hour (R489)
  devlog : List Nat := []
  msix   : List (Nat × Nat) := []       -- context, vector of each message sent
  hotRemoved : List (Nat × Nat × Nat × Nat) := []   -- stack, layer, the removed range's first address and bytes (R351)
  alerts : List Nat := []
  refused : Nat := 0
  deriving DecidableEq, Repr, Inhabited

/-- A transducer lane (R361). -/
structure Lane where
  x      : List W64 := [0, 0, 0, 0, 0, 0, 0, 0]
  prog   : List W32 := []
  index  : Nat := 0
  inCur  : Nat := 0
  out    : List Bool := []
  steps  : Nat := 0
  loop   : Nat := 0
  loopAt : Nat := 0
  bound  : Nat := 0
  input  : List Bool := []
  outMax : Option Nat := none
  table  : List Byte := []
  built  : Bool := false
  ended  : Option (Nat × Nat × Option Nat) := none   -- reason (0 for done), index, fail immediate
  deriving DecidableEq, Repr, Inhabited

/-- A saved block (R449, R450): its warps, the bytes of its allotments with their last writers, range by range, what it
held on each of its cores, its queue waits, and what its barrier objects' arrivals released (core, offset, phase). -/
structure Saved where
  block  : Block
  warps  : List Warp
  ranges : List (List (Nat × BitVec 8 × Nat))
  cores  : List (Nat × Core)
  qwaits : List QWait
  bars   : List (Nat × Nat × Nat × List Nat)
  deriving DecidableEq, Repr, Inhabited

/-- A partition (R427): its clusters, and the context slot whose time slice runs. -/
structure Partition where
  clusters : List Nat
  slice  : Nat := 0
  lastQ  : Nat := 0             -- the queue served last: context slot × 16 + queue (R430)
  lastR  : Nat := 0             -- the region whose block was placed last (R439)
  deriving DecidableEq, Repr, Inhabited

/-- Who moves next: an input of the machine (R298: any order the constraints allow; log 1). -/
inductive Agenda where
  /-- A warp issues its current bundle's next instruction. -/
  | issue (w : Nat)
  /-- A transducer lane executes its next instruction. -/
  | transduce (lane : Nat)
  /-- A step of another agent. -/
  | event (i : Instr)
  /-- Ticks of the 1 GHz reference pass (R4). -/
  | clock (ticks : Nat)
  /-- The oldest fetch line leaves a core's instruction cache (R10, R11, log 20). -/
  | evictLine (core : Nat)
  /-- The oldest translation leaves a core's L1 TLB and its cluster's TLB (R323). -/
  | evictTlb (core : Nat)
  /-- A word of a CXL pool comes to read back poisoned (R485). -/
  | poison (loc : Nat)
  /-- A word of an on-chip buffer comes to hold an uncorrectable soft error (R286). -/
  | softWord (loc : Nat)
  /-- The fetch parity check of the next issue of a warp fails twice (R19). -/
  | parityFail (w : Nat)
  /-- The oldest write in a fabric port's queue reaches its remote home, or fails (R309, R483). -/
  | fabricWrite (port : Nat)
  /-- A remote device's answer for a 128 KiB page: 0 accesses pass, 1 they wait for its promotion there, 2 they are refused (R481). -/
  | farPage (page status : Nat)
  /-- The memory service finds a free frame faulty and retires it (R326). -/
  | retireFrame (pa : Nat)
  deriving DecidableEq, Repr, Inhabited

/-- The machine. -/
structure State where
  agenda : List Agenda := []
  cur    : Nat := 0
  free   : Nat := 0
  tick   : W64 := 0
  mem    : Memory := []
  dram   : Memory := []
  metab  : List (Nat × BitVec 8) := []
  softWords : List Nat := []            -- 4-byte words of the buffers that hold an uncorrectable soft error (R286)
  badWords : List Nat := []             -- 8-byte words of DRAM that read back with error status (R349)
  order  : Ordering := {}
  warps  : List Warp := []
  blocks : List Block := []
  blockCt : Nat := 0
  warpCt : Nat := 0
  qwaits : List QWait := []
  cores  : List (Nat × Core) := []
  clusters : List (Nat × Cluster) := []
  ports  : List (Nat × Port) := []
  hbm    : List (Nat × Stack) := []
  parts  : List (Nat × Partition) := []
  ctxs   : List (Nat × Context) := []
  regions : List Region := []
  paging : Paging := {}
  recs   : List Rec := []
  recCt  : Nat := 0
  saves  : List Saved := []
  lanes  : List (Nat × Lane) := []       -- transducer lanes: memory port × 128 + lane (R361)
  txCur  : Nat := 0                      -- the transducer lane that executes
  links  : Links := {}
  dev    : Device := {}
  deriving DecidableEq, Repr, Inhabited

/-- Why the machine stops. -/
inductive Fault where
  /-- Raised by an instruction of a fetch line that no resident warp with a bundle issues: a state in which the
  machine has nothing to execute it on. Safe: hardware never is in it. -/
  | noIssuer
  deriving DecidableEq, Repr, Inhabited

/-- Why the model gives no meaning. -/
inductive Refusal where
  /-- Raised by exec's arms for an instruction without a meaning yet. Safe. -/
  | notModelled (mnemonic : String)
  deriving DecidableEq, Repr, Inhabited

/-- The machine right after reset (R492): every allotment, ring and context starts empty; the registers hold the
reset values their tables give; one partition holds every cluster (log 12). -/
def State.reset : State :=
  { parts := [(0, { clusters := [0, 1, 2, 3, 4, 5, 6, 7, 8, 9, 10, 11, 12, 13, 14, 15, 16, 17] })] }

end Sys2Proof.Machine
end

