-- ==== Sys2Proof/Config.lean ====
section
/-!
DEFINITION. The free values: constants without a body, so that nothing can be proved of a value of theirs.
-/
namespace Sys2Proof
open Sys2Proof.Machine

/-- A value the spec leaves open, for the n-th time one is needed: a vector register at launch (R69; log 4). -/
opaque Config.freeWord : Nat → W32

/-- Which of the two bracketing values a faithful special function returns for an input (R161; log 3):
function code, input. -/
opaque Config.faithfulUp : Nat → W32 → Bool

/-- A choice that the spec leaves to the machine, for the n-th time one is needed: which bytes of a piece an engine writes in
one step (R308), and whether a byte of a new allotment is zero or what stood there (R188, R207, R239). -/
opaque Config.freeBit : Nat → Bool

/-- The current in A that an island draws at a frequency in 100 MHz units (R451): cluster, frequency (log 40). -/
opaque Config.islandAmps : Nat → Nat → Nat

/-- The firmware's core supply in mV for a frequency in 100 MHz units between the reference points (R487; log 40). -/
opaque Config.islandVolts : Nat → Nat

/-- Whether the strap pins have the host link train as CXL and not as PCIe (R484; log 57). -/
opaque Config.strapCxl : Bool

/-- Who moves next when the agenda is empty (R298; log 1). -/
opaque Config.nextMove : Nat → Agenda

end Sys2Proof
end

