-- ==== Sys2Proof/Machine/Base.lean ====
section
/-!
DEFINITION. Keyed lists, the byte memory, where the bytes of each space lie, and the accessors of the state.
-/
namespace Sys2Proof.Machine
open Sys2Proof

/-! ### Keyed lists -/

/-- The value under a key, or the given value where the key is absent. -/
def kvGet {α : Type} (l : List (Nat × α)) (k : Nat) (d : α) : α :=
  match l with
  | [] => d
  | (j, x) :: r => if j = k then x else kvGet r k d

/-- The list with the key's value set. -/
def kvSet {α : Type} (l : List (Nat × α)) (k : Nat) (x : α) : List (Nat × α) :=
  match l with
  | [] => [(k, x)]
  | (j, y) :: r => if j = k then (k, x) :: r else (j, y) :: kvSet r k x

/-- Whether the key is present. -/
def kvHas {α : Type} (l : List (Nat × α)) (k : Nat) : Bool :=
  match l with
  | [] => false
  | (j, _) :: r => if j = k then true else kvHas r k

/-- The list without the key. -/
def kvDel {α : Type} (l : List (Nat × α)) (k : Nat) : List (Nat × α) :=
  match l with
  | [] => []
  | (j, y) :: r => if j = k then r else (j, y) :: kvDel r k

/-- The list with element `i` replaced by the function's value of it. -/
def listAt {α : Type} (l : List α) (i : Nat) (g : α → α) : List α :=
  match l, i with
  | [], _ => []
  | x :: r, 0 => g x :: r
  | x :: r, n + 1 => x :: listAt r n g

/-- The union of two lists of numbers, without repeats added. -/
def union (a b : List Nat) : List Nat :=
  b.foldl (fun acc x => if acc.contains x then acc else acc ++ [x]) a

/-! ### Memory -/

/-- The byte at a location; an unlisted location reads 0 (log 6). -/
def memGet : Memory → Nat → Byte
  | [], _ => 0
  | (k, b) :: r, a => if k = a then b else if a < k then 0 else memGet r a

/-- One byte written, the form kept. -/
def memPut : Memory → Nat → Byte → Memory
  | [], a, b => if b = 0 then [] else [(a, b)]
  | (k, c) :: r, a, b =>
    if a < k then (if b = 0 then (k, c) :: r else (a, b) :: (k, c) :: r)
    else if a = k then (if b = 0 then r else (a, b) :: r)
    else (k, c) :: memPut r a b

/-- Every location is above the bound, they rise strictly, and no byte is 0. -/
def memWfFrom : Nat → Memory → Bool
  | _, [] => true
  | lo, (k, b) :: r => decide (lo ≤ k) && (b != 0) && memWfFrom (k + 1) r

/-- The canonical form of a memory. -/
def Memory.wf (m : Memory) : Bool := memWfFrom 0 m

/-- Several cells written in order. -/
def memPutAll (m : Memory) (cs : List Host.Cell) : Memory :=
  cs.foldl (fun m c => memPut m c.1 c.2) m

/-- `n` bytes from a location, little-endian (R2), as a number. -/
def memNat (m : Memory) (a n : Nat) : Nat :=
  match n with
  | 0 => 0
  | k + 1 => (memGet m a).toNat + 256 * memNat m (a + 1) k

/-- The low `n` bytes of a number, little-endian (R2). -/
def bytesOf (n x : Nat) : List Byte :=
  (List.range n).map fun i => BitVec.ofNat 8 (x / 256 ^ i)

/-- Cells from a location on. -/
def cellsAt (a : Nat) (bs : List Byte) : List Host.Cell :=
  (List.range bs.length).zipWith (fun i b => (a + i, b)) bs

/-- A number from bytes, little-endian (R2). -/
def natOfBytes : List Byte → Nat
  | [] => 0
  | b :: r => b.toNat + 256 * natOfBytes r

/-- The bytes from a location on. -/
def memBytes (m : Memory) (a n : Nat) : List Byte :=
  (List.range n).map fun i => memGet m (a + i)

/-! ### Where the bytes of each space lie. One location number space holds every memory. -/

/-- First location of flash (T3): below it lie the 49-bit physical addresses (R321). -/
def flashBase : Nat := 2 ^ 64
/-- First location on chip. -/
def chipBase : Nat := 2 ^ 104
/-- First location at remote devices. -/
def remoteBase : Nat := 2 ^ 120

/-- A byte of a T3 page, by the memory service's handle (R318). -/
def locFlash (handle off : Nat) : Nat := flashBase + handle * 2 ^ 27 + off

/-- A byte of an on-chip memory: the kind is the space's code (R181), the core a core key. -/
def locChip (kind core off : Nat) : Nat := chipBase + kind * 2 ^ 64 + core * 2 ^ 40 + off

/-- A byte of a thread's lane-private allocation (R186, R187): the core, the warp slot and the lane. -/
def locPriv (core slot lane off : Nat) : Nat := locChip 3 core ((slot * 64 + lane) * 8192 + off)

/-- A byte of a shadow bank (R234). -/
def locShadow (core bank off : Nat) : Nat := locChip 7 core (bank * 65536 + off)

/-- A byte of a remote device's virtual memory (R481). -/
def locRemote (dev rctx va : Nat) : Nat := remoteBase + dev * 2 ^ 76 + rctx * 2 ^ 60 + va

/-- Whether a location is physical memory of space 0, the only one a view can lag behind (R296). -/
def isGlobal (loc : Nat) : Bool := decide (loc < flashBase)

/-! ### Cores: a core key is the D-core's number, or 288 + the L-core's number; it is also its view (R295). -/

def coreIsL (k : Nat) : Bool := decide (288 ≤ k)
/-- `%core` (R7). -/
def coreNum (k : Nat) : Nat := if coreIsL k then k - 288 else k
/-- The cluster of a core (R7). -/
def coreCluster (k : Nat) : Nat := if coreIsL k then (k - 288) / 2 else k / 16
/-- The local index of a core in its cluster (R7). -/
def coreLocal (k : Nat) : Nat := if coreIsL k then 16 + (k - 288) % 2 else k % 16
/-- The core of a local index (R7, R181). -/
def coreOfLocal (cl i : Nat) : Nat := if i < 16 then 16 * cl + i else 288 + 2 * cl + (i - 16)
/-- The die of a cluster (R7). -/
def clusterDie (cl : Nat) : Nat := cl / 6
/-- The view of the host and CXL agents, and the views of remote devices (R300). -/
def hostView : Nat := 324
def remoteView : Nat := 325
/-- The command processor's own writes stand in no core's view: a number above the views. -/
def cpView : Nat := 326

/-- The views inside a scope (R300). -/
def scopeViews (scope core : Nat) : List Nat :=
  if scope ≤ 1 then []
  else if scope = 2 then [core]
  else if scope = 3 then
    (List.range 18).map fun i => coreOfLocal (coreCluster core) i
  else if scope = 4 then List.range 324
  else List.range 326

/-- Whether an agent lies inside a scope; a command processor lies in its device (R300). -/
def inScope (scope core agent : Nat) : Bool := (scopeViews scope core).contains agent || (agent == cpView && decide (4 ≤ scope))

/-! ### Parts of the state by key -/

def State.core (s : State) (k : Nat) : Core := kvGet s.cores k {}
def State.setCore (s : State) (k : Nat) (c : Core) : State := { s with cores := kvSet s.cores k c }
def State.cluster (s : State) (k : Nat) : Cluster := kvGet s.clusters k {}
def State.setCluster (s : State) (k : Nat) (c : Cluster) : State := { s with clusters := kvSet s.clusters k c }
def State.port (s : State) (k : Nat) : Port := kvGet s.ports k {}
def State.setPort (s : State) (k : Nat) (p : Port) : State := { s with ports := kvSet s.ports k p }
def State.stack (s : State) (k : Nat) : Stack := kvGet s.hbm k {}
def State.setStack (s : State) (k : Nat) (p : Stack) : State := { s with hbm := kvSet s.hbm k p }
/-- A context that nothing has been written to has its own number as its address-space number (DESIGN CHOICE, log 52). -/
def State.context (s : State) (k : Nat) : Context := kvGet s.ctxs k { asn := BitVec.ofNat 8 k }
/-- The address-space number that tags a context's translations (R316, R323). -/
def State.asnOf (s : State) (k : Nat) : Nat := (s.context k).asn.toNat
def State.setContext (s : State) (k : Nat) (c : Context) : State := { s with ctxs := kvSet s.ctxs k c }
/-- The tenant that a context belongs to: its window names it (R316, R329; log 52). -/
def State.tenant (s : State) (ctx : Nat) : Tenant := kvGet s.paging.tenants (s.context ctx).win {}
def State.setTenant (s : State) (ctx : Nat) (t : Tenant) : State :=
  { s with paging := { s.paging with tenants := kvSet s.paging.tenants (s.context ctx).win t } }
/-- The transducer lane that executes (R361). -/
def State.lane (s : State) : Lane := kvGet s.lanes s.txCur {}
def State.setLane (s : State) (l : Lane) : State := { s with lanes := kvSet s.lanes s.txCur l }
/-- Whether the device answers: in recovery, after a failed stage 1 to 6 of bring-up, it answers configuration space and the recovery
window only (R492). -/
def State.answers (s : State) : Bool := !(s.dev.fail && decide (s.dev.stage ≤ 6))

def State.fport (s : State) (k : Nat) : FPort := kvGet s.links.fports k {}
def State.setFport (s : State) (k : Nat) (p : FPort) : State :=
  { s with links := { s.links with fports := kvSet s.links.fports k p } }

/-- A lifetime counter one up, saturating (R489): 0 POH, 1 TCYC, 2 HBMCE, 3 HBMUE, 4 MAPOUT, 5 SRAMUE, 6 FRETRY,
7 FRETRAIN, 8 FDOWN, 9 FWREJ, each with an index of its own. -/
def State.tally (s : State) (kind index : Nat) : State :=
  let k := kind * 4096 + index
  let v := kvGet s.dev.counters k 0
  { s with dev := { s.dev with counters := kvSet s.dev.counters k (if v = 0xFFFFFFFFFFFFFFFF then v else v + 1) } }

/-- Whether the link to a frame's tier is there: a CXL pool's for T1, the host's for T2 (R321, R485). -/
def State.linkUp (s : State) (pa : Nat) : Bool :=
  if pa < 2 ^ 42 || 2 ^ 44 ≤ pa then true
  else if pa < 2 ^ 43 then s.links.cxlUp.contains ((pa - 2 ^ 42) / 2 ^ 40)
  else s.links.hostUp

/-- The resident warp of a key. -/
def State.warp? (s : State) (k : Nat) : Option Warp := s.warps.find? fun w => w.key == k

/-- The warps with this one put in the place of its key. -/
def State.setWarp (s : State) (w : Warp) : State :=
  { s with warps := s.warps.map fun x => if x.key == w.key then w else x }

def State.block? (s : State) (k : Nat) : Option Block := s.blocks.find? fun b => b.id == k
def State.region? (s : State) (k : Nat) : Option Region := s.regions.find? fun r => r.rcb == k
def State.setRegion (s : State) (r : Region) : State :=
  { s with regions := s.regions.map fun x => if x.rcb == r.rcb && x.ctx == r.ctx then r else x }
/-- The region of a context at an RCB address (R434). -/
def State.regionOf? (s : State) (ctx k : Nat) : Option Region :=
  s.regions.find? fun r => r.rcb == k && r.ctx == ctx
/-- Writes that the completion of a region is to cover (R431). -/
def State.coverRegion (s : State) (ctx rcb : Nat) (ws : List Nat) : State :=
  match s.regionOf? ctx rcb with
  | some r => s.setRegion { r with covered := union r.covered ws }
  | none => s
def State.rec? (s : State) (k : Nat) : Option Rec := s.recs.find? fun r => r.id == k
def State.setRec (s : State) (r : Rec) : State :=
  { s with recs := s.recs.map fun x => if x.id == r.id then r else x }

/-- The partition that holds a cluster: its number (R427). -/
def State.partOf (s : State) (cl : Nat) : Nat :=
  match s.parts.find? fun p => p.2.clusters.contains cl with
  | some p => p.1
  | none => 0

/-- The cycle count of a core's island (R73). -/
def State.cyclesOf (s : State) (core : Nat) : Nat := (s.cluster (coreCluster core)).cycles.toNat

/-- The threads of a warp with one lane's thread changed. -/
def Warp.setThread (w : Warp) (l : Nat) (g : Thread → Thread) : Warp :=
  { w with threads := listAt w.threads l g }

/-- The threads of some lanes changed. -/
def Warp.setLanes (w : Warp) (ls : List Nat) (g : Nat → Thread → Thread) : Warp :=
  ls.foldl (fun w l => w.setThread l (g l)) w

/-- The thread of a lane. -/
def Warp.thread (w : Warp) (l : Nat) : Thread := w.threads.getD l {}

/-- The live threads: launched and not EXITED (R60, R61). -/
def Warp.live (w : Warp) : List Nat :=
  (List.range w.width).filter fun l => (w.thread l).st != .exited

/-- The lanes in a state. -/
def Warp.lanesIn (w : Warp) (st : TState) : List Nat :=
  (List.range w.width).filter fun l => (w.thread l).st == st

/-- Whether a thread may be chosen for a bundle (R60, R62): READY, and no step of the loop of R411 is due. -/
def Thread.mayIssue (t : Thread) : Bool := t.st == .ready && t.wait == .nothing

/-- A mask with bit l for each lane l (R462, TMASK). -/
def maskOf (ls : List Nat) : W64 := ls.foldl (fun m l => m ||| BitVec.ofNat 64 (2 ^ l)) 0

/-- The lanes of a mask. -/
def lanesOf (m : W64) : List Nat := (List.range 64).filter fun l => m.getLsbD l

/-- The block's allotment on a core. -/
def Block.allotOn (b : Block) (core : Nat) : Option Allot := b.allots.find? fun a => a.core == core

/-- The D-core whose buffers, engines and scratchpad the warp uses, or the L-core of a block placed there
(R181, R238, R381). -/
def Warp.homeCore (w : Warp) : Nat := w.home.getD w.core

/-! ### Header fields of a region's kernel (R383) -/

def Region.hdrBits (r : Region) (lo len : Nat) : Nat := bitsOf r.hdr.toNat lo len
def Region.width (r : Region) : Nat := 16 * 2 ^ (r.hdrBits 0 2)
def Region.hasD (r : Region) : Bool := r.hdrBits 3 1 == 1
def Region.hasL (r : Region) : Bool := r.hdrBits 4 1 == 1
def Region.boost (r : Region) : Bool := r.hdrBits 5 1 == 1
def Region.emu (r : Region) : Bool := r.hdrBits 7 1 == 1
def Region.sregs (r : Region) : Nat := r.hdrBits 32 8
def Region.epcnt (r : Region) : Nat := r.hdrBits 40 8
/-- The declared vector registers of the image for a class (R383). -/
def Region.vregs (r : Region) (onL : Bool) : Nat := if onL then r.hdrBits 16 8 else r.hdrBits 8 8
/-- A thread's lane-private allocation in bytes (R186). -/
def Region.priv (r : Region) : Nat := 16 * r.hdrBits 24 8 + (if r.emu then 256 else 0)
/-- The PC of an image's first byte (R382). -/
def Region.imageBase (r : Region) (onL : Bool) : Nat := r.kobj + (if onL then r.lOff else r.dOff)
/-- The entry PC of an image (R382). -/
def Region.entry (r : Region) (onL : Bool) : Nat := r.imageBase onL + (if onL then r.lEntry else r.dEntry)

/-! ### Fields of the allotment word of an RCB (R434, bytes 48–55) -/

def Region.allocBits (r : Region) (lo len : Nat) : Nat := bitsOf r.alloc.toNat lo len

/-! ### Program counters (R21, R22) -/

/-- The instruction after the slot of a PC (R22). -/
def nextPc (pc : W64) : W64 :=
  if (pc >>> 3) &&& 7 == 4 then (pc &&& ~~~(0x3F : W64)) + 64 else (pc &&& ~~~(0x7 : W64)) + 8

/-- The line of a PC. -/
def lineOf (pc : W64) : W64 := pc &&& ~~~(0x3F : W64)

/-- The slot number of a PC (R21). -/
def slotOf (pc : W64) : Nat := ((pc >>> 3) &&& 7).toNat

end Sys2Proof.Machine
end

