-- ==== Sys2Proof/Machine/Order.lean ====
section
/-!
DEFINITION. The Ordering Machine's steps on writes and views (11 R295 to R303).
-/
namespace Sys2Proof.Machine
open Sys2Proof

/-- The byte before and the byte written of a write at a location. -/
def Write.at? (w : Write) (loc : Nat) : Option (Byte × Byte) :=
  (w.cells.find? fun c => c.1 == loc).map fun c => c.2

/-- The byte a view holds of a location (R295 to R297): the newest in-flight write that has reached it, else what
stood before the oldest, else the home's. The in-flight writes stand newest first. -/
def viewByte (o : Ordering) (m : Memory) (view loc : Nat) : Byte :=
  if !isGlobal loc then memGet m loc else
  let ws := o.flight.filter fun w => (w.at? loc).isSome
  match ws.find? fun w => w.views.contains view with
  | some w => ((w.at? loc).map (·.2)).getD 0
  | none =>
    match ws.getLast? with
    | some w => ((w.at? loc).map (·.1)).getD 0
    | none => memGet m loc

/-- The write a view's byte comes from: its number, 0 for the initial write. Where no in-flight write has reached the view it
is the one that stood there before the oldest of them. -/
def viewWriter (o : Ordering) (view loc : Nat) : Nat :=
  let ws := o.flight.filter fun w => (w.at? loc).isSome
  if !isGlobal loc then kvGet o.last loc 0
  else match ws.find? fun w => w.views.contains view with
    | some w => w.wid
    | none => match ws.getLast? with
      | some w => kvGet w.olds loc 0
      | none => kvGet o.last loc 0

/-- A write enters the coherence order of its locations and one view, in one step (R296, R298). -/
def enterOrder (s : State) (wid : Nat) (cells : List Host.Cell) (view : Nat) : State :=
  let g := cells.filter fun c => isGlobal c.1
  let fl := if g.isEmpty then s.order.flight else
    { wid := wid, cells := g.map fun c => (c.1, memGet s.mem c.1, c.2), views := [view]
      olds := g.map fun c => (c.1, kvGet s.order.last c.1 0) } :: s.order.flight
  { s with
    mem := memPutAll s.mem cells
    softWords := s.softWords.filter fun x => !(cells.any fun c => c.1 / 4 == x)
    order := { s.order with
      flight := fl
      last := cells.foldl (fun l c => kvSet l c.1 wid) s.order.last } }

/-- The older writes without the locations a fully propagated write covers (R297: no view can regress to them). -/
def dropOlder (locs : List Nat) (ws : List Write) : List Write :=
  ws.map fun w => { w with cells := w.cells.filter fun c => !locs.contains c.1 }

/-- Propagation over the in-flight writes, newest first. -/
def propagateIn (wid view : Nat) : List Write → List Write
  | [] => []
  | w :: r =>
    if w.wid = wid then
      let v := union w.views [view]
      if (List.range 326).all v.contains then dropOlder (w.cells.map (·.1)) r
      else { w with views := v } :: r
    else w :: propagateIn wid view r

/-- A write reaches one more view of its propagation set (R297, PROPAGATE). -/
def propagate (s : State) (wid view : Nat) : State :=
  { s with order := { s.order with flight := propagateIn wid view s.order.flight } }

/-- A write in every view: the PROPAGATE steps of all of them together. -/
def reachAllIn (wid : Nat) : List Write → List Write
  | [] => []
  | w :: r => if w.wid = wid then dropOlder (w.cells.map (·.1)) r else w :: reachAllIn wid r

/-- Writes in every view. -/
def reachAll (s : State) (wids : List Nat) : State :=
  { s with order := { s.order with flight := wids.foldl (fun l x => reachAllIn x l) s.order.flight } }

/-- Whether a write has not entered coherence order: it stands in a store FIFO, or it failed at its home and its record is
not resolved (R298, R302). -/
def inFifo (s : State) (wid : Nat) : Bool :=
  s.warps.any fun w => (w.fifo ++ w.failed).any fun e => e.wid == wid && e.kind != .marker

/-- Whether a write stands in the queue of a fabric port (R309). -/
def inFabric (s : State) (wid : Nat) : Bool := s.links.fports.any fun p => p.2.queue.any fun q => q.ent.wid == wid

/-- Whether a write has reached every view of a list; a remote view only from the fabric port's queue (R309). -/
def reachedViews (s : State) (wid : Nat) (views : List Nat) : Bool :=
  !inFifo s wid && (!views.contains remoteView || !inFabric s wid) &&
  match s.order.flight.find? fun w => w.wid == wid with
  | none => true
  | some w => views.all w.views.contains

/-- RELEASE-GATE (R302): every covered write has reached every view inside the scope. -/
def gateOpen (s : State) (core scope : Nat) (covered : List Nat) : Bool :=
  let vs := scopeViews scope core
  vs.isEmpty || covered.all fun wid => reachedViews s wid vs

/-- The record of what a write can tell a later acquire. -/
def metaOf (o : Ordering) (wid : Nat) : Option WMeta := o.metas.find? fun m => m.wid == wid

/-- Whether the scopes of an acquire and a release match: each lies in the other's scope, which for thread or warp scope is
their warp (R300, R303). -/
def scopesMatch (acqCore acqWarp acqScope : Nat) (m : WMeta) : Bool :=
  let inside (scope core agent : Nat) : Bool := if scope ≤ 1 then m.warp == acqWarp else inScope scope core agent
  inside m.scope m.core acqCore && inside acqScope acqCore m.core

/-- What joins the covered set of a thread whose access read a write with an acquire (R301, R303). -/
def acquired (o : Ordering) (acqCore acqWarp acqScope wid : Nat) : List Nat :=
  match metaOf o wid with
  | none => []
  | some m => (m.heads.filterMap (metaOf o)).foldl
      (fun acc h => if h.release && scopesMatch acqCore acqWarp acqScope h then union acc h.covered else acc) []

/-- What a thread learns that read writes, with an acquire of a scope where there is one (R301, R303). -/
def gainsOf (o : Ordering) (core warp : Nat) (acq : Option Nat) (wids : List Nat) : List Nat :=
  let ws := union [] (wids.filter (· != 0))
  match acq with
  | none => ws
  | some sc => ws.foldl (fun c wid => union c (acquired o core warp sc wid)) ws

/-- A thread's covered set after it read writes (R301, R303). -/
def threadReads (o : Ordering) (core warp : Nat) (acq : Option Nat) (wids : List Nat) (t : Thread) : Thread :=
  { t with covered := union t.covered (gainsOf o core warp acq wids), reads := union t.reads (wids.filter (· != 0)) }

/-- A thread acquires everything a list of writes covers, whatever was read (R226, R229, R233, R236, R305). -/
def threadAcquires (covered : List Nat) (t : Thread) : Thread :=
  { t with covered := union t.covered covered }

/-- Whether a FIFO entry is one of a lane's thread: a marker is one of every lane that its cells name. -/
def FifoEnt.ofLane (e : FifoEnt) (l : Nat) : Bool :=
  match e.kind with
  | .marker | .trig => e.cells.any fun c => c.1 == l
  | _ => e.lane == l

/-- What an access of a thread learned joins the covered sets of the releases that the thread issued after it and that
still wait (R301, R302), and what its space 7 stores are ordered after (R236). -/
def State.joinReleases (s : State) (key lane since : Nat) (gains : List Nat) : State :=
  match s.warp? key with
  | none => s
  | some w =>
    let mine (e : FifoEnt) : Bool := e.release && decide (since < e.wid) && e.ofLane lane
    let wids := (w.fifo.filter mine).map (·.wid)
    let swap := w.fifo.any fun e => e.space == 7 && decide (since < e.wid) && e.lane == lane
    let x := if swap then w.setThread lane fun t => { t with swapCov := union t.swapCov gains } else w
    let t := s.setWarp { x with fifo := w.fifo.map fun e => if mine e then { e with covered := union e.covered gains } else e }
    let metas := t.order.metas.map fun m => if wids.contains m.wid then { m with covered := union m.covered gains } else m
    { t with order := { t.order with metas := metas } }

/-- What a thread learns from what its access of number `since` read, and its younger releases with it (R301, R303). -/
def State.learn (s : State) (key lane since : Nat) (acq : Option Nat) (wids : List Nat) : State :=
  match s.warp? key with
  | none => s
  | some w =>
    (s.setWarp (w.setThread lane (threadReads s.order w.core key acq wids))).joinReleases key lane since
      (gainsOf s.order w.core key acq wids)

/-- A fresh write number. -/
def State.newWid (s : State) : Nat × State :=
  (s.order.next, { s with order := { s.order with next := s.order.next + 1 } })

/-- The record of a write put by. -/
def State.addMeta (s : State) (m : WMeta) : State :=
  { s with order := { s.order with metas := m :: s.order.metas } }

end Sys2Proof.Machine
end

