-- ==== Sys2Proof/Machine/Access.lean ====
section
/-!
DEFINITION. Translation (12 R316 to R325), generic pointers and the checks of an access (07 R180 to R192, 18 R481).
-/
namespace Sys2Proof.Machine
open Sys2Proof

/-! ### Page-table entries (R318) -/

def leafV (e : Nat) : Bool := bitsOf e 0 1 == 1
def leafLeaf (e : Nat) : Bool := bitsOf e 1 1 == 1
def leafTier (e : Nat) : Nat := bitsOf e 2 2
def leafR (e : Nat) : Bool := bitsOf e 4 1 == 1
def leafW (e : Nat) : Bool := bitsOf e 5 1 == 1
def leafX (e : Nat) : Bool := bitsOf e 6 1 == 1
def leafCow (e : Nat) : Bool := bitsOf e 7 1 == 1
def leafAge (e : Nat) : Nat := bitsOf e 8 3
def leafPin (e : Nat) : Bool := bitsOf e 11 1 == 1
def leafBind (e : Nat) : Nat := bitsOf e 12 8
def leafWin (e : Nat) : Nat := bitsOf e 20 6
def leafMig (e : Nat) : Bool := bitsOf e 26 1 == 1
def leafFrame (e : Nat) : Nat := bitsOf e 28 36

/-- A number with a bit field replaced. -/
def putBits (x lo len v : Nat) : Nat :=
  x - bitsOf x lo len * 2 ^ lo + v % 2 ^ len * 2 ^ lo

/-- Offset bits of a leaf at a level (R317): 128 GiB, 128 MiB, 128 KiB. -/
def pageBits (level : Nat) : Nat := if level = 1 then 37 else if level = 2 then 27 else 17

/-- Whether a physical address range lies in its tier (R321). -/
def inTier (tier pa size : Nat) : Bool :=
  match tier with
  | 0 => decide (pa + size ≤ 0xC000000000)
  | 1 => decide (0x40000000000 ≤ pa) && decide (pa + size ≤ 0x70000000000)
  | _ => decide (0x80000000000 ≤ pa) && decide (pa + size ≤ 0x100000000000)

/-- Whether a valid entry is malformed at its level (R319). -/
def malformed (level e : Nat) : Bool :=
  let size := 2 ^ pageBits level
  let pa := leafFrame e * 8192
  if leafLeaf e then
    level == 0 || bitsOf e 27 1 == 1 ||
    (leafTier e != 3 && (pa % size != 0 || !inTier (leafTier e) pa size)) ||
    (leafCow e && level != 3) || (level == 1 && (leafTier e != 0 || !leafPin e))
  else level == 3 || bitsOf e 2 26 != 0 || !inTier 0 pa 8192

/-- The end of a walk (R317, R319, R320): an entry that is not valid or is malformed, or a leaf with its place. -/
inductive Walked where
  | absent
  | bad (level : Nat)
  | leaf (level at_ entry : Nat)
  deriving DecidableEq, Repr, Inhabited

def walkFrom (m : Memory) (va : Nat) : Nat → Nat → Nat → Walked
  | 0, _, _ => .absent
  | n + 1, table, level =>
    let a := table + 8 * bitsOf va (47 - 10 * level) 10
    let e := memNat m a 8
    if !leafV e then .absent
    else if malformed level e then .bad level
    else if leafLeaf e then .leaf level a e
    else walkFrom m va n (leafFrame e * 8192) (level + 1)

/-- The page walk of a context's tables. -/
def State.walk (s : State) (ctx va : Nat) : Walked := walkFrom s.mem va 4 (s.context ctx).root 0

/-- The physical address or flash handle place that a leaf gives a virtual address. -/
def leafLoc (level e va : Nat) : Nat :=
  if leafTier e = 3 then locFlash (leafFrame e) (va % 2 ^ pageBits level)
  else leafFrame e * 8192 + va % 2 ^ pageBits level

/-- The codec binding that an index names in a context; none where the slot is absent (R355). -/
def State.binding? (s : State) (ctx bind : Nat) : Option Binding :=
  if bind = 0 then none else ((s.context ctx).binds.find? fun p => p.1 == bind).map (·.2)

/-- The page slot of a packed page in its frame, if its leaf names a packed binding (R359). -/
def State.packedSlot (s : State) (ctx e va : Nat) : Option Nat :=
  match s.binding? ctx (leafBind e) with
  | some b => if b.packed then some (bitsOf va 17 b.group) else none
  | none => none

/-- Plain bytes of a packed page: pages of one frame each have their own. -/
def locPacked (slot pa : Nat) : Nat := 2 ^ 60 * (slot + 1) + pa

/-- Where the plain bytes of an address lie under its leaf. -/
def State.pageLoc (s : State) (ctx level e va : Nat) : Nat :=
  match s.packedSlot ctx e va with
  | some k => locPacked k (leafLoc level e va)
  | none => leafLoc level e va

/-- A cached translation that serves an address of an address space. -/
def tlbFind (l : List TlbEnt) (asn va : Nat) : Option TlbEnt :=
  l.find? fun t => t.asn == asn && t.page == va / 2 ^ pageBits t.level

/-- The leaf that an access of a core uses: from its TLBs, else by a walk (R323, R324). -/
def State.lookup (s : State) (core ctx va : Nat) : Walked :=
  match tlbFind (s.core core).tlb (s.asnOf ctx) va with
  | some t => .leaf t.level 0 t.leaf.toNat
  | none =>
    match tlbFind (s.cluster (coreCluster core)).tlb (s.asnOf ctx) va with
    | some t => .leaf t.level 0 t.leaf.toNat
    | none => s.walk ctx va

/-- A TLB fill for an access that reached a T0 leaf (R323, R330): the leaf is cached, in the place of the oldest entry where
the TLB is full, and its AGE becomes 0. -/
def State.fill (s : State) (core ctx va : Nat) : State :=
  let asn := s.asnOf ctx
  if (tlbFind (s.core core).tlb asn va).isSome then s else
  let put (t : TlbEnt) (s : State) : State :=
    let c := s.core core
    s.setCore core { c with tlb := (t :: c.tlb).take 512 }
  let young (a e : Nat) (s : State) : State := { s with mem := memPutAll s.mem (cellsAt a (bytesOf 8 (putBits e 8 3 0))) }
  match tlbFind (s.cluster (coreCluster core)).tlb asn va with
  | some t => put t (match s.walk ctx va with
    | .leaf _ a e => if putBits e 8 3 0 = t.leaf.toNat then young a e s else s
    | _ => s)
  | none =>
    match s.walk ctx va with
    | .leaf level a e =>
      if leafTier e = 0 then
        let t : TlbEnt := ⟨asn, va / 2 ^ pageBits level, level, BitVec.ofNat 64 (putBits e 8 3 0)⟩
        let cl := coreCluster core
        let c := s.cluster cl
        let s := s.setCluster cl { c with tlb := (t :: c.tlb).take 8192 }
        put t (young a e s)
      else s
    | _ => s

/-- The place a physical address has now: a committed chunk of a move lies at its new frame (R333). -/
def State.homeLoc (s : State) (loc : Nat) : Nat :=
  match s.paging.moves.find? fun m => decide (m.src ≤ loc) && decide (loc < m.src + 2 ^ pageBits m.level) &&
      m.committed.contains ((loc - m.src) / 4096) with
  | some m => m.dst + (loc - m.src)
  | none => loc

/-- Whether a write to a location is held by an open chunk, of a move or of its undoing (R333, R335). -/
def State.heldLoc (s : State) (loc : Nat) : Bool :=
  s.paging.moves.any fun m => decide (m.src ≤ loc) && decide (loc < m.src + 2 ^ pageBits m.level) &&
    ((m.opened.contains ((loc - m.src) / 4096) && !m.committed.contains ((loc - m.src) / 4096)) || m.back.contains ((loc - m.src) / 4096))

/-- Whether a physical address lies in the range of its stack that a layer map-out removes or has removed (R322, R351). -/
def State.retired (s : State) (pa : Nat) : Bool :=
  decide (pa < 0xC000000000) &&
  (let k := s.stack (pa / 2 ^ 36)
   decide ((k.nlayer - bitOf k.mapout) * 2 ^ 32 ≤ pa % 2 ^ 36))

/-- The reference count of a frame: 0xFFFF once it is retired (R326, R351). -/
def State.frtRaw (s : State) (pa : Nat) : Nat := (kvGet s.paging.frt (pa / 131072) 0).toNat
def State.frt (s : State) (pa : Nat) : Nat := if s.retired pa then 0xFFFF else s.frtRaw pa

/-- Whether the port can break a copy-on-write page by itself (R327). -/
def State.canBreak (s : State) (ctx e : Nat) : Bool :=
  s.frt (leafFrame e * 8192) == 1 || ((s.tenant ctx).autoCow && !(s.tenant ctx).poolFrames.isEmpty)

/-- Kinds of access (R460): 0 load, 1 store, 2 atomic, 3 fetch, 4 copy read, 5 copy write, 6 matrix. -/
def kindWrites (k : Nat) : Bool := k == 1 || k == 2 || k == 5

/-- The rank of a reason in R192. -/
def rankOf (r : Nat) : Nat :=
  match r with
  | 5 => 0 | 6 => 1 | 7 => 2 | 1 => 3 | 2 => 3 | 3 => 3 | 4 => 4 | _ => 5

def bestReason (l : List Nat) : Option Nat :=
  match l with
  | [] => none
  | r :: rest => match bestReason rest with
    | none => some r
    | some q => if rankOf r ≤ rankOf q then some r else some q

/-- The check of one lane (R192): its address, where its bytes lie, the reason it meets, the level of a malformed
entry (R319), and whether it waits for a copy-on-write break (R327). -/
structure LaneChk where
  lane  : Nat
  addr  : W64
  loc   : Nat := 0
  why   : Option Nat := none
  level : Option Nat := none
  cow   : Bool := false
  leaf  : Nat := 0
  deriving DecidableEq, Repr, Inhabited

/-! ### Generic pointers (R180, R181) -/

def ptrSpace (p : W64) : Nat := bitsOf p.toNat 60 4
def ptrPolicy (p : W64) : Nat := bitsOf p.toNat 57 3
/-- Bits of the offset field. -/
def offBits (sp : Nat) : Nat := if sp = 2 then 19 else if sp = 7 then 16 else if sp = 8 then 45 else 57
def ptrOff (p : W64) : Nat := bitsOf p.toNat 0 (offBits (ptrSpace p))

/-- `effective` (R184) for a base and an exact displacement: the pointer, or the reason and the base. -/
def effective (p : W64) (d : Int) (polNib : Nat) : Option Nat × W64 :=
  let sp := ptrSpace p
  let pol := if polNib != 0 then polNib - 1 else ptrPolicy p
  if 9 ≤ sp then (some 5, p)
  else if (sp == 0 || sp == 8) && decide (5 ≤ pol) then (some 5, p)
  else
    let a : Int := ptrOff p + d
    if a < 0 || decide (((2 ^ offBits sp : Nat) : Int) ≤ a) then (some 6, p)
    else (none, BitVec.ofNat 64 (putBits p.toNat 0 (offBits sp) a.toNat))

/-- Where a pointer of an on-chip space leads for a thread (R181, R185, R186, R234): a location, or a reason. -/
def spaceLoc (s : State) (w : Warp) (lane : Nat) (p : W64) (size : Nat) (store : Bool) : Nat ⊕ Nat :=
  let sp := ptrSpace p
  let off := ptrOff p
  match s.block? w.block with
  | none => .inr 6
  | some b =>
    let inAllot (key kind limit : Nat) (base : Allot → Nat) : Nat ⊕ Nat :=
      match b.allotOn key with
      | none => .inr 6
      | some al => if limit < off + size then .inr 6 else .inl (locChip kind key (base al + off))
    match sp with
    | 1 => inAllot w.homeCore 1 b.spad (·.sBase)
    | 2 =>
      let c := bitsOf p.toNat 48 9
      if bitsOf p.toNat 19 29 != 0 || decide (18 ≤ c) then .inr 6
      else inAllot (coreOfLocal (coreCluster w.core) c) 1 b.spad (·.sBase)
    | 3 =>
      let limit := ((s.regionOf? w.ctx w.region).map Region.priv).getD 0
      if limit < off + size then .inr 6 else .inl (locPriv w.core w.slot lane off)
    | 4 => if b.onL then .inr 5 else inAllot w.homeCore 4 b.wbuf (·.wBase)
    | 5 => if b.onL then .inr 5 else inAllot w.homeCore 5 b.xbuf (·.xBase)
    | 6 => if b.onL then .inr 5 else inAllot w.homeCore 6 b.abuf (·.aBase)
    | _ =>
      let c := bitsOf p.toNat 48 9
      let key := coreOfLocal (coreCluster w.core) c
      if bitsOf p.toNat 16 32 != 0 || decide (16 ≤ c) || (!store && key != w.homeCore) then .inr 6
      else if !b.shadow || (b.allotOn key).isNone || decide (65536 < off + size) then .inr 6
      else
        let rd := (s.core key).readable
        .inl (locShadow key (if store then 1 - rd else rd) off)

/-- A fabric window (R480). -/
def State.window (s : State) (part i : Nat) : FWin := kvGet s.links.windows (part * 4096 + i) {}

/-- Whether the tables no longer hold a leaf that a TLB gave (R325); AGE is not part of a TLB entry (R323). -/
def State.replaced (s : State) (ctx va e : Nat) : Bool :=
  match s.walk ctx va with
  | .leaf _ _ e' => putBits e' 8 3 0 != putBits e 8 3 0
  | _ => true

/-- Whether a leaf stops an access for copy-on-write, which its port may break (R320, R327). -/
def cowStop (kind e : Nat) : Bool := kindWrites kind && leafCow e && leafTier e == 0

/-- Whether a write to an address waits for the invalidation of a copy-on-write break of its page: loads through the leaf may
still read the old frame, and the two hold the same bytes until then (R327, R328). -/
def State.breaking (s : State) (ctx va : Nat) : Bool :=
  s.paging.invals.any fun i => i.brk && i.ctx == ctx && i.page / 2 ^ pageBits i.level == va / 2 ^ pageBits i.level

/-- The reasons that a leaf gives an access (R320). -/
def State.leafReasons (s : State) (ctx kind va e : Nat) : List Nat :=
  let perm := if kindWrites kind then (if leafW e && (s.packedSlot ctx e va).isNone then [] else [2])
    else if kind == 3 then (if leafX e then [] else [3]) else (if leafR e then [] else [1])
  (if leafWin e != (s.context ctx).win then [6] else []) ++ perm ++
    (if cowStop kind e && !s.canBreak ctx e then [4] else []) ++ (if leafTier e != 0 then [0] else [])

/-- What the end of a walk gives an access (R319, R320); the level of a malformed entry where it is the entry that stops the
access. -/
def State.chkWalked (s : State) (ctx kind va : Nat) (c : LaneChk) (mis : List Nat) : Walked → LaneChk
  | .absent => { c with why := bestReason (mis ++ [0]) }
  | .bad l => { c with why := bestReason (mis ++ [0]), level := if mis.isEmpty then some l else none }
  | .leaf level _ e => { c with
      loc := s.pageLoc ctx level e va, why := bestReason (mis ++ s.leafReasons ctx kind va e)
      cow := (cowStop kind e && s.canBreak ctx e) || (kindWrites kind && s.breaking ctx va), leaf := e }

/-- The reasons a space 0 address meets for an access (R320), with the location where it may go on. A stop by a translation
that the memory service has replaced is stale: the access walks again (R325). -/
def globalChk (s : State) (core ctx kind va : Nat) (c : LaneChk) (mis : List Nat) : LaneChk :=
  match s.lookup core ctx va with
  | .leaf level a e =>
    if (!(s.leafReasons ctx kind va e).isEmpty || cowStop kind e) && s.replaced ctx va e then s.chkWalked ctx kind va c mis (s.walk ctx va)
    else s.chkWalked ctx kind va c mis (.leaf level a e)
  | w => s.chkWalked ctx kind va c mis w

/-- Whether a space is closed to an access: atomics have no home in spaces 3–7 (R209), and a block placed on an L-core has
no spaces 4–6 (R185). -/
def spaceClosed (s : State) (w : Warp) (kind sp : Nat) : Bool :=
  (kind == 2 && decide (3 ≤ sp) && decide (sp ≤ 7)) ||
  (decide (4 ≤ sp) && decide (sp ≤ 6) && (s.block? w.block).any (·.onL))

/-- One lane's checks (R184, R185, R189, R192) for a kind of access: its space before the window. -/
def checkLane (s : State) (w : Warp) (kind lane : Nat) (base : W64) (d : Int) (polNib size : Nat) : LaneChk :=
  let (r, p) := effective base d polNib
  let c : LaneChk := { lane := lane, addr := p }
  let sp := ptrSpace p
  match (if spaceClosed s w kind sp then some 5 else r) with
  | some r => { c with why := some r }
  | none =>
    let mis := if ptrOff p % size != 0 then [7] else []
    if sp = 0 then
      if 2 ^ 57 < ptrOff p + size then { c with why := some 6 }
      else globalChk s w.core w.ctx kind (ptrOff p) c mis
    else if sp = 8 then
      let win := s.window (s.partOf (coreCluster w.core)) (bitsOf p.toNat 45 12)
      if !win.valid || decide (win.size < ptrOff p + size) then { c with why := some 6 }
      else
        let perm := if kind == 2 then (if win.wr && win.at_ then [] else [2])
          else if kindWrites kind then (if win.wr then [] else [2]) else (if win.rd then [] else [1])
        { c with loc := locRemote win.dev win.rctx (win.rbase + ptrOff p), why := bestReason (mis ++ perm) }
    else
      match spaceLoc s w lane p size (kindWrites kind) with
      | .inr r => { c with why := some r }
      | .inl loc => { c with loc := loc, why := bestReason mis }

/-- The reason an instruction takes over its lanes (R192): the reason, the lanes that met it, the lowest one's
address, and the level of a malformed entry. -/
def worstChk (cs : List LaneChk) : Option (Nat × List Nat × W64 × Option Nat) :=
  match bestReason (cs.filterMap (·.why)) with
  | none => none
  | some r =>
    let bad := cs.filter fun c => c.why == some r
    match bad with
    | [] => none
    | c :: _ => some (r, bad.map (·.lane), c.addr, (bad.filterMap (·.level)).head?)

/-- The virtual pages of 128 KiB or more that lanes with reason 0 named (R340). -/
def pageOf (level va : Nat) : Nat := va / 2 ^ pageBits level * 2 ^ pageBits level

/-- The TLB fills of the lanes that reached a leaf in space 0 (R323, R330). -/
def fillLanes (s : State) (w : Warp) (cs : List LaneChk) : State :=
  cs.foldl (fun s c => if ptrSpace c.addr == 0 && c.leaf != 0 then s.fill w.core w.ctx (ptrOff c.addr) else s) s

end Sys2Proof.Machine
end

