-- ==== Sys2Proof/Machine/Operands.lean ====
section
/-!
DEFINITION. Operand forms: what each instruction's fields may hold, in the order of checks of R44 (02 R25 to R45; the
entry of each instruction in its own chapter).
-/
namespace Sys2Proof

/-! ### Parts of bits [47:32] -/

/-- MOD.SAT, MOD.RND, MOD.FTZ and COND (R27). -/
def Fields.sat (f : Fields) : Bool := f.mid.getLsbD 8
def Fields.rnd (f : Fields) : Nat := bitsOf f.mid.toNat 9 3
def Fields.ftz (f : Fields) : Bool := f.mid.getLsbD 12
def Fields.cond (f : Fields) : Nat := bitsOf f.mid.toNat 4 4
/-- POL or TYPE, SCOPE, ORD and SCALE (R29). -/
def Fields.pol (f : Fields) : Nat := bitsOf f.mid.toNat 12 4
def Fields.scope (f : Fields) : Nat := bitsOf f.mid.toNat 8 4
def Fields.ord (f : Fields) : Nat := bitsOf f.mid.toNat 4 4
def Fields.scale (f : Fields) : Nat := bitsOf f.mid.toNat 0 4
/-- SUB as a number. -/
def Fields.ty (f : Fields) : Nat := f.sub.toNat
/-- AUX16. -/
def Fields.aux (f : Fields) : Nat := f.mid.toNat
/-- IMM32, OFF or DISP as a number. -/
def Fields.im (f : Fields) : Nat := f.imm.toNat

/-- A field A, B or C is the immediate. -/
def Fields.any1 (f : Fields) : Bool := f.a == 0xF1 || f.b == 0xF1 || f.c == 0xF1

end Sys2Proof

namespace Sys2Proof.Machine
open Sys2Proof

/-- The opcode and fields of a full instruction (R46). -/
def fieldsOf : Instr → Option (Nat × Fields)
  | .nop f => some (0x00, f)
  | .wait f => some (0x01, f)
  | .yield f => some (0x02, f)
  | .trap f => some (0x03, f)
  | .brk f => some (0x04, f)
  | .fence f => some (0x05, f)
  | .ifence f => some (0x06, f)
  | .rdsr f => some (0x07, f)
  | .wrsr f => some (0x08, f)
  | .exit f => some (0x09, f)
  | .trig f => some (0x0A, f)
  | .post f => some (0x0B, f)
  | .postEnd f => some (0x0B, f)
  | .fresResume f => some (0x0C, f)
  | .fresKill f => some (0x0C, f)
  | .fresRebind f => some (0x0C, f)
  | .ep f => some (0x0D, f)
  | .migL f => some (0x0E, f)
  | .migD f => some (0x0E, f)
  | .emu f => some (0x0F, f)
  | .bra f => some (0x10, f)
  | .brx f => some (0x11, f)
  | .call f => some (0x12, f)
  | .callx f => some (0x13, f)
  | .ret f => some (0x14, f)
  | .brs f => some (0x15, f)
  | .wsync f => some (0x16, f)
  | .add f => some (0x20, f)
  | .sub f => some (0x21, f)
  | .mul f => some (0x22, f)
  | .mulhi f => some (0x23, f)
  | .mad f => some (0x24, f)
  | .min f => some (0x25, f)
  | .max f => some (0x26, f)
  | .abs f => some (0x27, f)
  | .and f => some (0x28, f)
  | .or f => some (0x29, f)
  | .xor f => some (0x2A, f)
  | .andn f => some (0x2B, f)
  | .shl f => some (0x2C, f)
  | .shr f => some (0x2D, f)
  | .sar f => some (0x2E, f)
  | .cmp f => some (0x2F, f)
  | .sel f => some (0x30, f)
  | .mov f => some (0x31, f)
  | .movi f => some (0x32, f)
  | .popc f => some (0x33, f)
  | .clz f => some (0x34, f)
  | .brev f => some (0x35, f)
  | .bfe f => some (0x36, f)
  | .bfi f => some (0x37, f)
  | .addsh f => some (0x38, f)
  | .idiv f => some (0x39, f)
  | .plog f => some (0x3A, f)
  | .pmovGet f => some (0x3B, f)
  | .pmovSet f => some (0x3B, f)
  | .perm f => some (0x3C, f)
  | .rng f => some (0x3D, f)
  | .rot f => some (0x3E, f)
  | .clamp f => some (0x3F, f)
  | .fadd f => some (0x40, f)
  | .fsub f => some (0x41, f)
  | .fmul f => some (0x42, f)
  | .fma f => some (0x43, f)
  | .fmin f => some (0x44, f)
  | .fmax f => some (0x45, f)
  | .fcmp f => some (0x46, f)
  | .fsgn f => some (0x47, f)
  | .frnd f => some (0x48, f)
  | .fclass f => some (0x49, f)
  | .fdot4 f => some (0x4A, f)
  | .fscl f => some (0x4B, f)
  | .famax f => some (0x4C, f)
  | .cvt f => some (0x50, f)
  | .pack f => some (0x51, f)
  | .unpack f => some (0x52, f)
  | .rcp f => some (0x53, f)
  | .rsq f => some (0x54, f)
  | .sqrt f => some (0x55, f)
  | .exp2 f => some (0x56, f)
  | .log2 f => some (0x57, f)
  | .sin f => some (0x58, f)
  | .cos f => some (0x59, f)
  | .tanh f => some (0x5A, f)
  | .act f => some (0x5B, f)
  | .shfl f => some (0x60, f)
  | .vote f => some (0x61, f)
  | .ballot f => some (0x62, f)
  | .wred f => some (0x63, f)
  | .scan f => some (0x64, f)
  | .matchl f => some (0x65, f)
  | .elect f => some (0x66, f)
  | .rdlane f => some (0x67, f)
  | .wrlane f => some (0x68, f)
  | .ld f => some (0x70, f)
  | .st f => some (0x71, f)
  | .lds f => some (0x72, f)
  | .sts f => some (0x73, f)
  | .pf f => some (0x74, f)
  | .cwb f => some (0x75, f)
  | .cwbSync f => some (0x75, f)
  | .mkptr f => some (0x76, f)
  | .ptrq f => some (0x77, f)
  | .atom f => some (0x80, f)
  | .cas f => some (0x81, f)
  | .redm f => some (0x82, f)
  | .fatom f => some (0x83, f)
  | .fredm f => some (0x84, f)
  | .amxr f => some (0x85, f)
  | .binit f => some (0x90, f)
  | .barrive f => some (0x91, f)
  | .bwait f => some (0x92, f)
  | .bexpect f => some (0x93, f)
  | .bexpectArrive f => some (0x93, f)
  | .btest f => some (0x94, f)
  | .nbarSync f => some (0x95, f)
  | .nbarArrive f => some (0x95, f)
  | .qinit f => some (0x96, f)
  | .qpush f => some (0x97, f)
  | .qpop f => some (0x98, f)
  | .xswap f => some (0x99, f)
  | .kick f => some (0xA0, f)
  | .tdef f => some (0xA1, f)
  | .tstat f => some (0xA2, f)
  | .trel f => some (0xA3, f)
  | .tld f => some (0xA4, f)
  | .tstr f => some (0xA5, f)
  | .atab f => some (0xA6, f)
  | .mres f => some (0xB0, f)
  | .mrel f => some (0xB1, f)
  | .mfence f => some (0xB2, f)
  | .mgo f => some (0xB3, f)
  | .mwait f => some (0xB4, f)
  | .pgq f => some (0xC0, f)
  | .pgadv f => some (0xC1, f)
  | .bop f => some (0xC2, f)
  | .tcommit f => some (0xC3, f)
  | .tabort f => some (0xC4, f)
  | .uret f => some (0xC5, f)
  | .tspawn f => some (0xC6, f)
  | .ctload f => some (0xC7, f)
  | .cbind f => some (0xC8, f)
  | .cbuild f => some (0xC9, f)
  | .dadd f => some (0xE0, f)
  | .dmul f => some (0xE1, f)
  | .dfma f => some (0xE2, f)
  | .ddiv f => some (0xE3, f)
  | .dsqrt f => some (0xE4, f)
  | .dcvt f => some (0xE5, f)
  | .imx f => some (0xF0, f)
  | .pol f => some (0xF1, f)
  | _ => none

/-! ### Operand forms (R32, R33) -/

/-- What a field may hold: a vector register, a scalar one, a predicate, 0xF0, 0xF1, or `any` value (a prefix's bits are checked as MOD, R50); the registers one operand takes
(2: an even vector pair, 4: b128) and how many from its number on must be declared. -/
structure Opnd where
  v : Bool := false
  s : Bool := false
  p : Bool := false
  z : Bool := false
  i : Bool := false
  any : Bool := false
  n : Nat := 1
  span : Nat := 1
  deriving DecidableEq, Repr, Inhabited

/-- A field the instruction does not use. -/
def oNone : Opnd := { z := true }
def oSrc (n : Nat) : Opnd := { v := true, s := true, z := true, i := true, n := n }
def oReg (n : Nat) : Opnd := { v := true, s := true, z := true, n := n }
def oDst (n : Nat) : Opnd := { v := true, s := true, z := true, n := n }
def oScal : Opnd := { s := true }
def oScalZ : Opnd := { s := true, z := true }
def oPred : Opnd := { p := true }

def isVec (x : BitVec 8) : Bool := decide (x.toNat < 0x80)
def isScal (x : BitVec 8) : Bool := decide (0x80 ≤ x.toNat) && decide (x.toNat < 0xC0)
def isPred (x : BitVec 8) : Bool := decide (0xC0 ≤ x.toNat) && decide (x.toNat < 0xC8)

/-- Whether a field's value is legal for an image that declares so many registers (R32, R33, R37). -/
def Opnd.ok (o : Opnd) (vregs sregs : Nat) (x : BitVec 8) : Bool :=
  let k := x.toNat
  if o.any then true
  else if isVec x then o.v && k % o.n == 0 && decide (k + max o.n o.span ≤ vregs)
  else if isScal x then o.s && (o.n != 4 || k % 2 == 0) &&
    decide (k - 0x80 + max (if o.n = 4 then 2 else 1) o.span ≤ sregs)
  else if isPred x then o.p
  else if k = 0xF0 then o.z
  else if k = 0xF1 then o.i
  else false

/-- The class of resource an instruction takes when it issues (R75, R76, R130). -/
inductive Unit_ where
  | none | ld | st | cp | tm | slot | sfq | cvq
  deriving DecidableEq, Repr, Inhabited

/-- The decode checks of one instruction. -/
structure Entry where
  subOk : Bool
  /-- Causes of the entry's own between SUB and the operands (R84), first first. -/
  extra : List Nat := []
  absent : Bool := false
  d : Opnd := oNone
  a : Opnd := oNone
  b : Opnd := oNone
  c : Opnd := oNone
  /-- The last item of R33 applies to D. -/
  scal : Bool := true
  modOk : Bool
  /-- SUB is the type i64 or n64, so that `imx` may stand before it (R48). -/
  wide : Bool := false
  takes : Unit_ := .none
  deriving DecidableEq, Repr, Inhabited

/-- MOD, COND and IMM32 of format R (R28): what the entry accepts. -/
def modR (f : Fields) (sat : Bool) (rmax : Nat) (ftz : Bool) (cond : Bool) (imm : Bool) : Bool :=
  (sat || !f.sat) && decide (f.rnd ≤ rmax) && (ftz || !f.ftz) && bitsOf f.mid.toNat 13 3 == 0 &&
  bitsOf f.mid.toNat 0 4 == 0 && (cond || f.cond == 0) && (imm || f.any1 || f.im == 0)

/-- SUB is one of the 64-bit types of R36. -/
def w64 (t : Nat) : Bool := t == 2 || t == 3
def regsOf (t : Nat) : Nat := if w64 t then 2 else 1

/-- An integer entry of R142 with so many sources. -/
def eInt (f : Fields) (tmax : Nat) (sat : Bool) (srcs : Nat) : Entry :=
  let n := regsOf f.ty
  { subOk := decide (f.ty ≤ tmax), d := oDst n, a := oSrc n, b := if 2 ≤ srcs then oSrc n else oNone, c := if 3 ≤ srcs then oSrc n else oNone, modOk := modR f sat 0 false false false, wide := w64 f.ty }

def isF (t : Nat) : Bool := t == 8 || t == 9 || t == 10

/-- A floating entry with so many sources. -/
def eFp (sub : Bool) (srcs : Nat) (modOk : Bool) : Entry :=
  { subOk := sub, d := oDst 1, a := oSrc 1, b := if 2 ≤ srcs then oSrc 1 else oNone, c := if 3 ≤ srcs then oSrc 1 else oNone, modOk := modOk }

/-- An entry of the special-function queue (R161). -/
def eSpec (f : Fields) (rmax : Nat) : Entry :=
  { eFp (isF f.ty) 1 (modR f true rmax true false false) with takes := .sfq }

def oneValue (t : Nat) : Bool := t == 0 || t == 1 || t == 2 || t == 3 || t == 8
def cvtType (t : Nat) : Bool := decide (t ≤ 10) && t != 6 && t != 7

/-- `cvt` (R158). -/
def eCvt (f : Fields) : Entry :=
  let st := f.cond
  let dt := f.ty
  { subOk := cvtType dt, d := oDst (regsOf dt), a := oReg (regsOf st), b := if oneValue st && !oneValue dt then oReg (regsOf st) else oNone, modOk := modR f true 5 true true true && cvtType st && st != dt && (if oneValue dt && !oneValue st then decide (f.im ≤ 1) else f.im == 0), wide := w64 dt, takes := .cvq }

/-- The IMM32 of `pack` and `unpack` (R159). -/
def packBits (fmt : Nat) : Nat :=
  if fmt = 0x08 then 8 else if fmt = 0x0A then 4 else if fmt = 0x0B then 2 else if fmt = 0x0C then 1
  else if 0x40 ≤ fmt && fmt ≤ 0x5F && fmt % 8 != 0 then 8 else 0
def packOk (imm : Nat) : Bool :=
  let b := packBits (imm % 256)
  let off := bitsOf imm 8 5
  b != 0 && decide (imm < 8192) && off % (4 * b) == 0 && decide (off + 4 * b ≤ 32)

def fp8Code (c : Nat) : Bool := decide (0x40 ≤ c) && decide (c ≤ 0x5F) && c % 8 != 0

/-- The fields of a cross-lane entry (R172). -/
def eLane (sub : Bool) (d a b : Opnd) (modOk : Bool) (wide : Bool := false) : Entry :=
  { subOk := sub, d := d, a := a, b := b, scal := false, modOk := modOk, wide := wide }

/-- COND and MOD of `wred` and `scan` (R175). -/
def redMod (f : Fields) (excl : Bool) : Bool :=
  let o := f.cond % 8
  (excl || decide (f.cond < 8)) && decide (o ≤ 5) &&
  (if f.ty = 8 then decide (o ≤ 2) && modR f true 4 true true false
   else (o == 0 || !f.sat) && modR f true 0 false true false)

/-- Registers of one access by size (R37). -/
def sizeRegs (sub : Nat) : Nat := if sub = 3 then 2 else if sub = 4 then 4 else 1
/-- Bytes of one access by size (R37). -/
def sizeBytes (sub : Nat) : Nat :=
  match sub with
  | 0 => 1 | 1 => 2 | 2 => 4 | 3 => 8 | 4 => 16 | 5 => 1 | _ => 2

/-- POL, SCOPE, ORD and SCALE of a load or store (R194). -/
def modM (f : Fields) (pol : Bool) (ords : List Nat) : Bool :=
  (if pol then decide (f.pol ≤ 5) else f.pol == 0) && ords.contains f.ord && decide (f.scope ≤ 5) &&
  (f.ord != 0 || f.scope == 0) && decide (f.scale ≤ 4)

def eMem (f : Fields) (subOk store : Bool) (aRegs : Nat) (pol : Bool) (ords : List Nat) : Entry :=
  let n := sizeRegs f.ty
  { subOk := subOk, d := if store then oNone else oDst n, a := oReg aRegs, b := oReg 1, c := if store then oReg n else oNone, modOk := modM f pol ords, takes := if store then .st else .ld }

/-- Bytes of an atomic's TYPE (R212). -/
def atomBytes (t : Nat) : Nat := if t = 2 || t = 3 then 8 else 4

def eAtom (f : Fields) (subOk : Bool) (ret : Bool) : Entry :=
  let n := if f.pol = 2 || f.pol = 3 then 2 else 1
  { subOk := subOk, d := if ret then oDst n else oNone, a := oReg 2, b := oReg 1, c := oReg n, modOk := decide (f.scope ≤ 5) && decide (f.scale ≤ 4) && (if ret then decide (1 ≤ f.ord) && decide (f.ord ≤ 4) else f.ord == 1 || f.ord == 3), takes := if ret then .slot else .st }

/-- An entry of format E or B. -/
def eE (subOk : Bool) (modOk : Bool) (d a b c : Opnd) : Entry :=
  { subOk := subOk, d := d, a := a, b := b, c := c, modOk := modOk }

/-- AUX16 gives a value where B is 0xF0 and is zero else. -/
def auxIfNoB (f : Fields) (ok : Bool) : Bool := if f.b = 0xF0 then ok else f.aux == 0

/-- The width in bits of a special register (R73); 0 for an unassigned number. -/
def srWidth (n : Nat) : Nat :=
  if 0x19 < n then 0
  else if n = 0x0C || n = 0x0D || n = 0x10 || n = 0x11 || n = 0x12 then 64 else 32
/-- Whether the value can differ between lanes (R73). -/
def srLane (n : Nat) : Bool := n == 0 || n == 1 || (decide (0x0E ≤ n) && decide (n ≤ 0x13))
def srWritable (n : Nat) : Bool := decide (0x0E ≤ n) && decide (n ≤ 0x11)

/-- The causes of `rdsr` and `wrsr` between the first SUB check and the operands (R84). -/
def srExtra (f : Fields) (write : Bool) : List Nat :=
  if 0x19 < f.im || (write && !srWritable f.im) then [0x014]
  else if (f.ty == 3) != (srWidth f.im == 64) then [0x006] else []

/-- `mkptr`'s B and OFF (R204). -/
def mkptrB (f : Fields) : Opnd :=
  let sp := f.im % 16
  if sp = 2 || sp = 7 || sp = 8 then { v := true, s := true } else oNone

/-- Whether a field count n of the immediate lies in a range. -/
def inRange (x lo hi : Nat) : Bool := decide (lo ≤ x) && decide (x ≤ hi)

/-- The arguments of `bop` (R421). -/
def bopB (f : Fields) : Opnd :=
  let argc := bitsOf f.aux 10 3
  if argc = 7 then {} else if argc = 0 then oNone else { v := true, s := true, span := argc }

/-- The decode checks of every instruction of the fetch lines. A short pair and the other rows have none here. -/
def entryOf : Instr → Option Entry
  | .nop f | .yield f | .exit f => some (eE (f.ty == 0) (f.aux == 0 && f.im == 0) oNone oNone oNone oNone)
  | .wait f => some (eE (f.ty == 0) (f.im == 0) oNone oNone oNone oNone)
  | .trap f => some (eE (f.ty == 0) (decide (f.aux < 16) && (f.a == 0xF1 || f.im == 0))
      oNone { s := true, i := true, z := true } oNone oNone)
  | .brk f => some (eE (f.ty == 0) (f.im == 0) oNone oNone oNone oNone)
  | .fence f => some (eE (decide (f.ty ≤ 2)) (decide (f.aux ≤ 5) && f.im == 0) oNone oNone oNone oNone)
  | .ifence f => some (eE (f.ty == 0) (f.aux == 0 && f.im == 0) oNone oNone oNone oNone)
  | .rdsr f => some { subOk := f.ty == 1 || f.ty == 3, extra := srExtra f false, d := { v := true, s := !srLane f.im, n := regsOf f.ty }, modOk := modR f false 0 false false true, wide := f.ty == 3 }
  | .wrsr f => some { subOk := f.ty == 1 || f.ty == 3, extra := srExtra f true, a := oReg (regsOf f.ty), modOk := modR f false 0 false false true, wide := f.ty == 3 }
  | .trig f => some (eE (f.ty == 0) (f.aux == 0 && f.im == 0) oNone oNone oNone oNone)
  | .post f => some { eE (f.ty == 0) (f.aux == 0 && (f.a == 0xF1 || f.im == 0)) oNone (oSrc 2) oNone oNone with takes := .st }
  | .postEnd f => some { eE (f.ty == 1) (f.aux == 0 && (f.a == 0xF1 || f.im == 0)) oNone (oSrc 2) oNone oNone with takes := .st }
  | .fresResume f => some (eE (f.ty == 0) (f.aux == 0) { p := true, z := true } oScal oNone oNone)
  | .fresKill f => some (eE (f.ty == 1) (f.aux == 0) { p := true, z := true } oScal oNone oNone)
  | .fresRebind f => some (eE (f.ty == 2) (f.aux == 0) { p := true, z := true } oScal oNone oNone)
  | .ep f => some (eE (f.ty == 0) (decide (f.aux < 256) && f.im == 0) oNone oNone oNone oNone)
  | .migL f => some (eE (f.ty == 0) (decide (f.aux < 256) && f.im == 0) oNone oNone oNone oNone)
  | .migD f => some (eE (f.ty == 1) (decide (f.aux < 256) && f.im == 0) oNone oNone oNone oNone)
  | .emu f => some (eE (f.ty == 0) (f.im == 0) oNone oNone oNone oNone)
  | .bra f => some (eE (f.ty == 0) (f.aux == 0) oNone oNone oNone oNone)
  | .brx f | .ret f => some (eE (f.ty == 0) (f.aux == 0 && f.im == 0) oNone (oReg 2) oNone oNone)
  | .call f => some (eE (f.ty == 0) (f.aux == 0) (oDst 2) oNone oNone oNone)
  | .callx f => some (eE (f.ty == 0) (f.aux == 0 && f.im == 0) (oDst 2) (oReg 2) oNone oNone)
  | .brs f => some (eE (decide (f.ty ≤ 3)) (decide (f.aux ≤ 5)) oNone oScalZ oScalZ oNone)
  | .wsync f => some (eE (f.ty == 0) (f.aux == 0 && f.im == 0) oNone oNone oNone oNone)
  | .add f | .sub f | .mul f => some (eInt f 7 true 2)
  | .mulhi f | .rot f => some (eInt f 3 false 2)
  | .mad f => some (eInt f 7 true 3)
  | .min f | .max f | .and f | .or f | .xor f | .andn f | .shl f | .shr f | .sar f => some (eInt f 7 false 2)
  | .abs f => some (eInt f 7 true 1)
  | .addsh f => some (eInt f 3 true 3)
  | .clamp f => some (eInt f 7 false 3)
  | .cmp f => some { eInt f 3 false 2 with d := oPred, modOk := modR f false 0 false (decide (f.cond ≤ 5)) false }
  | .sel f => some { eInt f 10 false 2 with c := oPred }
  | .mov f => some (eInt f 10 false 1)
  | .movi f => some { eInt f 3 true 2 with d := { v := true, n := regsOf f.ty } }
  | .popc f | .clz f => some { eInt f 3 false 1 with d := oDst 1 }
  | .brev f => some (eInt f 3 false 1)
  | .bfe f | .bfi f => some (eInt f 3 false 3)
  | .idiv f =>
    let n := if 4 ≤ f.ty then 2 else 1
    some { subOk := decide (f.ty ≤ 7), d := oDst n, a := oSrc n, b := oSrc n, modOk := modR f false 0 false false false, wide := decide (4 ≤ f.ty) && decide (f.ty ≤ 7), takes := .sfq }
  | .plog f =>
    let o : Opnd := { p := true, z := true }
    some { subOk := f.ty == 0, d := oPred, a := o, b := o, c := o, modOk := modR f false 0 false false true && decide (f.im < 256) }
  | .pmovGet f => some { subOk := f.ty == 0, d := { v := true }, modOk := modR f false 0 false false false }
  | .pmovSet f => some { subOk := f.ty == 1, a := oSrc 1, modOk := modR f false 0 false false true && decide (f.im < 128) }
  | .perm f => some { eInt f 3 false 3 with subOk := f.ty == 1, wide := false }
  | .rng f => some { subOk := f.ty == 1 || f.ty == 3, d := oDst (regsOf f.ty), modOk := modR f false 0 false false false, wide := f.ty == 3 }
  | .fadd f | .fsub f | .fmul f | .fscl f => some (eFp (isF f.ty) 2 (modR f true 5 true false false))
  | .fma f => some (eFp (isF f.ty) 3 (modR f true 5 true false false))
  | .fmin f | .fmax f | .famax f => some (eFp (isF f.ty) 2 (modR f false 0 false false false))
  | .fcmp f => some { eFp (f.ty == 8) 2 (modR f false 0 false (decide (f.cond ≤ 7)) false) with d := oPred }
  | .fsgn f => some (eFp (isF f.ty) (if f.cond = 3 || f.cond = 4 then 1 else 2)
      (modR f false 0 false (decide (f.cond ≤ 4)) false))
  | .frnd f => some (eFp (isF f.ty) 1 (modR f false 5 false false false))
  | .fclass f => some (eFp (isF f.ty) 1 (modR f false 0 false false false))
  | .fdot4 f => some { subOk := f.ty == 8, d := oDst 1, a := oReg 1, b := oReg 1, c := oReg 1, modOk := modR f true 5 true false true && fp8Code (f.im % 256) && fp8Code (f.im / 256) }
  | .cvt f => some (eCvt f)
  | .pack f => some { subOk := f.ty == 8, d := oDst 1, a := { v := true, n := 4 }, b := oReg 1, modOk := modR f true 5 false false true && packOk f.im, takes := .cvq }
  | .unpack f => some { subOk := f.ty == 8, d := { v := true, n := 4 }, a := oReg 1, modOk := modR f false 0 false false true && packOk f.im, takes := .cvq }
  | .rcp f | .sqrt f => some (eSpec f 5)
  | .rsq f | .exp2 f | .log2 f | .sin f | .cos f | .tanh f => some (eSpec f 0)
  | .act f => some { subOk := f.ty == 8, d := oDst 1, a := oReg 1, modOk := modR f true 0 true false false, takes := .sfq }
  | .shfl f =>
    let o : Opnd := { v := true, s := true, i := true }
    some (eLane (decide (f.ty ≤ 3)) { v := true } o o (modR f false 0 false false false))
  | .vote f => some (eLane (decide (f.ty ≤ 2)) { p := true, s := true } oPred oNone (modR f false 0 false false false))
  | .ballot f => some (eLane (f.ty == 0) { v := true, s := true, n := 2 } oPred oNone (modR f false 0 false false false))
  | .wred f =>
    let o : Opnd := { v := true, s := true, n := regsOf f.ty }
    some (eLane (decide (f.ty ≤ 3) || f.ty == 8) o o oNone (redMod f false) (w64 f.ty))
  | .scan f =>
    let n := regsOf f.ty
    some (eLane (decide (f.ty ≤ 3) || f.ty == 8) { v := true, n := n } { v := true, s := true, n := n } oNone (redMod f true) (w64 f.ty))
  | .matchl f => some (eLane (f.ty == 1 || f.ty == 3) { v := true, n := 2 } { v := true, n := regsOf f.ty } oNone
      (modR f false 0 false false false) (f.ty == 3))
  | .elect f => some (eLane (f.ty == 0) { p := true, s := true } oNone oNone (modR f false 0 false false false))
  | .rdlane f => some (eLane (f.ty == 1 || f.ty == 3) oScal { v := true, n := regsOf f.ty } { s := true, i := true }
      (modR f false 0 false false false) (f.ty == 3))
  | .wrlane f => some (eLane (f.ty == 1 || f.ty == 3) { v := true, n := regsOf f.ty } { s := true, i := true }
      { s := true, i := true } (modR f false 0 false false false) (f.ty == 3))
  | .ld f => some (eMem f (decide (f.ty ≤ 6)) false 2 true [0, 1, 2])
  | .st f => some (eMem f (decide (f.ty ≤ 4)) true 2 true [0, 1, 3])
  | .lds f => some (eMem f (decide (f.ty ≤ 6)) false 1 false [0, 1, 2])
  | .sts f => some (eMem f (decide (f.ty ≤ 4)) true 1 false [0, 1, 3])
  | .pf f => some { subOk := f.ty == 0, a := oReg 2, b := oReg 1, modOk := modM f true [0] }
  | .cwb f => some { subOk := f.ty == 0, a := oReg 2, b := oReg 1, takes := .st, modOk := f.pol == 0 && f.ord == 0 && f.scope == 0 && decide (f.scale ≤ 4) }
  | .cwbSync f => some { subOk := f.ty == 0, a := oReg 2, b := oReg 1, takes := .st, modOk := f.pol == 1 && f.ord == 0 && f.scope == 0 && decide (f.scale ≤ 4) }
  | .mkptr f => some { subOk := f.ty == 3, d := { v := true, s := true, n := 2 }, a := oReg 2, b := mkptrB f, modOk := f.aux == 0 && decide (f.im < 128) && decide (f.im % 16 ≤ 8) && decide (f.im / 16 ≤ 4) }
  | .ptrq f => some { subOk := f.ty == 2, d := { v := true, s := true }, a := oReg 2, b := oReg 1, modOk := modM f false [0] }
  | .atom f => some (eAtom f (decide (f.ty ≤ 8) && decide (f.pol ≤ 3) && (decide (f.ty ≤ 6) || f.pol == 0 || f.pol == 2)) true)
  | .cas f | .amxr f => some (eAtom f (f.ty == 0 && decide (f.pol ≤ 6)) true)
  | .redm f => some (eAtom f (decide (f.ty ≤ 8) && f.ty != 6 && decide (f.pol ≤ 3) &&
      (decide (f.ty ≤ 5) || f.pol == 0 || f.pol == 2)) false)
  | .fatom f => some (eAtom f (decide (f.ty ≤ 4) && inRange f.pol 4 6) true)
  | .fredm f => some (eAtom f (decide (f.ty ≤ 4) && f.ty != 3 && inRange f.pol 4 6) false)
  | .binit f => some (eE (f.ty == 0) (auxIfNoB f true) oNone oScal oScalZ oNone)
  | .barrive f => some (eE (f.ty == 0) (auxIfNoB f true) oNone oScal (oReg 1) oNone)
  | .bwait f => some (eE (f.ty == 0) (f.aux == 0) oPred oScal (oReg 1) oScalZ)
  | .bexpect f => some (eE (f.ty == 0) (auxIfNoB f true) oNone oScal oScalZ oNone)
  | .bexpectArrive f => some (eE (f.ty == 1) (auxIfNoB f true) oNone oScal oScalZ oNone)
  | .btest f => some (eE (decide (f.ty ≤ 2)) (f.aux == 0) { v := true, s := true, n := 2 } oScal oNone oNone)
  | .nbarSync f => some (eE (f.ty == 0) (decide (f.aux < 16) && (if f.a = 0xF0 then inRange f.im 1 3072 else f.im == 0))
      oNone oScalZ oNone oNone)
  | .nbarArrive f => some (eE (f.ty == 1) (decide (f.aux < 16) && (if f.a = 0xF0 then inRange f.im 1 3072 else f.im == 0))
      oNone oScalZ oNone oNone)
  | .qinit f => some (eE (f.ty == 0) (decide (f.aux < 1024) && bitsOf f.im 4 12 == 0 && decide (f.im < 2 ^ 25))
      oNone oScal oNone oNone)
  | .qpush f =>
    let t := f.ty == 1
    some { eE (decide (f.ty ≤ 1)) (decide (f.aux < 1024) && (f.a == 0xF1 || f.im == 0)) oNone { v := true, s := true, i := true } (if t then oPred else oNone) (if t then oScalZ else oNone) with scal := false }
  | .qpop f =>
    let t := f.ty == 1
    some { eE (decide (f.ty ≤ 1)) (decide (f.aux < 1024) && f.im == 0) { v := true, s := true } oNone (if t then oPred else oNone) (if t then oScalZ else oNone) with scal := isVec f.a || isVec f.b || isVec f.c }
  | .xswap f => some (eE (f.ty == 0) (f.aux == 0 && f.im == 0) oNone oNone oNone oNone)
  | .kick f => some { eE (f.ty == 0) (auxIfNoB f (inRange f.aux 1 256)) oNone oScal oScalZ oNone with takes := .cp }
  | .tdef f => some { eE (decide (f.ty ≤ 1)) (f.aux == 0 && f.im == 0) oScal oScal oScal (if f.ty = 1 then oPred else oNone) with scal := isVec f.a || isVec f.b || isVec f.c }
  | .tstat f => some (eE (decide (f.ty ≤ 1)) (f.aux == 0 && f.im == 0) { v := true, s := true, n := 2 } oScal oNone oNone)
  | .trel f => some (eE (f.ty == 0) (f.aux == 0 && f.im == 0) oNone oScal oNone oNone)
  | .tld f => some { eE (f.ty == 2 || f.ty == 3) (f.aux == 0) { v := true, n := if f.ty = 3 then 2 else 1 } oScal (oReg 1) oNone with takes := .tm }
  | .tstr f => some { eE (f.ty == 2 || f.ty == 3) (f.aux == 0) oNone oScal (oReg 1) { v := true, s := true, n := if f.ty = 3 then 2 else 1 } with takes := .tm }
  | .atab f => some (eE (f.ty == 0) (f.aux == 0) oNone oScalZ oNone oNone)
  | .mres f => some (eE (decide (f.ty ≤ 1)) (f.aux == 0 && f.im == 0) (if f.ty = 1 then oPred else oNone) oNone oNone oNone)
  | .mrel f | .mfence f => some (eE (f.ty == 0) (f.aux == 0 && f.im == 0) oNone oNone oNone oNone)
  | .mgo f => some { eE (f.ty == 0) (f.aux == 0) oNone oScal oNone oNone with takes := .tm }
  | .mwait f => some (eE (f.ty == 0) (decide (f.aux < 64) && f.im == 0) oNone oNone oNone oNone)
  | .pgq f => some (eE (f.ty == 0) (f.aux == 0) { v := true, s := true, n := 2 } { v := true, s := true, n := 2 } oNone oNone)
  | .pgadv f => some (eE (decide (f.ty ≤ 2)) (auxIfNoB f (inRange f.aux 1 256)) oNone oScal oScalZ oNone)
  | .bop f => some (eE (f.ty == 0) (decide (f.aux < 8192)) oNone { v := true, s := true, n := 2 } (bopB f) oNone)
  | .tcommit f | .tabort f | .uret f => some (eE (f.ty == 0) (f.aux == 0 && f.im == 0) oNone oNone oNone oNone)
  | .tspawn f => some (eE (f.ty == 0) (f.aux == 0 && f.im == 0) oNone (oReg 2) oNone oNone)
  | .ctload f => some (eE (f.ty == 0) (f.aux == 0) oNone oScal oNone oNone)
  | .cbind f => some (eE (f.ty == 0) (auxIfNoB f (inRange f.aux 1 255)) oNone oScal oScalZ oNone)
  | .cbuild f => some (eE (f.ty == 0) (inRange f.aux 1 255) oNone oScal oScal oNone)
  | .imx f => some { subOk := true, d := { any := true }, a := { any := true }, b := { any := true }, c := { any := true }, scal := false, modOk := f.g == 7 && f.sub == 0 && f.d == 0 && f.a == 0 && f.b == 0 && f.c == 0 && f.mid == 0 }
  | .pol f => some { subOk := true, d := { any := true }, a := { any := true }, b := { any := true }, c := { any := true }, scal := false, modOk := f.g == 7 && f.sub == 0 && f.d == 0 && f.a == 0 && f.b == 0 && f.c == 0 && f.scale == 0 && f.im == 0 && decide (f.pol ≤ 5) && decide (f.scope ≤ 5) && decide (f.ord ≤ 4) }
  | .dadd _ | .dmul _ | .dfma _ | .ddiv _ | .dsqrt _ | .dcvt _ => some { subOk := true, absent := true, modOk := true }
  | _ => none

/-- The first decode cause of a full instruction, if any (R44). R33's last item stands with D, and any of A, B and C counts as a
vector source for it, also one that the instruction does not use: the spec leaves both open (DESIGN CHOICE, log 22). -/
def checkFields (e : Entry) (f : Fields) (vregs sregs : Nat) : Option Nat :=
  if e.absent then some 0x001
  else if !e.subOk then some 0x006
  else match e.extra with
  | c :: _ => some c
  | [] =>
    let vecSrc := isVec f.a || isVec f.b || isVec f.c || isPred f.a || isPred f.b || isPred f.c
    if !e.d.ok vregs sregs f.d || (e.scal && isScal f.d && vecSrc) then some 0x002
    else if !e.a.ok vregs sregs f.a then some 0x003
    else if !e.b.ok vregs sregs f.b then some 0x004
    else if !e.c.ok vregs sregs f.c then some 0x005
    else if !e.modOk then some 0x007
    else none

/-! ### Short pairs (R38 to R43) -/

/-- Source fields a short operation reads: 1 to 3. -/
def sopSrcs (sop : Nat) : Nat :=
  match sop with
  | 0x03 | 0x0F | 0x13 => 3
  | 0x0C | 0x0D | 0x0E | 0x18 | 0x19 | 0x1B => 1
  | _ => 2

def sopClassX (sop : Nat) : Bool := decide (0x18 ≤ sop)

/-- The checks of one short operation (R40, R44). -/
def checkShort (o : ShortOp) (vregs : Nat) : Option Nat :=
  let sop := o.sop.toNat
  let t := o.type.toNat
  let n := sopSrcs sop
  if 0x1B < sop then some 0x000
  else if !(if sopClassX sop then t == 0 else if 0x10 ≤ sop then inRange t 2 4 else decide (t ≤ 1)) then some 0x006
  else if vregs ≤ o.d.toNat then some 0x002
  else if vregs ≤ o.a.toNat then some 0x003
  else if (if 2 ≤ n then decide (vregs ≤ o.b.toNat) else o.b != 0) then some 0x004
  else if (if 3 ≤ n then decide (vregs ≤ o.c.toNat) else o.c != 0) then some 0x005
  else if o.zero != 0 then some 0x007
  else none

/-- The distinct source registers of a short operation. -/
def sopReads (o : ShortOp) : List Nat :=
  ([o.a.toNat, o.b.toNat, o.c.toNat].take (sopSrcs o.sop.toNat)).eraseDups

/-- The pairing rules (R42). -/
def checkPairing (p q : ShortOp) : Option Nat :=
  let d := p.d.toNat
  let e := q.d.toNat
  let srcs := (sopReads p ++ sopReads q).eraseDups
  if d % 4 = e % 4 then some 0x008
  else if (sopReads p).contains e || (sopReads q).contains d then some 0x009
  else if decide (5 < srcs.length) || (List.range 4).any fun b => decide (2 < (srcs.filter fun r => r % 4 == b).length)
    then some 0x00A
  else if sopClassX p.sop.toNat && sopClassX q.sop.toNat then some 0x00B
  else none

/-- The first decode cause of a pair, and whether the second operation has it (R44). -/
def checkPair (p q : ShortOp) (vregs : Nat) : Option (Nat × Bool) :=
  match checkShort p vregs with
  | some c => some (c, false)
  | none => match checkShort q vregs with
    | some c => some (c, true)
    | none => (checkPairing p q).map fun c => (c, false)

/-- Whether an instruction may follow `imx` (R48): format R or E with a 64-bit SUB type and a field, be it D, at 0xF1. A field
that may not be the immediate raises the target's own cause as it issues. -/
def imxTarget (i : Instr) : Bool :=
  match entryOf i, fieldsOf i with
  | some e, some (_, f) => e.wide && (f.any1 || f.d == 0xF1)
  | _, _ => false

/-- Whether an instruction may follow `pol` (R49, R195). -/
def polTarget (i : Instr) : Bool :=
  match fieldsOf i with
  | some (op, _) => inRange op 0x70 0x73 || inRange op 0x80 0x85
  | none => false

/-- Registers an instruction reads or writes, by field: the field and how many registers (R76, R77, R132). -/
def usesOf (i : Instr) : List (BitVec 8 × Nat) :=
  match i with
  | .shortPair p q => ([p.d, p.a, p.b, p.c, q.d, q.a, q.b, q.c].map fun r => (r.zeroExtend 8, 1))
  | _ => match entryOf i, fieldsOf i with
    | some e, some (_, f) =>
      let use (o : Opnd) (x : BitVec 8) : Nat := max (if o.n = 4 && isScal x then 2 else if isScal x then 1 else o.n) o.span
      [(f.d, use e.d f.d), (f.a, use e.a f.a), (f.b, use e.b f.b), (f.c, use e.c f.c)]
    | _, _ => []

end Sys2Proof.Machine
end

