-- ==== Sys2Proof/Machine/Ops.lean ====
section
/-!
DEFINITION. The shared operations of issue: registers, taking a fault and returning from one, hazards, and the frame
of every instruction of a fetch line (02, 03, 17).
-/
namespace Sys2Proof.Machine
open Sys2Proof

/-- What a step answers. -/
abbrev Out := Host.Outcome State Fault Refusal

/-! ### Registers (R32, R138, R165) -/

/-- A predicate; p7 reads true (R165). -/
def Thread.pred (t : Thread) (i : Nat) : Bool := i == 7 || t.p.getLsbD i

def Thread.vreg (t : Thread) (r : Nat) : W32 := t.v.getD r 0
def Warp.sreg (w : Warp) (r : Nat) : W64 := w.s.getD r 0

/-- What a field reads in a lane (R32, R138): 32 bits, or 64 where `wide`. -/
def readReg (w : Warp) (x : BitVec 8) (imm : Nat) (wide : Bool) (l : Nat) : Nat :=
  let k := x.toNat
  if isVec x then
    let t := w.thread l
    if wide then (t.vreg k).toNat + 2 ^ 32 * (t.vreg (k + 1)).toNat else (t.vreg k).toNat
  else if isScal x then
    let v := (w.sreg (k - 0x80)).toNat
    if wide then v else v % 2 ^ 32
  else if isPred x then bitOf ((w.thread l).pred (k - 0xC0))
  else if k = 0xF1 then (if wide then imm else imm % 2 ^ 32)
  else 0

/-- A predicate field's value in a lane; 0xF0 reads false (R166). -/
def readPred (w : Warp) (x : BitVec 8) (l : Nat) : Bool := isPred x && (w.thread l).pred (x.toNat - 0xC0)

/-- The register writes that put a value into a destination field in a lane (R32, R138, R165). -/
def destWrites (x : BitVec 8) (wide : Bool) (l : Nat) (val : Nat) : List RegWrite :=
  let k := x.toNat
  let v : W64 := BitVec.ofNat 64 val
  if isVec x then
    ⟨.v l k, v &&& 0xFFFFFFFF⟩ :: (if wide then [⟨.v l (k + 1), v >>> 32⟩] else [])
  else if isScal x then [⟨.s (k - 0x80), if wide then v else v &&& 0xFFFFFFFF⟩]
  else if isPred x then [⟨.p l (k - 0xC0), v⟩]
  else []

/-- One register written; a write to p7 is discarded (R165). -/
def Warp.put (w : Warp) (r : RegWrite) : Warp :=
  match r.ref with
  | .v l k => w.setThread l fun t => { t with v := listAt t.v k fun _ => r.val.truncate 32 }
  | .s k => { w with s := listAt w.s k fun _ => r.val }
  | .p l k => if k = 7 then w else w.setThread l fun t =>
      { t with p := if r.val.getLsbD 0 then t.p ||| BitVec.ofNat 8 (2 ^ k) else t.p &&& ~~~BitVec.ofNat 8 (2 ^ k) }

/-- The registers of n words in a field's place, as a lane's results name them. -/
def Load.names (x : Load) (r : RegRef) : Bool :=
  let n := (x.size + 3) / 4
  let in_ (k j m : Nat) : Bool := decide (k ≤ j) && decide (j < k + m)
  match r with
  | .v l j => isVec x.dst && in_ x.dst.toNat j n && x.lanes.any fun y => y.lane == l && !y.done
  | .s j => isScal x.dst && in_ (x.dst.toNat - 0x80) j ((n + 1) / 2) && x.lanes.any fun y => !y.done
  | .p _ _ => false

/-- Registers written by an instruction that issued before operation `limit`, or by one that issued last of all: the pending
loads older than it whose destinations it wrote (R197). -/
def Warp.overwrites (w : Warp) (limit : Option Nat) (rs : List RegWrite) : List (Nat × RegRef) :=
  w.loads.flatMap fun x => if limit.all fun n => x.id < n then (rs.filter fun r => x.names r.ref).map fun r => (x.id, r.ref) else []

/-- Registers written by an operation of a number, or by the instruction that issues. -/
def Warp.putFrom (w : Warp) (limit : Option Nat) (rs : List RegWrite) : Warp :=
  { rs.foldl Warp.put w with overs := w.overs ++ w.overwrites limit rs }

def Warp.putAll (w : Warp) (rs : List RegWrite) : Warp := w.putFrom none rs

/-! ### Reading a context's memory as the machine's own agents do: at the home -/

/-- Where a space 0 address of a context lies, if its page is in T0 (R316 to R320). -/
def State.ctxLoc (s : State) (ctx va : Nat) : Option Nat :=
  match s.walk ctx va with
  | .leaf level _ e =>
    if leafTier e = 0 && leafWin e == (s.context ctx).win then some (s.homeLoc (s.pageLoc ctx level e va)) else none
  | _ => none

def State.ctxByte (s : State) (ctx va : Nat) : Option Byte := (s.ctxLoc ctx va).map (memGet s.mem)

/-- `n` bytes, little-endian. -/
def State.ctxRead (s : State) (ctx va : Nat) : Nat → Option Nat
  | 0 => some 0
  | n + 1 => match s.ctxByte ctx va, s.ctxRead ctx (va + 1) n with
    | some b, some r => some (b.toNat + 256 * r)
    | _, _ => none

/-! ### Fault records (R462 to R464) -/

/-- The address of the slot that an equivalence point names in the other image of the warp's kernel (R385, R397). -/
def twinPc (s : State) (w : Warp) (ep : W32) : W64 :=
  let none_ : W64 := 0x01FFFFFFFFFFFFFF
  match s.regionOf? w.ctx w.region with
  | none => none_
  | some r =>
    let other := !w.onL
    if ep = 0xFFFFFFFF || (if other then !r.hasL else !r.hasD) then none_
    else match s.ctxRead w.ctx (r.kobj + r.epOff + 16 * ep.toNat + (if other then 4 else 0)) 4 with
      | some o => BitVec.ofNat 64 (r.imageBase other + o) &&& none_
      | none => none_

/-- `%region` (R434). -/
def regionId (rcb : Nat) : Nat := rcb / 256 % 2 ^ 32

/-- The resolutions that a record accepts (R464). -/
def allowOf (cause : Nat) : Nat :=
  if cause = 0x143 || cause = 0x144 || cause = 0x063 then 0
  else if 0x080 ≤ cause && cause ≤ 0x0FF && 9 ≤ cause % 16 && cause % 16 ≤ 14 then 7
  else 3

/-- Words 0 to 7 of a record that names a warp (R462). -/
def recWords (s : State) (w : Warp) (cause : Nat) (defer engine : Bool) (allow batch : Nat) (pc : W64)
    (ep : W32) (since : Nat) (mask addr detail : W64) : List W64 :=
  [BitVec.ofNat 64 (cause + bitOf defer * 2 ^ 9 + bitOf (allow != 0) * 2 ^ 10 + bitOf w.onL * 2 ^ 11 +
      bitOf engine * 2 ^ 12 + allow * 2 ^ 14 + w.ctx * 2 ^ 17 + regionId w.region * 2 ^ 32),
   BitVec.ofNat 64 (((s.block? w.block).map (·.index)).getD 0 + ep.toNat * 2 ^ 32),
   BitVec.ofNat 64 (since + batch * 2 ^ 32 + coreNum w.core * 2 ^ 48 + w.slot * 2 ^ 57),
   pc &&& 0x01FFFFFFFFFFFFFF, twinPc s w ep, mask, addr, detail]

/-- The words of a record of a fault in undo mode: BOOST_UNDO_FAULT, the original cause in the detail (R418, R464). -/
def asUndo (ws : List W64) : List W64 :=
  let w0 := (ws.getD 0 0).toNat
  BitVec.ofNat 64 (putBits (putBits (putBits w0 0 9 0x144) 10 1 0) 14 3 0) :: (ws.drop 1).take 6 ++ [BitVec.ofNat 64 (bitsOf w0 0 9)]

/-- A record raised, behind those raised before it; `who` is the warp that it names where its resolution acts on none. -/
def State.raise (s : State) (ctx region : Nat) (words : List W64) (acts : Resolves) (toService toDebug : Bool)
    (who : Option Nat := none) : State :=
  { s with
    recCt := s.recCt + 1
    recs := s.recs ++ [{ id := s.recCt, ctx := ctx, region := region, words := words, acts := acts, tick := s.tick
                         toService := toService, toDebug := toDebug, who := who }] }

/-! ### Issue -/

/-- One bundle's issue of an instruction: the warp before it, the lanes of the bundle, B, and the PCs. -/
structure Iss where
  w     : Warp
  pc    : W64
  all   : List Nat
  lanes : List Nat
  nxt   : W64
  pfx   : Option Pfx
  deriving Repr

/-- pc_cur: the prefix's where the unit has one (R51). -/
def Iss.pcCur (i : Iss) : W64 := match i.pfx with
  | some p => p.pc
  | none => i.pc

/-- A fault that an instruction takes: cause, lanes, address, detail; which half of a pair; the pages of a reason 0
fault that snare mode gathers (R338); the level of a malformed entry (R319); whether the debugger takes it (R475); the port and the entry of its codec error
log (R374). -/
structure Trap where
  cause  : Nat
  lanes  : List Nat
  addr   : W64 := 0
  detail : W64 := 0
  half   : Bool := false
  pages  : Option (List Nat) := none
  level  : Option Nat := none
  debug  : Bool := false
  log    : Option (Nat × ErrEnt) := none
  deriving Repr

/-- What an instruction does in one bundle: it is done and its bundle goes on; its lanes go to PCs of their own (the
others of the bundle to the next instruction); it takes a fault; or it holds the warp where it is. -/
inductive Eff where
  | done (s : State)
  | jump (s : State) (pcs : List (Nat × W64))
  | trap (t : Trap)
  | hold (s : State)

/-- Numbers that count an issue: ages, since-EP, bundle sizes, credit (R60, R72, R394). -/
def Warp.countIssue (w : Warp) (bundle : List Nat) : Warp :=
  let sz := w.sizes ++ [bundle.length]
  { w with
    since := min (w.since + 1) 0xFFFFFFFF
    issues := w.issues + 1
    sorted := w.sorted + 1
    sizes := if 256 < sz.length then sz.drop (sz.length - 256) else sz
    credit := w.credit - 1
    yielded := false
    pfx := none
    trapsOff := w.trapsOff.filter fun l => !bundle.contains l
    threads := (List.range w.threads.length).zipWith
      (fun l t => if bundle.contains l then
          { t with age := 0, unchecked := false, task := { t.task with live := t.task.live || t.task.fresh, fresh := false } }
        else { t with age := t.age + 1 }) w.threads }

/-- The lowest PC of some lanes. -/
def Warp.lowestPc (w : Warp) (ls : List Nat) : Option Nat :=
  ls.foldl (fun m l => match m with
    | none => some (w.thread l).pc.toNat
    | some p => some (min p (w.thread l).pc.toNat)) none

/-- New PCs for the lanes of a bundle, and the bundle that stays together (R63). -/
def Warp.advance (w : Warp) (pcs : List (Nat × W64)) : Warp :=
  let w := pcs.foldl (fun w p => w.setThread p.1 fun t => { t with pc := p.2, ran := none }) w
  let ready := w.bundle.filter fun l => (w.thread l).mayIssue
  match w.lowestPc ready with
  | none => { w with bundle := [] }
  | some p => { w with bundle := ready.filter fun l => (w.thread l).pc.toNat == p }

/-- The lanes of the bundle whose half-group has not executed its instruction yet, and where the others go on (R66, R179). -/
def Warp.unran (w : Warp) : List Nat := w.bundle.filter fun l => (w.thread l).ran.isNone
def Warp.ranPcs (w : Warp) : List (Nat × W64) := w.bundle.filterMap fun l => (w.thread l).ran.map fun p => (l, p)

/-- Lanes that have executed the bundle's instruction before others of it: a READY one stays with the bundle, so that its group does
not split (R66). -/
def Warp.markRan (w : Warp) (pcs : List (Nat × W64)) : Warp :=
  let w := pcs.foldl (fun w p => w.setThread p.1 fun t => if t.mayIssue then { t with ran := some p.2 } else { t with pc := p.2, ran := none }) w
  { w with bundle := w.bundle.filter fun l => (w.thread l).mayIssue }

/-- Lanes of the bundle go on from its instruction: with the others that have executed it, once no half-group is left to (R66, R179). -/
def Warp.pass (w : Warp) (pcs : List (Nat × W64)) : Warp :=
  let mine (l : Nat) : Bool := pcs.any fun p => p.1 == l
  if w.unran.any fun l => (w.thread l).mayIssue && !mine l then w.markRan pcs
  else w.advance ((w.ranPcs.filter fun p => !mine p.1) ++ pcs)

/-- One thread leaves its waiting instruction: READY at the next one (R60). -/
def Thread.wake (t : Thread) : Thread := { t with st := .ready, wait := .nothing, pc := nextPc t.pc }

/-- The state with a warp changed. -/
def State.withWarp (s : State) (key : Nat) (g : Warp → Warp) : State :=
  match s.warp? key with
  | some w => s.setWarp (g w)
  | none => s

/-- The number of slots of the faulting unit (R51). -/
def Iss.slots (i : Iss) : Nat := if i.pfx.isSome then 2 else 1

/-- What RESUME and KILL of a precise record act on (R469). -/
def resolvesOf (i : Iss) (t : Trap) : Resolves :=
  let m := maskOf t.lanes
  if (0x080 ≤ t.cause && t.cause ≤ 0x0FF) || t.cause = 0x013 then .replay i.w.key m
  else if 0x040 ≤ t.cause && t.cause ≤ 0x044 then .fp i.w.key m i.all
  else .after i.w.key m i.all i.slots

/-- Whether a fault of these lanes is a fault of a task in undo mode (R418). -/
def inUndo (w : Warp) (ls : List Nat) : Bool := ls.any fun l => (w.thread l).task.undoMode

/-- TAKING A FAULT (R456, R462): the faulting instruction has no effect, its warp stops, and a record is raised; a
reason 0 fault enters snare mode instead, before any record (R338). -/
def takeTrap (s : State) (i : Iss) (t : Trap) : State :=
  let w := i.w
  let back : List (Nat × W64) := match i.pfx with
    | some p => (union i.all (w.ranPcs.map (·.1))).map fun l => (l, p.pc)
    | none => []
  let w' : Warp := { (w.setLanes (back.map (·.1)) fun _ th => { th with pc := i.pcCur }) with pfx := none, hold := .free }
  match t.pages with
  | some pages =>
    s.setWarp { w' with snare := some { running := false, cause := t.cause, mask := maskOf t.lanes, addr := t.addr,
                                        pages := pages, lanes := i.all } }
  | none =>
    let undo := inUndo w t.lanes
    let (entry, s) := match t.log with
      | some (k, e) => ((s.port k).errlog.length + 1, s.setPort k { s.port k with errlog := (s.port k).errlog ++ [e] })
      | none => (0, s)
    let nested := t.cause == 0x143
    let cause := if undo && !nested then 0x144 else t.cause
    let detail : W64 := if undo && !nested then BitVec.ofNat 64 t.cause else match t.level with
      | some l => BitVec.ofNat 64 (2 ^ 63 + l)
      | none => t.detail
    let pc := if t.half then i.pcCur ||| 4 else i.pcCur
    let words := recWords s w cause false false (allowOf cause) entry pc w.ep w.since (maskOf t.lanes) t.addr detail
    let s' := s.raise w.ctx w.region words (resolvesOf i t) (t.level.isSome && !undo) (t.debug && !undo)
    s'.setWarp { w' with stopped := w.stopped ++ [s.recCt] }

/-! ### Hazards (R71, R75, R76, R77, R132, R133) -/

/-- Numbers for registers in hazard checks: vector r is r, scalar r is 128 + r, predicate r is 192 + r. -/
def regsAt (x : BitVec 8) (n : Nat) : List Nat :=
  if x.toNat < 0xC8 then (List.range n).map fun j => x.toNat + j else []

/-- The registers that a result of n 32-bit words fills in a destination field (R32, R37): a scalar register holds two. -/
def wordRegs (x : BitVec 8) (n : Nat) : List Nat := regsAt x (if isScal x then (n + 1) / 2 else n)

def refNum : RegRef → Nat
  | .v _ r => r
  | .s r => 128 + r
  | .p _ r => 192 + r

/-- Registers that a queue entry, a scoreboard slot, and on an L-core a load or a tld will write. -/
def Warp.pendingRegs (w : Warp) : List Nat :=
  (w.queue.flatMap fun q => q.writes.map fun r => refNum r.ref) ++
  (w.sb.flatMap fun b => wordRegs b.2.1 (if b.2.2 then 2 else 1)) ++
  (if w.onL then
    (w.loads.flatMap fun l => wordRegs l.dst (sizeRegs (if l.size = 8 then 3 else if l.size = 16 then 4 else 0))) ++
    (w.tileOps.flatMap fun t => t.writes.flatMap fun x => wordRegs x.2.1 (if x.2.2.2 = 8 then 2 else 1))
   else [])

/-- The declared vector registers of the image the warp runs (R383). -/
def State.vregsOf (s : State) (w : Warp) : Nat := ((s.regionOf? w.ctx w.region).map fun r => r.vregs w.onL).getD 0
def State.sregsOf (s : State) (w : Warp) : Nat := ((s.regionOf? w.ctx w.region).map (·.sregs)).getD 0

/-- The registers an instruction touches, `emu`'s link included (R55). -/
def touches (s : State) (w : Warp) (i : Instr) : List Nat :=
  (usesOf i).flatMap (fun u => regsAt u.1 u.2) ++
  (match i with
   | .emu _ => [s.vregsOf w - 2, s.vregsOf w - 1]
   | _ => [])

/-- Entries of a queue that a warp, or all warps of its core, hold (R130). -/
def Warp.queued (w : Warp) (q : Nat) : Nat := (w.queue.filter fun e => e.queue == q).length
def State.coreQueued (s : State) (core q : Nat) : Nat :=
  ((s.warps.filter fun w => w.core == core).map fun w => w.queued q).sum

/-- Whether the resource an instruction takes has no room. -/
def noRoom (s : State) (w : Warp) (u : Unit_) : Bool :=
  match u with
  | .none => false
  | .ld => decide (63 ≤ w.ld)
  | .st => decide (63 ≤ w.st)
  | .cp => decide (63 ≤ w.cp)
  | .tm => decide (63 ≤ w.tm)
  | .slot => decide (8 ≤ w.sb.length)
  | .sfq => decide ((if w.onL then 8 else 16) ≤ w.queued 0) || decide ((if w.onL then 16 else 64) ≤ s.coreQueued w.core 0)
  | .cvq => decide (8 ≤ w.queued 1) || decide ((if w.onL then 16 else 32) ≤ s.coreQueued w.core 1)

/-- What an instruction takes when it issues. -/
def takesOf (i : Instr) : Unit_ :=
  match i with
  | .shortPair p q => if sopClassX p.sop.toNat || sopClassX q.sop.toNat then .cvq else .none
  | _ => ((entryOf i).map (·.takes)).getD .none

/-- Whether the warp stalls at an instruction. -/
def stalled (s : State) (w : Warp) (i : Instr) : Bool :=
  let p := w.pendingRegs
  (touches s w i).any p.contains || noRoom s w (takesOf i)

/-! ### Guards (R26) -/

def guardTrue (w : Warp) (g : BitVec 4) (l : Nat) : Bool :=
  (w.thread l).pred (g &&& 7).toNat != g.getLsbD 3

/-- The lanes of a bundle in which a full instruction's guard is true. -/
def guarded (w : Warp) (g : BitVec 4) (ls : List Nat) : List Nat := ls.filter (guardTrue w g)

/-- Whether an instruction executes half-group by half-group (R179). -/
def Warp.splits (w : Warp) (split : Bool) : Bool := split && w.lw && decide (16 < w.width)

/-- The bundles that an instruction executes in: half-groups in legacy mode where `split` (R179). -/
def subBundles (w : Warp) (split : Bool) (ls : List Nat) : List (List Nat) :=
  if w.splits split then
    ((List.range 4).map fun h => ls.filter fun l => l / 16 == h).filter fun b => !b.isEmpty
  else [ls]

/-- The issue of one bundle of a warp. -/
def issOf (w : Warp) (g : BitVec 4) (ls : List Nat) : Iss :=
  let pc := (w.thread (ls.headD 0)).pc
  { w := w, pc := pc, all := ls, lanes := guarded w g ls, nxt := nextPc pc, pfx := w.pfx }

/-- What an instruction does in a bundle in which its guard is false in every lane: the registers it writes all the
same, by the numbers of the hazard checks, and its effect (R79, R168). -/
structure Blank where
  writes : List Nat := []
  eff    : Iss → State → State := fun _ s => s

/-- The half-groups of an issue that have executed wait for the others, which stay at the instruction, with its prefix (R51, R66,
R179). -/
def State.leave (s : State) (key : Nat) (pfx : Option Pfx) (pcs : List (Nat × W64)) : State :=
  if pcs.isEmpty then s else s.withWarp key fun w => { w.markRan pcs with pfx := pfx }

/-- Lanes of a bundle behind its effect, where other half-groups are still to execute: those that do not stay READY have their PCs at once,
since a later half-group may wake them (R179, R229). -/
def State.setGone (s : State) (key : Nat) (pcs : List (Nat × W64)) : State × List (Nat × W64) :=
  match s.warp? key with
  | none => (s, pcs)
  | some w =>
    let stays (p : Nat × W64) : Bool := (w.thread p.1).mayIssue
    (s.setWarp ((pcs.filter fun p => !stays p).foldl (fun w p => w.setThread p.1 fun t => { t with pc := p.2 }) w), pcs.filter stays)

/-- The bundles of one issue in order: states so far and the PCs they leave. A stall, a fault or a hold of one ends it: each
bundle is an issue of its own and meets the hazards as the ones before it leave them (R71, R179). -/
def runBundles (key : Nat) (pfx : Option Pfx) (g : BitVec 4) (stall : State → Warp → Bool) (body : Iss → State → Eff)
    (blank : Blank) : List (List Nat) → State → List (Nat × W64) → State
  | [], s, pcs => s.withWarp key fun w => w.advance pcs
  | b :: r, s, pcs =>
    match s.warp? key with
    | none => s
    | some w =>
      let i := { issOf w g b with pfx := pfx }
      let nxt := b.map fun l => (l, i.nxt)
      let s1 := s.withWarp key fun w => w.countIssue b
      if (if i.lanes.isEmpty then blank.writes.any w.pendingRegs.contains else stall s w) then s.leave key pfx pcs
      else if i.lanes.isEmpty then runBundles key pfx g stall body blank r (blank.eff i s1) (pcs ++ nxt)
      else match body i s1 with
        | .done t => runBundles key pfx g stall body blank r t (pcs ++ nxt)
        | .jump t q =>
          let next := nxt.map fun p => (p.1, kvGet q p.1 p.2)
          if r.isEmpty then runBundles key pfx g stall body blank r t (pcs ++ next)
          else
            let (t, stay) := t.setGone key next
            runBundles key pfx g stall body blank r t (pcs ++ stay)
        | .trap t => takeTrap s { i with w := if pcs.isEmpty then w else w.markRan pcs } t
        | .hold t => t.leave key (if (t.warp? key).any fun x => x.issues == w.issues then pfx else none) pcs

/-- THE FRAME OF EVERY FULL INSTRUCTION: guard and decode checks (R44, R45, R79), hazards, the effect, the advance. The decode checks
are made once for the bundle, and in legacy mode too one record holds the guarded lanes of every half-group that has not executed the
instruction (DESIGN CHOICE, log 22: R179 has the half-groups execute separately and does not say whether a decode fault is one). -/
def issueSplit (i : Instr) (s : State) (split : Bool) (blank : Blank) (body : Iss → State → Eff) : Out :=
  match s.warp? s.cur, fieldsOf i, entryOf i with
  | some w, some (_, f), some e =>
    if w.bundle.isEmpty then .fault .noIssuer
    else
      let ls := if w.splits split then w.unran else w.bundle
      let all := guarded w f.g ls
      match (if all.isEmpty then none else checkFields e f (s.vregsOf w) (s.sregsOf w)) with
      | some c => .next (takeTrap s (issOf w f.g w.bundle) { cause := c, lanes := all })
      | none => .next (runBundles w.key w.pfx f.g (fun s w => stalled s w i) body blank (subBundles w split ls) s
          (if w.splits split then w.ranPcs else []))
  | _, _, _ => .fault .noIssuer

/-- An instruction without an effect under an all-false guard, in the whole bundle. -/
def issue (i : Instr) (s : State) (body : Iss → State → Eff) : Out := issueSplit i s false {} body

/-- Whether every register operand is scalar, zero or immediate (R34). -/
def allScalar (f : Fields) : Bool :=
  let ok (x : BitVec 8) : Bool := !isVec x && !isPred x
  ok f.d && ok f.a && ok f.b && ok f.c

/-- The state with the issue's warp as it was before the issue was counted: a hold that changes nothing of it. -/
def Iss.back (i : Iss) (s : State) : State := s.setWarp i.w

/-- The lowest lane of B. -/
def Iss.low (i : Iss) : Nat := i.lanes.headD 0

/-- An immediate operand's 64-bit value (R35): IMM64 after `imx`, else IMM32 sign- or zero-extended. -/
def immVal (pfx : Option Pfx) (f : Fields) (sgn : Bool) : Nat :=
  match pfx with
  | some p => if p.isImx then p.hi.toNat * 2 ^ 32 + f.im else if sgn then wrapNat 64 (signedOf 32 f.im) else f.im
  | none => if sgn then wrapNat 64 (signedOf 32 f.im) else f.im

/-- The warp's state changed after an effect. -/
def State.upd (s : State) (i : Iss) (g : Warp → Warp) : State := s.withWarp i.w.key g

/-- The effect that only writes registers. -/
def writeEff (i : Iss) (s : State) (rs : List RegWrite) : Eff := .done (s.upd i fun w => w.putAll rs)

/-- A trap of every lane of B without an address. -/
def trapAll (i : Iss) (cause : Nat) (detail : W64 := 0) : Eff := .trap { cause := cause, lanes := i.lanes, detail := detail }

end Sys2Proof.Machine
end

