-- ==== Sys2Proof/Machine/Flags.lean ====
section
/-!
DEFINITION. Results, flags, traps and the two queues (04 R106 to R113, 05 R130 to R139).
-/
namespace Sys2Proof.Machine
open Sys2Proof

/-- What an arithmetic instruction makes in one lane: register writes, flags raised, a new generator state. -/
structure LaneOut where
  lane   : Nat
  writes : List RegWrite
  flags  : Flags := 0
  rng    : Option W64 := none

/-- The flags that each lane of B receives: on the scalar unit every lane receives all of them (R107, R139). -/
def flagsOf (lanes : List Nat) (scal : Bool) (outs : List LaneOut) : List (Nat × Flags) :=
  if scal then
    let t := outs.foldl (fun a o => a ||| o.flags) 0
    lanes.map fun l => (l, t)
  else outs.map fun o => (o.lane, o.flags)

/-- Whether a lane traps on flag k (R108). -/
def trapsOn (w : Warp) (k : Nat) (p : Nat × Flags) : Bool :=
  p.2.getLsbD k && (w.thread p.1).fpctl.getLsbD k && !w.trapsOff.contains p.1

/-- The floating trap of some results: the first flag, NV to NX, that a lane raised with its enable set (R108). -/
def fpTrap (w : Warp) (lanes : List Nat) (scal : Bool) (fl : List (Nat × Flags)) : Option Trap :=
  match (List.range 5).find? fun k => fl.any (trapsOn w k) with
  | none => none
  | some k => some { cause := 0x040 + k, lanes := if scal then lanes else (fl.filter (trapsOn w k)).map (·.1) }

/-- Sticky flags raised (R107). -/
def Warp.raiseFlags (w : Warp) (fl : List (Nat × Flags)) : Warp :=
  fl.foldl (fun w p => w.setThread p.1 fun t => { t with fpflags := t.fpflags ||| p.2.zeroExtend 32 }) w

/-- Generators stepped (R113). -/
def Warp.stepRngs (w : Warp) (outs : List LaneOut) : Warp :=
  outs.foldl (fun w o => match o.rng with
    | none => w
    | some r => w.setThread o.lane fun t => { t with rngs := r }) w

/-- The results of a vector-ALU or scalar-unit instruction take effect, or it traps (R107, R108). -/
def commit (i : Iss) (s : State) (scal : Bool) (outs : List LaneOut) : Eff :=
  let fl := flagsOf i.lanes scal outs
  match fpTrap i.w i.lanes scal fl with
  | some t => .trap t
  | none => .done (s.upd i fun w => ((w.putAll (outs.flatMap (·.writes))).raiseFlags fl).stepRngs outs)

/-- Whether an operation in a queue can trap: a lane of B has an enable set for a flag it can raise (R109, R135). -/
def canTrap (w : Warp) (lanes : List Nat) (raises : Flags) : Bool :=
  lanes.any fun l => !w.trapsOff.contains l && ((w.thread l).fpctl.truncate 5 &&& raises) != 0

/-- An instruction enters the special-function (0) or conversion (1) queue: its results wait for its completion;
where it can trap (`may`) it holds the warp (R109, R132). -/
def enqueueWith (i : Iss) (s : State) (q : Nat) (may : Bool) (t : Option Trap) (fl : List (Nat × Flags))
    (bank : Option Nat) (outs : List LaneOut) : Eff :=
  let op : QueueOp :=
    { queue := q, writes := outs.flatMap (·.writes), flags := fl
      trapMask := (t.map fun t => maskOf t.lanes).getD 0, trapCause := (t.map (·.cause)).getD 0
      bank := bank, pc := i.pcCur, lanes := if may then i.all else [] }
  let put (w : Warp) : Warp :=
    let w := { w with queue := w.queue ++ [op] }
    if t.isSome then w else w.stepRngs outs
  if may then .hold (s.upd i fun w => { put w with hold := .trapOp }) else .done (s.upd i put)

/-- The same for the lanes' results of one full instruction, whose flags can be those of `raises` (R135). -/
def enqueue (i : Iss) (s : State) (q : Nat) (scal : Bool) (raises : Flags) (bank : Option Nat) (outs : List LaneOut) : Eff :=
  let fl := flagsOf i.lanes scal outs
  enqueueWith i s q (canTrap i.w i.lanes raises) (fpTrap i.w i.lanes scal fl) fl bank outs

/-- The lanes an instruction computes in: the lowest of B on the scalar unit (R34). -/
def Iss.lanesFor (i : Iss) (scal : Bool) : List Nat := if scal then [i.low] else i.lanes

/-- A value for each lane into the destination field. -/
def valueOuts (i : Iss) (d : BitVec 8) (wide scal : Bool) (g : Nat → Nat) : List LaneOut :=
  (i.lanesFor scal).map fun l => { lane := l, writes := destWrites d wide l (g l) }

/-- An instruction of the vector ALU or the scalar unit that writes a value and raises no flag. -/
def issueValue (x : Instr) (f : Fields) (s : State) (wide : Bool) (g : Iss → Nat → Nat) : Out :=
  issueSplit x s (allScalar f) {} fun i s => commit i s (allScalar f) (valueOuts i f.d wide (allScalar f) (g i))

end Sys2Proof.Machine
end

