-- ==== Sys2Proof/Decode.lean ====
section
/-!
DEFINITION. Decoding and encoding: full instructions and short pairs of 96 bits (02 R18 to R47), transducer
instructions of 32 bits (13 R362, R363). A word that names no instruction is rejected by a name (Undecoded).
-/
namespace Sys2Proof
open Sys2Proof.Machine

/-- Why a word names no instruction. -/
inductive Undecoded where
  /-- The major opcode is a dash of R46. -/
  | opcode (op : Nat)
  /-- A transducer word whose opcode or fixed bits R362 does not give. -/
  | transducer (w : Nat)
  deriving DecidableEq, Repr

/-- The fields of a full instruction (R25, R27 to R31). -/
def fieldsAt (w : Nat) : Fields :=
  { g := BitVec.ofNat 4 (bitsOf w 84 4), sub := BitVec.ofNat 4 (bitsOf w 80 4), d := BitVec.ofNat 8 (bitsOf w 72 8)
    a := BitVec.ofNat 8 (bitsOf w 64 8), b := BitVec.ofNat 8 (bitsOf w 56 8), c := BitVec.ofNat 8 (bitsOf w 48 8)
    mid := BitVec.ofNat 16 (bitsOf w 32 16), imm := BitVec.ofNat 32 (bitsOf w 0 32) }

/-- A short operation from its 48 bits (R38). -/
def shortAt (w : Nat) : ShortOp :=
  { sop := BitVec.ofNat 6 (bitsOf w 42 6), pred := BitVec.ofNat 3 (bitsOf w 39 3), d := BitVec.ofNat 7 (bitsOf w 32 7)
    a := BitVec.ofNat 7 (bitsOf w 25 7), b := BitVec.ofNat 7 (bitsOf w 18 7), c := BitVec.ofNat 7 (bitsOf w 11 7)
    type := BitVec.ofNat 3 (bitsOf w 8 3), zero := BitVec.ofNat 8 (bitsOf w 0 8) }

/-- The opcode map (R46, R47); an opcode that several rows share decodes by SUB, or for `cwb` by the POL nibble, and
an unlisted SUB goes to the first row, whose checks refuse it. -/
def decodeOp (op : Nat) (f : Fields) : Option Instr :=
  match op with
  | 0x00 => some (.nop f)
  | 0x01 => some (.wait f)
  | 0x02 => some (.yield f)
  | 0x03 => some (.trap f)
  | 0x04 => some (.brk f)
  | 0x05 => some (.fence f)
  | 0x06 => some (.ifence f)
  | 0x07 => some (.rdsr f)
  | 0x08 => some (.wrsr f)
  | 0x09 => some (.exit f)
  | 0x0A => some (.trig f)
  | 0x0B => some (if f.sub = 1 then .postEnd f else .post f)
  | 0x0C => some (if f.sub = 1 then .fresKill f else if f.sub = 2 then .fresRebind f else .fresResume f)
  | 0x0D => some (.ep f)
  | 0x0E => some (if f.sub = 1 then .migD f else .migL f)
  | 0x0F => some (.emu f)
  | 0x10 => some (.bra f)
  | 0x11 => some (.brx f)
  | 0x12 => some (.call f)
  | 0x13 => some (.callx f)
  | 0x14 => some (.ret f)
  | 0x15 => some (.brs f)
  | 0x16 => some (.wsync f)
  | 0x20 => some (.add f)
  | 0x21 => some (.sub f)
  | 0x22 => some (.mul f)
  | 0x23 => some (.mulhi f)
  | 0x24 => some (.mad f)
  | 0x25 => some (.min f)
  | 0x26 => some (.max f)
  | 0x27 => some (.abs f)
  | 0x28 => some (.and f)
  | 0x29 => some (.or f)
  | 0x2A => some (.xor f)
  | 0x2B => some (.andn f)
  | 0x2C => some (.shl f)
  | 0x2D => some (.shr f)
  | 0x2E => some (.sar f)
  | 0x2F => some (.cmp f)
  | 0x30 => some (.sel f)
  | 0x31 => some (.mov f)
  | 0x32 => some (.movi f)
  | 0x33 => some (.popc f)
  | 0x34 => some (.clz f)
  | 0x35 => some (.brev f)
  | 0x36 => some (.bfe f)
  | 0x37 => some (.bfi f)
  | 0x38 => some (.addsh f)
  | 0x39 => some (.idiv f)
  | 0x3A => some (.plog f)
  | 0x3B => some (if f.sub = 1 then .pmovSet f else .pmovGet f)
  | 0x3C => some (.perm f)
  | 0x3D => some (.rng f)
  | 0x3E => some (.rot f)
  | 0x3F => some (.clamp f)
  | 0x40 => some (.fadd f)
  | 0x41 => some (.fsub f)
  | 0x42 => some (.fmul f)
  | 0x43 => some (.fma f)
  | 0x44 => some (.fmin f)
  | 0x45 => some (.fmax f)
  | 0x46 => some (.fcmp f)
  | 0x47 => some (.fsgn f)
  | 0x48 => some (.frnd f)
  | 0x49 => some (.fclass f)
  | 0x4A => some (.fdot4 f)
  | 0x4B => some (.fscl f)
  | 0x4C => some (.famax f)
  | 0x50 => some (.cvt f)
  | 0x51 => some (.pack f)
  | 0x52 => some (.unpack f)
  | 0x53 => some (.rcp f)
  | 0x54 => some (.rsq f)
  | 0x55 => some (.sqrt f)
  | 0x56 => some (.exp2 f)
  | 0x57 => some (.log2 f)
  | 0x58 => some (.sin f)
  | 0x59 => some (.cos f)
  | 0x5A => some (.tanh f)
  | 0x5B => some (.act f)
  | 0x60 => some (.shfl f)
  | 0x61 => some (.vote f)
  | 0x62 => some (.ballot f)
  | 0x63 => some (.wred f)
  | 0x64 => some (.scan f)
  | 0x65 => some (.matchl f)
  | 0x66 => some (.elect f)
  | 0x67 => some (.rdlane f)
  | 0x68 => some (.wrlane f)
  | 0x70 => some (.ld f)
  | 0x71 => some (.st f)
  | 0x72 => some (.lds f)
  | 0x73 => some (.sts f)
  | 0x74 => some (.pf f)
  | 0x75 => some (if f.mid >>> 12 = 1 then .cwbSync f else .cwb f)
  | 0x76 => some (.mkptr f)
  | 0x77 => some (.ptrq f)
  | 0x80 => some (.atom f)
  | 0x81 => some (.cas f)
  | 0x82 => some (.redm f)
  | 0x83 => some (.fatom f)
  | 0x84 => some (.fredm f)
  | 0x85 => some (.amxr f)
  | 0x90 => some (.binit f)
  | 0x91 => some (.barrive f)
  | 0x92 => some (.bwait f)
  | 0x93 => some (if f.sub = 1 then .bexpectArrive f else .bexpect f)
  | 0x94 => some (.btest f)
  | 0x95 => some (if f.sub = 1 then .nbarArrive f else .nbarSync f)
  | 0x96 => some (.qinit f)
  | 0x97 => some (.qpush f)
  | 0x98 => some (.qpop f)
  | 0x99 => some (.xswap f)
  | 0xA0 => some (.kick f)
  | 0xA1 => some (.tdef f)
  | 0xA2 => some (.tstat f)
  | 0xA3 => some (.trel f)
  | 0xA4 => some (.tld f)
  | 0xA5 => some (.tstr f)
  | 0xA6 => some (.atab f)
  | 0xB0 => some (.mres f)
  | 0xB1 => some (.mrel f)
  | 0xB2 => some (.mfence f)
  | 0xB3 => some (.mgo f)
  | 0xB4 => some (.mwait f)
  | 0xC0 => some (.pgq f)
  | 0xC1 => some (.pgadv f)
  | 0xC2 => some (.bop f)
  | 0xC3 => some (.tcommit f)
  | 0xC4 => some (.tabort f)
  | 0xC5 => some (.uret f)
  | 0xC6 => some (.tspawn f)
  | 0xC7 => some (.ctload f)
  | 0xC8 => some (.cbind f)
  | 0xC9 => some (.cbuild f)
  | 0xE0 => some (.dadd f)
  | 0xE1 => some (.dmul f)
  | 0xE2 => some (.dfma f)
  | 0xE3 => some (.ddiv f)
  | 0xE4 => some (.dsqrt f)
  | 0xE5 => some (.dcvt f)
  | 0xF0 => some (.imx f)
  | 0xF1 => some (.pol f)
  | _ => none

/-- A slot's 96 bits, with its PAIR bit (R18, R22, R38). -/
def decodeSlot (pair : Bool) (w : Nat) : Except Undecoded Instr :=
  if pair then .ok (.shortPair (shortAt (w / 2 ^ 48)) (shortAt w))
  else match decodeOp (bitsOf w 88 8) (fieldsAt w) with
  | some i => .ok i
  | none => .error (.opcode (bitsOf w 88 8))

/-- The fields of a transducer word (R362). -/
def txD (w : Nat) : BitVec 3 := BitVec.ofNat 3 (bitsOf w 24 3)
def txA (w : Nat) : BitVec 3 := BitVec.ofNat 3 (bitsOf w 21 3)
def txB (w : Nat) : BitVec 3 := BitVec.ofNat 3 (bitsOf w 18 3)
def txN (w : Nat) : BitVec 12 := BitVec.ofNat 12 (bitsOf w 0 12)

/-- A transducer instruction: its opcode, I and its zero fields (R362, R363). -/
def decodeTx (w : Nat) : Except Undecoded Instr :=
  let bad : Except Undecoded Instr := .error (.transducer w)
  let imm := bitsOf w 17 1 == 1
  let z (lo len : Nat) : Bool := bitsOf w lo len == 0
  let reg := !imm && z 0 18
  let immA := imm && z 12 5 && z 18 3
  let immD := imm && z 12 5 && z 18 6
  if 2 ^ 32 ≤ w then bad else
  match bitsOf w 27 5 with
  | 0x00 => if immD then .ok (.txGetImm (txD w) (txN w)) else if reg && z 21 3 then .ok (.txGetReg (txD w) (txB w)) else bad
  | 0x01 => if immD then .ok (.txPeekImm (txD w) (txN w)) else if reg && z 21 3 then .ok (.txPeekReg (txD w) (txB w)) else bad
  | 0x02 => if immA && z 24 3 then .ok (.txPutImm (txA w) (txN w)) else if reg && z 24 3 then .ok (.txPutReg (txA w) (txB w)) else bad
  | 0x03 => .ok (.txLi (txD w) (BitVec.ofNat 24 (bitsOf w 0 24)))
  | 0x04 => if z 0 21 then .ok (.txMov (txD w) (txA w)) else bad
  | 0x05 => if immA then .ok (.txAddImm (txD w) (txA w) (txN w)) else if reg then .ok (.txAddReg (txD w) (txA w) (txB w)) else bad
  | 0x06 => if immA then .ok (.txSubImm (txD w) (txA w) (txN w)) else if reg then .ok (.txSubReg (txD w) (txA w) (txB w)) else bad
  | 0x07 => if immA then .ok (.txXorImm (txD w) (txA w) (txN w)) else if reg then .ok (.txXorReg (txD w) (txA w) (txB w)) else bad
  | 0x08 => if immA then .ok (.txAndImm (txD w) (txA w) (txN w)) else if reg then .ok (.txAndReg (txD w) (txA w) (txB w)) else bad
  | 0x09 => if immA then .ok (.txOrImm (txD w) (txA w) (txN w)) else if reg then .ok (.txOrReg (txD w) (txA w) (txB w)) else bad
  | 0x0A => if immA then .ok (.txShlImm (txD w) (txA w) (txN w)) else if reg then .ok (.txShlReg (txD w) (txA w) (txB w)) else bad
  | 0x0B => if immA then .ok (.txShrImm (txD w) (txA w) (txN w)) else if reg then .ok (.txShrReg (txD w) (txA w) (txB w)) else bad
  | 0x0C => if immA then .ok (.txSarImm (txD w) (txA w) (txN w)) else if reg then .ok (.txSarReg (txD w) (txA w) (txB w)) else bad
  | 0x0D => if immA then .ok (.txSextImm (txD w) (txA w) (txN w)) else if reg then .ok (.txSextReg (txD w) (txA w) (txB w)) else bad
  | 0x0E => if immA then .ok (.txZze (txD w) (txA w) (txN w)) else bad
  | 0x0F => if immA then .ok (.txZzd (txD w) (txA w) (txN w)) else bad
  | 0x10 => if immA then .ok (.txTblImm (txD w) (txA w) (txN w)) else if z 0 21 then .ok (.txTbl (txD w) (txA w)) else bad
  | 0x11 => if z 0 24 then .ok (.txPdec (txD w)) else bad
  | 0x12 => if z 0 21 && z 24 3 then .ok (.txPenc (txA w)) else bad
  | 0x13 => if z 6 12 then .ok (.txBfw (txD w) (txA w) (txB w) (BitVec.ofNat 6 (bitsOf w 0 6))) else bad
  | 0x14 => if immD && z 24 3 then .ok (.txRepImm (txN w)) else if z 0 21 && z 24 3 then .ok (.txRepReg (txA w)) else bad
  | 0x15 => if z 0 27 then .ok .txEndr else bad
  | 0x16 => if z 0 24 then .ok (.txEob (txD w)) else bad
  | 0x17 => if z 0 27 then .ok .txDone else bad
  | 0x18 => if immD && z 24 3 then .ok (.txFail (txN w)) else bad
  | _ => bad

/-! ### Encoding, from the same tables -/

/-- The 96 bits of a full instruction. -/
def packFields (op : Nat) (f : Fields) : Nat :=
  op * 2 ^ 88 + f.g.toNat * 2 ^ 84 + f.sub.toNat * 2 ^ 80 + f.d.toNat * 2 ^ 72 + f.a.toNat * 2 ^ 64 +
  f.b.toNat * 2 ^ 56 + f.c.toNat * 2 ^ 48 + f.mid.toNat * 2 ^ 32 + f.imm.toNat

/-- The 48 bits of a short operation. -/
def packShort (o : ShortOp) : Nat :=
  o.sop.toNat * 2 ^ 42 + o.pred.toNat * 2 ^ 39 + o.d.toNat * 2 ^ 32 + o.a.toNat * 2 ^ 25 + o.b.toNat * 2 ^ 18 +
  o.c.toNat * 2 ^ 11 + o.type.toNat * 2 ^ 8 + o.zero.toNat

/-- A transducer word (R362). -/
def packTx (op d a b : Nat) (i : Bool) (n : Nat) : Nat :=
  op * 2 ^ 27 + d * 2 ^ 24 + a * 2 ^ 21 + b * 2 ^ 18 + bitOf i * 2 ^ 17 + n

/-- The number of a transducer instruction's word; none for the other rows. -/
def encodeTx : Instr → Option Nat
  | .txGetImm d n => some (packTx 0x00 d.toNat 0 0 true n.toNat)
  | .txGetReg d b => some (packTx 0x00 d.toNat 0 b.toNat false 0)
  | .txPeekImm d n => some (packTx 0x01 d.toNat 0 0 true n.toNat)
  | .txPeekReg d b => some (packTx 0x01 d.toNat 0 b.toNat false 0)
  | .txPutImm a n => some (packTx 0x02 0 a.toNat 0 true n.toNat)
  | .txPutReg a b => some (packTx 0x02 0 a.toNat b.toNat false 0)
  | .txLi d i => some (0x03 * 2 ^ 27 + d.toNat * 2 ^ 24 + i.toNat)
  | .txMov d a => some (packTx 0x04 d.toNat a.toNat 0 false 0)
  | .txAddImm d a n => some (packTx 0x05 d.toNat a.toNat 0 true n.toNat)
  | .txAddReg d a b => some (packTx 0x05 d.toNat a.toNat b.toNat false 0)
  | .txSubImm d a n => some (packTx 0x06 d.toNat a.toNat 0 true n.toNat)
  | .txSubReg d a b => some (packTx 0x06 d.toNat a.toNat b.toNat false 0)
  | .txXorImm d a n => some (packTx 0x07 d.toNat a.toNat 0 true n.toNat)
  | .txXorReg d a b => some (packTx 0x07 d.toNat a.toNat b.toNat false 0)
  | .txAndImm d a n => some (packTx 0x08 d.toNat a.toNat 0 true n.toNat)
  | .txAndReg d a b => some (packTx 0x08 d.toNat a.toNat b.toNat false 0)
  | .txOrImm d a n => some (packTx 0x09 d.toNat a.toNat 0 true n.toNat)
  | .txOrReg d a b => some (packTx 0x09 d.toNat a.toNat b.toNat false 0)
  | .txShlImm d a n => some (packTx 0x0A d.toNat a.toNat 0 true n.toNat)
  | .txShlReg d a b => some (packTx 0x0A d.toNat a.toNat b.toNat false 0)
  | .txShrImm d a n => some (packTx 0x0B d.toNat a.toNat 0 true n.toNat)
  | .txShrReg d a b => some (packTx 0x0B d.toNat a.toNat b.toNat false 0)
  | .txSarImm d a n => some (packTx 0x0C d.toNat a.toNat 0 true n.toNat)
  | .txSarReg d a b => some (packTx 0x0C d.toNat a.toNat b.toNat false 0)
  | .txSextImm d a n => some (packTx 0x0D d.toNat a.toNat 0 true n.toNat)
  | .txSextReg d a b => some (packTx 0x0D d.toNat a.toNat b.toNat false 0)
  | .txZze d a w => some (packTx 0x0E d.toNat a.toNat 0 true w.toNat)
  | .txZzd d a w => some (packTx 0x0F d.toNat a.toNat 0 true w.toNat)
  | .txTbl d a => some (packTx 0x10 d.toNat a.toNat 0 false 0)
  | .txTblImm d a m => some (packTx 0x10 d.toNat a.toNat 0 true m.toNat)
  | .txPdec d => some (packTx 0x11 d.toNat 0 0 false 0)
  | .txPenc a => some (packTx 0x12 0 a.toNat 0 false 0)
  | .txBfw c a b s => some (packTx 0x13 c.toNat a.toNat b.toNat false s.toNat)
  | .txRepImm n => some (packTx 0x14 0 0 0 true n.toNat)
  | .txRepReg a => some (packTx 0x14 0 a.toNat 0 false 0)
  | .txEndr => some (packTx 0x15 0 0 0 false 0)
  | .txEob d => some (packTx 0x16 d.toNat 0 0 false 0)
  | .txDone => some (packTx 0x17 0 0 0 false 0)
  | .txFail c => some (packTx 0x18 0 0 0 true c.toNat)
  | _ => none

/-- The word of an instruction: its bits and their number, numbered as spec/opcode_table.json does; none for the rows
that are steps of other agents, which have no encoding. -/
def encode (i : Instr) : Option (Nat × Nat) :=
  match i with
  | .shortPair p q => some (96, packShort p * 2 ^ 48 + packShort q)
  | _ => match fieldsOf i with
    | some (op, f) => some (96, packFields op f)
    | none => (encodeTx i).map fun w => (32, w)

/-- What the decoder reads from an instruction of the opcode table's words: 32 bits are a transducer instruction, 96
a slot whose PAIR bit is clear. -/
def decodeTableWord (nbits w : Nat) : Option Instr :=
  if nbits ≤ 32 then (decodeTx w).toOption else (decodeSlot false w).toOption

end Sys2Proof
end

