-- ==== Sys2Proof/WellFormed.lean ====
section
/-!
DEFINITION. Well-formed instructions: a full instruction or pair passes the decode checks of R44 for the largest image
(128 vector and 64 scalar registers, R383), a transducer instruction the ranges of R364, and a step of another agent
names an agent that the machine has.
-/
namespace Sys2Proof
open Sys2Proof.Machine

/-- An immediate n of `get`, `peek`, `put` and `sext` (R363). -/
def txNOk (n : BitVec 12) : Bool := inRange n.toNat 1 64
/-- A zigzag width (R363). -/
def txWOk (w : BitVec 12) : Bool := w.toNat == 8 || w.toNat == 16 || w.toNat == 32 || w.toNat == 64

/-- The checks of a transducer instruction that do not look at its program (R364). -/
def txOk : Instr → Bool
  | .txGetImm _ n | .txPeekImm _ n | .txPutImm _ n | .txSextImm _ _ n => txNOk n
  | .txZze _ _ w | .txZzd _ _ w => txWOk w
  | .txRepImm n => inRange n.toNat 1 255
  | .txBfw c _ _ s => c.toNat != 7 && s.toNat != 0
  | _ => true

def clusterOk (c : Nat) : Bool := decide (c < 18)
def coreOk (c : Nat) : Bool := decide (c < 324)
def portOk (p : Nat) : Bool := decide (p < 48)
def stackOk (k : Nat) : Bool := decide (k < 12)
def vaOk (va : Nat) : Bool := decide (va < 2 ^ 57)

/-- The agents that a step of another agent names (01, 12 R321, 18). -/
def stepOk : Instr → Bool
  | .propagate _ v => decide (v < 326)
  | .engineRead c _ _ _ | .engineWrite c _ _ _ | .kickGate c | .copyRecordStart c | .byteArrive c _ _
  | .queueStep c _ | .matrixOpStart c | .matrixOpFinish c | .bankFlip c => coreOk c
  | .cowBreak _ va | .pageUnmap _ va | .rebind _ va _ | .codecFill _ va | .writeBack _ va | .cacheSoftError _ va
  | .packCommand _ va _ _ => vaOk va
  | .pageMap _ va l e => vaOk va && inRange l 1 3 && decide (e < 2 ^ 64)
  | .burstReply p _ _ | .boostGrant p _ => portOk p
  | .layerAlert k l => stackOk k && decide (l < 16)
  | .mapout k | .mapoutComplete k => stackOk k
  | .migrationGrant c _ | .decline c _ | .islandStep c _ | .dxtLoad c _ _ | .quantumExpiry _ c | .preemption _ c
  | .preemptSave _ c => clusterOk c
  | .cageUpdate c g l e => clusterOk c && decide (g < 2 ^ 8) && decide (l < 2 ^ 8) && decide (e < 2 ^ 16)
  | .pauseFlit _ c | .resumeFlit _ c | .pauseTimeout _ c => decide (c < 3)
  | .cxlLinkLoss l | .cxlLinkReturn l => decide (l < 3)
  | _ => true

/-- Whether an instruction is well formed. -/
def wellFormed (i : Instr) : Bool :=
  match i with
  | .shortPair p q => (checkPair p q 128).isNone
  | _ => match entryOf i, fieldsOf i with
    | some e, some (_, f) => e.absent || (checkFields e f 128 64).isNone
    | _, _ => txOk i && stepOk i

end Sys2Proof
end

