-- ==== Sys2Proof/Machine/Codec.lean ====
section
/-!
DEFINITION. The transducer machine and its prefix codes (13 R361 to R369).
-/
namespace Sys2Proof.Machine
open Sys2Proof

/-! ### Prefix codes (R366 to R369) -/

/-- The length of a symbol's codeword. -/
def codeLen (t : List Byte) (sym : Nat) : Nat := (t.getD sym 0).toNat

/-- Whether the LEN bytes of a table are valid (R366): at most 15, one nonzero, Kraft's sum at most 1. -/
def lensOk (t : List Byte) : Bool :=
  let ls := (List.range 256).map (codeLen t)
  ls.all (fun l => decide (l ≤ 15)) && ls.any (fun l => l != 0) &&
  decide ((ls.map fun l => if l = 0 then 0 else 2 ^ (15 - l)).sum ≤ 2 ^ 15)

/-- The symbols with a codeword of one length, in order. -/
def symsOf (t : List Byte) (len : Nat) : List Nat := (List.range 256).filter fun s => codeLen t s == len

/-- The first code of a length (R367): codes grow by one within a length and shift left between lengths. -/
def firstCode (t : List Byte) : Nat → Nat
  | 0 => 0
  | n + 1 => 2 * (firstCode t n + (if n = 0 then 0 else (symsOf t n).length))

/-- The codeword of a symbol: its length and code, none without one (R367). -/
def codeOf (t : List Byte) (sym : Nat) : Option (Nat × Nat) :=
  let len := codeLen t sym
  if 255 < sym || len = 0 || 15 < len then none
  else some (len, firstCode t len + ((symsOf t len).takeWhile fun s => s != sym).length)

/-- The symbol of a code of a length. -/
def symOf (t : List Byte) (len code : Nat) : Option Nat :=
  let k := firstCode t len
  if code < k then none else (symsOf t len)[code - k]?

/-- Bits of a codeword in stream order: the most significant first (R368). -/
def codeBits (len code : Nat) : List Bool :=
  (List.range len).map fun i => code.testBit (len - 1 - i)

/-- A node of the tree of R369: weight, key, symbols. -/
structure HNode where
  weight : Nat
  key    : Nat
  syms   : List Nat
  deriving DecidableEq, Repr, Inhabited

/-- The node of lowest weight, the lower key first. -/
def lowestNode : List HNode → Option HNode
  | [] => none
  | n :: r => match lowestNode r with
    | none => some n
    | some m => if n.weight < m.weight || (n.weight == m.weight && decide (n.key < m.key)) then some n else some m

/-- Merges until one node is left; the depths of the symbols (R369). -/
def huffMerge : Nat → Nat → List HNode → List (Nat × Nat) → List (Nat × Nat)
  | 0, _, _, ds => ds
  | fuel + 1, merges, ns, ds =>
    match lowestNode ns with
    | none => ds
    | some a =>
      let ns := ns.filter fun n => n.key != a.key
      match lowestNode ns with
      | none => ds
      | some b =>
        let syms := a.syms ++ b.syms
        huffMerge fuel (merges + 1)
          ({ weight := a.weight + b.weight, key := 256 + merges, syms := syms } :: ns.filter fun n => n.key != b.key)
          (ds.map fun d => if syms.contains d.1 then (d.1, d.2 + 1) else d)

/-- The lengths of R369 for 256 counts. -/
def huffLens : Nat → List Nat → List Nat
  | 0, cs => cs.map fun _ => 0
  | fuel + 1, cs =>
    let used := (List.range 256).filter fun s => cs.getD s 0 != 0
    match used with
    | [s] => (List.range 256).map fun k => if k = s then 1 else 0
    | _ =>
      let ds := huffMerge 256 0 (used.map fun s => { weight := cs.getD s 0, key := s, syms := [s] }) (used.map fun s => (s, 0))
      if ds.any fun d => decide (15 < d.2) then huffLens fuel (cs.map fun c => if c = 0 then 0 else (c + 1) / 2)
      else (List.range 256).map fun k => ((ds.find? fun d => d.1 == k).map (·.2)).getD 0

/-- The counts of the byte values of a region (R369). -/
def byteCounts (bs : List Byte) : List Nat := (List.range 256).map fun v => (bs.filter fun b => b.toNat == v).length

/-! ### A lane (R361 to R365) -/

def Lane.reg (l : Lane) (r : BitVec 3) : W64 := l.x.getD r.toNat 0
def Lane.setReg (l : Lane) (r : BitVec 3) (v : W64) : Lane := { l with x := listAt l.x r.toNat fun _ => v }

/-- The program ends: the reason (0 for success), where, and a `fail` immediate. -/
def Lane.finish (l : Lane) (reason : Nat) (imm : Option Nat) : Lane := { l with ended := some (reason, l.index, imm) }

/-- The next instruction by index; past the last one the program ends as `fail 0` (R363). -/
def Lane.goto (l : Lane) (k : Nat) : Lane :=
  let l := { l with index := k }
  if k < l.prog.length then l else l.finish 0xC (some 0)

def Lane.next (l : Lane) : Lane := l.goto (l.index + 1)

/-- A register count of `get`, `peek` and `put`: at most 64 (R363). -/
def countOf (v : W64) : Nat := min v.toNat 64
/-- A register count of `sext`: 1 to 64. -/
def sextCount (v : W64) : Nat := max 1 (min v.toNat 64)

/-- A number from bits, the first least significant (R125). -/
def natOfBits : List Bool → Nat
  | [] => 0
  | b :: r => bitOf b + 2 * natOfBits r

/-- `get` and `peek` (R363, R365). -/
def Lane.get (l : Lane) (d : BitVec 3) (n : Nat) (move : Bool) : Lane :=
  if l.input.length < l.inCur + n then l.finish 0xD none
  else
    let l' := l.setReg d (BitVec.ofNat 64 (natOfBits ((l.input.drop l.inCur).take n)))
    (if move then { l' with inCur := l.inCur + n } else l').next

/-- Bits appended to the output; a decoder's that passes the block ends the program (R365). -/
def Lane.append (l : Lane) (bs : List Bool) : Lane :=
  let l' := { l with out := l.out ++ bs }
  match l.outMax with
  | some m => if m < l'.out.length then l'.finish 0xD none else l'.next
  | none => l'.next

/-- The low n bits of a register, the least significant first. -/
def lowBits (v : W64) (n : Nat) : List Bool := (List.range n).map fun i => v.getLsbD i

/-- A 64-bit result. -/
def Lane.set (l : Lane) (d : BitVec 3) (v : W64) : Lane := (l.setReg d v).next

/-- Sign extension from bit n − 1. -/
def sextAt (v : W64) (n : Nat) : W64 := BitVec.ofInt 64 (signedOf n v.toNat)

/-- `zze` (R363). -/
def zzEnc (w : Nat) (v : W64) : W64 :=
  let x := signedOf w v.toNat
  let lo : Nat := wrapNat w (2 * x)
  BitVec.ofNat 64 (if x < 0 then 2 ^ w - 1 - lo else lo)

/-- `zzd` (R363). -/
def zzDec (w : Nat) (v : W64) : W64 :=
  let u := v.toNat % 2 ^ w
  BitVec.ofNat 64 (if u % 2 = 1 then 2 ^ w - 1 - u / 2 else u / 2)

/-- `tbl` (R363). -/
def Lane.tbl (l : Lane) (a : BitVec 3) (m : Nat) : W64 :=
  let k := 4 * (((l.reg a).toNat + m) % 2 ^ 64 % 1024)
  BitVec.ofNat 64 (natOfBytes ((l.table.drop k).take 4))

/-- `pdec`: bit by bit, up to 15 (R365, R368). -/
def Lane.pdec (l : Lane) (d : BitVec 3) : Nat → Nat → Nat → Lane
  | 0, _, _ => l.finish 0xC none
  | fuel + 1, len, code =>
    match l.input[l.inCur + len]? with
    | none => l.finish 0xD none
    | some b =>
      let c := 2 * code + bitOf b
      match symOf l.table (len + 1) c with
      | some s => ({ l with inCur := l.inCur + len + 1 }).set d (BitVec.ofNat 64 s)
      | none => l.pdec d fuel (len + 1) c

/-- `penc` (R365, R368). -/
def Lane.penc (l : Lane) (a : BitVec 3) : Lane :=
  match codeOf l.table (l.reg a).toNat with
  | none => l.finish 0xC none
  | some (len, code) => l.append (codeBits len code)

/-- The condition of `bfw` (R363). -/
def bfwTaken (c : BitVec 3) (a b : W64) : Bool :=
  match c.toNat with
  | 0 => true
  | 1 => a == b
  | 2 => a != b
  | 3 => a.ult b
  | 4 => !a.ult b
  | 5 => a.slt b
  | _ => !a.slt b

/-- The index of the program's `endr`. -/
def Lane.endrAt (l : Lane) : Nat := (l.prog.takeWhile fun w => bitsOf w.toNat 27 5 != 0x15).length

/-- `rep` (R363). -/
def Lane.rep (l : Lane) (n : Nat) : Lane :=
  let l := { l with loop := min n 255, loopAt := l.index + 1 }
  if n = 0 then l.goto (l.endrAt + 1) else l.next

/-- `endr` (R363). -/
def Lane.endr (l : Lane) : Lane :=
  let k := (l.loop + 255) % 256
  let l' := { l with loop := k }
  if k != 0 then l'.goto l.loopAt else l'.next

/-- One step of a program (R365): the bound is checked first; nothing follows the program's end. -/
def Lane.step (l : Lane) (g : Lane → Lane) : Lane :=
  if l.ended.isSome then l
  else if l.steps = l.bound then l.finish (if l.outMax.isNone then 0xA else 9) none
  else g { l with steps := l.steps + 1 }

/-- What each instruction does to its lane (R363). -/
def txEffect : Instr → Lane → Lane
  | .txGetImm d n, l => l.get d n.toNat true
  | .txGetReg d b, l => l.get d (countOf (l.reg b)) true
  | .txPeekImm d n, l => l.get d n.toNat false
  | .txPeekReg d b, l => l.get d (countOf (l.reg b)) false
  | .txPutImm a n, l => l.append (lowBits (l.reg a) n.toNat)
  | .txPutReg a b, l => l.append (lowBits (l.reg a) (countOf (l.reg b)))
  | .txLi d i, l => l.set d (i.zeroExtend 64)
  | .txMov d a, l => l.set d (l.reg a)
  | .txAddImm d a n, l => l.set d (l.reg a + n.zeroExtend 64)
  | .txAddReg d a b, l => l.set d (l.reg a + l.reg b)
  | .txSubImm d a n, l => l.set d (l.reg a - n.zeroExtend 64)
  | .txSubReg d a b, l => l.set d (l.reg a - l.reg b)
  | .txXorImm d a n, l => l.set d (l.reg a ^^^ n.zeroExtend 64)
  | .txXorReg d a b, l => l.set d (l.reg a ^^^ l.reg b)
  | .txAndImm d a n, l => l.set d (l.reg a &&& n.zeroExtend 64)
  | .txAndReg d a b, l => l.set d (l.reg a &&& l.reg b)
  | .txOrImm d a n, l => l.set d (l.reg a ||| n.zeroExtend 64)
  | .txOrReg d a b, l => l.set d (l.reg a ||| l.reg b)
  | .txShlImm d a n, l => l.set d (l.reg a <<< (n.toNat % 64))
  | .txShlReg d a b, l => l.set d (l.reg a <<< ((l.reg b).toNat % 64))
  | .txShrImm d a n, l => l.set d (l.reg a >>> (n.toNat % 64))
  | .txShrReg d a b, l => l.set d (l.reg a >>> ((l.reg b).toNat % 64))
  | .txSarImm d a n, l => l.set d ((l.reg a).sshiftRight (n.toNat % 64))
  | .txSarReg d a b, l => l.set d ((l.reg a).sshiftRight ((l.reg b).toNat % 64))
  | .txSextImm d a n, l => l.set d (sextAt (l.reg a) n.toNat)
  | .txSextReg d a b, l => l.set d (sextAt (l.reg a) (sextCount (l.reg b)))
  | .txZze d a w, l => l.set d (zzEnc w.toNat (l.reg a))
  | .txZzd d a w, l => l.set d (zzDec w.toNat (l.reg a))
  | .txTbl d a, l => l.set d (l.tbl a 0)
  | .txTblImm d a m, l => l.set d (l.tbl a m.toNat)
  | .txPdec d, l => if l.built then l.pdec d 15 0 0 else l.finish 0xE none
  | .txPenc a, l => if l.built then l.penc a else l.finish 0xE none
  | .txBfw c a b s, l => l.goto (l.index + (if bfwTaken c (l.reg a) (l.reg b) then s.toNat else 1))
  | .txRepImm n, l => l.rep n.toNat
  | .txRepReg a, l => l.rep (min (l.reg a).toNat 255)
  | .txEndr, l => l.endr
  | .txEob d, l => l.set d (if l.input.length ≤ l.inCur then 1 else 0)
  | .txDone, l => l.finish 0 none
  | .txFail c, l => l.finish 0xC (some c.toNat)
  | _, l => l

/-- A transducer instruction on the lane that executes. -/
def txOn (i : Instr) (s : State) : Out := .next (s.setLane (s.lane.step (txEffect i)))

/-- `TX_GET_IMM` (R363). -/
def execTxGetImm (d : BitVec 3) (n : BitVec 12) (s : State) : Out := txOn (.txGetImm d n) s
/-- `TX_GET_REG` (R363). -/
def execTxGetReg (d : BitVec 3) (b : BitVec 3) (s : State) : Out := txOn (.txGetReg d b) s
/-- `TX_PEEK_IMM` (R363). -/
def execTxPeekImm (d : BitVec 3) (n : BitVec 12) (s : State) : Out := txOn (.txPeekImm d n) s
/-- `TX_PEEK_REG` (R363). -/
def execTxPeekReg (d : BitVec 3) (b : BitVec 3) (s : State) : Out := txOn (.txPeekReg d b) s
/-- `TX_PUT_IMM` (R363). -/
def execTxPutImm (a : BitVec 3) (n : BitVec 12) (s : State) : Out := txOn (.txPutImm a n) s
/-- `TX_PUT_REG` (R363). -/
def execTxPutReg (a : BitVec 3) (b : BitVec 3) (s : State) : Out := txOn (.txPutReg a b) s
/-- `TX_LI` (R363). -/
def execTxLi (d : BitVec 3) (i : BitVec 24) (s : State) : Out := txOn (.txLi d i) s
/-- `TX_MOV` (R363). -/
def execTxMov (d : BitVec 3) (a : BitVec 3) (s : State) : Out := txOn (.txMov d a) s
/-- `TX_ADD_IMM` (R363). -/
def execTxAddImm (d : BitVec 3) (a : BitVec 3) (n : BitVec 12) (s : State) : Out := txOn (.txAddImm d a n) s
/-- `TX_ADD_REG` (R363). -/
def execTxAddReg (d : BitVec 3) (a : BitVec 3) (b : BitVec 3) (s : State) : Out := txOn (.txAddReg d a b) s
/-- `TX_SUB_IMM` (R363). -/
def execTxSubImm (d : BitVec 3) (a : BitVec 3) (n : BitVec 12) (s : State) : Out := txOn (.txSubImm d a n) s
/-- `TX_SUB_REG` (R363). -/
def execTxSubReg (d : BitVec 3) (a : BitVec 3) (b : BitVec 3) (s : State) : Out := txOn (.txSubReg d a b) s
/-- `TX_XOR_IMM` (R363). -/
def execTxXorImm (d : BitVec 3) (a : BitVec 3) (n : BitVec 12) (s : State) : Out := txOn (.txXorImm d a n) s
/-- `TX_XOR_REG` (R363). -/
def execTxXorReg (d : BitVec 3) (a : BitVec 3) (b : BitVec 3) (s : State) : Out := txOn (.txXorReg d a b) s
/-- `TX_AND_IMM` (R363). -/
def execTxAndImm (d : BitVec 3) (a : BitVec 3) (n : BitVec 12) (s : State) : Out := txOn (.txAndImm d a n) s
/-- `TX_AND_REG` (R363). -/
def execTxAndReg (d : BitVec 3) (a : BitVec 3) (b : BitVec 3) (s : State) : Out := txOn (.txAndReg d a b) s
/-- `TX_OR_IMM` (R363). -/
def execTxOrImm (d : BitVec 3) (a : BitVec 3) (n : BitVec 12) (s : State) : Out := txOn (.txOrImm d a n) s
/-- `TX_OR_REG` (R363). -/
def execTxOrReg (d : BitVec 3) (a : BitVec 3) (b : BitVec 3) (s : State) : Out := txOn (.txOrReg d a b) s
/-- `TX_SHL_IMM` (R363). -/
def execTxShlImm (d : BitVec 3) (a : BitVec 3) (n : BitVec 12) (s : State) : Out := txOn (.txShlImm d a n) s
/-- `TX_SHL_REG` (R363). -/
def execTxShlReg (d : BitVec 3) (a : BitVec 3) (b : BitVec 3) (s : State) : Out := txOn (.txShlReg d a b) s
/-- `TX_SHR_IMM` (R363). -/
def execTxShrImm (d : BitVec 3) (a : BitVec 3) (n : BitVec 12) (s : State) : Out := txOn (.txShrImm d a n) s
/-- `TX_SHR_REG` (R363). -/
def execTxShrReg (d : BitVec 3) (a : BitVec 3) (b : BitVec 3) (s : State) : Out := txOn (.txShrReg d a b) s
/-- `TX_SAR_IMM` (R363). -/
def execTxSarImm (d : BitVec 3) (a : BitVec 3) (n : BitVec 12) (s : State) : Out := txOn (.txSarImm d a n) s
/-- `TX_SAR_REG` (R363). -/
def execTxSarReg (d : BitVec 3) (a : BitVec 3) (b : BitVec 3) (s : State) : Out := txOn (.txSarReg d a b) s
/-- `TX_SEXT_IMM` (R363). -/
def execTxSextImm (d : BitVec 3) (a : BitVec 3) (n : BitVec 12) (s : State) : Out := txOn (.txSextImm d a n) s
/-- `TX_SEXT_REG` (R363). -/
def execTxSextReg (d : BitVec 3) (a : BitVec 3) (b : BitVec 3) (s : State) : Out := txOn (.txSextReg d a b) s
/-- `TX_ZZE` (R363). -/
def execTxZze (d : BitVec 3) (a : BitVec 3) (w : BitVec 12) (s : State) : Out := txOn (.txZze d a w) s
/-- `TX_ZZD` (R363). -/
def execTxZzd (d : BitVec 3) (a : BitVec 3) (w : BitVec 12) (s : State) : Out := txOn (.txZzd d a w) s
/-- `TX_TBL` (R363). -/
def execTxTbl (d : BitVec 3) (a : BitVec 3) (s : State) : Out := txOn (.txTbl d a) s
/-- `TX_TBL_IMM` (R363). -/
def execTxTblImm (d : BitVec 3) (a : BitVec 3) (m : BitVec 12) (s : State) : Out := txOn (.txTblImm d a m) s
/-- `TX_PDEC` (R368). -/
def execTxPdec (d : BitVec 3) (s : State) : Out := txOn (.txPdec d) s
/-- `TX_PENC` (R368). -/
def execTxPenc (a : BitVec 3) (s : State) : Out := txOn (.txPenc a) s
/-- `TX_BFW` (R363). -/
def execTxBfw (c : BitVec 3) (a : BitVec 3) (b : BitVec 3) (skip : BitVec 6) (s : State) : Out := txOn (.txBfw c a b skip) s
/-- `TX_REP_IMM` (R363). -/
def execTxRepImm (n : BitVec 12) (s : State) : Out := txOn (.txRepImm n) s
/-- `TX_REP_REG` (R363). -/
def execTxRepReg (a : BitVec 3) (s : State) : Out := txOn (.txRepReg a) s
/-- `TX_ENDR` (R363). -/
def execTxEndr (s : State) : Out := txOn (.txEndr) s
/-- `TX_EOB` (R363). -/
def execTxEob (d : BitVec 3) (s : State) : Out := txOn (.txEob d) s
/-- `TX_DONE` (R363). -/
def execTxDone (s : State) : Out := txOn (.txDone) s
/-- `TX_FAIL` (R363). -/
def execTxFail (c : BitVec 12) (s : State) : Out := txOn (.txFail c) s

/-! ### Running a program on one block (R361, R370, R372) -/

/-- The bits of bytes, as a little-endian stream (R125). -/
def bitsOfBytes (bs : List Byte) : List Bool := bs.flatMap fun b => (List.range 8).map fun i => b.getLsbD i

/-- The bytes of a stream, the last padded with zeros (R372). -/
def bytesOfBits (bs : List Bool) : List Byte :=
  (List.range ((bs.length + 7) / 8)).map fun i => BitVec.ofNat 8 (natOfBits ((bs.drop (8 * i)).take 8))

/-- A lane at the start of a program (R361). -/
def laneStart (prog : List W32) (input : List Byte) (bound : Nat) (outMax : Option Nat) (table : List Byte)
    (built : Bool) : Lane :=
  { x := [0, 0, 0, 0, 0, 0, 0, 0], prog := prog, input := bitsOfBytes input, bound := bound, outMax := outMax
    table := table, built := built }

/-- A lane run to its end; an installed program decodes (R364). -/
def runLane : Nat → Lane → Lane
  | 0, l => l
  | n + 1, l =>
    if l.ended.isSome then l
    else match l.prog[l.index]?.bind fun w => (decodeTx w.toNat).toOption with
    | some i => runLane n (l.step (txEffect i))
    | none => l.finish 0xC (some 0)

/-- How a coding ends: the bytes, or the reason, the instruction index and a `fail` immediate (R374). -/
abbrev Coded := Except (Nat × Nat × Option Nat) (List Byte)

/-- The lane of a binding's decoder at its end on stored bytes. -/
def Binding.decLane (b : Binding) (input : List Byte) : Lane :=
  runLane (b.dbound + 1) (laneStart b.dec input b.dbound (some (8 * (16 * 2 ^ b.bsize))) b.table b.built)

/-- The lane of a binding's encoder at its end on a plain block. -/
def Binding.encLane (b : Binding) (plain : List Byte) : Lane :=
  runLane (b.ebound + 1) (laneStart b.enc plain b.ebound none b.table b.built)

/-- The instruction index at which a lane stopped (R374). -/
def Lane.stopIndex (l : Lane) : Nat := match l.ended with
  | some (_, k, _) => k
  | none => l.index

/-- The decoder of a binding on stored bytes: exactly the block's bits, and in packed mode the whole input (R370). -/
def Binding.decode (b : Binding) (input : List Byte) : Coded :=
  let size := 16 * 2 ^ b.bsize
  let l := b.decLane input
  match l.ended with
  | some (0, k, _) =>
    if l.out.length != 8 * size || (b.packed && (l.inCur + 7) / 8 != input.length) then .error (0xD, k, none)
    else .ok (bytesOfBits l.out)
  | some (r, k, m) => .error (r, k, m)
  | none => .error (9, l.index, none)

/-- The encoder of a binding on a plain block (R372). -/
def Binding.encode (b : Binding) (plain : List Byte) : Coded :=
  let l := b.encLane plain
  match l.ended with
  | some (0, _, _) => .ok (bytesOfBits l.out)
  | some (r, k, m) => .error (r, k, m)
  | none => .error (0xA, l.index, none)

/-- What a write-back stores (R372): ZERO, RAW with whether the block expanded, ENCODED bytes, or a failure with the
lane's program (decoder or not). -/
inductive Stored where
  | zero
  | raw (expanded : Bool)
  | encoded (bytes : List Byte)
  | fails (decoder : Bool) (reason index : Nat) (imm : Option Nat)
  deriving DecidableEq, Repr, Inhabited

def Binding.store (b : Binding) (plain : List Byte) : Stored :=
  if plain.all fun x => x == 0 then .zero
  else match b.encode plain with
  | .error (r, k, m) => .fails false r k m
  | .ok e =>
    if plain.length < e.length then (if b.xfault then .fails false 0xD (b.encLane plain).stopIndex none else .raw true)
    else match b.decode e with
    | .error (r, k, m) => .fails true r k m
    | .ok p => if p = plain then .encoded e else .fails true 0xB (b.decLane e).stopIndex none

/-! ### The checks of a program (R364) -/

/-- Whether instruction `k` of a program of `n` passes the checks that look at it alone and at the program's end. -/
def txWordOk (n k : Nat) (w : W32) : Bool :=
  match (decodeTx w.toNat).toOption with
  | none => false
  | some i => txOk i && (match i with
    | .txBfw _ _ _ s => decide (k + s.toNat < n)
    | _ => true)

/-- The indices of an opcode in a program. -/
def txAt (prog : List W32) (op : Nat) : List Nat :=
  (List.range prog.length).filter fun k => bitsOf ((prog.getD k 0).toNat) 27 5 == op

/-- The index of the first instruction of a program that fails R364. -/
def progBad (prog : List W32) : Option Nat :=
  let reps := txAt prog 0x14
  let ends := txAt prog 0x15
  let loop := match reps, ends with
    | r :: _, e :: _ => if r < e then some (r, e) else none
    | _, _ => none
  (List.range prog.length).find? fun k =>
    !txWordOk prog.length k (prog.getD k 0) ||
    (reps.drop 1).contains k || (ends.drop 1).contains k ||
    ((reps.contains k || ends.contains k) && loop.isNone) ||
    (match (decodeTx ((prog.getD k 0).toNat)).toOption, loop with
     | some (.txBfw _ _ _ s), some (r, e) =>
       !(decide (r < k) && decide (k < e)) && decide (r < k + s.toNat) && decide (k + s.toNat ≤ e)
     | _, _ => false)

end Sys2Proof.Machine
end

