-- ==== Sys2Proof/Machine/Ports.lean ====
section
/-!
DEFINITION. Memory ports: lines, stored blocks, fills and write-backs (13 R345 to R376).
-/
namespace Sys2Proof.Machine
open Sys2Proof

/-- The physical address behind a location of plain bytes. -/
def paOf (loc : Nat) : Nat := loc % 2 ^ 60

/-- The home memory port of a location (R322). -/
def homePort (loc : Nat) : Nat :=
  let pa := paOf loc
  if pa < 0xC000000000 then 4 * (pa / 2 ^ 36) + pa / 4096 % 4 else pa / 4096 % 48

/-- The BIND of the page of an address (R318). -/
def State.bindOf (s : State) (ctx va : Nat) : Nat :=
  match s.walk ctx va with
  | .leaf _ _ e => leafBind e
  | _ => 0

/-- A block: its first location, its bytes, its first address, and its page's BIND. -/
structure Blk where
  base : Nat
  size : Nat
  ctx  : Nat
  va   : Nat
  bind : Nat
  deriving DecidableEq, Repr, Inhabited

/-- The bytes of a block under a binding: a codec block of a bound page, else a line (R352, R356). -/
def State.blockBytes (s : State) (ctx bind : Nat) : Nat := match s.binding? ctx bind with
  | some b => 16 * 2 ^ b.bsize
  | none => 128

/-- The block of a location. -/
def State.blockOf (s : State) (ctx va loc : Nat) : Blk :=
  let bind := s.bindOf ctx va
  let n := s.blockBytes ctx bind
  { base := loc - loc % n, size := n, ctx := ctx, va := va - va % n, bind := bind }

def Blk.locs (b : Blk) : List Nat := (List.range b.size).map fun i => b.base + i

/-! ### The memory-side cache (R352): blocks of 128-byte lines, 16 ways of 4,096 sets -/

/-- A line with a dirty unit. -/
def Line.dirty (l : Line) : Bool := !l.units.isEmpty

/-- The 16-byte units of so many bytes. -/
def unitsOf (n : Nat) : List Nat := List.range ((n + 15) / 16)

/-- The 128-byte lines that some bytes lie in. -/
def lineNums (pa n : Nat) : List Nat := (List.range ((pa % 128 + n + 127) / 128)).map fun i => pa / 128 + i
def Line.nums (l : Line) : List Nat := lineNums l.pa l.bytes

/-- The number of a 128-byte line among those of its home port, without the address bits that choose the port (R322). -/
def portLine (num : Nat) : Nat :=
  let pa := paOf (128 * num)
  (if pa < 0xC000000000 then pa % 2 ^ 36 / 16384 else pa / 4096 / 48) * 32 + pa / 128 % 32

/-- The set of a 128-byte line: one of 4,096 of its port (log 53). -/
def setOf (num : Nat) : Nat := portLine num % 4096

/-- The cached line that holds a location. -/
def State.lineAt (s : State) (loc : Nat) : Option Line :=
  (s.port (homePort loc)).lines.find? fun l => decide (l.pa ≤ loc) && decide (loc < l.pa + l.bytes)

/-- Whether the cache holds every unit of a block. -/
def State.cached (s : State) (k : Blk) : Bool := (unitsOf k.size).all fun u => (s.lineAt (k.base + 16 * u)).isSome

/-- The 128-byte lines of a set that hold a line of some kind. -/
def Port.waysOf (p : Port) (set : Nat) (which : Line → Bool) : List Nat :=
  union [] (((p.lines.filter which).flatMap Line.nums).filter fun n => setOf n == set)

/-- Whether a block has its ways, or its sets have room for it: until then it waits for an eviction (R352). -/
def State.room (s : State) (k : Blk) : Bool :=
  let p := s.port (homePort k.base)
  (lineNums k.base k.size).all fun n =>
    let ways := p.waysOf (setOf n) fun _ => true
    ways.contains n || decide (ways.length < 16)

/-- A line put in its port's cache as the one used last, in the place of one for the same block. -/
def State.putLine (s : State) (l : Line) : State :=
  let p := s.port (homePort l.pa)
  s.setPort (homePort l.pa) { p with lines := l :: p.lines.filter fun x => x.pa != l.pa }

/-- Whether two blocks share a 128-byte line. -/
def Line.beside (l x : Line) : Bool := x.nums.any l.nums.contains

/-- What the cache holds of the 128-byte lines that a block lies in: they are evicted and held together, and one writer tag and one
class are theirs (R182, R352, R353, R375). -/
def State.besides (s : State) (l : Line) : List Line := (s.port (homePort l.pa)).lines.filter l.beside

/-- Whether the 128-byte lines of a block are held (R375). -/
def State.lineHeld (s : State) (l : Line) : Bool := (s.besides l).any (·.held.isSome)

/-- The least recently used persist line of a set becomes a normal line. -/
def demotePersist (set : Nat) (ls : List Line) : List Line :=
  match (ls.filter fun l => l.cls == 2 && (l.nums.any fun n => setOf n == set)).getLast? with
  | none => ls
  | some x => ls.map fun l => if x.beside l then { l with cls := 0 } else l

/-- A line with what the lines that it takes in hold: those of an older block size of its binding (R373). -/
def Line.absorb (l : Line) (ls : List Line) : Line := ls.foldl (fun l x => { l with
  units := union l.units ((x.units.filter fun u => decide (l.pa ≤ x.pa + 16 * u)).map fun u => (x.pa + 16 * u - l.pa) / 16)
  soft := union l.soft x.soft, held := l.held.orElse fun _ => x.held, logged := max l.logged x.logged, tag := l.tag.orElse fun _ => x.tag }) l

/-- A line allocated with the class that its access asked for; at most half the ways of a set hold persist lines (R182). -/
def State.allocate (s : State) (l : Line) : State :=
  let p := s.port (homePort l.pa)
  let mine (x : Line) : Bool := decide (x.pa < l.pa + l.bytes) && decide (l.pa < x.pa + x.bytes)
  let l := l.absorb (p.lines.filter mine)
  let cls := kvGet p.wants (l.pa / 128) 0
  let rest := (p.lines.filter fun x => !mine x).map fun x => if l.beside x then { x with cls := cls } else x
  let s := s.setPort (homePort l.pa) { p with
    lines := { l with cls := cls } :: rest, reads := p.reads.filter fun a => !(decide (l.pa ≤ a) && decide (a < l.pa + l.bytes)) }
  if cls != 2 then s
  else l.nums.foldl (fun s n =>
    let p := s.port (homePort l.pa)
    if (p.waysOf (setOf n) fun x => x.cls == 2).length ≤ 8 then s
    else s.setPort (homePort l.pa) { p with lines := demotePersist (setOf n) p.lines }) s

/-- A line dropped. -/
def State.dropLine (s : State) (pa : Nat) : State :=
  let p := s.port (homePort pa)
  s.setPort (homePort pa) { p with lines := p.lines.filter fun x => x.pa != pa }

/-! ### Packets (R345, R346) -/

/-- Whether a DRAM word reads back with error status, or lies in a removed range (R349, R351). -/
def State.badAt (s : State) (loc : Nat) : Bool :=
  s.badWords.contains (loc / 8) || (decide (loc < 0xC000000000) && decide ((s.stack (loc / 2 ^ 36)).nlayer * 2 ^ 32 ≤ loc % 2 ^ 36))

/-- Whether two packets touch one burst. -/
def Packet.meets (p q : Packet) : Bool := decide (p.burst < q.burst + q.count) && decide (q.burst < p.burst + p.count)

/-- Whether a read of a location's burst is under way or held at its port (R346). -/
def State.inFlight (s : State) (loc : Nat) : Bool :=
  let p := s.port (homePort loc)
  (p.packets ++ p.waiting).any fun x => x.kind == .read && x.meets { tag := 0, burst := paOf loc / 64, count := 1 }

/-- The lowest tag that is free at a port (R345). -/
def Port.freeTag (p : Port) : Option Nat := (List.range 512).find? fun t => !(p.packets.any fun k => k.tag == t)

/-- A packet sent, or held where no tag is free or a packet before it touches a burst of its own (R345, R346). -/
def Port.send (p : Port) (x : Packet) : Port :=
  match p.freeTag with
  | some t => if (p.packets ++ p.waiting).any x.meets then { p with waiting := p.waiting ++ [x] }
    else { p with packets := p.packets ++ [{ x with tag := t }] }
  | none => { p with waiting := p.waiting ++ [x] }

/-- The requests held at a port, tried again in their order. -/
def Port.sendHeld (p : Port) : Port := p.waiting.foldl Port.send { p with waiting := [] }

/-- Packets of a kind for some bytes, at most two bursts each. -/
def State.send (s : State) (kind : PacketKind) (loc n : Nat) : State :=
  let p := s.port (homePort loc)
  let first := paOf loc / 64
  let bursts := (paOf loc % 64 + n + 63) / 64
  s.setPort (homePort loc) ((List.range ((bursts + 1) / 2)).foldl (fun p i =>
    p.send { tag := 0, burst := first + 2 * i, count := min 2 (bursts - 2 * i), kind := kind }) p)

/-- The count of a frame at the memory service; its home port changes it with an ATOMIC packet to the table's entry, whose place
the spec does not give (R326, R345; log 53). -/
def State.setFrt (s : State) (pa n : Nat) : State :=
  let p := s.port (homePort pa)
  let t := s.setPort (homePort pa) (p.send { tag := 0, burst := 2 ^ 43 + pa / 131072 / 32, count := 1, kind := .atomic })
  { t with paging := { t.paging with frt := kvSet t.paging.frt (pa / 131072) (BitVec.ofNat 16 n) } }

/-- Reads of some bytes, unless a cached line or a read covers them. -/
def State.request (s : State) (loc n : Nat) : State :=
  if (s.lineAt loc).isSome || s.inFlight loc then s else s.send .read loc n

/-! ### Stored blocks (R357 to R359) -/

/-- Metadata bits of the burst of a physical address (R348). -/
def State.metaBits (s : State) (pa : Nat) : Nat := (kvGet s.metab (pa / 64) 0).toNat
def State.setMeta (s : State) (pa v : Nat) : State :=
  { s with metab := if v = 0 then kvDel s.metab (pa / 64) else kvSet s.metab (pa / 64) (BitVec.ofNat 8 v) }

/-- Where a block's state bits lie in the metadata of its first burst. -/
def stateShift (size pa : Nat) : Nat := if size = 16 then 2 * (pa % 64 / 16) else if size = 32 then 2 * (pa % 64 / 32) else 0

/-- Bursts of a large block, and the width of its burst count field (R357). -/
def usedBits (size : Nat) : Nat := if size = 128 then 1 else if size = 256 then 2 else 0

/-- A failure that no instruction index goes with. -/
def codecFail (r : Nat) : Coded := .error (r, 0, none)

/-- DRAM bytes, or reason 8 (R349). -/
def State.dramRead (s : State) (pa n : Nat) : Coded :=
  if (List.range n).any fun i => s.badAt (pa + i) then codecFail 8 else .ok (memBytes s.dram pa n)

/-- The stored form of an in-place block, decoded (R357, R358, R370). -/
def State.fillInPlace (s : State) (b : Binding) (pa size : Nat) : Coded :=
  let m := s.metaBits pa
  match bitsOf m (stateShift size pa) 2 with
  | 0 => s.dramRead pa size
  | 1 => match s.dramRead pa (if size ≤ 64 then size else 64 * (bitsOf m 2 (usedBits size) + 1)) with
    | .ok x => b.decode x
    | e => e
  | 2 => .ok (List.replicate size 0)
  | _ => codecFail 0xD

/-- A block of a packed page (R359): its index entries, its bytes. -/
def State.fillPacked (s : State) (b : Binding) (frame slot off size : Nat) : Coded :=
  let n32 (a : Nat) : Nat := memNat s.dram (frame + a) 4
  let table := n32 (4 * slot)
  let k := off / size
  let e0 := n32 (table + 4 * k)
  let o0 := e0 % 2 ^ 31
  let o1 := n32 (table + 4 * k + 4) % 2 ^ 31
  let raw := decide (2 ^ 31 ≤ e0)
  if (List.range 4).any fun i => s.badAt (frame + 4 * slot + i) then codecFail 8
  else if table = 0 || 131072 < table + 4 * (131072 / size + 1) then codecFail 0xD
  else if (List.range (4 * 2)).any fun i => s.badAt (frame + table + 4 * k + i) then codecFail 8
  else if o1 < o0 || 131072 < o1 then codecFail 0xD
  else
    let len := o1 - o0
    if len = 0 then (if raw then codecFail 0xD else .ok (List.replicate size 0))
    else if raw then (if len = size then s.dramRead (frame + o0) len else codecFail 0xD)
    else if size ≤ len then codecFail 0xD
    else match s.dramRead (frame + o0) len with
    | .ok x => b.decode x
    | e => e

/-- The plain bytes of a block that no line holds (R370, R355). -/
def State.fillBlock (s : State) (k : Blk) : Coded :=
  match s.binding? k.ctx k.bind with
  | some b =>
    let slot := k.base / 2 ^ 60
    if b.packed then
      let pa := paOf k.base
      s.fillPacked b (pa - pa % 131072) (slot - 1) (k.va % 131072) k.size
    else s.fillInPlace b k.base k.size
  | none =>
    if k.bind != 0 && (List.range 2).any fun i => s.metaBits (k.base + 64 * i) != 0 then codecFail 0xE
    else if k.locs.any s.badAt then codecFail 8
    else .ok (memBytes s.mem k.base k.size)

/-- Whether an access of a block waits for a fill: a bound page's block, or one whose slot is absent and whose
metadata is not zero, that the cache does not hold (R355, R370). -/
def State.needsFill (s : State) (k : Blk) : Bool :=
  !s.cached k &&
  ((s.binding? k.ctx k.bind).isSome || (k.bind != 0 && (List.range 2).any fun i => s.metaBits (k.base + 64 * i) != 0))

/-- The bytes of an in-place block's slot that its stored form uses (R357, R358): none of a ZERO block. -/
def State.usedBytes (s : State) (k : Blk) : Nat :=
  let m := s.metaBits k.base
  if (s.binding? k.ctx k.bind).isNone then k.size
  else match bitsOf m (stateShift k.size k.base) 2 with
  | 1 => if k.size ≤ 64 then k.size else 64 * (bitsOf m 2 (usedBits k.size) + 1)
  | 2 => 0
  | _ => k.size

/-- Where the stored bytes of a block lie: its own slot, or the place that a packed page's index gives (R358, R359). -/
def State.storedAt (s : State) (k : Blk) : Nat × Nat :=
  if k.base < 2 ^ 60 then (k.base, s.usedBytes k)
  else
    let frame := paOf k.base - paOf k.base % 131072
    let entry := memNat s.dram (frame + 4 * (k.base / 2 ^ 60 - 1)) 4 + 4 * (k.va % 131072 / k.size)
    let at_ (i : Nat) : Nat := memNat s.dram (frame + entry + 4 * i) 4 % 2 ^ 31
    (frame + at_ 0, at_ 1 - at_ 0)

/-- Whether a packet under way reads stored bytes of a block (R346). -/
def Blk.busy (k : Blk) (s : State) : Bool :=
  let (a, n) := s.storedAt k
  n != 0 && (lineNums a n).any fun x => s.inFlight (max a (128 * x)) || s.inFlight (min (a + n - 1) (128 * x + 64))

/-- Whether no READ has asked for the stored bytes of a block that the cache does not hold (R345). -/
def State.unread (s : State) (k : Blk) : Bool :=
  !s.cached k && (s.storedAt k).2 != 0 && !(s.port (homePort k.base)).reads.contains k.base

/-- Whether an access of a block waits: for a fill, or for the packets that read it (R345, R346, R370). -/
def State.blkWaits (s : State) (k : Blk) : Bool := s.needsFill k || s.unread k || (!s.cached k && k.busy s)

/-- Packets for the stored bytes of a block that the cache does not hold, unless one is under way (R345). -/
def State.requestBlk (s : State) (k : Blk) : State :=
  if !s.unread k then s
  else
    let t := if k.busy s then s else s.send .read (s.storedAt k).1 (s.storedAt k).2
    let p := t.port (homePort k.base)
    t.setPort (homePort k.base) { p with reads := k.base :: p.reads }

/-- A line of a block, clean. -/
def Blk.line (k : Blk) : Line := { pa := k.base, bytes := k.size, ctx := k.ctx, va := k.va, bind := k.bind }

/-- The plain bytes of a filled block, in the cache: bytes that a line holds already keep their values (R373). -/
def State.install (s : State) (k : Blk) (plain : List Byte) : State :=
  ({ s with mem := memPutAll s.mem ((cellsAt k.base plain).filter fun c => (s.lineAt c.1).isNone) }).allocate k.line

/-- A block of an unbound page in the cache once it has been read; one that is there is the one used last (R182, R352). -/
def State.hold (s : State) (k : Blk) : State :=
  if s.cached k then
    let p := s.port (homePort k.base)
    let mine (x : Line) : Bool := k.line.beside x
    s.setPort (homePort k.base) { p with lines := p.lines.filter mine ++ p.lines.filter fun x => !mine x }
  else s.allocate k.line

/-- Bursts of so many bytes. -/
def burstsOf (n : Nat) : Nat := (n + 63) / 64

/-- Bursts that a WRITE covers whole read back without error again (R349). -/
def State.rewritten (s : State) (whole : Nat → Bool) : State :=
  { s with badWords := s.badWords.filter fun x => !whole (x / 8) }

/-- The stored form written to DRAM with its metadata, every other bit of it zero (R348, R357, R358, R372). A change of the
metadata alone goes as ATOMIC packets, else WRITE packets (R345). -/
def State.storeForm (s : State) (pa size : Nat) (state used : Nat) (bytes : List Byte) : State :=
  let old := if size = 16 then s.metaBits pa else if size = 32 then s.metaBits pa % 16 else 0
  let m := putBits old (stateShift size pa) 2 state
  let m := if usedBits size = 0 then m else putBits m 2 (usedBits size) (used - 1)
  let s := (if bytes.isEmpty then s.send .atomic pa 1 else s.send .write pa bytes.length : State)
  let s := (List.range (burstsOf size)).foldl (fun (s : State) i => if i = 0 then s else s.setMeta (pa + 64 * i) 0) s
  let s := s.rewritten fun b => decide (pa ≤ 64 * b) && decide (64 * b + 64 ≤ pa + bytes.length)
  ({ s with dram := memPutAll s.dram (cellsAt pa bytes) }).setMeta pa m

/-- A line as it stands: a bound page's block stored RAW; of an unbound page the dirty units, with metadata zero (R348,
R352, R355, R358). -/
def State.storePlain (s : State) (l : Line) (bound : Bool) : State :=
  let plain := memBytes s.mem l.pa l.bytes
  if bound then s.storeForm l.pa l.bytes 0 (burstsOf l.bytes) plain
  else
    let cells := (cellsAt l.pa plain).filter fun c => l.units.contains ((c.1 - l.pa) / 16)
    let s := { s.send .write l.pa l.bytes with dram := memPutAll s.dram cells }
    let s := s.rewritten fun b => decide (l.pa ≤ 64 * b) && (List.range 4).all fun j => l.units.contains ((64 * b - l.pa) / 16 + j)
    (List.range (burstsOf l.bytes)).foldl (fun s i => s.setMeta (l.pa + 64 * i) 0) s

/-! ### Writer tags (R353) -/

/-- The tag of a warp's thread. -/
def tagOf (s : State) (w : Warp) (lane : Nat) (engine : Bool) (pc : W64) (ep : W32) (since : Nat) : WriterTag :=
  { warp := w.key, region := w.region, ctx := w.ctx, block := ((s.block? w.block).map (·.index)).getD 0, core := w.core
    onL := w.onL, slot := w.slot, lane := lane, engine := engine, pc := pc, twin := twinPc s w ep, ep := ep, since := since
    undo := (w.thread lane).task.undoMode }

/-- The warp that a writer's record names. -/
def WriterTag.named (t : WriterTag) : Option Nat := if t.nowarp then none else some t.warp

/-- A record that names a writer (R457, R462, R464). -/
def tagWords (t : WriterTag) (cause allow batch : Nat) (addr detail : W64) : List W64 :=
  (if t.undo then asUndo else id) <| if t.nowarp then
    [BitVec.ofNat 64 (cause + 2 ^ 9 + bitOf (allow != 0) * 2 ^ 10 + 2 ^ 13 + allow * 2 ^ 14 + t.ctx * 2 ^ 17 + regionId t.region * 2 ^ 32),
     0, 0, 0, 0, 0, addr, detail]
  else
  [BitVec.ofNat 64 (cause + 2 ^ 9 + bitOf (allow != 0) * 2 ^ 10 + bitOf t.onL * 2 ^ 11 + bitOf t.engine * 2 ^ 12
      + allow * 2 ^ 14 + t.ctx * 2 ^ 17 + regionId t.region * 2 ^ 32),
   BitVec.ofNat 64 (t.block + t.ep.toNat * 2 ^ 32),
   BitVec.ofNat 64 (t.since + batch % 65536 * 2 ^ 32 + coreNum t.core * 2 ^ 48 + t.slot * 2 ^ 57),
   t.pc &&& 0x01FFFFFFFFFFFFFF, t.twin, if t.engine then 0 else maskOf [t.lane], addr, detail]

/-- A write of some locations to a line: their units are dirty, and the 128-byte line takes the writer's tag (R352, R353). A block
of 256 bytes has the tag of the last writer of its two lines (log 33). -/
def State.touchLine (s : State) (k : Blk) (locs : List Nat) (tag : WriterTag) : State :=
  locs.foldl (fun s x => match s.lineAt x with
    | some l =>
      let p := s.port (homePort l.pa)
      let l' := { l with units := union l.units [(x - l.pa) / 16], tag := some tag, ctx := k.ctx, va := k.va - (k.base - l.pa), bind := k.bind }
      s.setPort (homePort l.pa) { p with lines := l' :: (p.lines.filter fun y => y.pa != l.pa).map fun y => if l.beside y then { y with tag := some tag } else y }
    | none => s) (s.hold k)

/-- Whether a line may be evicted: none that leaves its sets before it, first-to-evict lines first and persist lines last
(R182). -/
def State.mayEvict (s : State) (l : Line) : Bool :=
  let rank (x : Line) : Nat := if x.cls = 1 then 0 else if x.cls = 2 then 2 else 1
  !(s.port (homePort l.pa)).lines.any fun x =>
    decide (rank x < rank l) && (x.nums.any fun n => l.nums.any fun m => setOf n == setOf m) && !s.lineHeld x

/-- What a write that covers so many locations repairs: damaged bytes of a line, eight at a time (R354), and bursts
that it covers whole (R349). -/
def State.repair (s : State) (locs : List Nat) (loc : Nat) : State :=
  let word := (List.range 8).all fun i => locs.contains (loc / 8 * 8 + i)
  let burst := (List.range 64).all fun i => locs.contains (loc / 64 * 64 + i)
  let s := match s.lineAt loc with
    | some l => if word && l.soft.contains loc then s.putLine { l with soft := l.soft.filter fun x => x / 8 != loc / 8 } else s
    | none => s
  if burst && s.badAt loc then { s with badWords := s.badWords.filter fun x => x / 8 != loc / 64 } else s

/-- Whether a read of a location meets reason 8 (R349, R354): a line that is not in the cache comes in whole or not at all. -/
def State.damaged (s : State) (loc : Nat) : Bool :=
  match s.lineAt loc with
  | some l => l.soft.contains loc || (s.badAt loc && (s.binding? l.ctx l.bind).isNone)
  | none => (List.range 16).any fun i => s.badAt (loc / 128 * 128 + 8 * i)

/-! ### Write-backs (R372 to R376) -/

/-- How a write-back failed: the block, the reason, whether it was stored RAW at once (R375), and its log entry. -/
structure WbFail where
  line   : Line
  reason : Nat
  raw    : Bool
  entry  : Nat
  deriving DecidableEq, Repr, Inhabited

/-- Held lines of 128 bytes in a set of a location's port (R375). -/
def State.heldInSet (s : State) (pa : Nat) : Nat :=
  ((s.port (homePort pa)).waysOf (setOf (pa / 128)) fun l => l.held.isSome).length

/-- Whether holding a line would hold a ninth one in a set (R375). -/
def State.ninth (s : State) (l : Line) : Bool :=
  l.held.isNone && l.nums.any fun n =>
    let held := (s.port (homePort l.pa)).waysOf (setOf n) fun x => x.held.isSome
    !held.contains n && decide (8 ≤ held.length)

/-- An entry of the codec error log of a port, and its number: the first is number 1 (R374, R508). -/
def State.logAt (s : State) (port : Nat) (e : ErrEnt) : Nat × State :=
  let p := s.port port
  (p.errlog.length + 1, s.setPort port { p with errlog := p.errlog ++ [e] })

/-- An entry of the codec error log of an address's home port (R374). -/
def State.logError (s : State) (pa : Nat) (e : ErrEnt) : Nat × State := s.logAt (homePort pa) e

/-- A soft-damaged line stored: the bytes still damaged read back with error status, also from the line (R354). -/
def State.storeDamaged (s : State) (l : Line) : State :=
  let s := s.storePlain l (s.binding? l.ctx l.bind).isSome
  let s := if l.soft.isEmpty then s else { s with badWords := union s.badWords (l.soft.map fun x => x / 8) }
  s.putLine { l with units := [], held := none }

/-- A block that expanded is counted at its port (R372). -/
def State.countRaw (s : State) (pa : Nat) : State :=
  let p := s.port (homePort pa)
  s.setPort (homePort pa) { p with rawCount := p.rawCount + 1 }

/-- A failed write-back: logged; the line is held, or stored RAW at once where it would be a ninth (R374, R375). -/
def State.failWb (s : State) (l : Line) (dec : Bool) (r index : Nat) (m : Option Nat) : State × List WbFail :=
  let (n, s) := s.logError l.pa { decoder := dec, index := index, imm := m, reason := r, tag := l.tag }
  if s.ninth l then ((s.storePlain l true).putLine { l with units := [], held := none, retry := false }, [{ line := l, reason := r, raw := true, entry := n }])
  else (s.putLine { l with held := some r, logged := n }, [{ line := l, reason := r, raw := false, entry := n }])

/-- A dirty line of one block written back: encoded and verified, stored, or it fails and is held (R372, R375). -/
def State.writeBackBlock (s : State) (l : Line) : State × List WbFail :=
  let clean (s : State) : State := s.putLine { l with units := [], held := none, retry := false }
  if !l.soft.isEmpty then (s.storeDamaged l, [])
  else match s.binding? l.ctx l.bind with
  | none => (clean (s.storePlain l false), [])
  | some b =>
    match b.store (memBytes s.mem l.pa l.bytes) with
    | .zero => (clean (s.storeForm l.pa l.bytes 2 1 []), [])
    | .encoded x => (clean (s.storeForm l.pa l.bytes 1 (burstsOf x.length) x), [])
    | .raw expanded =>
      let s := s.storePlain l true
      (clean (if expanded then s.countRaw l.pa else s), [])
    | .fails dec r k m => s.failWb l dec r k m

/-- The blocks that a line lies in, under a binding that its page names now. -/
def State.blocksOfLine (s : State) (l : Line) : List Blk :=
  let n := s.blockBytes l.ctx l.bind
  let off := l.pa % n
  (List.range ((off + l.bytes + n - 1) / n)).map fun i =>
    { base := l.pa - off + n * i, size := n, ctx := l.ctx, va := l.va - off + n * i, bind := l.bind }

/-- The line of one of those blocks, with the marks of its share of the line. -/
def Line.cut (l : Line) (k : Blk) : Line := { l with
  pa := k.base, bytes := k.size, va := k.va
  units := (unitsOf k.size).filter fun u =>
    decide (l.pa ≤ k.base + 16 * u) && l.units.contains ((k.base + 16 * u - l.pa) / 16)
  soft := l.soft.filter fun x => decide (k.base ≤ x) && decide (x < k.base + k.size) }

/-- A line whose binding has come to have another block size, as lines of its blocks: the bytes of a larger block that the
cache does not hold are filled first (R373, R376). -/
def State.recut (s : State) (l : Line) : Except (Nat × Nat × Option Nat) (State × List Line) :=
  (s.blocksOfLine l).foldl (fun (a : Except (Nat × Nat × Option Nat) (State × List Line)) k => match a with
    | .error e => .error e
    | .ok (s, ls) =>
      if s.cached k then .ok (s, ls ++ [l.cut k])
      else match s.fillBlock k with
      | .error e => .error e
      | .ok bs => .ok ({ s with mem := memPutAll s.mem ((cellsAt k.base bs).filter fun c => (s.lineAt c.1).isNone) }, ls ++ [l.cut k]))
    (.ok (s, []))

/-- A dirty line written back, and the blocks that fail. One of another size than its blocks is cut into them first. -/
def State.writeBack (s : State) (l : Line) : State × List WbFail :=
  if l.bytes = s.blockBytes l.ctx l.bind then s.writeBackBlock l
  else match s.recut l with
  | .error (r, k, m) => s.failWb l true r k m
  | .ok (s, ls) => ls.foldl (fun (a : State × List WbFail) x =>
      let r := (a.1.putLine x).writeBackBlock x
      (r.1, a.2 ++ r.2)) (s.dropLine l.pa, [])

/-- The deferred record of a failed write-back, against the line's writer (R374, R457). -/
def State.raiseWb (s : State) (f : WbFail) : State :=
  match f.line.tag with
  | none => s
  | some t =>
    s.raise t.ctx t.region
      (tagWords t (0x0F0 + f.reason) (allowOf (0x0F0 + f.reason)) f.entry (BitVec.ofNat 64 f.line.va)
        (if f.raw then BitVec.ofNat 64 (2 ^ 62) else 0))
      (if f.raw then .nothing else .line (homePort f.line.pa) f.line.pa) false false t.named

/-- A write-back that is nobody's instruction: eviction, a posted `cwb`, a move, a rebind. A held 128-byte line is not tried
(R375). Whether nothing of the line stays dirty. -/
def State.writeBackDeferred (s : State) (l : Line) : State × Bool :=
  if s.lineHeld l then (s, false)
  else if !l.dirty then (s, true)
  else
    let (s, fs) := s.writeBack l
    (fs.foldl State.raiseWb s, fs.all (·.raw))

/-- Everything that the cache holds of a block's 128-byte lines written back and evicted together (R352), unless a part of it stays. -/
def State.evict (s : State) (l : Line) : State :=
  let (t, ok) := (s.besides l).foldl (fun (a : State × Bool) x =>
    let r := a.1.writeBackDeferred x
    (r.1, a.2 && r.2)) (s, true)
  if ok then (t.besides l).foldl (fun t x => t.dropLine x.pa) t else t

/-- A line dropped with the writes since its last write-back (R376): its bytes are those the stored blocks give. -/
def State.abandon (s : State) (l : Line) : State :=
  let s := s.dropLine l.pa
  let mine (c : Host.Cell) : Bool := decide (l.pa ≤ c.1) && decide (c.1 < l.pa + l.bytes)
  match s.binding? l.ctx l.bind with
  | none => { s with mem := memPutAll s.mem (cellsAt l.pa (memBytes s.dram l.pa l.bytes)) }
  | some _ => (s.blocksOfLine l).foldl (fun s k => match s.fillBlock k with
    | .ok bs => { s with mem := memPutAll s.mem ((cellsAt k.base bs).filter mine) }
    | .error _ => s) s

/-- A record stops no warp any more. -/
def State.unstop (s : State) (id : Nat) : State :=
  { s with warps := s.warps.map fun w => { w with stopped := w.stopped.filter fun x => x != id } }

/-- The records that hold a line, resolved by its write-back: its own, and that of a `cwb.sync` that names it, whose instruction
is replayed (R203). -/
def State.lineDone (s : State) (pa : Nat) : State :=
  let mine (r : Rec) : Bool := !r.resolved && (match r.acts with
    | .line _ a => a == pa
    | .sync _ _ (a :: _) => a == pa
    | _ => false)
  let t := (s.recs.filter mine).foldl (fun s r => s.unstop r.id) s
  { t with recs := t.recs.map fun (r : Rec) => if mine r then { r with resolved := true } else r }

/-- Whether a deferred record of its own holds a line (R375). -/
def State.ownRecord (s : State) (pa : Nat) : Bool := s.recs.any fun r => r.acts == .line (homePort pa) pa && !r.resolved

/-- One block of a held line written back once more: stored with its damage (R354), RAW where its page has no binding any more, or
as any write-back, whose failures raise records of their own (R376). -/
def State.retryBlock (mode : Nat) (s : State) (l : Line) : State :=
  let l := if mode = 2 then { l with bind := s.bindOf l.ctx l.va } else l
  if !l.soft.isEmpty then s.storeDamaged l
  else if l.held.isNone && (s.lineHeld l || !l.dirty) then s
  else if mode = 2 && l.bind = 0 then (s.storePlain { l with units := unitsOf l.bytes } false).putLine { l with units := [], held := none }
  else
    let (t, fs) := (s.putLine { l with held := none }).writeBack { l with held := none }
    fs.foldl State.raiseWb t

/-- RESUME, RESUME-WITH-REBIND and KILL of a record that holds a line (R376, R354): the block of the record first, then the others of
its 128-byte line. -/
def State.resolveLine (s : State) (pa mode : Nat) : State :=
  match s.lineAt pa with
  | none => s
  | some l =>
    if l.held.isNone then s
    else if mode = 1 then (s.besides l).foldl State.abandon s
    else
      let t := ((s.besides l).filter fun x => x.pa != l.pa && x.held.isNone).foldl (State.retryBlock mode) (State.retryBlock mode s l)
      if (t.lineAt pa).any (·.held.isSome) then t else t.lineDone pa

/-- The resolution of a `cwb.sync` record for one line that its write-back left held: the replay may try it again; KILL
drops it unless a deferred record of its own holds it (R203, R354, R376). -/
def State.resolveSync (mode : Nat) (s : State) (pa : Nat) : State :=
  match s.lineAt pa with
  | none => s
  | some l =>
    if l.held.isNone then s
    else if mode = 1 then (if (s.besides l).any fun x => s.ownRecord x.pa then s else (s.besides l).foldl State.abandon s)
    else if !l.soft.isEmpty then (s.storeDamaged l).lineDone pa
    else
      let bind := if mode = 2 then s.bindOf l.ctx l.va else l.bind
      s.putLine { l with retry := true, bind := bind, units := if bind = 0 then unitsOf l.bytes else l.units }

end Sys2Proof.Machine
end

