-- ==== Sys2Proof/Machine/Memory.lean ====
section
/-!
DEFINITION. Plain access, fences, `post` and the steps that carry them out (07, 11 R298 to R314, 16 R454).
-/
namespace Sys2Proof.Machine
open Sys2Proof

/-! ### Addresses and checks (R184, R192 to R196) -/

/-- POL, SCOPE and ORD as a `pol` prefix leaves them; `lds` and `sts` ignore its policy (R49, R195). -/
structure Mods where
  pol   : Nat
  scope : Nat
  ord   : Nat
  deriving DecidableEq, Repr, Inhabited

def modsOf (i : Iss) (own : Mods) (spad : Bool) : Mods :=
  match i.pfx with
  | some p => if p.isImx then own else { pol := if spad then 0 else p.pol.toNat, scope := p.scope.toNat, ord := p.ord.toNat }
  | none => own

/-- Whether a prefix supplies an order that its target does not accept (R195). -/
def modsBad (i : Iss) (ords : List Nat) : Bool :=
  match i.pfx with
  | some p => !p.isImx && (!ords.contains p.ord.toNat || (p.ord == 0 && p.scope != 0))
  | none => false

/-- A lane's base pointer: A, or for `lds` and `sts` the offset A in space 1 (R184, R196). -/
def baseOf (w : Warp) (f : Fields) (spad : Bool) (l : Nat) : W64 :=
  if spad then BitVec.ofNat 64 (2 ^ 60 + readReg w f.a 0 false l) else BitVec.ofNat 64 (readReg w f.a 0 true l)

/-- A lane's displacement (R184). -/
def dispOf (w : Warp) (f : Fields) (l : Nat) : Int :=
  signedOf 32 (readReg w f.b 0 false l) * 2 ^ f.scale + signedOf 32 f.im

/-- The checks of the lanes of an access. -/
def lanesChk (s : State) (w : Warp) (f : Fields) (spad : Bool) (kind pol size : Nat) (lanes : List Nat) : List LaneChk :=
  lanes.map fun l => checkLane s w kind l (baseOf w f spad l) (dispOf w f l) pol size

/-- The page of an address, a large page as one (R340). -/
def pageOfVa (s : State) (ctx va : Nat) : Nat :=
  match s.walk ctx va with
  | .leaf level _ _ => pageOf level va
  | _ => pageOf 3 va

/-- The pages that checked lanes with reason 0 name, in order, each once (R338, R340). -/
def missingPages (s : State) (ctx : Nat) (cs : List LaneChk) : List Nat :=
  union [] ((cs.filter fun c => c.why == some 0 && c.level.isNone).map fun c => pageOfVa s ctx (ptrOff c.addr))

/-- A write waits at copy-on-write leaves: their port is to break them (R327). -/
def State.noteCow (s : State) (ctx : Nat) (cs : List LaneChk) : State :=
  let new := (cs.filter fun c => c.cow && leafCow c.leaf).map fun c => (ctx, pageOfVa s ctx (ptrOff c.addr))
  { s with paging := { s.paging with cowWaits := new.foldl (fun l x => if l.contains x then l else l ++ [x]) s.paging.cowWaits } }

/-- The fault or the hold of an access before it starts (R192, R193, R327, R338). -/
def accessStop (i : Iss) (s : State) (kind : Nat) (cs : List LaneChk) : Option Eff :=
  match worstChk cs with
  | some (r, lanes, addr, level) =>
    some (.trap { cause := 0x080 + 16 * kind + r, lanes := lanes, addr := addr, level := level
                  pages := if r = 0 && level.isNone then some (missingPages s i.w.ctx cs) else none })
  | none => if cs.any (·.cow) then some (.hold ((i.back s).noteCow i.w.ctx cs)) else none

/-! ### Loads (R196) -/

/-- The register writes of a lane's loaded bytes (R37, R196). -/
def loadWrites (dst : BitVec 8) (sgn : Bool) (l : Nat) (bs : List Byte) : List RegWrite :=
  let v := natOfBytes bs
  if bs.length = 16 then
    if isVec dst then (List.range 4).map fun k => ⟨.v l (dst.toNat + k), BitVec.ofNat 64 (v / 2 ^ (32 * k) % 2 ^ 32)⟩
    else if isScal dst then [⟨.s (dst.toNat - 0x80), BitVec.ofNat 64 v⟩, ⟨.s (dst.toNat - 0x7F), BitVec.ofNat 64 (v / 2 ^ 64)⟩]
    else []
  else if bs.length = 8 then destWrites dst true l v
  else destWrites dst false l (if sgn then wrapNat 32 (signedOf (8 * bs.length) v) else v)

/-- The policy of an access (R182). -/
def policyOf (pol : Nat) (c : LaneChk) : Nat := if pol != 0 then pol - 1 else ptrPolicy c.addr

/-- The class that the memory-side cache gives the lines of a block that it allocates for an access, and the packets for a
block that a lane needs (R182, R345). -/
def State.requestBlock (s : State) (ctx pol : Nat) (c : LaneChk) : State :=
  if ptrSpace c.addr != 0 then s
  else
    let k := s.blockOf ctx (ptrOff c.addr) (s.homeLoc c.loc)
    let p := s.port (homePort k.base)
    let cls := if policyOf pol c ≤ 2 then policyOf pol c else 0
    (s.setPort (homePort k.base) { p with wants := kvSet p.wants (k.base / 128) cls }).requestBlk k

/-- An L-core's data cache of 4,096 lines of 128 bytes with one line more (R11, R182): the oldest first-to-evict line leaves, else
the oldest of all; it has no sets (DESIGN CHOICE, log 20: the spec says which lines are first to evict and no more). -/
def capLines (d : List DLine) : List DLine :=
  if d.length ≤ 4096 then d
  else match (d.drop 1).reverse.find? (·.soon) with
    | some x => d.filter fun y => y.line != x.line
    | none => d.dropLast

/-- The data cache of an L-core at an access (R182): code 3 leaves it as it is, 4 invalidates the line, the others allocate
it; a store makes it dirty (R202). -/
def State.dataCache (s : State) (w : Warp) (pol : Nat) (store : Bool) (c : LaneChk) : State :=
  if !w.onL || !(ptrSpace c.addr == 0 || ptrSpace c.addr == 8) then s
  else
    let p := policyOf pol c
    let k := s.core w.core
    let n := c.loc / 128
    let d := k.dcache.filter fun x => x.line != n
    let x : DLine := { line := n, soon := p == 1, dirty := store || k.dcache.any fun x => x.line == n && x.dirty }
    s.setCore w.core { k with dcache := if p = 4 then d else if p = 3 then k.dcache else capLines (x :: d) }

/-- A load becomes pending (R196, R298). -/
def startLoad (i : Iss) (s : State) (f : Fields) (m : Mods) (cs : List LaneChk) : State :=
  let s := fillLanes s i.w cs
  let (id, s) := s.newWid
  let size := sizeBytes f.ty
  let ld : Load := {
    id := id, dst := f.d, size := size, acq := m.ord == 2, scope := m.scope, pc := i.pcCur, ep := i.w.ep
    since := i.w.since, signed := f.ty == 5 || f.ty == 6, undo := inUndo i.w (cs.map (·.lane))
    lanes := cs.map fun c => { lane := c.lane, loc := c.loc, va := c.addr, space := ptrSpace c.addr, got := List.replicate size none } }
  let s := cs.foldl (fun s c => (s.requestBlock i.w.ctx m.pol c).dataCache i.w m.pol false c) s
  s.upd i fun w => { w with ld := w.ld + 1, loads := w.loads ++ [ld] }

/-- `ld` and `lds` (R196). -/
def loadBody (f : Fields) (spad : Bool) (i : Iss) (s : State) : Eff :=
  if modsBad i [0, 1, 2] then trapAll i 0x007
  else
    let m := modsOf i { pol := f.pol, scope := f.scope, ord := f.ord } spad
    let cs := lanesChk s i.w f spad 0 m.pol (sizeBytes f.ty) (i.lanesFor (allScalar f))
    match accessStop i s 0 cs with
    | some e => e
    | none => .done (startLoad i s f m cs)

/-- `ld` (R196). -/
def execLd (f : Fields) (s : State) : Out := issueSplit (.ld f) s (allScalar f) {} (loadBody f false)
/-- `lds` (R196). -/
def execLds (f : Fields) (s : State) : Out := issueSplit (.lds f) s (allScalar f) {} (loadBody f true)

/-! ### Stores (R199) -/

/-- The bytes of C in a lane (R37, R199). -/
def storeBytes (w : Warp) (f : Fields) (l : Nat) : List Byte :=
  let n := sizeBytes f.ty
  if n = 16 then
    if isVec f.c then (List.range 4).flatMap fun k => bytesOf 4 (((w.thread l).vreg (f.c.toNat + k)).toNat)
    else if isScal f.c then bytesOf 8 (w.sreg (f.c.toNat - 0x80)).toNat ++ bytesOf 8 (w.sreg (f.c.toNat - 0x7F)).toNat
    else List.replicate 16 0
  else bytesOf n (readReg w f.c 0 (n == 8) l)

/-- Cells in pieces of so many bytes. -/
def pieces (n : Nat) : Nat → List Host.Cell → List (List Host.Cell)
  | 0, _ => []
  | k + 1, cs => if cs.isEmpty then [] else cs.take n :: pieces n k (cs.drop n)

/-- The write events of a store (R191, R296): a byte each when plain, 32-bit pieces of b128, else one. -/
def eventsOf (ord : Nat) (cells : List Host.Cell) : List (List Host.Cell) :=
  if cells.length = 16 then pieces 4 16 cells else if ord = 0 then pieces 1 16 cells else [cells]

/-- What entries of an instruction have in common. -/
structure Post where
  op    : Nat
  kind  : FifoKind
  m     : Mods
  pc    : W64
  ep    : W32
  since : Nat
  quiet : Bool := false

/-- One write event or atomic of a lane appended to its warp's FIFO: it takes a number, joins its thread's covered
set, and a release or a write behind a release marker keeps what an acquire of it learns (R298, R301 to R303). -/
def pushEntry (key : Nat) (p : Post) (lane : Nat) (va : W64) (cells : List Host.Cell) (s : State) : State :=
  match s.warp? key with
  | none => s
  | some w =>
    let (wid, s) := s.newWid
    let t := w.thread lane
    let release := p.m.ord == 3 || p.m.ord == 4
    let heads := (if release then [wid] else []) ++ t.markers
    let s := if heads.isEmpty then s else
      s.addMeta { wid := wid, release := release, scope := p.m.scope, core := w.core, warp := w.key, covered := if release then t.covered else [], heads := heads }
    let e : FifoEnt := { wid := wid, op := p.op, kind := p.kind, lane := lane, cells := cells, va := va, release := release
                         scope := p.m.scope, covered := if release then t.covered else [], pc := p.pc, space := ptrSpace va
                         ep := p.ep, since := p.since, undo := t.task.undoMode, quiet := p.quiet }
    s.setWarp { (w.setThread lane fun t => { t with covered := union t.covered [wid], swapCov := if ptrSpace va = 7 then union t.covered [wid] else t.swapCov }) with fifo := w.fifo ++ [e] }

/-- The class that a store gives the lines that it allocates (R182). -/
def State.noteClass (s : State) (ctx pol : Nat) (c : LaneChk) : State :=
  if ptrSpace c.addr != 0 then s
  else
    let k := s.blockOf ctx (ptrOff c.addr) (s.homeLoc c.loc)
    let p := s.port (homePort k.base)
    s.setPort (homePort k.base) { p with wants := kvSet p.wants (k.base / 128) (if policyOf pol c ≤ 2 then policyOf pol c else 0) }

/-- The entries of a store in increasing lane order, so that the highest lane's byte remains (R199). -/
def pushStores (i : Iss) (kind : FifoKind) (m : Mods) (data : List (LaneChk × List Byte)) (s : State) : State :=
  let op := i.w.nextOp
  let p : Post := { op := op, kind := kind, m := m, pc := i.pcCur, ep := i.w.ep, since := i.w.since }
  let s := data.foldl (fun s d =>
    (eventsOf m.ord (cellsAt d.1.loc d.2)).foldl (fun s e => pushEntry i.w.key p d.1.lane d.1.addr e s)
      ((s.noteClass i.w.ctx m.pol d.1).dataCache i.w m.pol true d.1)) s
  s.upd i fun w => { w with st := w.st + 1, nextOp := op + 1 }

/-- `st` and `sts` (R199). -/
def storeBody (f : Fields) (spad : Bool) (i : Iss) (s : State) : Eff :=
  if modsBad i [0, 1, 3] then trapAll i 0x007
  else
    let m := modsOf i { pol := f.pol, scope := f.scope, ord := f.ord } spad
    let cs := lanesChk s i.w f spad 1 m.pol (sizeBytes f.ty) (i.lanesFor (allScalar f))
    match accessStop i s 1 cs with
    | some e => e
    | none => .done (pushStores i .store m (cs.map fun c => (c, storeBytes i.w f c.lane)) (fillLanes s i.w cs))

/-- `st` (R199). -/
def execSt (f : Fields) (s : State) : Out := issueSplit (.st f) s (allScalar f) {} (storeBody f false)
/-- `sts` (R199). -/
def execSts (f : Fields) (s : State) : Out := issueSplit (.sts f) s (allScalar f) {} (storeBody f true)

/-- `post`: a device-scope release store to the region's RESULT word (R454). -/
def postBody (f : Fields) (ends : Bool) (i : Iss) (s : State) : Eff :=
  let v := if f.a = 0xF1 then f.im else readReg i.w f.a 0 true i.low
  let cs := [checkLane s i.w 1 i.low (BitVec.ofNat 64 (regionId i.w.region * 256 + 136)) 0 1 8]
  match accessStop i s 1 cs with
  | some e => e
  | none => .done (pushStores i (.post ends) { pol := 0, scope := 4, ord := 3 } (cs.map fun c => (c, bytesOf 8 v)) (fillLanes s i.w cs))

/-- `post` (R454). -/
def execPost (f : Fields) (s : State) : Out := issueSplit (.post f) s (allScalar f) {} (postBody f false)
/-- `post.end` (R454). -/
def execPostEnd (f : Fields) (s : State) : Out := issueSplit (.postEnd f) s (allScalar f) {} (postBody f true)

/-! ### `pf`, `mkptr`, `ptrq` (R201, R204, R205) -/

/-- The ports that lead to the device of a remote location (R479). -/
def State.routeOf (s : State) (loc : Nat) : List Nat := kvGet s.links.routes ((loc - remoteBase) / 2 ^ 76) []

/-- Whether a route with a port up leads to the device of a remote location (R481). -/
def State.reachable (s : State) (loc : Nat) : Bool := (s.routeOf loc).any fun p => (s.fport p).up

/-- What the remote device answers for the page of a location: 0 it passes, 1 it is not present yet, 2 it is refused (R481). -/
def State.farAt (s : State) (loc : Nat) : Nat := kvGet s.links.far (loc / 131072) 0

/-- Whether an access to a remote location fails with reason 0xF (R481). -/
def State.unreachable (s : State) (loc : Nat) : Bool := !s.reachable loc || s.farAt loc == 2

/-- Whether every port up of a route holds a class of traffic under a pause (R482): 0 requests, 1 replies, 2 system. -/
def State.classPaused (s : State) (loc cls : Nat) : Bool :=
  s.reachable loc && (s.routeOf loc).all fun p => !(s.fport p).up || ((s.fport p).paused.any fun c => c.1 == cls)

/-- Whether a request to a remote location waits: under a pause, or for a promotion at the remote device (R481, R482). -/
def State.fabricPaused (s : State) (loc : Nat) : Bool := s.classPaused loc 0 || (s.reachable loc && s.farAt loc == 1)

/-- A flit has crossed a port: it has trained, and no flit has been sent again in a row (R479). -/
def State.flitOk (s : State) (port : Nat) : State := s.setFport port { s.fport port with training := none, resends := 0 }

/-- The port of a route that a request leaves through: the first that is up and not paused. -/
def State.portTo (s : State) (loc : Nat) : Nat :=
  ((s.routeOf loc).find? fun p => (s.fport p).up && !((s.fport p).paused.any fun c => c.1 == 0)).getD 0

/-- A request to a location crosses the port that it leaves through, if it is a remote one. -/
def State.crossed (s : State) (loc : Nat) : State := if loc < remoteBase then s else s.flitOk (s.portTo loc)

/-- `pf` has asked for a block: one that needs no decoding comes into the cache with its packets (R201). -/
def State.notePf (s : State) (ctx : Nat) (c : LaneChk) : State :=
  if ptrSpace c.addr != 0 then s
  else
    let k := s.blockOf ctx (ptrOff c.addr) (s.homeLoc c.loc)
    if s.cached k || s.needsFill k then s
    else
      let p := s.port (homePort k.base)
      s.setPort (homePort k.base) { p with pfs := p.pfs ++ [(ctx, k.va, k.base)] }

/-- `pf` (R201): a line asked for, for the caches that its policy lets allocate it; a lane whose access would fault, or whose
window is unreachable, is dropped. -/
def execPf (f : Fields) (s : State) : Out :=
  issueSplit (.pf f) s (allScalar f) {} fun i s =>
    let cs := lanesChk s i.w f false 0 f.pol 1 (i.lanesFor (allScalar f))
    .done (cs.foldl (fun s c =>
      if c.why.isSome || !(ptrSpace c.addr == 0 || (ptrSpace c.addr == 8 && !s.unreachable c.loc)) then s
      else
        let s := (s.requestBlock i.w.ctx f.pol c).notePf i.w.ctx c
        if 3 ≤ policyOf f.pol c then s else s.dataCache i.w f.pol false c) s)

/-- The pointer that `mkptr` forms (R204). -/
def mkptrVal (space pol a b : Nat) : Nat :=
  let p := space * 2 ^ 60 + pol * 2 ^ 57 + a % 2 ^ offBits space
  let p := if space = 2 || space = 7 then putBits p 48 9 b else p
  if space = 8 then putBits p 45 12 b else p

/-- `mkptr` (R204). -/
def execMkptr (f : Fields) (s : State) : Out :=
  issueSplit (.mkptr f) s (allScalar f) {} fun i s =>
    writeEff i s ((i.lanesFor (allScalar f)).flatMap fun l =>
      destWrites f.d true l (mkptrVal (f.im % 16) (bitsOf f.im 4 3) (readReg i.w f.a 0 true l) (readReg i.w f.b 0 false l)))

/-- The word of `ptrq` (R205): in spaces 1 to 8 bits 12 and 13 are INWIN, although the rule also calls bits 15 to 10 zero, and a
space 7 pointer is in its window where either a load or a store of a byte would pass (DESIGN CHOICE, log 54). No write to a packed
page is permitted (R359). -/
def ptrqWord (s : State) (w : Warp) (l : Nat) (p : W64) (d : Int) : Nat :=
  let sp := ptrSpace p
  let pol := ptrPolicy p
  let x := sp + 16 * pol
  if 9 ≤ sp || ((sp == 0 || sp == 8) && decide (5 ≤ pol)) then x
  else
    let x := x + 2 ^ 7
    match effective p d 0 with
    | (some _, _) => x
    | (none, q) =>
      if sp = 0 then
        let x := x + 2 ^ 8
        match s.lookup w.core w.ctx (ptrOff q) with
        | .leaf _ _ e =>
          if leafWin e != (s.context w.ctx).win then x
          else x + 2 ^ 9 + 2 ^ 10 * leafTier e + 2 ^ 12 * bitOf (leafR e) + 2 ^ 13 * bitOf (leafW e && (s.packedSlot w.ctx e (ptrOff q)).isNone) + 2 ^ 14 * bitOf (leafCow e)
            + 2 ^ 15 * bitOf (leafBind e != 0) + 2 ^ 16 * leafBind e
        | _ => x
      else
        let c := checkLane s w 0 l p d 0 1
        let out := c.why == some 5 || c.why == some 6
        let c' := if sp = 7 then checkLane s w 1 l p d 0 1 else c
        if out && (c'.why == some 5 || c'.why == some 6) then x
        else x + 2 ^ 8 + 2 ^ 9 + 2 ^ 12 + 2 ^ 13

/-- `ptrq` (R205). -/
def execPtrq (f : Fields) (s : State) : Out :=
  issueSplit (.ptrq f) s (allScalar f) {} fun i s =>
    writeEff i s ((i.lanesFor (allScalar f)).flatMap fun l =>
      destWrites f.d false l (ptrqWord s i.w l (baseOf i.w f false l) (dispOf i.w f l)))

/-! ### `cwb` (R202, R203) -/

/-- A granule's check: reasons 5 and 6 only, 5 before 6 (R192, R202). -/
def granuleChk (s : State) (w : Warp) (f : Fields) (l : Nat) : LaneChk :=
  let b := baseOf w f false l
  let d := dispOf w f l
  let (r, p) := effective b d 0
  match (if spaceClosed s w 1 (ptrSpace p) then some 5 else r) with
  | some r => { lane := l, addr := p, why := some r }
  | none =>
    let c := checkLane s w 1 l b d 0 1
    if ptrSpace p = 0 then { lane := l, addr := p }
    else { lane := l, addr := p, why := if c.why == some 5 || c.why == some 6 then c.why else none }

/-- The granules of an instruction in spaces 0 and 8, each once. -/
def granules (cs : List LaneChk) : List Nat :=
  union [] ((cs.filter fun c => ptrSpace c.addr == 0 || ptrSpace c.addr == 8).map fun c => c.addr.toNat / 256 * 256)

/-- `cwb` and `cwb.sync`: one ST entry behind every older store of the warp; its cells name the granules, its covered
list the lanes. -/
def cwbBody (f : Fields) (sync : Bool) (i : Iss) (s : State) : Eff :=
  let cs := (i.lanesFor (allScalar f)).map (granuleChk s i.w f)
  match accessStop i s 1 cs with
  | some e => e
  | none =>
    let op := i.w.nextOp
    let (wid, s) := s.newWid
    let e : FifoEnt := { wid := wid, op := op, kind := .cwb sync, lane := i.low, cells := (granules cs).map fun g => (g, 0), va := 0
                         release := false, scope := 0, covered := i.lanes, pc := i.pc, space := 0, ep := i.w.ep, since := i.w.since
                         undo := inUndo i.w i.lanes }
    let s := s.upd i fun w => { w with st := w.st + 1, nextOp := op + 1, fifo := w.fifo ++ [e] }
    if sync then .hold (s.upd i fun w => { w with hold := .cwbSync op i.all }) else .done s

/-- `cwb` (R202). -/
def execCwb (f : Fields) (s : State) : Out := issueSplit (.cwb f) s (allScalar f) {} (cwbBody f false)
/-- `cwb.sync` (R203). -/
def execCwbSync (f : Fields) (s : State) : Out := issueSplit (.cwbSync f) s (allScalar f) {} (cwbBody f true)

/-! ### Fences (R313, R314) -/

/-- Whether older loads or returning atomics of some lanes are unfinished. -/
def Warp.busyLanes (w : Warp) (ls : List Nat) : Bool :=
  (w.loads.any fun ld => ld.lanes.any fun x => !x.done && ls.contains x.lane) ||
  ((w.fifo ++ w.failed).any fun e => ls.contains e.lane && (match e.kind with
    | .atomic _ _ _ _ ret _ _ => ret
    | _ => false))

/-- A release marker appended for some threads (R302, R303), which heads their later writes; a TRIG marker heads none: only the
dependent launch acquires from it (R305). -/
def pushMarker (key : Nat) (kind : FifoKind) (lanes : List Nat) (scope : Nat) (pc : W64) (s : State) : State :=
  match s.warp? key with
  | none => s
  | some w =>
    let (wid, s) := s.newWid
    let covered := lanes.foldl (fun c l => union c (w.thread l).covered) []
    let e : FifoEnt := { wid := wid, op := w.nextOp, kind := kind, lane := lanes.headD 0, cells := lanes.map fun l => (l, 0), va := 0
                         release := true, scope := scope, covered := covered, pc := pc, space := 0 }
    let s := s.addMeta { wid := wid, release := true, scope := scope, core := w.core, warp := w.key, covered := covered, heads := [wid] }
    let w := if kind == .marker then w.setLanes lanes fun _ t => { t with markers := t.markers ++ [wid] } else w
    s.setWarp { w with fifo := w.fifo ++ [e], nextOp := w.nextOp + 1 }

/-- `fence` (R313): `.ar` is both halves; at thread or warp scope it only holds. -/
def execFence (f : Fields) (s : State) : Out :=
  issue (.fence f) s fun i s =>
    let rel := f.ty != 1
    let acq := f.ty != 2
    if acq && i.w.busyLanes i.lanes then .hold (i.back s)
    else if f.aux ≤ 1 then .done s
    else
      let s := if rel then pushMarker i.w.key .marker i.lanes f.aux i.pc s else s
      let join (t : Thread) : Thread :=
        { t with covered := t.reads.foldl (fun c wid => union c (acquired s.order i.w.core i.w.key f.aux wid)) t.covered }
      .done (if acq then s.upd i fun w => w.setLanes i.lanes fun _ t => join t else s)

/-- Whether a write has reached its home. -/
def atHome (s : State) (wid : Nat) : Bool := !inFifo s wid && !inFabric s wid

/-- `ifence` (R314): its covered sets hold what the older loads of its threads read. -/
def execIfence (f : Fields) (s : State) : Out :=
  issue (.ifence f) s fun i s =>
    if !i.w.busyLanes i.lanes && i.lanes.all fun l => ((i.w.thread l).covered).all (atHome s) then
      let c := s.core i.w.core
      .done (s.setCore i.w.core { c with icache := [] })
    else .hold (i.back s)

/-! ### FORWARD and READ (R298, R299) -/

/-- The load of a number and its lane. -/
def Warp.loadLane? (w : Warp) (id l : Nat) : Option (Load × LoadLane) :=
  match w.loads.find? fun x => x.id == id with
  | none => none
  | some ld => (ld.lanes.find? fun x => x.lane == l).map fun x => (ld, x)

def Load.setLane (ld : Load) (x : LoadLane) : Load :=
  { ld with lanes := ld.lanes.map fun y => if y.lane == x.lane then x else y }

def Warp.setLoad (w : Warp) (ld : Load) : Warp :=
  { w with loads := w.loads.map fun x => if x.id == ld.id then ld else x }

def FifoKind.isAtomic : FifoKind → Bool
  | .atomic _ _ _ _ _ _ _ => true
  | _ => false

/-- Whether an entry writes memory. -/
def FifoKind.writes : FifoKind → Bool
  | .marker | .trig | .cwb _ => false
  | _ => true

/-- The byte that an entry older than a load writes to a location. -/
def FifoEnt.writesAt (e : FifoEnt) (s : State) (id loc : Nat) : Option Byte :=
  if e.wid < id && e.kind.writes then (e.cells.find? fun c => s.homeLoc c.1 == loc).map (·.2) else none

/-- The newest entry of the FIFO older than a load that writes a location, and its byte: no atomic of the FIFO that is older
than the load may still write it (R299). -/
def newestMatch (s : State) (w : Warp) (id loc : Nat) : Option (FifoEnt × Byte) :=
  if w.fifo.any fun e => e.kind.isAtomic && (e.writesAt s id loc).isSome then none
  else (w.fifo.filterMap fun e => (e.writesAt s id loc).map fun b => (e, b)).getLast?

/-- Whether a READ of a location waits for a write of the load's warp that has not reached its home: an atomic of the FIFO,
or a write in its thread's covered set, also in a fabric port's queue (R299, R309). -/
def ownPending (s : State) (w : Warp) (id lane loc : Nat) : Bool :=
  let own (e : FifoEnt) : Bool := (w.thread lane).covered.contains e.wid && (e.writesAt s id loc).isSome
  (w.fifo.any fun e => (e.kind.isAtomic && (e.writesAt s id loc).isSome) || own e) || w.failed.any own ||
  s.links.fports.any fun p => p.2.queue.any fun q => q.warp == w.key && own q.ent

/-- Whether a load of a lane may be satisfied: its older acquires have been, and its thread's older loads of the same
bytes (R299). -/
def Warp.loadReady (w : Warp) (ld : Load) (x : LoadLane) : Bool :=
  !(w.loads.any fun o => decide (o.id < ld.id) && o.lanes.any fun y =>
      y.lane == x.lane && !y.done && (o.acq || (decide (y.loc < x.loc + ld.size) && decide (x.loc < y.loc + o.size)))) &&
  !((w.fifo ++ w.failed).any fun e => decide (e.wid < ld.id) && e.lane == x.lane && (match e.kind with
    | .atomic _ _ _ _ ret _ acq => ret && acq
    | _ => false))

/-- Whether an entry comes behind a release of its thread, still in the FIFO, whose thread has older reads that are not over: what
they read joins that release, and an acquire that reads the entry waits for it (R301, R303). -/
def openRelease (s : State) (w : Warp) (e : FifoEnt) : Bool :=
  let heads := ((metaOf s.order e.wid).map (·.heads)).getD []
  w.fifo.any fun h => h.release && heads.contains h.wid &&
    ((w.loads.any fun ld => decide (ld.id < h.wid) && ld.lanes.any fun x => h.ofLane x.lane && !x.done) ||
     w.fifo.any fun a => a.kind.isAtomic && decide (a.wid < h.wid) && h.ofLane a.lane)

/-- FORWARD: a pending load takes bytes from the newest matching write in its warp's FIFO (R298); an atomic is never a
source, and its bytes wait for it (R299). -/
def execForward (w load lane : Nat) (s : State) : Out :=
  match s.warp? w with
  | none => .next s
  | some x => match x.loadLane? load lane with
    | none => .next s
    | some (ld, y) =>
      if y.done || y.why.isSome || !x.loadReady ld y then .next s
      else
        let hit (k : Nat) : Option (FifoEnt × Byte) := newestMatch s x ld.id (s.homeLoc (y.loc + k))
        if ld.acq && (List.range ld.size).any fun k => (hit k).any fun h => openRelease s x h.1 then .next s else
        let got := (List.range ld.size).zipWith (fun k g => match g with
          | some b => some b
          | none => (hit k).map (·.2)) y.got
        let wids := union [] (((List.range ld.size).filter fun k => (y.got.getD k none).isNone).filterMap fun k => (hit k).map (·.1.wid))
        let z := x.setLoad (ld.setLane { y with got := got })
        .next ((s.setWarp z).learn w lane load (if ld.acq then some ld.scope else none) wids)

/-- The block of a lane of a load. -/
def laneBlk (s : State) (w : Warp) (x : LoadLane) : Blk := s.blockOf w.ctx (ptrOff x.va) (s.homeLoc x.loc)

/-- Whether the bytes that FORWARD has not supplied can be read now (R298, R299, R346, R352, R370, R482). -/
def readEnabled (s : State) (w : Warp) (ld : Load) (x : LoadLane) : Bool :=
  w.loadReady ld x && x.why.isNone &&
  ((List.range ld.size).all fun k => (x.got.getD k none).isSome ||
    (!ownPending s w ld.id x.lane (s.homeLoc (x.loc + k)) &&
     !(x.space == 0 && (s.blkWaits (laneBlk s w x) || !s.room (laneBlk s w x))))) &&
  !(x.space == 8 && s.fabricPaused x.loc)

/-- The reasons of R197 in the order that ranks them. -/
def lateRank (r : Nat) : Nat := match r with
  | 8 => 0 | 9 => 1 | 0xC => 2 | 0xD => 3 | 0xE => 4 | 0xF => 5 | _ => 6

/-- The reason that a late record carries. -/
def lateReason (rs : List Nat) : Nat :=
  rs.foldl (fun m r => if lateRank r < lateRank m then r else m) (rs.headD 0)

/-- Where a warp stands. -/
def Warp.stopPc (w : Warp) : W64 :=
  match w.bundle with
  | l :: _ => (w.thread l).pc
  | [] => match w.lowestPc w.live with
    | some p => BitVec.ofNat 64 p
    | none => 0

/-- A record found at data return: it names the issuing instruction, and the warp stops (R197, R216, R371). -/
def raiseLate (s : State) (w : Warp) (kind : Nat) (pc : W64) (ep : W32) (since : Nat) (bad : List (Nat × W64 × Nat))
    (batch : Nat) (undo : Bool) (acts : Resolves) : State :=
  let cause := 0x080 + 16 * kind + lateReason (bad.map (·.2.2))
  let low := bad.foldl (fun (m : Nat × W64 × Nat) b => if b.1 < m.1 then b else m) (bad.headD (0, 0, 0))
  let words := recWords s w cause false false (allowOf cause) batch pc ep since (maskOf (bad.map (·.1))) low.2.1 w.stopPc
  (s.raise w.ctx w.region (if undo then asUndo words else words) acts false false).setWarp { w with stopped := w.stopped ++ [s.recCt] }

/-- A load whose every lane has returned is finished, or takes its record (R75, R197). -/
def settleLoad (s : State) (key id : Nat) : State :=
  match s.warp? key with
  | none => s
  | some w => match w.loads.find? fun x => x.id == id with
    | none => s
    | some ld =>
      if ld.lanes.any fun x => !x.done && x.why.isNone then s
      else
        let bad := ld.lanes.filterMap fun x => x.why.map fun r => (x.lane, x.va, r)
        if bad.isEmpty then s.setWarp { w with
          ld := w.ld - 1, loads := w.loads.filter (fun x => x.id != id), overs := w.overs.filter fun x => x.1 != id }
        else raiseLate s w 0 ld.pc ld.ep ld.since bad ld.entry ld.undo (.load key id (maskOf (bad.map (·.1))))

/-- The registers that a lane's bytes go to: those of a reissued lane that no younger instruction has written (R197). -/
def laneWrites (w : Warp) (ld : Load) (y : LoadLane) (bs : List Byte) : List RegWrite :=
  (loadWrites ld.dst ld.signed y.lane bs).filter fun r => !y.again || !w.overs.contains (ld.id, r.ref)

/-- READ: a pending load reads the remaining bytes from the core's view or the home; its destination is written (R298). A
word of a buffer with an uncorrectable soft error is uncorrectable data (R197, log 20). A block that left the cache in between is
asked for again (R345). -/
def execRead (w load lane : Nat) (s : State) : Out :=
  match s.warp? w with
  | none => .next s
  | some x => match x.loadLane? load lane with
    | none => .next s
    | some (ld, y) =>
      if y.done || !readEnabled s x ld y then .next (if y.space = 0 && !y.done then s.requestBlk (laneBlk s x y) else s)
      else
        let rest := (List.range ld.size).filter fun k => (y.got.getD k none).isNone
        let locs := rest.map fun k => s.homeLoc (y.loc + k)
        let why := if y.space = 8 && s.unreachable y.loc then some 0xF
          else if (y.space = 0 && locs.any s.damaged) || locs.any (fun x => s.softWords.contains (x / 4)) then some 8 else none
        match why with
        | some r => .next (settleLoad (s.setWarp (x.setLoad (ld.setLane { y with why := some r }))) w load)
        | none =>
          let byte (k : Nat) : Byte := match y.got.getD k none with
            | some b => b
            | none => viewByte s.order s.mem x.core (s.homeLoc (y.loc + k))
          let wids := union [] (locs.map (viewWriter s.order x.core))
          let z := (x.setLoad (ld.setLane { y with done := true })).putFrom (some load) (laneWrites x ld y ((List.range ld.size).map byte))
          let t := if y.space = 0 && !rest.isEmpty then s.hold (laneBlk s x y) else s.crossed y.loc
          .next (settleLoad ((t.setWarp z).learn w lane load (if ld.acq then some ld.scope else none) wids) w load)

/-! ### DRAIN, PROPAGATE (R297 to R302) -/

/-- Whether a write may leave the FIFO as far as order goes: the older loads of its thread, or of a marker's threads, are
satisfied, and a release's covered writes have reached its scope (R299, R302). -/
def mayLeave (s : State) (w : Warp) (e : FifoEnt) : Bool :=
  !(w.loads.any fun ld => decide (ld.id < e.wid) && ld.lanes.any fun x => e.ofLane x.lane && !x.done) &&
  (!e.release || gateOpen s w.core e.scope e.covered)

/-- The locations that the entries of an instruction write together. -/
def opLocs (s : State) (w : Warp) (op : Nat) : List Nat :=
  ((w.fifo.filter fun e => e.op == op).flatMap (·.cells)).map fun c => s.homeLoc c.1

/-- A window number of a fabric pointer. -/
def windowOf (va : W64) : Nat := bitsOf va.toNat 45 12

/-- What an entry of spaces 0 and 8 meets at its home: it waits, it fails for a reason, or it is accepted. -/
inductive AtHome where
  | waits
  | fails (r : Nat)
  | accepted
  deriving DecidableEq, Repr, Inhabited

/-- The writes of a warp to a window that stand in a fabric port's queue. -/
def State.fabricOf (s : State) (key window : Nat) : List (Nat × FabReq) :=
  s.links.fports.flatMap fun p => (p.2.queue.filter fun q => q.warp == key && windowOf q.ent.va == window).map fun q => (p.1, q)

/-- Whether bytes meet a damaged word of their cached line: a read, or a write that covers the word in part (R354). -/
def softHit (s : State) (locs whole : List Nat) (reads : Bool) : Bool :=
  match s.lineAt (locs.headD 0) with
  | some l => l.soft.any fun x => locs.any fun y => x / 8 == y / 8 && (reads || !((List.range 8).all fun j => whole.contains (x / 8 * 8 + j)))
  | none => false

/-- A write at its home (R333, R349, R352, R354, R371, R483). `whole` are the locations that it and its fellows cover;
`reads` says that it needs the old bytes: an atomic, also of a buffer word with an uncorrectable soft error (R216). -/
def homeStatus (s : State) (w : Warp) (e : FifoEnt) (whole : List Nat) (reads : Bool) : AtHome :=
  let locs := e.cells.map fun c => s.homeLoc c.1
  if e.space = 8 then
    let loc := locs.headD remoteBase
    if w.failed.any fun x => x.space == 8 && windowOf x.va == windowOf e.va && decide (x.wid < e.wid) then .fails 0xF
    else if !s.reachable loc || (reads && s.farAt loc == 2) then .fails 0xF
    else if s.fabricPaused loc || (reads && !(s.fabricOf w.key (windowOf e.va)).isEmpty) then .waits else .accepted
  else if e.space != 0 then (if reads && locs.any fun x => s.softWords.contains (x / 4) then .fails 8 else .accepted)
  else if e.cells.any fun c => s.heldLoc c.1 then .waits
  else
    let k := s.blockOf w.ctx (ptrOff e.va) (locs.headD 0)
    let covers := !reads && k.locs.all whole.contains
    if (s.needsFill k && !covers) || (reads && s.blkWaits k) || !s.room k then .waits
    else if softHit s locs whole reads || (reads && locs.any s.damaged) then .fails 8
    else .accepted

/-- An instruction's last entry has reached its home: its count drops or its slot frees (R75, R76), or the record of
its failures is raised: kind 2 for a returning atomic, and for any that met damaged bytes of a cached line (R354), else deferred
kind 7 (R200, R216). -/
def settleOp (s : State) (key : Nat) (e : FifoEnt) : State :=
  match s.warp? key with
  | none => s
  | some w =>
    if (w.fifo.any fun x => x.op == e.op) || (s.links.fports.any fun p => p.2.queue.any fun q => q.warp == key && q.ent.op == e.op) then s
    else
      let failed := w.failed.filter fun x => x.op == e.op
      let bad := failed.filterMap fun x => x.why.map fun r => (x.lane, x.va, r)
      let ret := match e.kind with
        | .atomic _ _ _ _ r _ _ => r
        | _ => false
      if bad.isEmpty then
        s.setWarp (if ret then { w with sb := w.sb.filter fun b => b.1 != e.op } else if e.quiet then w else { w with st := w.st - 1 })
      else if ret then raiseLate s w 2 e.pc e.ep e.since bad e.entry e.undo (.atomic key e.op)
      else if failed.any (·.soft) then raiseLate s w 2 e.pc e.ep e.since bad e.entry e.undo (.store key e.op)
      else
        let cause := 0x0F0 + lateReason (bad.map (·.2.2))
        let low := bad.foldl (fun (m : Nat × W64 × Nat) b => if b.1 < m.1 then b else m) (bad.headD (0, 0, 0))
        let words := recWords s w cause true false (allowOf cause) e.entry e.pc e.ep e.since (maskOf (bad.map (·.1))) low.2.1 0
        s.raise w.ctx w.region (if e.undo then asUndo words else words) (.store key e.op) false false

/-- The block of a space 0 entry. -/
def entryBlk (s : State) (w : Warp) (x : FifoEnt) : Blk := s.blockOf w.ctx (ptrOff x.va) (s.homeLoc ((x.cells.headD (0, 0)).1))

/-- The failing fills of the blocks of a store that are not the head entry's, each once (R371). -/
def otherFails (s : State) (w : Warp) (e : FifoEnt) : List (Blk × Nat × Nat × Option Nat) :=
  let whole := opLocs s w e.op
  let ks := (((w.fifo.filter fun x => x.op == e.op).map (entryBlk s w)).filter fun k => k.base != (entryBlk s w e).base).eraseDups
  ks.filterMap fun k => if s.needsFill k && !k.locs.all whole.contains then (match s.fillBlock k with
    | .error (q, n, m) => some (k, q, n, m)
    | .ok _ => none) else none

/-- The lanes of a store that meet a failure, each once: those at damaged bytes of a cached line (R354); else those of the head entry's
block, and those of each other block of it whose fill fails too (R197, R371). -/
def failingLanes (s : State) (w : Warp) (e : FifoEnt) (r : Nat) : List (Nat × W64 × Nat) :=
  let whole := opLocs s w e.op
  let mine := w.fifo.filter fun x => x.op == e.op
  let soft (x : FifoEnt) : Bool := softHit s (x.cells.map fun c => s.homeLoc c.1) whole false
  let others := otherFails s w e
  let bad := mine.filterMap fun x =>
    (if soft e then (if soft x then some 8 else none)
     else if (entryBlk s w x).base == (entryBlk s w e).base then some r
     else (others.find? fun o => o.1.base == (entryBlk s w x).base).map (·.2.1)).map fun q => (x.lane, x.va, q)
  bad.foldl (fun m x => if m.any fun y => y.1 == x.1 then m else m ++ [x]) []

/-- A store whose fill failed, or that covers damaged bytes in part: recorded precisely as kind 1, its entries held in the
FIFO until the record is resolved (R354, R371). The failing fills of its other blocks are logged with it (R374). -/
def failStore (s : State) (w : Warp) (e : FifoEnt) (r entry : Nat) : State :=
  let logs := (otherFails s w e).filter fun o => o.2.1 != 8
  let t := logs.foldl (fun s o => (s.logError o.1.base { decoder := true, index := o.2.2.1, imm := o.2.2.2, reason := o.2.1, tag := none }).2) s
  (raiseLate t w 1 e.pc e.ep e.since (failingLanes s w e r) entry e.undo (.store w.key e.op)).withWarp w.key fun w =>
    { w with blocked := w.blocked ++ [e.op] }

/-- Entries of the head entry's instruction that leave the FIFO without having been accepted. -/
def failEntries (s : State) (w : Warp) (e : FifoEnt) (mine : FifoEnt → Bool) (r entry : Nat) : State :=
  let mine (x : FifoEnt) : Bool := x.op == e.op && mine x
  let soft (x : FifoEnt) : Bool := e.space == 0 && softHit s (x.cells.map fun c => s.homeLoc c.1) [] true
  let gone := (w.fifo.filter mine).map fun x => { x with why := some r, soft := soft x, entry := entry }
  settleOp (s.setWarp { w with fifo := w.fifo.filter fun x => !mine x, failed := w.failed ++ gone }) w.key { e with entry := entry }

/-- The head entry leaves the FIFO without having been accepted. -/
def failEntry (s : State) (w : Warp) (e : FifoEnt) (r : Nat) : State := failEntries s w e (fun x => x.wid == e.wid) r 0

/-- The packets that the head entry waits for, where it reads its block or the block is to be filled for it (R345, R371). -/
def State.askFor (s : State) (w : Warp) (e : FifoEnt) (reads : Bool) : State :=
  if e.space = 0 && (reads || s.needsFill (entryBlk s w e)) then s.requestBlk (entryBlk s w e) else s

/-- A write accepted at its home: bytes in coherence order and in the core's view, the line's tag, damage it
repairs (R298, R349, R353). -/
def acceptWrite (s : State) (w : Warp) (e : FifoEnt) (whole : List Nat) (cells : List Host.Cell) : State :=
  let cells := cells.map fun c => (s.homeLoc c.1, c.2)
  if e.space = 0 then
    let k := s.blockOf w.ctx (ptrOff e.va) ((cells.headD (0, 0)).1)
    let s := if s.needsFill k then (match s.fillBlock k with
      | .ok bs => s.install k bs
      | .error _ => s) else s
    let s := cells.foldl (fun s c => s.repair whole c.1) s
    (enterOrder s e.wid cells w.core).touchLine k (cells.map (·.1)) { tagOf s w e.lane false e.pc e.ep e.since with undo := e.undo }
  else enterOrder s e.wid cells w.core

/-- Lines of a granule that are dirty, under the translation that `ptrq` would look up (R202). -/
def granuleLines (s : State) (core ctx va : Nat) : List Line :=
  match s.lookup core ctx va with
  | .leaf level _ e =>
    if leafTier e = 0 && leafWin e == (s.context ctx).win then
      let loc := s.homeLoc (s.pageLoc ctx level e va)
      (s.port (homePort loc)).lines.filter fun l =>
        decide (l.pa < loc + 256) && decide (loc < l.pa + l.bytes) && (l.dirty || l.held.isSome)
    else []
  | _ => []

/-- A granule's address without the policy of the pointer that named it. -/
def granuleOf (p : Nat) : Nat := putBits p 57 3 0 / 256

/-- Whether an older store of the warp to a granule has not reached its home: it failed there, or stands in a fabric port's
queue (R202). -/
def cwbWaits (s : State) (w : Warp) (e : FifoEnt) : Bool :=
  let hits (x : FifoEnt) : Bool := x.kind.writes && e.cells.any fun g => granuleOf x.va.toNat == granuleOf g.1
  w.failed.any hits || s.links.fports.any fun p => p.2.queue.any fun q => q.warp == w.key && hits q.ent

/-- Where a granule lies, for the L-core data cache: in space 0 under its translation, in space 8 at the remote device. -/
def granuleLoc (s : State) (w : Warp) (g : Nat) : Option Nat :=
  if g / 2 ^ 60 = 8 then
    let win := s.window (s.partOf (coreCluster w.core)) (windowOf (BitVec.ofNat 64 g))
    if win.valid then some (locRemote win.dev win.rctx (win.rbase + g % 2 ^ 45)) else none
  else match s.lookup w.core w.ctx (g % 2 ^ 57) with
  | .leaf level _ e => some (s.pageLoc w.ctx level e (g % 2 ^ 57))
  | _ => none

/-- Whether a data cache line lies in a granule. -/
def inGranule (s : State) (w : Warp) (x : DLine) (g : Nat) : Bool :=
  (granuleLoc s w g).any fun loc => x.line == loc / 128 || x.line == loc / 128 + 1

/-- The granules of space 8 whose dirty data cache lines cannot be written back: no route to the device is up (R202, R203),
the lowest first. -/
def farGranules (s : State) (w : Warp) (e : FifoEnt) : List Nat :=
  ((e.cells.map (·.1)).filter fun g => g / 2 ^ 60 == 8 && !((granuleLoc s w g).any fun x => !s.unreachable x) &&
    (s.core w.core).dcache.any fun x => x.dirty && inGranule s w x g).mergeSort fun a b => decide (a ≤ b)

/-- The data cache lines of granules are clean (R202). -/
def State.cleanData (s : State) (w : Warp) (gs : List Nat) : State :=
  let c := s.core w.core
  s.setCore w.core { c with dcache := c.dcache.map fun x => if gs.any (inGranule s w x) then { x with dirty := false } else x }

/-- One line of a synchronous write-back, and the failures so far: a held line that no resolution lets be tried again answers with the
failure that holds it and its log entry (R203, R463). -/
def cwbSyncLine (a : State × List WbFail) (l : Line) : State × List WbFail :=
  match (a.1.besides l).find? fun x => x.held.isSome && !x.retry with
  | some x => (a.1, a.2 ++ [{ line := x, reason := x.held.getD 8, raw := false, entry := x.logged }])
  | none =>
    let (s, fs) := a.1.writeBack { l with retry := false }
    (if fs.isEmpty && l.held.isSome then s.lineDone l.pa else s, a.2 ++ fs)

/-- The lanes that wait at a held instruction: its bundle, or a half-group (R179). -/
def Warp.heldLanes (w : Warp) : List Nat :=
  match w.hold with
  | .cwbSync _ ls | .atab ls | .barrier ls => ls
  | _ => w.bundle

/-- The threads that wait at a held instruction go on. -/
def Warp.release (w : Warp) : Warp :=
  { w with hold := .free }.pass (w.heldLanes.map fun l => (l, nextPc (w.thread l).pc))

/-- A `cwb` entry at the head: the dirty lines of its granules are written back (R202); a failure is precise at
`cwb.sync`, at the lowest failing block, and deferred at a posted `cwb` (R203), whose failing fabric write-back keeps its ST count
until its record is resolved (R75, R200). -/
def drainCwb (s : State) (w : Warp) (e : FifoEnt) (sync : Bool) : State :=
  let w' := { w with fifo := w.fifo.drop 1, st := w.st - 1 }
  let ls := ((e.cells.filter fun g => g.1 / 2 ^ 60 == 0).flatMap fun g => granuleLines s w.core w.ctx (g.1 % 2 ^ 57)).mergeSort
    fun a b => decide (a.va ≤ b.va)
  let far := farGranules s w e
  let s := if w.onL then s.cleanData w ((e.cells.map (·.1)).filter fun g => !far.contains g) else s
  let words (cause entry : Nat) (defer : Bool) (addr detail : W64) : List W64 :=
    (if e.undo then asUndo else id) (recWords s w cause defer false (allowOf cause) entry e.pc e.ep e.since (maskOf e.covered) addr detail)
  if !sync then
    let t := ls.foldl (fun s l => (s.writeBackDeferred l).1) s
    match far with
    | [] => t.setWarp w'
    | g :: _ =>
      (t.raise w.ctx w.region (words 0x0FF 0 true (BitVec.ofNat 64 g) 0) (.store w.key e.op) false false).setWarp
        { w' with st := w.st, failed := w.failed ++ [{ e with cells := far.map fun x => (x, 0), why := some 0xF }] }
  else
    let (t, bad) := ls.foldl cwbSyncLine (s, [])
    let stop (words : List W64) (pas : List Nat) : State :=
      (t.raise w.ctx w.region words (.sync w.key (maskOf e.covered) pas) false false).setWarp
        { w' with hold := .free, stopped := w.stopped ++ [t.recCt] }
    match bad, far with
    | f :: _, _ =>
      let pcTag := (f.line.tag.map (·.pc)).getD 0
      stop (words (0x090 + f.reason) f.entry false (BitVec.ofNat 64 f.line.va)
          ((pcTag &&& 0x01FFFFFFFFFFFFFF) ||| (if f.raw then BitVec.ofNat 64 (2 ^ 62) else 0)))
        (union [] ((bad.filter fun x => !x.raw).map (·.line.pa)))
    | [], g :: _ => stop (words 0x09F 0 false (BitVec.ofNat 64 g) 0) []
    | [], [] => t.setWarp w'.release

/-! ### The fabric ports' queues (R309, R481 to R483) -/

/-- A write through a window leaves its FIFO for the queue of a port of its route: that of its warp's writes to the window
before it, else the first that is up. -/
def State.toFabric (s : State) (w : Warp) (e : FifoEnt) : State :=
  let port := match s.fabricOf w.key (windowOf e.va) with
    | (p, _) :: _ => p
    | [] => s.portTo ((e.cells.headD (remoteBase, 0)).1)
  let f := s.fport port
  (s.setFport port { f with queue := f.queue ++ [{ warp := w.key, core := w.core, ent := e }] }).withWarp w.key fun x => { x with fifo := x.fifo.drop 1 }

/-- The oldest write of a fabric port's queue: it reaches its remote home, waits for a promotion there, goes to another port of its
route where this one is down, or fails with reason 0xF, as does every younger one of its warp to its window (R309, R481, R483). -/
def fabricWrite (port : Nat) (s : State) : State :=
  let f := s.fport port
  match f.queue with
  | [] => s
  | q :: r =>
    let t := s.setFport port { f with queue := r }
    let loc := (q.ent.cells.headD (remoteBase, 0)).1
    let other := (s.routeOf loc).find? fun p => p != port && (s.fport p).up
    let before := (s.warp? q.warp).any fun w => w.failed.any fun x => x.space == 8 && windowOf x.va == windowOf q.ent.va && decide (x.wid < q.ent.wid)
    let fail : State := settleOp (t.withWarp q.warp fun w => { w with failed := w.failed ++ [{ q.ent with why := some 0xF }] }) q.warp q.ent
    if before then fail
    else if f.up then
      if (f.paused.any fun c => c.1 == 0) || s.farAt loc == 1 then s
      else if s.farAt loc == 2 then (fail.flitOk port)
      else settleOp (enterOrder (t.flitOk port) q.ent.wid q.ent.cells q.core) q.warp q.ent
    else match other with
    | some p => t.setFport p { t.fport p with queue := (t.fport p).queue ++ [q] }
    | none => fail

/-- The end request of `post.end`, sent when its store is accepted (R440, R454). -/
def State.sendEnd (s : State) (w : Warp) (ends : Bool) : State :=
  if !ends then s
  else match s.regionOf? w.ctx w.region with
  | some r => s.setRegion { r with endReq := true }
  | none => s

/-- DRAIN: the head write of a FIFO leaves it (R298), one through a window for a fabric port's queue (R309). A release marker passes its gate; an atomic leaves by HOME_RMW,
a TRIG marker by TRIG_STEP. -/
def execDrain (w : Nat) (s : State) : Out :=
  match s.warp? w with
  | none => .next s
  | some x => match x.fifo with
    | [] => .next s
    | e :: _ =>
      if !mayLeave s x e || x.blocked.contains e.op then .next s
      else match e.kind with
      | .atomic _ _ _ _ _ _ _ | .trig => .next s
      | .marker => .next (s.setWarp { x with fifo := x.fifo.drop 1 })
      | .cwb sync => .next (if cwbWaits s x e then s else drainCwb s x e sync)
      | k =>
        let whole := opLocs s x e.op
        match homeStatus s x e whole false with
        | .waits => .next (s.askFor x e false)
        | .fails r => .next (if e.space = 8 then failEntry s x e r else failStore s x e r 0)
        | .accepted =>
          if e.space = 8 then .next (s.toFabric x e) else
          let s := (acceptWrite s x e whole e.cells).withWarp w fun x => { x with fifo := x.fifo.drop 1 }
          .next (settleOp (s.sendEnd x (k == .post true)) w e)

/-- PROPAGATE: a write reaches one more view (R297). -/
def execPropagate (wid view : Nat) (s : State) : Out := .next (propagate s wid view)

end Sys2Proof.Machine
end

