-- ==== Sys2Proof/Machine/Atomics.lean ====
section
/-!
DEFINITION. Atomics and their step at the home (08 R209 to R217).
-/
namespace Sys2Proof.Machine
open Sys2Proof

/-- The new value of `atom` and `redm` on w bits (R213). -/
def atomVal (sub : Nat) (sgn : Bool) (w a c : Nat) : Nat :=
  let less (x y : Nat) : Bool := if sgn then decide (signedOf w x < signedOf w y) else decide (x < y)
  match sub with
  | 0 => (a + c) % 2 ^ w
  | 1 => if less c a then c else a
  | 2 => if less a c then c else a
  | 3 => a &&& c
  | 4 => a ||| c
  | 5 => a ^^^ c
  | 6 => c
  | 7 => if c ≤ a then 0 else a + 1
  | _ => if a = 0 || c < a then c else a - 1

/-- The new value of `fatom` and `fredm` of one element (R214). -/
def fatomElem (sub : Nat) (m : Fmt) (a c : Nat) : Nat :=
  match sub with
  | 0 => (fpAdd m {} a c).1
  | 1 => (fpMinMax m false a c).1
  | 2 => (fpMinMax m true a c).1
  | 3 => c
  | _ => (fpAMax m a c).1

/-- TYPE 4 to 6 (R36): f32, f16x2, bf16x2. -/
def fatomFmt (ty : Nat) : Fmt := if ty = 4 then .f32 else if ty = 5 then .f16 else .bf16

def fatomVal (sub ty a c : Nat) : Nat :=
  let m := fatomFmt ty
  if ty = 4 then fatomElem sub m a c
  else fatomElem sub m (a % 65536) (c % 65536) + 65536 * fatomElem sub m (a / 65536) (c / 65536)

/-- What an atomic writes at its home, none where `cas` fails (R213 to R215): the opcode, SUB, TYPE, the old value, C
and `cas`'s compare value. -/
def atomicNew (opc sub ty old c cmp : Nat) : Option Nat :=
  match opc with
  | 0x80 | 0x82 => some (atomVal sub (ty == 1 || ty == 3) (8 * atomBytes ty) old c)
  | 0x83 | 0x84 => some (fatomVal sub ty old c)
  | 0x81 => if old = cmp then some c else none
  | _ => some c

/-- An atomic: one FIFO entry for each lane in lane order, and a scoreboard slot or an ST count (R211, R212). -/
def atomicBody (opc : Nat) (ret : Bool) (f : Fields) (i : Iss) (s : State) : Eff :=
  if modsBad i (if ret then [1, 2, 3, 4] else [1, 3]) then trapAll i 0x007
  else
    let m := modsOf i { pol := 0, scope := f.scope, ord := f.ord } false
    let n := atomBytes f.pol
    let lanes := i.lanesFor (allScalar f)
    let cs := lanesChk s i.w f false 2 m.pol n lanes
    match accessStop i s 2 cs with
    | some e => e
    | none =>
      let op := i.w.nextOp
      let s := cs.foldl (fun s c =>
        let kind : FifoKind := .atomic f.pol (16 * opc + f.ty) (readReg i.w f.c 0 (n == 8) c.lane)
          (if opc = 0x81 then readReg i.w f.d 0 (n == 8) c.lane else 0) ret f.d (m.ord == 2 || m.ord == 4)
        let p : Post := { op := op, kind := kind, m := m, pc := i.pcCur, ep := i.w.ep, since := i.w.since }
        pushEntry i.w.key p c.lane c.addr (cellsAt c.loc (List.replicate n 0)) (s.requestBlock i.w.ctx m.pol c)) (fillLanes s i.w cs)
      .done (s.upd i fun w => if ret then { w with nextOp := op + 1, sb := w.sb ++ [(op, f.d, n == 8)] }
        else { w with nextOp := op + 1, st := w.st + 1 })

/-- `atom` (R213, R215). -/
def execAtom (f : Fields) (s : State) : Out := issueSplit (.atom f) s (allScalar f) {} (atomicBody 0x80 true f)
/-- `cas` (R215). -/
def execCas (f : Fields) (s : State) : Out := issueSplit (.cas f) s (allScalar f) {} (atomicBody 0x81 true f)
/-- `redm` (R213, R215). -/
def execRedm (f : Fields) (s : State) : Out := issueSplit (.redm f) s (allScalar f) {} (atomicBody 0x82 false f)
/-- `fatom` (R214, R215). -/
def execFatom (f : Fields) (s : State) : Out := issueSplit (.fatom f) s (allScalar f) {} (atomicBody 0x83 true f)
/-- `fredm` (R214, R215). -/
def execFredm (f : Fields) (s : State) : Out := issueSplit (.fredm f) s (allScalar f) {} (atomicBody 0x84 false f)
/-- `amxr` (R215, R217). -/
def execAmxr (f : Fields) (s : State) : Out := issueSplit (.amxr f) s (allScalar f) {} (atomicBody 0x85 true f)

/-- The record of an atomic's write keeps the releases of the chain it continues (R303). -/
def chainMeta (o : Ordering) (wid : Nat) (core warp scope : Nat) (read : List Nat) : Ordering :=
  let hs := union [] ((read.filterMap (metaOf o)).flatMap (·.heads))
  if hs.isEmpty then o
  else match metaOf o wid with
  | some m => { o with metas := { m with heads := union m.heads hs } :: o.metas.filter fun x => x.wid != wid }
  | none => { o with metas := { wid := wid, release := false, scope := scope, core := core, warp := warp, covered := [], heads := hs } :: o.metas }

/-- An atomic performs at its home (R298, R210): old value and write in one step, the value returned. -/
def performAtomic (s : State) (w : Warp) (e : FifoEnt) (ty op operand compare : Nat) (ret : Bool) (dst : BitVec 8) (acq : Bool) : State :=
  let locs := e.cells.map fun c => s.homeLoc c.1
  let n := e.cells.length
  let old := natOfBytes (locs.map (memGet s.mem))
  let read := union [] (locs.map fun l => kvGet s.order.last l 0)
  let w' := { w with fifo := w.fifo.filter fun x => x.wid != e.wid }
  let w' := if ret then w'.putFrom (some e.wid) (destWrites dst (n == 8) e.lane old) else w'
  let s := (s.setWarp w').learn w.key e.lane e.wid (if acq then some e.scope else none) read
  match atomicNew (op / 16) (op % 16) ty old operand compare with
  | none => s
  | some v =>
    let s := { s with order := chainMeta s.order e.wid w.core w.key e.scope read }
    acceptWrite s w e [] (cellsAt ((e.cells.headD (0, 0)).1) (bytesOf n v))

/-- The lanes of an atomic that name the location of its head entry, in lane order: one run of its home (R211). -/
def runOf (w : Warp) (e : FifoEnt) : List FifoEnt := w.fifo.filter fun x => x.op == e.op && x.cells == e.cells

/-- One lane of a run performs, after those before it. -/
def performNext (key : Nat) (s : State) (e : FifoEnt) : State :=
  match s.warp? key, e.kind with
  | some x, .atomic ty op operand compare ret dst acq => performAtomic s x e ty op operand compare ret dst acq
  | _, _ => s

/-- HOME_RMW: the head atomic of a FIFO leaves it, with the other lanes of its instruction that name its location (R211,
R298). -/
def execHomeRmw (w : Nat) (s : State) : Out :=
  match s.warp? w with
  | none => .next s
  | some x => match x.fifo with
    | [] => .next s
    | e :: _ =>
      if !e.kind.isAtomic || !(runOf x e).all (mayLeave s x) || x.blocked.contains e.op then .next s
      else match homeStatus s x e [] true with
      | .waits => .next (s.askFor x e true)
      | .fails r => .next (failEntries s x e (fun y => y.wid == e.wid || y.cells == e.cells) r 0)
      | .accepted => .next (settleOp ((runOf x e).foldl (performNext w) (s.crossed (((e.cells.map (·.1)).headD 0)))) w e)

end Sys2Proof.Machine
end

