-- ==== Sys2Proof/Machine/Fetch.lean ====
section
/-!
DEFINITION. Fetching: lines, parity, slots, and the checks of a control transfer's target (02 R18 to R23, 11 R314).
-/
namespace Sys2Proof.Machine
open Sys2Proof

/-- The parity of the low n bits of a number. -/
def parity (x : Nat) : Nat → Nat
  | 0 => 0
  | n + 1 => (x % 2 + parity (x / 2) n) % 2

/-- Slot i of a line, 96 bits (R18). -/
def slotBits (line i : Nat) : Nat := bitsOf line (96 * i) 96
/-- The line word (R18). -/
def lineWordOf (line : Nat) : Nat := bitsOf line 480 32

/-- Whether a line passes SPAR and WPAR (R19). -/
def parityOk (line : Nat) : Bool :=
  let lw := lineWordOf line
  ((List.range 5).all fun i => parity (slotBits line i) 96 == bitsOf lw (10 + i) 1) &&
  parity (bitsOf lw 0 15 + bitsOf lw 16 16 * 32768) 31 == bitsOf lw 15 1

/-- What a fetch gives. -/
inductive Fetched where
  | line (s : State) (bits : Nat)
  | trap (t : Trap)

/-- Lines of 64 bytes that a core's instruction cache holds (R10, R11). -/
def icacheLines (core : Nat) : Nat := if coreIsL core then 4096 else 2048

/-- The translation and the checks of a fetch of a PC's line (R190, R192). -/
def codeChk (s : State) (w : Warp) (lane : Nat) (pc : W64) : LaneChk :=
  checkLane s w 3 lane (lineOf pc &&& 0x01FFFFFFFFFFFFFF) 0 0 1

/-- The fault of a fetch that its checks stop: the code page is the whole batch of one that is not in T0 (R338). -/
def codeTrap (c : LaneChk) (r : Nat) (lanes : List Nat) (pc : W64) : Trap :=
  { cause := 0x0B0 + r, lanes := lanes, addr := pc, level := c.level
    pages := if r = 0 && c.level.isNone then some [ptrOff pc / 131072 * 131072] else none }

/-- The line of a PC for a warp: from the core's instruction cache, or through the translation from its home, which
fills the cache. Parity is checked in both places: a cached line that fails is discarded and fetched again, and a line
that fails as it comes in is not kept (R19, R190, R192, R314). -/
def fetchLine (s : State) (w : Warp) (pc : W64) (lanes : List Nat) : Fetched :=
  let core := s.core w.core
  let a := (lineOf pc).toNat
  match core.icache.find? fun e => e.1 == w.ctx && e.2.1 == a && parityOk (natOfBytes e.2.2) with
  | some e => .line s (natOfBytes e.2.2)
  | none =>
    let c := codeChk s w (lanes.headD 0) pc
    match c.why with
    | some r => .trap (codeTrap c r lanes pc)
    | none =>
      let bytes := memBytes s.mem (s.homeLoc (c.loc - (c.loc % 64))) 64
      let s := s.fill w.core w.ctx a
      let core := s.core w.core
      let rest := core.icache.filter fun e => !(e.1 == w.ctx && e.2.1 == a)
      let cache := if parityOk (natOfBytes bytes) then ((w.ctx, a, bytes) :: rest).take (icacheLines w.core) else rest
      .line (s.setCore w.core { core with icache := cache }) (natOfBytes bytes)

/-- The address and the home of the line of a PC that a fetch reads from memory: none where the instruction cache holds it
or the fetch faults. -/
def fetchLoc (s : State) (w : Warp) (pc : W64) : Option (Nat × Nat) :=
  let a := (lineOf pc).toNat
  if (s.core w.core).icache.any fun e => e.1 == w.ctx && e.2.1 == a && parityOk (natOfBytes e.2.2) then none
  else
    let c := codeChk s w (w.bundle.headD 0) pc
    if c.why.isSome then none else some (a % 2 ^ 57, s.homeLoc (c.loc - c.loc % 64))

/-- The slot of a line: what it decodes to, or the cause (R18 to R22, R44). -/
inductive Slotted where
  | instr (i : Instr)
  | illegal (g : BitVec 4)
  | trap (cause : Nat)

def slotAt (line : Nat) (pc : W64) : Slotted :=
  let k := slotOf pc
  if 4 < k || pc &&& 7 != 0 then .trap 0x011
  else if !parityOk line then .trap 0x013
  else if bitsOf (lineWordOf line) 16 16 != 0 then .trap 0x012
  else match decodeSlot (bitsOf (lineWordOf line) (5 + k) 1 == 1) (slotBits line k) with
  | .ok i => .instr i
  | .error _ => .illegal (BitVec.ofNat 4 (bitsOf (slotBits line k) 84 4))

/-! ### Targets (R21, R23, R86) -/

/-- The check of R23 that a target fails by its line word: 1 the second half of a pair, 2 that of a slot that is no pair,
3 a slot that is no target. -/
def lineFault (lw : Nat) (pc : W64) : Option Nat :=
  if pc &&& 4 != 0 then (if bitsOf lw (5 + slotOf pc) 1 = 1 then some 1 else some 2)
  else if bitsOf lw (slotOf pc) 1 = 0 then some 3 else none

/-- The cause of a check of R23: 0 is that of the offset. -/
def targetCause (k : Nat) : Nat := if k = 1 then 0x010 else if k = 3 then 0x00F else 0x011

/-- Bytes of code at their home: those of a cached block, else as the block's codec gives them; or the reason of a fetch
that fails, with its entry for the codec error log (R349, R370, R374). -/
def State.codeBytes (s : State) (ctx va loc n : Nat) : (Nat × Option (Nat × ErrEnt)) ⊕ List Byte :=
  let k := s.blockOf ctx va loc
  if s.needsFill k then
    match s.fillBlock k with
    | .ok bs => .inr ((bs.drop (loc - k.base)).take n)
    | .error (r, j, m) =>
      .inl (r, if r = 8 then none else some (homePort k.base, { decoder := true, index := j, imm := m, reason := r, tag := none }))
  else if (List.range n).any fun j => s.damaged (loc + j) then .inl (8, none)
  else .inr (memBytes s.mem loc n)

/-- What a lane's target meets: its rank and the fault. The line word is read at its home, as a fetch by this warp would
read it, not from the instruction cache; where that fetch would fault, the word cannot be checked, and the transfer takes
the fetch's fault, behind every failure of R23. Its bits are judged as they stand, before the parity check of R19, which the fetch of
the line makes (DESIGN CHOICE, log 51: R23 does not say whether the line has to pass that check first). -/
def targetFault (s : State) (w : Warp) (lane : Nat) (pc : W64) : Option (Nat × Trap) :=
  let bad (k : Nat) : Nat × Trap := (k, { cause := targetCause k, lanes := [lane], addr := pc })
  if 4 < slotOf pc || pc &&& 3 != 0 then some (bad 0)
  else
    let c := codeChk s w lane pc
    match c.why with
    | some r => some (4 + rankOf r, codeTrap c r [lane] pc)
    | none => match s.codeBytes w.ctx (ptrOff (lineOf pc) + 60) (s.homeLoc c.loc + 60) 4 with
      | .inl r => some (10, { codeTrap c r.1 [lane] pc with log := r.2 })
      | .inr bs => (lineFault (natOfBytes bs) pc).map bad

/-- The fault of a transfer whose lanes go to these targets: the first failing check of any, of all lanes that fail one of
R23, at the lowest one's target (R86); without such a lane, the fetch fault of the worst rank. Of lanes that fail the second check, one
at a pair gives the cause, whichever lane is lower (DESIGN CHOICE, log 51: R23 gives the check two causes and no order between them). -/
def transferTrap (s : State) (w : Warp) (ts : List (Nat × W64)) : Option Trap :=
  let bad := ts.filterMap fun t => targetFault s w t.1 t.2
  let k := bad.foldl (fun m b => min m b.1) 11
  let mine := bad.filter fun b => if k ≤ 3 then decide (b.1 ≤ 3) else b.1 == k
  match mine.find? fun b => b.1 == k, mine with
  | some x, y :: _ => some { x.2 with
      lanes := mine.flatMap fun b => b.2.lanes, addr := y.2.addr
      pages := x.2.pages.map fun _ => mine.foldl (fun l b => union l (b.2.pages.getD [])) [] }
  | _, _ => none

/-! ### The next instruction -/

/-- The cause of a prefix for what stands in the next slot (R50). -/
def prefixCause (isImx : Bool) : Slotted → Option Nat
  | .instr (.shortPair _ _) => some 0x00E
  | .instr (.imx _) => some (if isImx then 0x00D else 0x00C)
  | .instr (.pol _) => some (if isImx then 0x00C else 0x00D)
  | .instr i => if (if isImx then imxTarget i else polTarget i) then none else some 0x00C
  | .illegal _ => some 0x00C
  | .trap _ => none

/-- The fault of a unit that a prefix began and whose next slot cannot take it: precise at the prefix (R50, R51). -/
def Warp.unitCause (w : Warp) (x : Slotted) : Option Nat := w.pfx.bind fun p => prefixCause p.isImx x

/-- The target check that a thread's entry still owes, once its line can be read (R23), before the line's parity check (log 51). -/
def Warp.entryCause (w : Warp) (line : Nat) (pc : W64) : Option Nat :=
  if w.bundle.any fun l => (w.thread l).unchecked then (lineFault (lineWordOf line) pc).map targetCause else none

/-- The next instruction of a warp's bundle, or the fault its fetch takes; an opcode that names no instruction raises
ILLEGAL_OPCODE unless its guard is false in every lane (R45, R46). -/
inductive Next where
  | instr (s : State) (i : Instr)
  | done (s : State)

/-- FETCH: a fault of the line behind a prefix in slot 4 is recorded at the prefix, as R51 has it of a unit (DESIGN CHOICE, log 51: R19
and R20 name the first slot of the failing line). -/
def fetchNext (s : State) (w : Warp) : Next :=
  let pc := (w.thread (w.bundle.headD 0)).pc
  let iss := { issOf w 7 w.bundle with pc := pc }
  match fetchLine s w pc w.bundle with
  | .trap t => .done (takeTrap s iss t)
  | .line s' line =>
    let trap (c : Nat) (ls : List Nat) : Next := .done (takeTrap s' iss { cause := c, lanes := ls })
    let x := slotAt line pc
    match w.entryCause line pc, w.unitCause x with
    | some c, _ => .done (takeTrap s' iss { cause := c, lanes := w.bundle, addr := pc })
    | none, some c => trap c w.bundle
    | none, none => match x with
      | .instr i => .instr s' i
      | .trap c => trap c w.bundle
      | .illegal g =>
        let b := guarded w g w.bundle
        if b.isEmpty then
          .done (s'.withWarp w.key fun w => { (w.countIssue w.bundle) with pfx := none }.advance (w.bundle.map fun l => (l, nextPc pc)))
        else trap 0x000 b

/-- What stands in the slot of a PC, for the checks of a prefix (R50), where a fetch gives it now: not where the line is
still to be filled or cannot be read. What cannot be seen yet is checked when it issues (`fetchNext`). -/
def peekSlot (s : State) (w : Warp) (pc : W64) : Option Slotted :=
  if (fetchLoc s w pc).any fun x => s.blkWaits (s.blockOf w.ctx x.1 x.2) then none
  else match fetchLine s w pc w.bundle with
  | .trap _ => none
  | .line _ line => some (slotAt line pc)

/-- A cached fetch line leaves an instruction cache (R19). -/
def evictLine (s : State) (core : Nat) : State :=
  let c := s.core core
  s.setCore core { c with icache := c.icache.dropLast }

/-- A translation leaves a core's L1 TLB and its cluster's TLB (R323). -/
def evictTlb (s : State) (core : Nat) : State :=
  let c := s.core core
  let s := s.setCore core { c with tlb := c.tlb.dropLast }
  let cl := s.cluster (coreCluster core)
  s.setCluster (coreCluster core) { cl with tlb := cl.tlb.dropLast }

/-- The parity check of a line fails, and that of the copy fetched again, which is not kept (R19). -/
def parityFails (s : State) (w : Warp) : State :=
  let c := s.core w.core
  let a := (lineOf (w.thread (w.bundle.headD 0)).pc).toNat
  takeTrap (s.setCore w.core { c with icache := c.icache.filter fun e => !(e.1 == w.ctx && e.2.1 == a) }) (issOf w 7 w.bundle) { cause := 0x013, lanes := w.bundle }

/-- Whether a warp has an instruction to issue that nothing of R71 but the instruction itself holds (R456, R467). -/
def eligible (w : Warp) : Bool :=
  !w.bundle.isEmpty && w.stopped.isEmpty && !w.suspended && !w.draining && !w.saved && !w.migrating &&
  (w.hold == .free || w.hold == .again) && (w.snare.isNone || (w.snare.any (·.running)))

end Sys2Proof.Machine
end

