-- ==== Sys2Proof/Machine/Integer.lean ====
section
/-!
DEFINITION. Integer arithmetic, comparisons, moves, bit fields, `idiv`, `rng` (05 R142 to R150) and predicate logic (06
R166, R167).
-/
namespace Sys2Proof.Machine
open Sys2Proof

/-- Element width, element count and signedness of a type of R36. -/
def elW (t : Nat) : Nat := if w64 t then 64 else if t = 4 || t = 5 then 16 else if t = 6 || t = 7 then 8 else 32
def elN (t : Nat) : Nat := if t = 4 || t = 5 then 2 else if t = 6 || t = 7 then 4 else 1
def elS (t : Nat) : Bool := t % 2 == 0

/-- An element's value from its bits. -/
def val (w : Nat) (sg : Bool) (x : Nat) : Int := if sg then signedOf w x else x
def minOf (w : Nat) (sg : Bool) : Int := if sg then -(2 ^ (w - 1) : Nat) else 0
def maxOf (w : Nat) (sg : Bool) : Int := if sg then (2 ^ (w - 1) : Nat) - 1 else (2 ^ w : Nat) - 1

/-- An exact result clamped or wrapped (R104, R142). -/
def narrow (w : Nat) (sg sat : Bool) (x : Int) : Nat :=
  wrapNat w (if sat then max (minOf w sg) (min (maxOf w sg) x) else x)

/-- An operation on element bits: width, signedness and three elements give an exact integer. -/
abbrev IntOp := Nat → Bool → Nat → Nat → Nat → Int

/-- Element by element (R142). -/
def intVal (t : Nat) (sat : Bool) (op : IntOp) (a b c : Nat) : Nat :=
  let w := elW t
  ((List.range (elN t)).map fun k =>
    narrow w (elS t) sat (op w (elS t) (bitsOf a (w * k) w) (bitsOf b (w * k) w) (bitsOf c (w * k) w)) * 2 ^ (w * k)).sum

/-- A source of the SUB type in a lane (R34, R35). -/
def srcT (i : Iss) (f : Fields) (x : BitVec 8) (l : Nat) : Nat :=
  readReg i.w x (immVal i.pfx f (f.ty == 2)) (w64 f.ty) l

/-- The instructions of R142. -/
def issueInt (x : Instr) (f : Fields) (s : State) (op : IntOp) : Out :=
  issueValue x f s (w64 f.ty) fun i l => intVal f.ty f.sat op (srcT i f f.a l) (srcT i f f.b l) (srcT i f f.c l)

def opAdd : IntOp := fun w g a b _ => val w g a + val w g b
def opSub : IntOp := fun w g a b _ => val w g a - val w g b
def opMul : IntOp := fun w g a b _ => val w g a * val w g b
def opMulhi : IntOp := fun w g a b _ => val w g a * val w g b / (2 ^ w : Nat)
def opMad : IntOp := fun w g a b c => val w g a * val w g b + val w g c
def opMin : IntOp := fun w g a b _ => min (val w g a) (val w g b)
def opMax : IntOp := fun w g a b _ => max (val w g a) (val w g b)
def opAbs : IntOp := fun w g a _ _ => (val w g a).natAbs
def opAnd : IntOp := fun _ _ a b _ => (a &&& b : Nat)
def opOr : IntOp := fun _ _ a b _ => (a ||| b : Nat)
def opXor : IntOp := fun _ _ a b _ => (a ^^^ b : Nat)
def opAndn : IntOp := fun w _ a b _ => (a &&& (2 ^ w - 1 - b) : Nat)
def opShl : IntOp := fun w _ a b _ => if w ≤ b then 0 else (a * 2 ^ b : Nat)
def opShr : IntOp := fun w _ a b _ => if w ≤ b then 0 else (a / 2 ^ b : Nat)
def opSar : IntOp := fun w _ a b _ => signedOf w a / (2 ^ (min b w) : Nat)
def opRot : IntOp := fun w _ a b _ => (a * 2 ^ (b % w) + a / 2 ^ (w - b % w) : Nat)
def opClamp : IntOp := fun w g a b c => min (max (val w g a) (val w g b)) (val w g c)
def opAddsh : IntOp := fun w g a b c => val w g a + val w g b * (2 ^ (c % 64) : Nat)
def opMov : IntOp := fun _ _ a _ _ => (a : Nat)

/-- `add` (R142). -/
def execAdd (f : Fields) (s : State) : Out := issueInt (.add f) f s opAdd
/-- `sub` (R142). -/
def execSub (f : Fields) (s : State) : Out := issueInt (.sub f) f s opSub
/-- `mul` (R142). -/
def execMul (f : Fields) (s : State) : Out := issueInt (.mul f) f s opMul
/-- `mulhi` (R142). -/
def execMulhi (f : Fields) (s : State) : Out := issueInt (.mulhi f) f s opMulhi
/-- `mad` (R142). -/
def execMad (f : Fields) (s : State) : Out := issueInt (.mad f) f s opMad
/-- `min` (R142). -/
def execMin (f : Fields) (s : State) : Out := issueInt (.min f) f s opMin
/-- `max` (R142). -/
def execMax (f : Fields) (s : State) : Out := issueInt (.max f) f s opMax
/-- `abs` (R142). -/
def execAbs (f : Fields) (s : State) : Out := issueInt (.abs f) f s opAbs
/-- `and` (R142). -/
def execAnd (f : Fields) (s : State) : Out := issueInt (.and f) f s opAnd
/-- `or` (R142). -/
def execOr (f : Fields) (s : State) : Out := issueInt (.or f) f s opOr
/-- `xor` (R142). -/
def execXor (f : Fields) (s : State) : Out := issueInt (.xor f) f s opXor
/-- `andn` (R142). -/
def execAndn (f : Fields) (s : State) : Out := issueInt (.andn f) f s opAndn
/-- `shl` (R142). -/
def execShl (f : Fields) (s : State) : Out := issueInt (.shl f) f s opShl
/-- `shr` (R142). -/
def execShr (f : Fields) (s : State) : Out := issueInt (.shr f) f s opShr
/-- `sar` (R142). -/
def execSar (f : Fields) (s : State) : Out := issueInt (.sar f) f s opSar
/-- `rot` (R142). -/
def execRot (f : Fields) (s : State) : Out := issueInt (.rot f) f s opRot
/-- `clamp` (R142). -/
def execClamp (f : Fields) (s : State) : Out := issueInt (.clamp f) f s opClamp
/-- `addsh` (R142). -/
def execAddsh (f : Fields) (s : State) : Out := issueInt (.addsh f) f s opAddsh
/-- `mov` (R145): the bits of A. -/
def execMov (f : Fields) (s : State) : Out := issueValue (.mov f) f s (w64 f.ty) fun i l => srcT i f f.a l
/-- `sel` (R145). -/
def execSel (f : Fields) (s : State) : Out :=
  issueValue (.sel f) f s (w64 f.ty) fun i l => if readPred i.w f.c l then srcT i f f.a l else srcT i f f.b l
/-- `movi` (R146). -/
def execMovi (f : Fields) (s : State) : Out :=
  issueValue (.movi f) f s (w64 f.ty) fun i l =>
    narrow (elW f.ty) (elS f.ty) f.sat
      (val (elW f.ty) (elS f.ty) (srcT i f f.a l) + val (elW f.ty) (elS f.ty) (srcT i f f.b l) * l)

/-- A comparison code of R144. -/
def cmpInt (cond : Nat) (a b : Int) : Bool :=
  match cond with
  | 0 => decide (a = b)
  | 1 => decide (a ≠ b)
  | 2 => decide (a < b)
  | 3 => decide (a ≤ b)
  | 4 => decide (b < a)
  | _ => decide (b ≤ a)

/-- `cmp` (R144). -/
def execCmp (f : Fields) (s : State) : Out :=
  issueValue (.cmp f) f s false fun i l =>
    bitOf (cmpInt f.cond (val (elW f.ty) (elS f.ty) (srcT i f f.a l)) (val (elW f.ty) (elS f.ty) (srcT i f f.b l)))

/-- The number of 1 bits of the low n bits. -/
def popCount (x : Nat) : Nat → Nat
  | 0 => 0
  | n + 1 => x % 2 + popCount (x / 2) n

/-- The low n bits in reverse order. -/
def revBits (x : Nat) : Nat → Nat
  | 0 => 0
  | n + 1 => x % 2 * 2 ^ n + revBits (x / 2) n

/-- `popc` (R143). -/
def execPopc (f : Fields) (s : State) : Out :=
  issueValue (.popc f) f s false fun i l => popCount (srcT i f f.a l) (elW f.ty)
/-- `clz` (R143). -/
def execClz (f : Fields) (s : State) : Out :=
  issueValue (.clz f) f s false fun i l => elW f.ty - lenOf (srcT i f f.a l)
/-- `brev` (R143). -/
def execBrev (f : Fields) (s : State) : Out :=
  issueValue (.brev f) f s (w64 f.ty) fun i l => revBits (srcT i f f.a l) (elW f.ty)

/-- The field that `bfe` takes (R147). -/
def bfeVal (w : Nat) (sg : Bool) (a b c : Nat) : Nat :=
  let pos := b % 256
  let len := min (c % 256) w
  let x := wrapNat len (val w sg a / (2 ^ pos : Nat))
  if len = 0 then 0 else if sg then wrapNat w (signedOf len x) else x

/-- `bfe` (R147). -/
def execBfe (f : Fields) (s : State) : Out :=
  issueValue (.bfe f) f s (w64 f.ty) fun i l =>
    bfeVal (elW f.ty) (elS f.ty) (srcT i f f.a l) (srcT i f f.b l) (srcT i f f.c l)

/-- The merge that `bfi` makes (R147). -/
def bfiVal (w : Nat) (a b c : Nat) : Nat :=
  let pos := c % 256
  let len := bitsOf c 8 8
  if w ≤ pos || len = 0 then b else putBits b pos (min len (w - pos)) (a % 2 ^ len)

/-- `bfi` (R147). -/
def execBfi (f : Fields) (s : State) : Out :=
  issueValue (.bfi f) f s (w64 f.ty) fun i l => bfiVal (elW f.ty) (srcT i f f.a l) (srcT i f f.b l) (srcT i f f.c l)

/-- `perm` (R148). -/
def permVal (a b c : Nat) : Nat :=
  let src := a + b * 2 ^ 32
  ((List.range 4).map fun j =>
    let n := bitsOf c (4 * j) 4
    let x := bitsOf src (8 * (n % 8)) 8
    (if n < 8 then x else 255 * (x / 128)) * 256 ^ j).sum

/-- `perm` (R148). -/
def execPerm (f : Fields) (s : State) : Out :=
  issueValue (.perm f) f s false fun i l => permVal (srcT i f f.a l) (srcT i f f.b l) (srcT i f f.c l)

/-- The quotients and remainders of R149: variant 0 divn, 1 divi, 2 remn, 3 remi. -/
def idivVal (op w a b : Nat) : Nat :=
  let x := signedOf w a
  let y := signedOf w b
  match op with
  | 0 => if b = 0 then 2 ^ w - 1 else a / b
  | 1 => if b = 0 then 2 ^ w - 1 else wrapNat w (x.tdiv y)
  | 2 => if b = 0 then a else a % b
  | _ => if b = 0 then a else wrapNat w (x.tmod y)

/-- `idiv` (R149): on the special-function queue, without a flag. -/
def execIdiv (f : Fields) (s : State) : Out :=
  let w := if 4 ≤ f.ty then 64 else 32
  let wide := decide (4 ≤ f.ty)
  issueSplit (.idiv f) s (allScalar f) {} fun i s =>
    let imm := immVal i.pfx f (f.ty == 5 || f.ty == 7)
    enqueue i s 0 (allScalar f) 0 none (valueOuts i f.d wide (allScalar f) fun l =>
      idivVal (f.ty % 4) w (readReg i.w f.a imm wide l) (readReg i.w f.b imm wide l))

/-- `rng` (R150): the generator of each lane, or of the lowest lane of B, steps. -/
def execRng (f : Fields) (s : State) : Out :=
  issueSplit (.rng f) s (allScalar f) {} fun i s =>
    commit i s false ((i.lanesFor (allScalar f)).map fun l =>
      let r := rngStep (i.w.thread l).rngs
      { lane := l, rng := some r
        writes := destWrites f.d (f.ty == 3) l (if f.ty = 3 then r.toNat else rngDraw r) })

/-- `plog` (06 R166). -/
def execPlog (f : Fields) (s : State) : Out :=
  issueValue (.plog f) f s false fun i l =>
    bitsOf f.im (4 * bitOf (readPred i.w f.a l) + 2 * bitOf (readPred i.w f.b l) + bitOf (readPred i.w f.c l)) 1

/-- `pmov.get` (06 R167): bit 7 reads 1. -/
def execPmovGet (f : Fields) (s : State) : Out :=
  issueValue (.pmovGet f) f s false fun i l => (i.w.thread l).p.toNat % 128 + 128

/-- `pmov.set` (06 R167). -/
def execPmovSet (f : Fields) (s : State) : Out :=
  issue (.pmovSet f) s fun i s =>
    writeEff i s (i.lanes.flatMap fun l => ((List.range 7).filter fun j => bitsOf f.im j 1 == 1).map fun j =>
      ⟨.p l j, BitVec.ofNat 64 (bitsOf (readReg i.w f.a f.im false l) j 1)⟩)

end Sys2Proof.Machine
end

