-- ==== Sys2Proof/Machine/Special.lean ====
section
/-!
DEFINITION. Special functions (05 R161) and the activation table's evaluation (R162, R163). An irrational result is
given as a dyadic value with its last bit set below the last place a rounding looks at (log 3).
-/
namespace Sys2Proof.Machine
open Sys2Proof

/-- A value known from below at 2^e with more following: not representable at any coarser place. -/
def above (neg : Bool) (k : Nat) (e : Int) : Num := .fin neg (2 * k + 1) (e - 1)
/-- An exact value where `ex`, else more follows. -/
def exactOr (ex neg : Bool) (k : Nat) (e : Int) : Num := if ex then .fin neg k e else above neg k e

/-- The integer square root, bit by bit. -/
def isqrt (x : Nat) : Nat → Nat → Nat
  | 0, r => r
  | j + 1, r => isqrt x j (if (r + 2 ^ j) * (r + 2 ^ j) ≤ x then r + 2 ^ j else r)

def rcpNum (neg : Bool) (m : Nat) (e : Int) : Num :=
  let k := lenOf m + 80
  exactOr (2 ^ k % m == 0) neg (2 ^ k / m) (-(k : Int) - e)

def sqrtNum (m : Nat) (e : Int) : Num :=
  let m := if e % 2 = 0 then m else 2 * m
  let e := e / 2
  let y := m * 2 ^ 160
  let r := isqrt y (lenOf y / 2 + 1) 0
  exactOr (r * r == y) false r (e - 80)

def rsqNum (m : Nat) (e : Int) : Num :=
  let m := if e % 2 = 0 then m else 2 * m
  let e := e / 2
  let y := 2 ^ 240 / m
  let r := isqrt y 121 0
  exactOr (r * r * m == 2 ^ 240) false r (-120 - e)

/-! ### Fixed point: numbers at 2^-P -/

def fxAtanhGo (p z2 : Nat) : Nat → Nat → Nat → Nat → Nat
  | 0, _, _, acc => acc
  | n + 1, t, k, acc => fxAtanhGo p z2 n (t * z2 / 2 ^ p) (k + 2) (acc + t / k)
/-- atanh z for z at most 1/3. -/
def fxAtanh (p z : Nat) : Nat := fxAtanhGo p (z * z / 2 ^ p) (p / 3 + 2) z 1 0
def fxLn2 (p : Nat) : Nat := 2 * fxAtanh p (2 ^ p / 3)

def fxExpGo (p x : Nat) : Nat → Nat → Nat → Nat → Nat
  | 0, _, _, acc => acc
  | n + 1, t, k, acc => fxExpGo p x n (t * x / 2 ^ p / k) (k + 1) (acc + t)
/-- e^x for x in [0, 1). -/
def fxExp (p x : Nat) : Nat := fxExpGo p x 80 (2 ^ p) 1 0
/-- 2^x for x in [0, 1). -/
def fxExp2 (p x : Nat) : Nat := fxExp p (x * fxLn2 p / 2 ^ p)

def fxAtanInvGo (n2 : Nat) : Nat → Nat → Nat → Int → Int
  | 0, _, _, acc => acc
  | f + 1, t, k, acc => fxAtanInvGo n2 f (t / n2) (k + 2) (if k % 4 = 1 then acc + (t / k : Nat) else acc - (t / k : Nat))
/-- atan(1/n). -/
def fxAtanInv (p n : Nat) : Int := fxAtanInvGo (n * n) (p / 4 + 2) (2 ^ p / n) 1 0
/-- π/2. -/
def fxHalfPi (p : Nat) : Nat := (8 * fxAtanInv p 5 - 2 * fxAtanInv p 239).toNat

def fxSinCosGo (p x2 : Nat) : Nat → Nat → Nat → Int → Int
  | 0, _, _, acc => acc
  | f + 1, t, k, acc => fxSinCosGo p x2 f (t * x2 / 2 ^ p / ((k + 1) * (k + 2))) (k + 2)
      (if k % 4 < 2 then acc + t else acc - t)
/-- sin r and cos r for r in [0, π/2]. -/
def fxSin (p r : Nat) : Nat := (fxSinCosGo p (r * r / 2 ^ p) 60 r 1 0).toNat
def fxCos (p r : Nat) : Nat := (fxSinCosGo p (r * r / 2 ^ p) 60 (2 ^ p) 0 0).toNat

def exp2Num (neg : Bool) (m : Nat) (e : Int) : Num :=
  let v : Int := if neg then -(m : Int) else m
  if m = 0 then .fin false 1 0
  else if lenOf m + e < -60 then (if neg then above false (2 ^ 64 - 1) (-64) else above false (2 ^ 64) (-64))
  else if 10 < lenOf m + e then above false 1 (if neg then -600 else 600)
  else if 0 ≤ e then .fin false 1 (v * 2 ^ e.toNat)
  else
    let d : Int := 2 ^ (-e).toNat
    let n := v / d
    let f := (v % d).toNat
    if f = 0 then .fin false 1 n
    else above false (fxExp2 300 (f * 2 ^ 300 / d.toNat) / 2 ^ 100) (n - 200)

def log2Num (m : Nat) (e : Int) : Num :=
  let l := lenOf m
  let n : Int := e + l - 1
  let h := 2 ^ (l - 1)
  if m = h then ofInt n
  else
    let f : Nat := 2 * fxAtanh 300 ((m - h) * 2 ^ 300 / (m + h)) * 2 ^ 300 / fxLn2 300
    let t : Int := n * 2 ^ 300 + f
    above (decide (t < 0)) (t.natAbs / 2 ^ 100) (-200)

/-- sin, or cos, of (-1)^neg · m · 2^e (R161: every finite argument is reduced exactly). -/
def sinCosNum (cos neg : Bool) (m : Nat) (e : Int) : Num :=
  if m = 0 then (if cos then .fin false 1 0 else .fin neg 0 0)
  else if lenOf m + e < -40 then
    (if cos then above false (2 ^ 64 - 1) (-64) else above neg (m * 2 ^ 64 - 1) (e - 64))
  else
    let p : Nat := 480
    let x := m * 2 ^ (e + p).toNat
    let hp := fxHalfPi p
    let q := x / hp
    let r := x - q * hp
    let j := if cos then (q + 1) % 4 else q % 4
    let t := if j % 2 = 0 then fxSin p r else fxCos p r
    above ((decide (2 ≤ j)) != (neg && !cos)) (t / 2 ^ 200) (-280)

def tanhNum (neg : Bool) (m : Nat) (e : Int) : Num :=
  if m = 0 then .fin neg 0 0
  else if lenOf m + e < -40 then above neg (m * 2 ^ 64 - 1) (e - 64)
  else if 6 < lenOf m + e then above neg (2 ^ 64 - 1) (-64)
  else
    let p : Nat := 300
    let u := m * 2 ^ (e + 1 + p).toNat * 2 ^ p / fxLn2 p
    let a := fxExp2 p (u % 2 ^ p) * 2 ^ (u / 2 ^ p)
    above neg ((a - 2 ^ p) * 2 ^ p / (a + 2 ^ p) / 2 ^ 100) (-200)

/-- The exact result of a special function (by opcode 0x53–0x5A) for an input, and the flags its special cases raise
(R161). -/
def specialNum (op : Nat) (x : Num) : Num × Flags :=
  match x with
  | .nan s => (.nan false, if s then flNV else 0)
  | .inf neg => match op with
    | 0x53 => (.fin neg 0 0, 0)
    | 0x54 | 0x55 => if neg then (.nan false, flNV) else if op = 0x54 then (.fin false 0 0, 0) else (.inf false, 0)
    | 0x56 => if neg then (.fin false 0 0, 0) else (.inf false, 0)
    | 0x57 => if neg then (.nan false, flNV) else (.inf false, 0)
    | 0x58 | 0x59 => (.nan false, flNV)
    | _ => (.fin neg 1 0, 0)
  | .fin neg m e => match op with
    | 0x53 => if m = 0 then (.inf neg, flDZ) else (rcpNum neg m e, 0)
    | 0x54 => if m = 0 then (.inf neg, flDZ) else if neg then (.nan false, flNV) else (rsqNum m e, 0)
    | 0x55 => if m = 0 then (.fin neg 0 0, 0) else if neg then (.nan false, flNV) else (sqrtNum m e, 0)
    | 0x56 => (exp2Num neg m e, 0)
    | 0x57 => if m = 0 then (.inf true, flDZ) else if neg then (.nan false, flNV) else (log2Num m e, 0)
    | 0x58 => (sinCosNum false neg m e, 0)
    | 0x59 => (sinCosNum true neg m e, 0)
    | _ => (tanhNum neg m e, 0)

/-- A special function of one element: binary32, or the binary32 result rounded RNE to a narrower format (R161). The
faithful functions take the choice `up`. -/
def specialElem (op : Nat) (f : Fmt) (rd : Rnd) (up : Bool) (a : Nat) : Nat × Flags :=
  let (y, fl) := specialNum op (f.decode a)
  let rd := if op = 0x53 || op = 0x55 then rd else { rd with mode := 6, up := up }
  if f = .f32 then
    let (b, fl') := f.round rd y
    (b, fl ||| fl')
  else
    let (b, fl') := Fmt.f32.round { rd with sat := false, ftz := false } y
    let (c, fl'') := f.round { sat := rd.sat, ftz := rd.ftz } (Fmt.f32.decode b)
    -- underflow is judged on the element returned (R105, R161)
    let small := (f.round { ftz := true } (f.decode c)).2 &&& flUF != 0 || (Fmt.f32.decode b).isZero
    (c, fl ||| (if small then fl' else fl' &&& ~~~flUF) ||| (if small && fl' &&& flNX != 0 then flUF else 0) ||| fl'')

/-! ### The activation table (R162, R163) -/

/-- A binary32 field of a table. -/
def actF32 (t : List Byte) (off : Nat) : Nat :=
  (t.getD off 0).toNat + 256 * (t.getD (off + 1) 0).toNat + 65536 * (t.getD (off + 2) 0).toNat
    + 16777216 * (t.getD (off + 3) 0).toNat

/-- w (R162): the quotient is rounded to nearest even, also where it is subnormal (DEDUCED, log 23). -/
def actW (t : List Byte) : Nat :=
  let d := (fpSub .f32 {} (actF32 t 4) (actF32 t 0)).1
  (fpMul .f32 {} d 0x3B800000).1

/-- Whether a table is valid (R162). -/
def actValid (t : List Byte) : Bool :=
  let lo := Fmt.f32.decode (actF32 t 0)
  let hi := Fmt.f32.decode (actF32 t 4)
  let fin (x : Num) : Bool := !x.isNan && !x.isInf
  let w := Fmt.f32.decode (actW t)
  fin lo && fin hi && numLt false lo hi && fin w && !w.isZero && ((t.drop 8).take 8).all fun b => b == 0

/-- `act` of one value (R163): each fma raises its flags; the coefficient that an infinity gives is a result like another
(R99, R103, R105), and one that is a signalling NaN raises NV (R100). -/
def actEval (t : List Byte) (rd : Rnd) (a : Nat) : Nat × Flags :=
  let c (i j : Nat) : Nat := actF32 t (16 + 12 * i + 4 * j)
  match Fmt.f32.decode a with
  | .nan s => (Fmt.f32.cnan, if s then flNV else 0)
  | .inf neg =>
    let y := Fmt.f32.decode (if neg then c 0 0 else c 255 0)
    let (z, fl) := Fmt.f32.round { sat := rd.sat, ftz := rd.ftz } y
    (z, fl ||| (if y.isSig then flNV else 0))
  | x =>
    let lo := Fmt.f32.decode (actF32 t 0)
    let hi := Fmt.f32.decode (actF32 t 4)
    let e := min (min x.exp lo.exp) hi.exp
    let i := (max 0 (min 255 ((x.at e - lo.at e) * 256 / (hi.at e - lo.at e)))).toNat
    let (start, f1) := fpFma .f32 {} ((Fmt.f32.round {} (ofInt i)).1) (actW t) (actF32 t 0)
    let (d, _) := fpSub .f32 {} a start
    let (y, f2) := fpFma .f32 {} (c i 2) d (c i 1)
    let (z, f3) := fpFma .f32 { sat := rd.sat, ftz := rd.ftz } y d (c i 0)
    (z, f1 ||| f2 ||| f3)

end Sys2Proof.Machine
end

