-- ==== Sys2Proof/Machine/Float.lean ====
section
/-!
DEFINITION. Floating arithmetic, conversions, special functions and `act` (05 R151 to R163).
-/
namespace Sys2Proof.Machine
open Sys2Proof

/-- The format of a floating type, its elements and their width. -/
def fmtOf (t : Nat) : Fmt := if t = 9 then .f16 else if t = 10 then .bf16 else .f32
def flN (t : Nat) : Nat := if t = 9 || t = 10 then 2 else 1
def flW (t : Nat) : Nat := if t = 9 || t = 10 then 16 else 32

/-- A floating result of one lane element by element, with the flags of all of them (R97): element k, of the draw r
rotated (R113). -/
def fpElems (t : Nat) (f : Fields) (r : Nat) (g : Rnd → Nat → Nat × Flags) : Nat × Flags :=
  ((List.range (flN t)).map fun k =>
    let x := g { mode := f.rnd, sat := f.sat, ftz := f.ftz, r := rotl32 r (16 * k) } k
    (x.1 * 2 ^ (flW t * k), x.2)).foldl (fun a x => (a.1 + x.1, a.2 ||| x.2)) (0, 0)

/-- The generator of a lane after an instruction with `.sr` (R113), and its draw. -/
def srStep (i : Iss) (f : Fields) (l : Nat) : Option W64 × Nat :=
  if f.rnd = 5 then
    let s := rngStep (i.w.thread l).rngs
    (some s, rngDraw s)
  else (none, 0)

/-- The lanes' results of a floating instruction. -/
def fpOuts (i : Iss) (f : Fields) (d : BitVec 8) (scal : Bool) (g : Nat → Nat → Nat × Flags) : List LaneOut :=
  (i.lanesFor scal).map fun l =>
    let (st, r) := srStep i f l
    let (v, fl) := g l r
    { lane := l, writes := destWrites d false l v, flags := fl, rng := st }

/-- A 32-bit source in a lane. -/
def src32 (i : Iss) (f : Fields) (x : BitVec 8) (l : Nat) : Nat := readReg i.w x (immVal i.pfx f false) false l

/-- Element k of a floating operand. -/
def elemF (t x k : Nat) : Nat := bitsOf x (flW t * k) (flW t)

/-- A floating instruction of the vector ALU: each element from the elements of A, B and C. -/
def issueFp (x : Instr) (f : Fields) (s : State) (g : Fmt → Rnd → Nat → Nat → Nat → Nat × Flags) : Out :=
  issueSplit x s (allScalar f) {} fun i s =>
    commit i s (allScalar f) (fpOuts i f f.d (allScalar f) fun l r =>
      fpElems f.ty f r fun rd k => g (fmtOf f.ty) rd (elemF f.ty (src32 i f f.a l) k)
        (elemF f.ty (src32 i f f.b l) k) (elemF f.ty (src32 i f f.c l) k))

/-- `fadd` (R151). -/
def execFadd (f : Fields) (s : State) : Out := issueFp (.fadd f) f s fun m rd a b _ => fpAdd m rd a b
/-- `fsub` (R151). -/
def execFsub (f : Fields) (s : State) : Out := issueFp (.fsub f) f s fun m rd a b _ => fpSub m rd a b
/-- `fmul` (R151). -/
def execFmul (f : Fields) (s : State) : Out := issueFp (.fmul f) f s fun m rd a b _ => fpMul m rd a b
/-- `fma` (R151). -/
def execFma (f : Fields) (s : State) : Out := issueFp (.fma f) f s fpFma
/-- `fscl` (R151): n is B as an i32, or element k of B as an i16. -/
def execFscl (f : Fields) (s : State) : Out :=
  issueFp (.fscl f) f s fun m rd a b _ => fpScl m rd a (signedOf (flW f.ty) b)
/-- `fmin` (R152). -/
def execFmin (f : Fields) (s : State) : Out := issueFp (.fmin f) f s fun m _ a b _ => fpMinMax m false a b
/-- `fmax` (R152). -/
def execFmax (f : Fields) (s : State) : Out := issueFp (.fmax f) f s fun m _ a b _ => fpMinMax m true a b
/-- `famax` (R152). -/
def execFamax (f : Fields) (s : State) : Out := issueFp (.famax f) f s fun m _ a b _ => fpAMax m a b
/-- `frnd` (R155). -/
def execFrnd (f : Fields) (s : State) : Out := issueFp (.frnd f) f s fun m rd a _ _ => fpRnd m rd a
/-- `fclass` (R156). -/
def execFclass (f : Fields) (s : State) : Out := issueFp (.fclass f) f s fun m _ a _ _ => (fpClass m a, 0)

/-- The sign operations of R154: only the sign bit changes. -/
def fpSgn (m : Fmt) (op a b : Nat) : Nat :=
  let n := m.tb + m.eb
  let sa := bitsOf a n 1
  let sb := bitsOf b n 1
  let s := match op with
    | 0 => sb
    | 1 => 1 - sb
    | 2 => (sa + sb) % 2
    | 3 => 1 - sa
    | _ => 0
  bitsOf a 0 n + s * 2 ^ n

/-- `fsgn` (R154). -/
def execFsgn (f : Fields) (s : State) : Out := issueFp (.fsgn f) f s fun m _ a b _ => (fpSgn m f.cond a b, 0)

/-- `fcmp` (R153): with all-scalar sources the comparison is made once and its flags go to every lane of B (R139). -/
def execFcmp (f : Fields) (s : State) : Out :=
  issue (.fcmp f) s fun i s =>
    commit i s (!isVec f.a && !isVec f.b) (i.lanes.map fun l =>
      let (v, fl) := fpCmp .f32 f.cond (src32 i f f.a l) (src32 i f f.b l)
      { lane := l, writes := destWrites f.d false l (bitOf v), flags := fl })

/-- `fdot4` of one lane (R157): four binary8 products and c, rounded once. -/
def dot4 (fa fb : Nat) (rd : Rnd) (a b c : Nat) : Nat × Flags :=
  let z := Fmt.f32.decode c
  let xs := (List.range 4).map fun k => (decode8 fa (bitsOf a (8 * k) 8), decode8 fb (bitsOf b (8 * k) 8))
  if z.isNan || xs.any fun p => p.1.isNan || p.2.isNan then (Fmt.f32.cnan, if z.isSig then flNV else 0)
  else
    let ps := xs.map fun p => mulNum p.1 p.2
    Fmt.f32.finish rd [] (if ps.any Option.isNone then none
      else sumNum rd.mode (ps.map (·.getD default) ++ [z]))

/-- `fdot4` (R157). -/
def execFdot4 (f : Fields) (s : State) : Out :=
  issueSplit (.fdot4 f) s (allScalar f) {} fun i s =>
    commit i s (allScalar f) (fpOuts i f f.d (allScalar f) fun l r =>
      dot4 (f.im % 256) (bitsOf f.im 8 8) { mode := f.rnd, sat := f.sat, ftz := f.ftz, r := r }
        (src32 i f f.a l) (src32 i f f.b l) (src32 i f f.c l))

/-! ### Conversions (R158 to R160) -/

/-- One element converted (R158). -/
def cvtElem (st dt : Nat) (rd : Rnd) (x : Nat) : Nat × Flags :=
  let fl (t : Nat) : Bool := isF t
  if fl st && fl dt then
    let v := (fmtOf st).decode x
    (fmtOf dt).finish rd [v] (some v)
  else if fl dt then (fmtOf dt).round rd (ofInt (val (elW st) (elS st) x))
  else if fl st then
    let (v, g) := toInt rd (minOf (elW dt) (elS dt)) (maxOf (elW dt) (elS dt)) ((fmtOf st).decode x)
    (wrapNat (elW dt) v, g)
  else (narrow (elW dt) (elS dt) rd.sat (val (elW st) (elS st) x), 0)

/-- Width of an element of any type of R36. -/
def anyW (t : Nat) : Nat := if isF t then flW t else elW t

/-- The elements a conversion reads (R158), as many as the destination has. -/
def cvtSources (f : Fields) (a b : Nat) : List Nat :=
  let st := f.cond
  if oneValue st then (if oneValue f.ty then [a] else [a, b])
  else
    let e (k : Nat) : Nat := bitsOf a (16 * k) 16
    if oneValue f.ty then [e (f.im % 2)] else [e 0, e 1]

/-- The conversion of one lane (R158). Under .sr a result of one value uses the draw unrotated, also from source element 1
(DEDUCED, log 23). -/
def cvtVal (f : Fields) (r a b : Nat) : Nat × Flags :=
  let xs := cvtSources f a b
  ((List.range xs.length).zipWith (fun k x =>
    let y := cvtElem f.cond f.ty { mode := f.rnd, sat := f.sat, ftz := f.ftz, r := rotl32 r (16 * k) } x
    (y.1 * 2 ^ (anyW f.ty * k), y.2)) xs).foldl (fun a x => (a.1 + x.1, a.2 ||| x.2)) (0, 0)

/-- The flags a conversion can raise (R135). -/
def cvtRaises (st dt : Nat) : Flags :=
  if isF st && isF dt then 0x1D else if isF dt then 0x14 else if isF st then 0x11 else 0

/-- `cvt` (R158): on the conversion queue. -/
def execCvt (f : Fields) (s : State) : Out :=
  issueSplit (.cvt f) s (allScalar f) {} fun i s =>
    enqueue i s 1 (allScalar f) (cvtRaises f.cond f.ty) none ((i.lanesFor (allScalar f)).map fun l =>
      let (st, r) := srStep i f l
      let (v, fl) := cvtVal f r (readReg i.w f.a 0 (w64 f.cond) l) (readReg i.w f.b 0 (w64 f.cond) l)
      { lane := l, writes := destWrites f.d (w64 f.ty) l v, flags := fl, rng := st })

/-- `pack` of one lane (R159). -/
def packVal (f : Fields) (r : Nat) (xs : List Nat) (b : Nat) : Nat × Flags :=
  let fmt := f.im % 256
  let w := packBits fmt
  let off := bitsOf f.im 8 5
  (List.range 4).foldl (fun acc k =>
    let y := fmtEncode fmt { mode := f.rnd, sat := f.sat, r := rotl32 r (8 * k) } (Fmt.f32.decode (xs.getD k 0))
    (putBits acc.1 (off + w * k) w y.1, acc.2 ||| y.2)) (b, 0)

/-- `pack` (R159): on the conversion queue. -/
def execPack (f : Fields) (s : State) : Out :=
  issue (.pack f) s fun i s =>
    enqueue i s 1 false 0x1D none (i.lanes.map fun l =>
      let (st, r) := srStep i f l
      let xs := (List.range 4).map fun k => readReg i.w (f.a + BitVec.ofNat 8 k) 0 false l
      let (v, fl) := packVal f r xs (readReg i.w f.b 0 false l)
      { lane := l, writes := destWrites f.d false l v, flags := fl, rng := st })

/-- `unpack` (R160): on the conversion queue, exact, without a flag. -/
def execUnpack (f : Fields) (s : State) : Out :=
  issue (.unpack f) s fun i s =>
    let fmt := f.im % 256
    let w := packBits fmt
    let off := bitsOf f.im 8 5
    enqueue i s 1 false 0 none (i.lanes.map fun l =>
      let a := readReg i.w f.a 0 false l
      { lane := l
        writes := (List.range 4).flatMap fun k =>
          destWrites (f.d + BitVec.ofNat 8 k) false l (Fmt.f32.round {} (fmtDecode fmt (bitsOf a (off + w * k) w))).1 })

/-! ### Special functions (R161 to R163) -/

/-- The flags a special function can raise (R135). -/
def specialRaises (op : Nat) : Flags := if op = 0x53 || op = 0x54 || op = 0x57 then 0x1F else 0x1D

/-- A special function's instruction (R161): on the special-function queue. -/
def issueSpecial (x : Instr) (op : Nat) (f : Fields) (s : State) : Out :=
  issueSplit x s (allScalar f) {} fun i s =>
    enqueue i s 0 (allScalar f) (specialRaises op) none (fpOuts i f f.d (allScalar f) fun l r =>
      fpElems f.ty f r fun rd k =>
        let a := elemF f.ty (src32 i f f.a l) k
        let wide := (Fmt.f32.round {} ((fmtOf f.ty).decode a)).1
        specialElem op (fmtOf f.ty) rd (Config.faithfulUp op (BitVec.ofNat 32 wide)) a)

/-- `rcp` (R161). -/
def execRcp (f : Fields) (s : State) : Out := issueSpecial (.rcp f) 0x53 f s
/-- `rsq` (R161). -/
def execRsq (f : Fields) (s : State) : Out := issueSpecial (.rsq f) 0x54 f s
/-- `sqrt` (R161). -/
def execSqrt (f : Fields) (s : State) : Out := issueSpecial (.sqrt f) 0x55 f s
/-- `exp2` (R161). -/
def execExp2 (f : Fields) (s : State) : Out := issueSpecial (.exp2 f) 0x56 f s
/-- `log2` (R161). -/
def execLog2 (f : Fields) (s : State) : Out := issueSpecial (.log2 f) 0x57 f s
/-- `sin` (R161). -/
def execSin (f : Fields) (s : State) : Out := issueSpecial (.sin f) 0x58 f s
/-- `cos` (R161). -/
def execCos (f : Fields) (s : State) : Out := issueSpecial (.cos f) 0x59 f s
/-- `tanh` (R161). -/
def execTanh (f : Fields) (s : State) : Out := issueSpecial (.tanh f) 0x5A f s

/-- The bank that `act` reads on a core (R137, R162). -/
def Core.actBank (c : Core) : ActBank := if c.actCur then c.act1 else c.act0

/-- `act` (R163): it binds the current bank of the core, or of the home D-core, at issue. -/
def execAct (f : Fields) (s : State) : Out :=
  issueSplit (.act f) s (allScalar f) {} fun i s =>
    let c := s.core i.w.homeCore
    if !c.actBank.valid then trapAll i 0x045
    else enqueue i s 0 (allScalar f) 0x1D (some (bitOf c.actCur)) (fpOuts i f f.d (allScalar f) fun l _ =>
      actEval c.actBank.bytes { sat := f.sat, ftz := f.ftz } (src32 i f f.a l))

/-! ### QUEUE_OP_COMPLETE (R109, R132, R134) -/

/-- The first entry of a queue, and the entries without it. -/
def takeFirst (q : Nat) : List QueueOp → Option (QueueOp × List QueueOp)
  | [] => none
  | e :: r => if e.queue = q then some (e, r) else (takeFirst q r).map fun p => (p.1, e :: p.2)

/-- The oldest operation of a warp in a queue completes: its registers and flags are written, or it takes its trap. -/
def execQueueOpComplete (w queue : Nat) (s : State) : Out :=
  match s.warp? w with
  | none => .next s
  | some x => match takeFirst queue x.queue with
    | none => .next s
    | some (op, rest) =>
      let y := { x with queue := rest, hold := if op.lanes.isEmpty then x.hold else .free }
      if op.trapMask != 0 then
        let i : Iss := { w := { y with since := y.since - 1 }, pc := op.pc, all := op.lanes, lanes := lanesOf op.trapMask
                         nxt := nextPc op.pc, pfx := none }
        .next (takeTrap (s.setWarp y) i { cause := op.trapCause, lanes := lanesOf op.trapMask })
      else
        let z := (y.putAll op.writes).raiseFlags op.flags
        .next (s.setWarp (if op.lanes.isEmpty then z
          else z.pass (op.lanes.map fun l => (l, nextPc op.pc))))

end Sys2Proof.Machine
end

