-- ==== Sys2Proof/Machine/Lanes.lean ====
section
/-!
DEFINITION. Cross-lane instructions (06 R168 to R179). P is B of the bundle, or of the half-group in legacy mode.
-/
namespace Sys2Proof.Machine
open Sys2Proof

/-- The group size (R171). -/
def groupSize (w : Warp) : Nat := if w.lw then 16 else w.width
/-- The first lane of a lane's group (R171). -/
def baseLane (w : Warp) (l : Nat) : Nat := l - l % groupSize w

/-- A lane mask: bit j(s) for each lane (R171). -/
def laneMask (w : Warp) (ls : List Nat) : Nat := (ls.map fun l => 2 ^ (l % groupSize w)).sum

/-- The frame of a cross-lane instruction: with P empty a scalar destination takes the empty-set result (R168), behind every
result that the register still waits for (R76, R77, R132). An instruction that its decode checks would stop, which raises
no cause under an all-false guard (R45), writes nothing then (DESIGN CHOICE, log 22). -/
def issueLane (x : Instr) (f : Fields) (s : State) (wide : Bool) (emptyVal : Nat) (body : Iss → State → Eff) : Out :=
  issueSplit x s true
    { writes := if isScal f.d then regsAt f.d 1 else []
      eff := fun i s =>
        if isScal f.d && ((entryOf x).any fun e => (checkFields e f (s.vregsOf i.w) (s.sregsOf i.w)).isNone) then
          s.upd i fun w => w.putAll (destWrites f.d wide 0 emptyVal)
        else s } body

/-- One result for a scalar D, or the same in every lane of B (R174, R175). -/
def oneResult (i : Iss) (d : BitVec 8) (wide : Bool) (v : Nat) (fl : Flags) : List LaneOut :=
  (if isScal d then [i.low] else i.lanes).map fun l => { lane := l, writes := destWrites d wide l v, flags := fl }

/-- The source lane of `shfl` (R173). -/
def shflFrom (w : Warp) (mode l b : Nat) : Option Nat :=
  let g := groupSize w
  let j := l % g
  let base := l - j
  match mode with
  | 0 => some (base + b % g)
  | 1 => if b ≤ j then some (l - b) else none
  | 2 => if j + b < g then some (l + b) else none
  | _ => some (base + (j ^^^ b) % g)

/-- `shfl` (R173). -/
def execShfl (f : Fields) (s : State) : Out :=
  issueLane (.shfl f) f s false 0 fun i s =>
    commit i s false (i.lanes.map fun l =>
      let src := match shflFrom i.w f.ty l (src32 i f f.b l) with
        | some t => if i.lanes.contains t then t else l
        | none => l
      { lane := l, writes := destWrites f.d false l (src32 i f f.a src) })

/-- The result of `vote` over P (R174). -/
def voteVal (op : Nat) (bs : List Bool) : Bool :=
  match op with
  | 0 => bs.any id
  | 1 => bs.all id
  | _ => bs.all id || bs.all not

/-- `vote` (R174). -/
def execVote (f : Fields) (s : State) : Out :=
  issueLane (.vote f) f s false (bitOf (voteVal f.ty [])) fun i s =>
    commit i s false (oneResult i f.d false (bitOf (voteVal f.ty (i.lanes.map (readPred i.w f.a)))) 0)

/-- `ballot` (R174). -/
def execBallot (f : Fields) (s : State) : Out :=
  issueLane (.ballot f) f s true 0 fun i s =>
    commit i s false (oneResult i f.d true (laneMask i.w (i.lanes.filter (readPred i.w f.a))) 0)

/-- The identity of an operation of R175, as bits. -/
def redIdentity (t op : Nat) : Nat :=
  if t = 8 then (match op with
    | 0 => 0
    | 1 => Fmt.f32.infc false
    | _ => Fmt.f32.infc true)
  else match op with
    | 0 => 0
    | 1 => wrapNat (elW t) (maxOf (elW t) (elS t))
    | 2 => wrapNat (elW t) (minOf (elW t) (elS t))
    | 3 => 2 ^ elW t - 1
    | _ => 0

/-- The combination of some values (R175): bits and flags. SAT and FTZ apply to every f32 result of at least one term (R103, R105).
The identity of an empty set, which may be an infinity, is written as it is also under `.sat`; R103 names infinities of an input or a
division by zero, and the spec does not say whether it means this one (DESIGN CHOICE, log 23). -/
def redVal (t op : Nat) (rd : Rnd) (xs : List Nat) : Nat × Flags :=
  if xs.isEmpty then (redIdentity t op, 0)
  else if t = 8 then
    let ns := xs.map Fmt.f32.decode
    let nv : Flags := if ns.any Num.isSig then flNV else 0
    if op = 0 then Fmt.f32.finish rd ns (if ns.any Num.isNan then some (.nan false) else sumNum rd.mode ns)
    else match xs.filter fun x => !(Fmt.f32.decode x).isNan with
      | [] => (Fmt.f32.cnan, nv)
      | y :: ys =>
        let (v, fl) := Fmt.f32.round { sat := rd.sat, ftz := rd.ftz } (Fmt.f32.decode (ys.foldl (fun a x => (fpMinMax .f32 (op == 2) a x).1) y))
        (v, nv ||| fl)
  else
    let w := elW t
    let sg := elS t
    match op with
    | 0 => (narrow w sg rd.sat ((xs.map (val w sg)).sum), 0)
    | 1 => (xs.foldl (fun a x => if val w sg x < val w sg a then x else a) (xs.headD 0), 0)
    | 2 => (xs.foldl (fun a x => if val w sg a < val w sg x then x else a) (xs.headD 0), 0)
    | 3 => (xs.foldl (· &&& ·) (2 ^ w - 1), 0)
    | 4 => (xs.foldl (· ||| ·) 0, 0)
    | _ => (xs.foldl (· ^^^ ·) 0, 0)

def redRnd (f : Fields) : Rnd := { mode := f.rnd, sat := f.sat, ftz := f.ftz }

/-- `wred` (R175): its flags follow R139. -/
def execWred (f : Fields) (s : State) : Out :=
  issueLane (.wred f) f s (w64 f.ty) (redIdentity f.ty f.cond) fun i s =>
    let (v, fl) := redVal f.ty f.cond (redRnd f) (i.lanes.map fun l => readReg i.w f.a 0 (w64 f.ty) l)
    commit i s true (oneResult i f.d (w64 f.ty) v fl)

/-- `scan` (R175): each lane over the lanes of P up to it, or below it. -/
def execScan (f : Fields) (s : State) : Out :=
  issueLane (.scan f) f s (w64 f.ty) 0 fun i s =>
    commit i s false (i.lanes.map fun l =>
      let ls := i.lanes.filter fun k => if f.cond < 8 then decide (k ≤ l) else decide (k < l)
      let (v, fl) := redVal f.ty (f.cond % 8) (redRnd f) (ls.map fun k => readReg i.w f.a 0 (w64 f.ty) k)
      { lane := l, writes := destWrites f.d (w64 f.ty) l v, flags := fl })

/-- `match` (R176). -/
def execMatchl (f : Fields) (s : State) : Out :=
  issueLane (.matchl f) f s true 0 fun i s =>
    let v (l : Nat) : Nat := readReg i.w f.a 0 (w64 f.ty) l
    commit i s false (i.lanes.map fun l =>
      { lane := l, writes := destWrites f.d true l (laneMask i.w (i.lanes.filter fun k => v k == v l)) })

/-- `elect` (R177). -/
def execElect (f : Fields) (s : State) : Out :=
  issueLane (.elect f) f s true (2 ^ 64 - 1) fun i s =>
    commit i s false (if isScal f.d then oneResult i f.d true i.low 0
      else i.lanes.map fun l => { lane := l, writes := destWrites f.d false l (bitOf (l == i.low)) })

/-- The lane that `rdlane` and `wrlane` name (R178). -/
def namedLane (i : Iss) (f : Fields) : Nat :=
  baseLane i.w i.low + src32 i f f.b i.low % groupSize i.w

/-- `rdlane` (R178). -/
def execRdlane (f : Fields) (s : State) : Out :=
  issueLane (.rdlane f) f s (w64 f.ty) 0 fun i s =>
    let t := namedLane i f
    commit i s false (oneResult i f.d (w64 f.ty)
      (if i.lanes.contains t then readReg i.w f.a 0 (w64 f.ty) t else 0) 0)

/-- `wrlane` (R178). -/
def execWrlane (f : Fields) (s : State) : Out :=
  issueLane (.wrlane f) f s (w64 f.ty) 0 fun i s =>
    let t := namedLane i f
    commit i s false (if i.lanes.contains t then
      [{ lane := t, writes := destWrites f.d (w64 f.ty) t (readReg i.w f.a (immVal i.pfx f false) (w64 f.ty) i.low) }] else [])

end Sys2Proof.Machine
end

