-- ==== Sys2Proof/Machine/Control.lean ====
section
/-!
DEFINITION. Control and system instructions of 03 R62 to R91, prefixes (02 R48 to R51), short pairs (R38 to R43), absent
instructions and emulation calls (R54 to R56).
-/
namespace Sys2Proof.Machine
open Sys2Proof

/-- `nop` (R80). -/
def execNop (f : Fields) (s : State) : Out := issue (.nop f) s fun _ s => .done s

/-- `yield` (R80): the credit becomes 0. -/
def execYield (f : Fields) (s : State) : Out :=
  issue (.yield f) s fun i s => .done (s.upd i fun w => { w with credit := 0, yielded := true })

/-- Whether the four limits of a `wait` hold (R81). -/
def waitOk (w : Warp) (aux : Nat) : Bool :=
  let ok (lo n : Nat) : Bool := bitsOf aux lo 4 == 15 || decide (n ≤ bitsOf aux lo 4)
  ok 0 w.ld && ok 4 w.st && ok 8 w.cp && ok 12 w.tm

/-- `wait` (R81): the warp holds until all conditions are true at once. -/
def execWait (f : Fields) (s : State) : Out :=
  issue (.wait f) s fun i s => if waitOk i.w f.aux then .done s else .hold (i.back s)

/-! ### Special registers (R73, R74, R83, R84) -/

/-- What a special register reads in a lane. -/
def special (s : State) (w : Warp) (n l : Nat) : Nat :=
  let t := w.thread l
  let b := s.block? w.block
  match n with
  | 0x00 => t.tid
  | 0x01 => l
  | 0x02 => w.wnum
  | 0x03 => w.width
  | 0x04 => (b.map (·.index)).getD 0
  | 0x05 => (b.map (·.threads)).getD 0
  | 0x06 => coreNum w.core
  | 0x07 => bitOf w.onL
  | 0x08 => coreCluster w.core
  | 0x09 => clusterDie (coreCluster w.core)
  | 0x0A => bitOf w.onL
  | 0x0B => w.ep.toNat
  | 0x0C => s.cyclesOf w.core
  | 0x0D => s.tick.toNat
  | 0x0E => t.fpctl.toNat
  | 0x0F => t.fpflags.toNat
  | 0x10 => t.rngs.toNat
  | 0x11 => t.ustk.toNat
  | 0x12 => t.task.seq.toNat
  | 0x13 => t.task.aborts.toNat
  | 0x14 => regionId w.region
  | 0x15 => s.partOf (coreCluster w.core)
  | 0x16 => w.ld
  | 0x17 => w.st
  | 0x18 => w.cp
  | _ => w.tm

/-- `rdsr` (R83): a read of `%fpflags` waits for both queues (R110). -/
def execRdsr (f : Fields) (s : State) : Out :=
  issueSplit (.rdsr f) s (allScalar f) {} fun i s =>
    if f.im = 0x0F && !i.w.queue.isEmpty then .hold (i.back s)
    else writeEff i s ((i.lanesFor (allScalar f)).flatMap fun l => destWrites f.d (f.ty == 3) l (special s i.w f.im l))

/-- A special register of a thread written (R74, R106). -/
def Thread.setSpecial (t : Thread) (n : Nat) (v : Nat) : Thread :=
  match n with
  | 0x0E => { t with fpctl := BitVec.ofNat 32 (v % 32) }
  | 0x0F => { t with fpflags := BitVec.ofNat 32 (v % 32) }
  | 0x10 => { t with rngs := if BitVec.ofNat 64 v = 0 then 1 else BitVec.ofNat 64 v }
  | _ => { t with ustk := BitVec.ofNat 64 v }

/-- `wrsr` (R83): a write of `%fpflags` waits for both queues (R110). -/
def execWrsr (f : Fields) (s : State) : Out :=
  issue (.wrsr f) s fun i s =>
    if f.im = 0x0F && !i.w.queue.isEmpty then .hold (i.back s)
    else .done (s.upd i fun w => w.setLanes i.lanes fun l t => t.setSpecial f.im (readReg i.w f.a 0 (f.ty == 3) l))

/-! ### Branches (R85 to R87) -/

/-- A direct target (R30). -/
def directTarget (pc : W64) (f : Fields) : W64 := lineOf pc + (f.imm.signExtend 64) * 4

/-- A target read from A in a lane (R85). -/
def targetA (i : Iss) (f : Fields) (l : Nat) : W64 := BitVec.ofNat 64 (readReg i.w f.a 0 true l)

/-- `bra`, `brx`, `call`, `callx` and `ret` (R86): the target checks, the link, the jump. -/
def transfer (f : Fields) (link : Bool) (target : Iss → Nat → W64) (i : Iss) (s : State) : Eff :=
  let ts := i.lanes.map fun l => (l, target i l)
  match transferTrap s i.w ts with
  | some t => .trap t
  | none =>
    let ws := if link then i.lanes.flatMap fun l => destWrites f.d true l i.nxt.toNat else []
    .jump (s.upd i fun w => w.putAll ws) ts

/-- `bra` (R86). -/
def execBra (f : Fields) (s : State) : Out := issue (.bra f) s (transfer f false fun i _ => directTarget i.pc f)
/-- `call` (R86). -/
def execCall (f : Fields) (s : State) : Out := issue (.call f) s (transfer f true fun i _ => directTarget i.pc f)
/-- `callx` (R86). -/
def execCallx (f : Fields) (s : State) : Out := issue (.callx f) s (transfer f true fun i l => targetA i f l)

/-- A return from an emulation routine goes through v[n-2]:v[n-1] (R55). -/
def leaveEmu (f : Fields) (i : Iss) (s : State) : Eff :=
  match transfer f false (fun i l => targetA i f l) i s with
  | .jump t q =>
    if f.a.toNat + 2 = s.vregsOf i.w then .jump (t.upd i fun w => w.setLanes i.lanes fun _ t => { t with inEmu := false }) q
    else .jump t q
  | e => e

/-- `brx` (R86). -/
def execBrx (f : Fields) (s : State) : Out := issue (.brx f) s (leaveEmu f)
/-- `ret` (R86): the architectural effect of `brx`. -/
def execRet (f : Fields) (s : State) : Out := issue (.ret f) s (leaveEmu f)

/-- `brs` (R87): one comparison of scalars; the target is checked where the branch is taken. -/
def execBrs (f : Fields) (s : State) : Out :=
  issueSplit (.brs f) s true {} fun i s =>
    let rd (x : BitVec 8) : Int := val (elW f.ty) (elS f.ty) (readReg i.w x 0 (w64 f.ty) i.low)
    if cmpInt f.aux (rd f.a) (rd f.b) then transfer f false (fun i _ => directTarget i.pc f) i s else .done s

/-! ### Warps (R62 to R66, R88 to R91) -/

/-- `wsync` (R88): the threads of B park where they are. -/
def execWsync (f : Fields) (s : State) : Out :=
  issue (.wsync f) s fun i s =>
    .jump (s.upd i fun w => w.setLanes i.lanes fun _ t => { t with st := .parked }) (i.lanes.map fun l => (l, i.pc))

/-- Whether the re-sort may choose a READY lane: in snare mode only the threads of the faulting bundle run (R339). -/
def mayRun (w : Warp) (l : Nat) : Bool :=
  match w.snare with
  | some n => n.lanes.contains l && (w.thread l).mayIssue
  | none => (w.thread l).mayIssue

/-- The PC that a re-sort chooses (R62, R64): the lowest, or that of the READY thread whose age is highest and at
least 256. -/
def resortPc (w : Warp) : Option Nat :=
  let ready := (w.lanesIn .ready).filter (mayRun w)
  let old := ready.foldl (fun (m : Option Nat) l => match m with
    | none => if 256 ≤ (w.thread l).age then some l else none
    | some k => if (w.thread k).age < (w.thread l).age then some l else some k) none
  match old with
  | some l => some (w.thread l).pc.toNat
  | none => w.lowestPc ready

/-- A re-sort (R62, R64), which takes no unit of prefix and target apart (R51) and no held instruction. -/
def Warp.resort (w : Warp) : Warp :=
  if w.pfx.isSome || w.hold != .free || !w.stopped.isEmpty || w.snare.any (fun n => !n.running) then w
  else match resortPc w with
  | none => { w with bundle := [], sorted := 0 }
  | some p => { w with sorted := 0, bundle := ((w.lanesIn .ready).filter (mayRun w)).filter fun l => (w.thread l).pc.toNat == p }

/-- The re-sort that an issue finds due: the bundle is empty, or 4 cycles in which the warp issued have gone by (R62, R65). -/
def Warp.sortDue (w : Warp) : Warp := if w.bundle.isEmpty || decide (4 ≤ w.sorted) then w.resort else w

/-- WARP_RESORT. -/
def execWarpResort (w : Nat) (s : State) : Out := .next (s.withWarp w Warp.resort)

/-- The release of R90: when every live thread is PARKED, those at the lowest PC go on as the current bundle. -/
def Warp.wsyncRelease (w : Warp) : Warp :=
  let parked := w.lanesIn .parked
  if w.live.isEmpty || parked.length != w.live.length then w
  else match w.lowestPc parked with
  | none => w
  | some p =>
    let go := parked.filter fun l => (w.thread l).pc.toNat == p
    { w.setLanes go (fun _ t => t.wake) with bundle := go }

/-- WSYNC_RELEASE (R90, R91). -/
def execWsyncRelease (w : Nat) (s : State) : Out := .next (s.withWarp w Warp.wsyncRelease)

/-! ### Emulation calls (R55) -/

/-- The entry of the emulation table for the image that runs (R382). -/
def emuTarget (s : State) (w : Warp) (r : Region) (id : Nat) : Option W64 :=
  (s.ctxRead w.ctx (r.kobj + r.emuOff + 8 * id + (if w.onL then 4 else 0)) 4).map fun o =>
    BitVec.ofNat 64 (r.imageBase w.onL + o)

/-- `emu` (R55). Its decode checks come first: that ABSENT_INSTRUCTION of the operation stands before a bad SUB, operand or
IMM32, as R44 orders the causes, is not taken (DEDUCED, log 22). The table's page is read as an instruction fetch is. -/
def execEmu (f : Fields) (s : State) : Out :=
  issue (.emu f) s fun i s =>
    match s.regionOf? i.w.ctx i.w.region with
    | none => trapAll i 0x001
    | some r =>
      if !r.emu || decide (r.emuCnt ≤ f.aux) then trapAll i 0x001
      else match emuTarget s i.w r f.aux with
      | none =>
        let a := r.kobj + r.emuOff + 8 * f.aux
        .trap { cause := 0x0B0, lanes := i.lanes, addr := BitVec.ofNat 64 a, pages := some [a / 131072 * 131072] }
      | some t =>
        let ts := i.lanes.map fun l => (l, t)
        match transferTrap s i.w ts with
        | some x => .trap x
        | none =>
          let n := s.vregsOf i.w
          let ws := i.lanes.flatMap fun l => destWrites (BitVec.ofNat 8 (n - 2)) true l i.nxt.toNat
          .jump (s.upd i fun w => (w.putAll ws).setLanes i.lanes fun _ t => { t with inEmu := true }) ts

/-! ### Absent instructions (R54): the decode check raises ABSENT_INSTRUCTION. -/

/-- `dadd` (R54). -/
def execDadd (f : Fields) (s : State) : Out := issue (.dadd f) s fun i _ => trapAll i 0x001
/-- `dmul` (R54). -/
def execDmul (f : Fields) (s : State) : Out := issue (.dmul f) s fun i _ => trapAll i 0x001
/-- `dfma` (R54). -/
def execDfma (f : Fields) (s : State) : Out := issue (.dfma f) s fun i _ => trapAll i 0x001
/-- `ddiv` (R54). -/
def execDdiv (f : Fields) (s : State) : Out := issue (.ddiv f) s fun i _ => trapAll i 0x001
/-- `dsqrt` (R54). -/
def execDsqrt (f : Fields) (s : State) : Out := issue (.dsqrt f) s fun i _ => trapAll i 0x001
/-- `dcvt` (R54). -/
def execDcvt (f : Fields) (s : State) : Out := issue (.dcvt f) s fun i _ => trapAll i 0x001

/-! ### Prefixes (R48 to R51) -/

/-- A prefix: its checks, as far as the next slot can be seen, and the warp keeps it for the next instruction. -/
def prefixBody (isImx : Bool) (f : Fields) (i : Iss) (s : State) : Eff :=
  match (peekSlot s i.w i.nxt).bind (prefixCause isImx) with
  | some c => trapAll i c
  | none => .done (s.upd i fun w => { w with pfx := some {
      isImx := isImx, hi := f.imm, pol := BitVec.ofNat 4 f.pol, scope := BitVec.ofNat 4 f.scope,
      ord := BitVec.ofNat 4 f.ord, pc := i.pc } })

/-- The issue of a prefix: a G that is false in every lane is no guard but ILLEGAL_MOD at the prefix (R50). -/
def issuePrefix (x : Instr) (f : Fields) (s : State) (isImx : Bool) : Out :=
  match s.warp? s.cur with
  | some w =>
    if !w.bundle.isEmpty && (guarded w f.g w.bundle).isEmpty then .next (takeTrap s (issOf w f.g w.bundle) { cause := 0x007, lanes := w.bundle })
    else issue x s (prefixBody isImx f)
  | none => .fault .noIssuer

/-- `imx` (R48). -/
def execImx (f : Fields) (s : State) : Out := issuePrefix (.imx f) f s true
/-- `pol` (R49). -/
def execPol (f : Fields) (s : State) : Out := issuePrefix (.pol f) f s false

/-! ### Short pairs (R38 to R43) -/

/-- The type of R36 that TYPE names (R38). -/
def sopType (t : Nat) : Nat := if t = 2 then 8 else if t = 3 then 9 else if t = 4 then 10 else t

/-- The value and flags of a short operation on one lane's sources (R39, R41). -/
def sopVal (o : ShortOp) (a b c : Nat) : Nat × Flags :=
  let t := sopType o.type.toNat
  let int (op : IntOp) : Nat × Flags := (intVal t false op a b c, 0)
  let fp (g : Fmt → Nat → Nat → Nat → Nat × Flags) : Nat × Flags :=
    fpElems t default 0 fun _ k => g (fmtOf t) (elemF t a k) (elemF t b k) (elemF t c k)
  match o.sop.toNat with
  | 0x00 => int opAdd
  | 0x01 => int opSub
  | 0x02 => int opMul
  | 0x03 => int opMad
  | 0x04 => int opMin
  | 0x05 => int opMax
  | 0x06 => int opAnd
  | 0x07 => int opOr
  | 0x08 => int opXor
  | 0x09 => int opShl
  | 0x0A => int opShr
  | 0x0B => int opSar
  | 0x0C => (a, 0)
  | 0x0D => int opAbs
  | 0x0E => (popCount a 32, 0)
  | 0x0F => int opClamp
  | 0x10 => fp fun m x y _ => fpAdd m {} x y
  | 0x11 => fp fun m x y _ => fpSub m {} x y
  | 0x12 => fp fun m x y _ => fpMul m {} x y
  | 0x13 => fp fun m x y z => fpFma m {} x y z
  | 0x14 => fp fun m x y _ => fpMinMax m false x y
  | 0x15 => fp fun m x y _ => fpMinMax m true x y
  | 0x16 => fp fun m x y _ => fpAMax m x y
  | 0x17 => fp fun m x y _ => fpScl m {} x (signedOf (flW t) y)
  | 0x18 => cvtElem 0 8 {} a
  | 0x19 => cvtElem 8 0 {} a
  | 0x1A =>
    let x := cvtElem 8 10 {} a
    let y := cvtElem 8 10 {} b
    (x.1 + 65536 * y.1, x.2 ||| y.2)
  | _ => cvtElem 10 8 {} (a % 65536)

/-- The flags a class X operation can raise (R135). -/
def sopRaises (sop : Nat) : Flags := if sop = 0x18 then 0x14 else if sop = 0x19 then 0x11 else 0x1D

/-- The results of a short operation in its lanes (R43). -/
def sopOuts (w : Warp) (o : ShortOp) (ls : List Nat) : List LaneOut :=
  ls.map fun l =>
    let rd (r : BitVec 7) : Nat := ((w.thread l).vreg r.toNat).toNat
    let (v, fl) := sopVal o (rd o.a) (rd o.b) (rd o.c)
    { lane := l, writes := destWrites (o.d.zeroExtend 8) false l v, flags := fl }

/-- The lanes of a short operation: PRED without negation (R38). -/
def sopLanes (w : Warp) (o : ShortOp) (ls : List Nat) : List Nat := ls.filter fun l => (w.thread l).pred o.pred.toNat

/-- Both operations read before either writes; a fault of either leaves both without effect (R43); an operation of
class X takes the pair to the conversion queue (R130). -/
def pairBody (p q : ShortOp) (i : Iss) (s : State) : Eff :=
  let lp := sopLanes i.w p i.all
  let lq := sopLanes i.w q i.all
  let op := sopOuts i.w p lp
  let oq := sopOuts i.w q lq
  let xs := (if sopClassX p.sop.toNat then [(p, lp)] else []) ++ (if sopClassX q.sop.toNat then [(q, lq)] else [])
  let tp := fpTrap i.w lp false (flagsOf lp false op)
  let tq := (fpTrap i.w lq false (flagsOf lq false oq)).map fun t => { t with half := true }
  let fl := flagsOf lp false op ++ flagsOf lq false oq
  let first := sopClassX p.sop.toNat
  if lp.isEmpty && lq.isEmpty then .done s
  else match xs with
  | [] => match tp.orElse fun _ => tq with
    | some t => .trap t
    | none => .done (s.upd i fun w => (w.putAll ((op ++ oq).flatMap (·.writes))).raiseFlags fl)
  | (x, lx) :: _ =>
    -- the operation of the vector ALU traps at issue, unless the first operation traps when it completes
    match (if first then (if tp.isSome then none else tq) else tp) with
    | some t => .trap t
    | none =>
      let i' : Iss := { i with pfx := none, pc := if !first && tq.isSome then i.pc ||| 4 else i.pc }
      enqueueWith i' s 1 (canTrap i.w lx (sopRaises x.sop.toNat)) (if first then tp else tq) fl none (op ++ oq)

/-- A short pair (R42, R43). A decode cause of the second operation is recorded for the lanes of that operation's own guard,
which may be none (DESIGN CHOICE, log 22). -/
def execShortPair (p q : ShortOp) (s : State) : Out :=
  match s.warp? s.cur with
  | none => .fault .noIssuer
  | some w =>
    if w.bundle.isEmpty then .fault .noIssuer
    else
      let lp := sopLanes w p w.bundle
      let lq := sopLanes w q w.bundle
      let none_ := lp.isEmpty && lq.isEmpty
      match (if none_ then none else checkPair p q (s.vregsOf w)) with
      | some (c, half) =>
        .next (takeTrap s (issOf w 7 w.bundle) { cause := c, half := half, lanes := if half then lq else union lp lq })
      | none =>
        .next (runBundles w.key w.pfx 7 (fun s w => !none_ && stalled s w (.shortPair p q)) (pairBody p q) {} [w.bundle] s [])

end Sys2Proof.Machine
end

