-- ==== Sys2Proof/Machine/Sync.lean ====
section
/-!
DEFINITION. Barrier objects, named barriers, queues and phase exchange (08 R218 to R237, R534).
-/
namespace Sys2Proof.Machine
open Sys2Proof

/-! ### Barrier objects (R218 to R221) -/

/-- The fields of an object (R218); bits 39:38 and 87:85, which only stores write, stay as they are. -/
structure BarObj where
  pend   : Nat
  expect : Nat
  phase  : Nat
  err    : Bool
  txa    : Bool
  txb    : Nat
  ovr    : Nat
  owner  : Nat
  mark   : Nat
  low    : Nat := 0
  high   : Nat := 0
  deriving DecidableEq, Repr, Inhabited

def barOf (x : Nat) : BarObj :=
  { pend := bitsOf x 0 16, expect := bitsOf x 16 16, phase := bitsOf x 32 4, err := bitsOf x 36 1 == 1
    txa := bitsOf x 37 1 == 1, txb := bitsOf x 40 24, ovr := bitsOf x 64 16, owner := bitsOf x 80 5, mark := bitsOf x 88 8
    low := bitsOf x 38 2, high := bitsOf x 85 3 }

def BarObj.bits (b : BarObj) : Nat :=
  b.pend + 2 ^ 16 * b.expect + 2 ^ 32 * b.phase + 2 ^ 36 * bitOf b.err + 2 ^ 37 * bitOf b.txa + 2 ^ 40 * b.txb
    + 2 ^ 64 * b.ovr + 2 ^ 80 * b.owner + 2 ^ 88 * b.mark + 2 ^ 38 * b.low + 2 ^ 85 * b.high

def State.bar (s : State) (loc : Nat) : BarObj := barOf (memNat s.mem loc 12)

/-- The core of an on-chip location. -/
def locCore (loc : Nat) : Nat := (loc - chipBase) / 2 ^ 40 % 2 ^ 24

/-- Bytes written at an on-chip home by an agent of the core. -/
def State.poke (s : State) (loc : Nat) (bs : List Byte) : State :=
  let (wid, s) := s.newWid
  enterOrder s wid (cellsAt loc bs) (locCore loc)

/-- The object's first 12 bytes written; TAG is kept (R218). -/
def State.setBar (s : State) (loc : Nat) (b : BarObj) : State := s.poke loc (bytesOf 12 b.bits)

/-- Where the releases of a phase of an object are kept; those of every phase so far under 16 (R223, R226). -/
def barKey (loc phase : Nat) : Nat := loc * 32 + phase
def State.barCov (s : State) (loc phase : Nat) : List Nat := kvGet s.order.bars (barKey loc phase) []
def State.setBarCov (s : State) (loc phase : Nat) (c : List Nat) : State :=
  { s with order := { s.order with bars := kvSet s.order.bars (barKey loc phase) c } }

/-- The completion of R219: PEND and TXB at 0 end the phase. -/
def BarObj.complete (b : BarObj) : BarObj :=
  if b.pend = 0 && b.txb = 0 then { b with phase := (b.phase + 1) % 16, pend := b.expect, txa := false } else b

/-- A refused update (R221, R224). -/
def BarObj.refuse (b : BarObj) : BarObj := { b with err := true, ovr := min (b.ovr + 1) 0xFFFF }

/-- A waiting thread of `bwait` is released with p = 1 and what it acquires, or with p = 0 (R223, R226). -/
def Thread.barWake (t : Thread) (pred : BitVec 8) (p : Bool) (cov : List Nat) : Thread :=
  let k := pred.toNat - 0xC0
  let t := if k = 7 then t else { t with p := if p then t.p ||| BitVec.ofNat 8 (2 ^ k) else t.p &&& ~~~BitVec.ofNat 8 (2 ^ k) }
  (threadAcquires cov t).wake

/-- The threads that wait on an object, after a change of its phase; those whose cycles had passed end with p = 0 (R226). -/
def State.barWaiters (s : State) (loc : Nat) (g : Nat → Thread → BitVec 8 → Thread) : State :=
  { s with warps := s.warps.map fun w => { w with threads := w.threads.map fun t => match t.wait with
      | .bwait o ph deadline _ pred =>
        if t.st != .waiting || o != loc then t
        else if deadline < s.cyclesOf w.core then t.barWake pred false []
        else g ph t pred
      | _ => t } }

/-- An update of an object: its phase may complete, and the waiters of the phase that ended are released (R219, R226). -/
def State.barUpdate (s : State) (loc : Nat) (b : BarObj) (cov : List Nat) : State :=
  let s := s.setBarCov loc b.phase (union (s.barCov loc b.phase) cov)
  let s := s.setBarCov loc 16 (union (s.barCov loc 16) cov)
  let c := b.complete
  let s := s.setBar loc c
  if c.phase = b.phase then s
  else
    let s := s.barWaiters loc fun ph t pred =>
      if ph % 16 = c.phase then t else t.barWake pred true (s.barCov loc (ph % 16))
    s.setBarCov loc c.phase []

/-- The object that a barrier instruction names, or its fault: kind 2 (R222). -/
def objChk (i : Iss) (s : State) (f : Fields) : Except Trap Nat :=
  let base : W64 := BitVec.ofNat 64 (readReg i.w f.a 0 true i.low)
  let d : Int := signedOf 32 f.im
  let (r, p) := effective base d 0
  let c := checkLane s i.w 2 i.low base d 0 16
  match (if !(ptrSpace p == 1 || ptrSpace p == 2) then some 5 else if r.isSome then r else c.why) with
  | some r => .error { cause := 0x0A0 + r, lanes := i.lanes, addr := p }
  | none => .ok c.loc

/-- Whether every older write or atomic of the warp that names a byte of an object has reached its bank (R534). -/
def objReady (w : Warp) (loc : Nat) : Bool :=
  !((w.fifo ++ w.failed).any fun e => (match e.kind with
      | .marker | .trig | .cwb _ => false
      | _ => true) && e.cells.any fun c => decide (loc ≤ c.1) && decide (c.1 < loc + 16))

/-- The covered sets of some lanes (R301). -/
def Warp.coveredBy (w : Warp) (ls : List Nat) : List Nat := ls.foldl (fun c l => union c (w.thread l).covered) []

/-- A count or byte operand: AUX16, or B in a lane (R222). -/
def barCount (i : Iss) (f : Fields) (l : Nat) : Nat := if f.b = 0xF0 then f.aux else readReg i.w f.b 0 false l

/-- A barrier update issues: the warp waits at it until the bank has performed it (R534). -/
def barBody (f : Fields) (op : Iss → BarOp) (i : Iss) (s : State) : Eff :=
  match objChk i s f with
  | .error t => .trap t
  | .ok loc =>
    match op i with
    | .init 0 => trapAll i 0x065
    | o =>
      .hold (s.upd i fun w => { w with
        hold := .barrier i.all, barOps := [{ loc := loc, op := o, lanes := i.lanes }] })

/-- `binit` (R223). -/
def execBinit (f : Fields) (s : State) : Out :=
  issueSplit (.binit f) s (allScalar f) {} (barBody f fun i => .init (barCount i f i.low % 65536))
/-- `barrive` (R224). -/
def execBarrive (f : Fields) (s : State) : Out :=
  issueSplit (.barrive f) s (allScalar f) {} (barBody f fun i => .arrive ((i.lanes.map fun l => barCount i f l % 65536).sum))
/-- `bexpect` (R225). -/
def execBexpect (f : Fields) (s : State) : Out :=
  issueSplit (.bexpect f) s (allScalar f) {} (barBody f fun i => .expect (barCount i f i.low) false)
/-- `bexpect.arrive` (R225). -/
def execBexpectArrive (f : Fields) (s : State) : Out :=
  issueSplit (.bexpectArrive f) s (allScalar f) {} (barBody f fun i => .expect (barCount i f i.low) true)

/-- What a bank makes of an update: done, with the object and what joins its phase, or refused with a cause, the
object then written or not. -/
inductive BarResult where
  | done (b : BarObj) (cov : List Nat)
  | same
  | bad (cause : Nat) (b : Option BarObj)
  deriving DecidableEq, Repr, Inhabited

def barResult (b : BarObj) (op : BarOp) (cov : List Nat) : BarResult :=
  match op with
  | .init _ => .same
  | .arrive n =>
    if b.mark != 0xB5 then .bad 0x062 none
    else if b.pend < n then .bad 0x060 (some b.refuse)
    else if n = 0 then .same
    else .done { b with pend := b.pend - n } cov
  | .expect bytes arrive =>
    if b.mark != 0xB5 then .bad 0x062 none
    else if 2 ^ 24 - 1 < b.txb + bytes || (arrive && b.pend == 0) then .bad 0x060 (some b.refuse)
    else .done { b with txb := b.txb + bytes, txa := true, pend := if arrive then b.pend - 1 else b.pend } (if arrive then cov else [])

/-- `binit` at the bank (R223): the waiters compare their phases with 0. -/
def State.barInit (s : State) (loc n : Nat) : State :=
  let all := s.barCov loc 16
  let s := s.setBar loc { pend := n, expect := n, phase := 0, err := false, txa := false, txb := 0, ovr := 0
                          owner := coreLocal (locCore loc), mark := 0xB5 }
  let s := s.barWaiters loc fun ph t pred =>
    let d := (16 - ph % 16) % 16
    if d = 0 then t else t.barWake pred (decide (d < 8)) (if d < 8 then all else [])
  (List.range 16).foldl (fun s k => s.setBarCov loc k []) s

/-- The issue of a held instruction, for its fault: the issue no longer counts (R397). -/
def heldIss (w : Warp) (lanes : List Nat) : Iss :=
  let pc := (w.thread (w.heldLanes.headD 0)).pc
  { w := { w with hold := .free, since := w.since - 1 }, pc := pc, all := w.heldLanes, lanes := lanes, nxt := nextPc pc, pfx := none }

/-- Whether the update that a warp waits at can be performed: what it releases is known, and its gate is open (R301, R302,
R534). -/
def barOpen (s : State) (w : Warp) (p : BarPend) : Bool :=
  let releases := match p.op with
    | .arrive _ => true
    | .expect _ a => a
    | .init _ => false
  objReady w p.loc && (!releases || (!w.busyLanes p.lanes && gateOpen s w.core 3 (w.coveredBy p.lanes)))

/-- BARRIER_UPDATE: the bank's atomic unit performs a warp's update once its gate is open (R219, R224, R534). -/
def execBarrierUpdate (w : Nat) (s : State) : Out :=
  match s.warp? w with
  | none => .next s
  | some x => match x.barOps with
    | [] => .next s
    | p :: _ =>
      if !barOpen s x p then .next s
      else
        let y := { x with barOps := [] }
        match p.op with
        | .init n => .next ((s.setWarp y.release).barInit p.loc n)
        | op => match barResult (s.bar p.loc) op (x.coveredBy p.lanes) with
          | .same => .next (s.setWarp y.release)
          | .done b cov => .next ((s.setWarp y.release).barUpdate p.loc b cov)
          | .bad cause b =>
            let s := match b with
              | some b => s.setBar p.loc b
              | none => s
            .next (takeTrap (s.setWarp y) (heldIss y p.lanes) { cause := cause, lanes := p.lanes })

/-- A timeout operand in cycles (R226). -/
def timeoutOf (i : Iss) (x : BitVec 8) : Nat := min (readReg i.w x 0 false i.low) (2 ^ 20)

/-- `bwait` (R226). -/
def execBwait (f : Fields) (s : State) : Out :=
  issue (.bwait f) s fun i s =>
    match objChk i s f with
    | .error t => .trap t
    | .ok loc =>
      if !objReady i.w loc then .hold (i.back s)
      else
        let b := s.bar loc
        let ph (l : Nat) : Nat := readReg i.w f.b 0 false l % 16
        let d (l : Nat) : Nat := (b.phase + 16 - ph l) % 16
        let stale := i.lanes.filter fun l => decide (8 ≤ d l)
        let t := timeoutOf i f.c
        if b.mark != 0xB5 then trapAll i 0x062
        else if !stale.isEmpty then .trap { cause := 0x061, lanes := stale }
        else
          let waits := i.lanes.filter fun l => d l == 0 && t != 0
          let s := s.upd i fun w => w.setLanes i.lanes fun l th =>
            if d l = 0 then
              (if t = 0 then th else { th with st := .waiting, wait := .bwait loc (ph l) (s.cyclesOf w.core + t) t f.d })
            else threadAcquires (s.barCov loc (ph l)) th
          .jump (s.upd i fun w => w.putAll ((i.lanes.filter fun l => !waits.contains l).flatMap fun l =>
              destWrites f.d false l (bitOf (d l != 0)))) (waits.map fun l => (l, i.pc))

/-- Whether a thread waits at a `bwait` of an object until some cycle (R226). -/
def Thread.waitsTill (t : Thread) (obj deadline : Nat) : Bool :=
  match t.wait with
  | .bwait o _ d _ _ => t.st == .waiting && o == obj && d == deadline
  | _ => false

/-- BWAIT_TIMEOUT: a waiting lane's cycles have passed, and with them those of every lane that waits by the same `bwait` (R226). -/
def execBwaitTimeout (w lane : Nat) (s : State) : Out :=
  match s.warp? w with
  | none => .next s
  | some x => match (x.thread lane).wait with
    | .bwait obj _ deadline _ _ =>
      if (x.thread lane).st == .waiting && decide (deadline ≤ s.cyclesOf x.core) then
        .next (s.setWarp (x.setLanes ((List.range x.threads.length).filter fun l => (x.thread l).waitsTill obj deadline) fun _ t =>
          match t.wait with
          | .bwait _ _ _ _ pred => t.barWake pred false []
          | _ => t))
      else .next s
    | _ => .next s

/-- `btest` (R227): SUB 2 clears ERR and OVR in the same step. -/
def execBtest (f : Fields) (s : State) : Out :=
  issueSplit (.btest f) s (allScalar f) {} fun i s =>
    match objChk i s f with
    | .error t => .trap t
    | .ok loc =>
      if !objReady i.w loc then .hold (i.back s)
      else
        let v := memNat s.mem (if f.ty = 0 then loc else loc + 8) 8
        let s' := if f.ty = 2 then s.barUpdate loc { s.bar loc with err := false, ovr := 0 } [] else s
        writeEff i s' ((if isScal f.d then [i.low] else i.lanes).flatMap fun l => destWrites f.d true l v)

/-! ### Named barriers (R228, R229) -/

/-- The named barrier of an id for a warp: its core and its index there. -/
def nbarOf (s : State) (w : Warp) (id : Nat) : Option (Nat × Nat) :=
  if w.onL then none
  else match s.block? w.block with
  | none => none
  | some b => match b.allotOn w.core with
    | none => none
    | some a => if id < b.nbars then some (w.core, a.nBase + id) else none

def State.nbar (s : State) (core k : Nat) : NBar := kvGet (s.core core).nbars k {}
def State.setNbar (s : State) (core k : Nat) (b : NBar) : State :=
  let c := s.core core
  s.setCore core { c with nbars := kvSet c.nbars k b }

/-- The threads of a block that wait on a named barrier of a core are released (R229). -/
def State.nbarRelease (s : State) (core block bar : Nat) (cov : List Nat) : State :=
  { s with warps := s.warps.map fun w =>
      if w.core != core || w.block != block then w
      else { w with threads := w.threads.map fun t => match t.wait with
        | .nbar k _ => if t.st == .waiting && k == bar then (threadAcquires cov t).wake else t
        | _ => t } }

/-- `nbar.sync` and `nbar.arrive` (R229). -/
def nbarBody (f : Fields) (sync : Bool) (i : Iss) (s : State) : Eff :=
  match nbarOf s i.w (f.aux % 16) with
  | none => trapAll i 0x067
  | some (core, idx) =>
    let n := if f.a = 0xF0 then f.im else readReg i.w f.a 0 false i.low
    let k := i.lanes.length
    let b := s.nbar core idx
    if n = 0 || 3072 < n || (if b.count = 0 then decide (n < k) else n != b.count || decide (b.count < b.arrived + k)) then
      trapAll i 0x064
    else if i.w.busyLanes i.lanes || !gateOpen s i.w.core 2 (i.w.coveredBy i.lanes) then .hold (i.back s)
    else
      let cov := union b.covered (i.w.coveredBy i.lanes)
      if b.arrived + k = n then
        let s := (s.setNbar core idx { phase := !b.phase }).nbarRelease core i.w.block idx cov
        .done (if sync then s.upd i fun w => w.setLanes i.lanes fun _ t => threadAcquires cov t else s)
      else
        let s := s.setNbar core idx { b with count := n, arrived := b.arrived + k, covered := cov }
        if sync then
          .jump (s.upd i fun w => w.setLanes i.lanes fun _ t => { t with st := .waiting, wait := .nbar idx b.phase })
            (i.lanes.map fun l => (l, i.pc))
        else .done s

/-- `nbar.sync` (R229). -/
def execNbarSync (f : Fields) (s : State) : Out := issueSplit (.nbarSync f) s (allScalar f) {} (nbarBody f true)
/-- `nbar.arrive` (R229). -/
def execNbarArrive (f : Fields) (s : State) : Out := issueSplit (.nbarArrive f) s (allScalar f) {} (nbarBody f false)

/-! ### Queues (R230 to R233) -/

def State.queue (s : State) (core k : Nat) : QDesc := kvGet (s.core core).queues k {}
def State.setQueue (s : State) (core k : Nat) (q : QDesc) : State :=
  let c := s.core core
  s.setCore core { c with queues := kvSet c.queues k q }

/-- The owner core of a queue selector and the descriptor's index there, with the block's allotment (R231). -/
def queueOf (s : State) (w : Warp) (aux : Nat) : Option (Nat × Nat × Allot) :=
  let c := bitsOf aux 5 5
  let core := if c = 31 then w.homeCore else coreOfLocal (coreCluster w.core) c
  if (c != 31 && decide (16 ≤ c)) || coreIsL core then none
  else match s.block? w.block with
  | none => none
  | some b => match b.allotOn core with
    | none => none
    | some a => if bitsOf aux 0 5 < b.queues then some (core, a.qBase + bitsOf aux 0 5, a) else none

/-- Entries that a queue holds (R230). -/
def QDesc.held (q : QDesc) : Nat := (q.tail - q.head).toNat

/-- Where slot n of a queue lies. -/
def QDesc.slot (q : QDesc) (core sBase n : Nat) : Nat := locChip 1 core (sBase + q.base.toNat + 4 * (n % 2 ^ q.logn))

/-- `qinit` (R232). -/
def execQinit (f : Fields) (s : State) : Out :=
  issueSplit (.qinit f) s (allScalar f) {} fun i s =>
    match queueOf s i.w f.aux with
    | none => trapAll i 0x068
    | some (core, k, _) =>
      let logn := f.im % 16
      let allow := bitsOf f.im 16 9
      let base := readReg i.w f.a 0 false i.low
      let room := ((s.block? i.w.block).map (·.spad)).getD 0
      if 8 < logn || 2 ^ logn < allow || base % 4 != 0 || room < base + 4 * 2 ^ logn then trapAll i 0x06A
      else .done (s.setQueue core k { base := BitVec.ofNat 32 base, logn := logn, valid := true, allow := allow })

/-- Values pushed in order: slots written, TAIL up, ALLOW down (R233). -/
def State.pushVals (s : State) (core k sBase : Nat) (vals : List W32) (cov : List Nat) : State :=
  let q := s.queue core k
  let s := (List.range vals.length).foldl (fun s j =>
    s.poke (q.slot core sBase (q.tail.toNat + j)) (bytesOf 4 (vals.getD j 0).toNat)) s
  s.setQueue core k { q with tail := q.tail + BitVec.ofNat 16 vals.length, allow := q.allow - vals.length
                             covs := q.covs ++ vals.map fun _ => cov }

/-- Values popped in order: HEAD and ALLOW up; the values and what their pushes released (R233). -/
def State.popVals (s : State) (core k sBase n : Nat) : State × List Nat × List Nat :=
  let q := s.queue core k
  let vals := (List.range n).map fun j => memNat s.mem (q.slot core sBase (q.head.toNat + j)) 4
  (s.setQueue core k { q with head := q.head + BitVec.ofNat 16 n, allow := q.allow + n, covs := q.covs.drop n },
   vals, (q.covs.take n).foldl union [])

/-- Whether the step of a push or a pop of so many values can take place (R233). -/
def QDesc.ready (q : QDesc) (push : Bool) (n : Nat) : Bool := q.valid && (if push then decide (n ≤ q.allow) else decide (n ≤ q.held))

/-- The values of a waiting instruction: those it pushes, or the number it pops. -/
def QWait.count (x : QWait) : Nat := if x.push then x.vals.length else if isScal x.dst then 1 else x.lanes.length

/-- The step of a push or pop: the queue, the destinations and the timed form's predicate. -/
def State.queueDo (s : State) (x : QWait) (sBase : Nat) : State :=
  if x.push then s.pushVals x.owner x.id sBase x.vals x.covered
  else
    let (s, vals, cov) := s.popVals x.owner x.id sBase x.count
    s.withWarp x.warp fun w =>
      let ws := if isScal x.dst then destWrites x.dst false (x.lanes.headD 0) (vals.headD 0)
        else ((List.range x.lanes.length).map fun j => destWrites x.dst false (x.lanes.getD j 0) (vals.getD j 0)).flatten
      (w.setLanes x.lanes fun _ t => threadAcquires cov t).putAll ws

/-- The predicate of a timed form. -/
def State.queuePred (s : State) (x : QWait) (ok : Bool) : State :=
  match x.pred with
  | none => s
  | some p => s.withWarp x.warp fun w => w.putAll (x.lanes.flatMap fun l => destWrites p false l (bitOf ok))

/-- `qpush` and `qpop` (R233): the step at once where it can take place, whatever else waits, else WAITING. -/
def queueBody (f : Fields) (push : Bool) (i : Iss) (s : State) : Eff :=
  match queueOf s i.w f.aux with
  | none => trapAll i 0x068
  | some (core, k, a) =>
    let q := s.queue core k
    let one (l : Nat) : W32 := BitVec.ofNat 32 (if f.a = 0xF1 then f.im else readReg i.w f.a 0 false l)
    let vals := if !push then [] else if isVec f.a then i.lanes.map one else [one i.low]
    let timed := f.ty == 1
    let t := timeoutOf i f.c
    let x : QWait := { owner := core, id := k, warp := i.w.key, lanes := i.lanes, push := push, vals := vals
                       covered := i.w.coveredBy i.lanes, dst := f.d, pred := if timed then some f.b else none
                       deadline := if timed then some (s.cyclesOf i.w.core + t) else none, span := t }
    if !q.valid then trapAll i 0x068
    else if 2 ^ q.logn < x.count then trapAll i 0x069
    else if push && (i.w.busyLanes i.lanes || !gateOpen s i.w.core 3 x.covered) then .hold (i.back s)
    else if q.ready push x.count then
      .done ((s.queueDo x a.sBase).queuePred x true)
    else if timed && t = 0 then .done (s.queuePred x false)
    else
      let s := s.upd i fun w => w.setLanes i.lanes fun _ th => { th with st := .waiting, wait := .queue push core k }
      .jump { s with qwaits := s.qwaits ++ [x] } (i.lanes.map fun l => (l, i.pc))

/-- `qpush` (R233). -/
def execQpush (f : Fields) (s : State) : Out := issueSplit (.qpush f) s (!isVec f.a) {} (queueBody f true)
/-- `qpop` (R233). -/
def execQpop (f : Fields) (s : State) : Out := issueSplit (.qpop f) s (isScal f.d) {} (queueBody f false)

/-- A waiting queue instruction ends: its lanes go on. -/
def State.queueWake (s : State) (x : QWait) : State :=
  let s := { s with qwaits := s.qwaits.filter fun y => !(y.warp == x.warp && y.lanes == x.lanes) }
  s.withWarp x.warp fun w => w.setLanes x.lanes fun _ t => t.wake

/-- The allotment of the block of a waiting instruction on the queue's core. -/
def State.queueBase (s : State) (x : QWait) : Nat :=
  match (s.warp? x.warp).bind fun w => s.block? w.block with
  | some b => ((b.allotOn x.owner).map (·.sBase)).getD 0
  | none => 0

/-- Whether a timed wait's cycles had passed before now (R233). -/
def State.late (s : State) (x : QWait) : Bool :=
  x.deadline.any fun d => (s.warp? x.warp).any fun w => decide (d < s.cyclesOf w.core)

/-- QUEUE_STEP: the first waiting push, or else pop, of a queue that can take place does so; a wait whose timeout
has passed ends without it (R233). -/
def execQueueStep (core queue : Nat) (s : State) : Out :=
  let q := s.queue core queue
  let here := s.qwaits.filter fun y => y.owner == core && y.id == queue
  let first (p : Bool) : Option QWait := here.find? fun y => y.push == p && q.ready p y.count
  match here.find? s.late with
  | some x => .next ((s.queuePred x false).queueWake x)
  | none => match (first true).orElse fun _ => first false with
    | none => .next s
    | some x => .next (((s.queueDo x (s.queueBase x)).queuePred x true).queueWake x)

/-- QUEUE_TIMEOUT: a timed wait's cycles have passed (R233). -/
def execQueueTimeout (w lane : Nat) (s : State) : Out :=
  match s.warp? w with
  | none => .next s
  | some x => match s.qwaits.find? fun y => y.warp == w && y.lanes.contains lane with
    | none => .next s
    | some y => match y.deadline with
      | none => .next s
      | some d => if d ≤ s.cyclesOf x.core then .next ((s.queuePred y false).queueWake y) else .next s

/-! ### Phase exchange (R234 to R236) -/

/-- `xswap` (R235). -/
def execXswap (f : Fields) (s : State) : Out :=
  issue (.xswap f) s fun i s =>
    .jump (s.upd i fun w => w.setLanes i.lanes fun _ t => { t with st := .waiting, wait := .xswap }) (i.lanes.map fun l => (l, i.pc))

/-- The warps of a block. -/
def State.warpsOf (s : State) (block : Nat) : List Warp := s.warps.filter fun w => w.block == block

/-- What a block's space 7 stores are ordered after, also those of threads that have exited and of warps that are freed (R236). -/
def State.swapCov (s : State) (block : Nat) : List Nat :=
  (s.warpsOf block).foldl (fun c w => w.threads.foldl (fun c t => union c t.swapCov) c) (((s.block? block).map (·.swapCov)).getD [])

/-- Whether the exchange of a block can take place (R235, R236). -/
def swapReady (s : State) (block : Nat) : Bool :=
  let ws := s.warpsOf block
  (ws.any fun w => !w.live.isEmpty) &&
  ws.all fun w =>
    (w.live.all fun l => (w.thread l).wait == .xswap && (w.thread l).st == .waiting) &&
    !((w.fifo ++ w.failed).any fun e => e.space == 7) && gateOpen s w.core 3 (s.swapCov block)

/-- SWAP: the shadow banks of a block exchange and its threads go on (R235, R236). -/
def execSwap (block : Nat) (s : State) : Out :=
  match s.block? block with
  | none => .next s
  | some b =>
    if !swapReady s block then .next s
    else
      let cov := s.swapCov block
      let s := if !b.shadow then s else b.allots.foldl (fun s a =>
        if coreIsL a.core then s else
        let c := s.core a.core
        s.setCore a.core { c with readable := 1 - c.readable }) s
      .next { s with warps := s.warps.map fun w =>
        if w.block != block then w else w.setLanes w.live fun _ t => (threadAcquires cov t).wake }

end Sys2Proof.Machine
end

