-- ==== Sys2Proof/Machine/Tiles.lean ====
section
/-!
DEFINITION. Tiles and the tile instructions (09 R238 to R247, R266 to R269), and the activation-table load (05 R164).
-/
namespace Sys2Proof.Machine
open Sys2Proof

/-! ### Descriptors (R243, R244) -/

def Tile.buf (t : Tile) : Nat := bitsOf t.w0.toNat 0 2
def Tile.kind (t : Tile) : Nat := bitsOf t.w0.toNat 2 2
/-- Planes of an operand tile. -/
def Tile.planes (t : Tile) : Nat := bitsOf t.w0.toNat 4 4 + 1
def Tile.off (t : Tile) : Nat := bitsOf t.w0.toNat 16 24
def Tile.rows (t : Tile) : Nat := bitsOf t.w1.toNat 0 16
def Tile.cols (t : Tile) : Nat := bitsOf t.w1.toNat 16 16

/-- Bytes of a row, laid out with no gaps (R244). -/
def Tile.rowBytes (t : Tile) : Nat :=
  match t.kind with
  | 0 => t.cols / 32 * 4 * (1 + t.planes)
  | 1 => 4 * t.cols
  | _ => 2 * t.cols
def Tile.bytes (t : Tile) : Nat := t.rows * t.rowBytes

/-- Whether the descriptor words break R243 or R244. -/
def descBad (w0 w1 : Nat) : Bool :=
  let t : Tile := { w0 := BitVec.ofNat 64 w0, w1 := BitVec.ofNat 64 w1 }
  bitsOf w0 8 8 != 0 || bitsOf w0 40 24 != 0 || bitsOf w1 32 32 != 0 || t.off % 64 != 0 || t.rows == 0 || t.cols == 0 ||
  (match t.kind with
   | 0 => !(t.buf == 0 || t.buf == 1) || t.cols % 32 != 0
   | 1 => t.buf != 2 || t.planes != 1
   | 2 => !(t.buf == 0 || t.buf == 3) || !(t.cols == 8 || t.cols == 16) || t.planes != 1
   | _ => true)

/-- A block's bytes of a buffer on a core, and where its range starts (R238, R239): W, X, A, S. -/
def bufRange (b : Block) (a : Allot) (buf : Nat) : Nat × Nat × Nat :=
  match buf with
  | 0 => (4, a.wBase, b.wbuf)
  | 1 => (5, a.xBase, b.xbuf)
  | 2 => (6, a.aBase, b.abuf)
  | _ => (1, a.sBase, b.spad)

/-- Where a tile's bytes start. -/
def Tile.loc (t : Tile) (core : Nat) (b : Block) (a : Allot) : Nat :=
  let (kind, base, _) := bufRange b a t.buf
  locChip kind core (base + t.off)

/-! ### The table (R241, R242, R245) -/

def State.tile (s : State) (core k : Nat) : Tile := kvGet (s.core core).tiles k {}
def State.setTile (s : State) (core k : Nat) (t : Tile) : State :=
  let c := s.core core
  s.setCore core { c with tiles := kvSet c.tiles k t }

/-- A freed entry: its generation rises from 1 to 255 and then back to 1. -/
def Tile.freed (t : Tile) : Tile := { gen := t.gen % 255 + 1 }

/-- The entry of a current handle (R242): none where it is not current. A pending release ends it (R268). -/
def State.current (s : State) (core : Nat) (b : Block) (a : Allot) (h : Nat) : Option Nat :=
  let k := h % 256
  let t := s.tile core k
  if a.tBase ≤ k && k < a.tBase + b.tiles && t.inUse && t.gen == h / 256 % 256 && !t.relPending then some k else none

/-- One more user of a tile, and one less: a pending release frees the entry with its last user (R245). -/
def State.claimTile (s : State) (core k : Nat) : State :=
  let t := s.tile core k
  s.setTile core k { t with users := t.users + 1 }
def State.dropTile (s : State) (core k : Nat) : State :=
  let t := s.tile core k
  s.setTile core k (if t.users ≤ 1 && t.relPending then t.freed else { t with users := t.users - 1 })

/-- A tile enters a state; a pending release keeps it DRAINING (R245). -/
def State.tileTo (s : State) (core k : Nat) (st : TileState) : State :=
  let t := s.tile core k
  s.setTile core k { t with state := if st = .ready && t.relPending then .draining else st }

def TileState.code : TileState → Nat
  | .empty => 0
  | .filling => 1
  | .ready => 2
  | .draining => 3

/-- The table that a warp uses, its home D-core's; none for a block placed on an L-core (R240). -/
def tileHome (s : State) (w : Warp) : Option (Nat × Block × Allot) :=
  match s.block? w.block with
  | none => none
  | some b => if b.onL then none else (b.allotOn w.homeCore).map fun a => (w.homeCore, b, a)

/-- The handle in A. -/
def handleOf (i : Iss) (f : Fields) : Nat := readReg i.w f.a 0 false i.low % 65536

/-- `tdef` (R266). -/
def execTdef (f : Fields) (s : State) : Out :=
  issueSplit (.tdef f) s (allScalar f) {} fun i s =>
    match tileHome s i.w with
    | none => trapAll i 0x06E
    | some (core, b, a) =>
      let w0 := readReg i.w f.a 0 true i.low
      let w1 := readReg i.w f.b 0 true i.low
      let t : Tile := { w0 := BitVec.ofNat 64 w0, w1 := BitVec.ofNat 64 w1 }
      let pred (v : Nat) : List RegWrite := if f.ty = 1 then i.lanes.flatMap fun l => destWrites f.c false l v else []
      if descBad w0 w1 then trapAll i 0x06F
      else if (bufRange b a t.buf).2.2 < t.off + t.bytes then trapAll i 0x06D
      else match (List.range b.tiles).find? fun j => !(s.tile core (a.tBase + j)).inUse with
      | none => if f.ty = 1 then writeEff i s (destWrites f.d true i.low 0 ++ pred 0) else trapAll i 0x06B
      | some j =>
        let k := a.tBase + j
        let g := (s.tile core k).gen
        writeEff i (s.setTile core k { t with inUse := true, gen := g }) (destWrites f.d true i.low (g * 256 + k) ++ pred 1)

/-- `tstat` (R267). -/
def execTstat (f : Fields) (s : State) : Out :=
  issueSplit (.tstat f) s (allScalar f) {} fun i s =>
    match tileHome s i.w with
    | none => trapAll i 0x06E
    | some (core, b, a) =>
      let v := match s.current core b a (handleOf i f) with
        | none => 0
        | some k =>
          let t := s.tile core k
          if f.ty = 1 then t.w1.toNat else t.w0.toNat + t.state.code * 2 ^ 8 + 2 ^ 12
      writeEff i s ((if isScal f.d then [i.low] else i.lanes).flatMap fun l => destWrites f.d true l v)

/-- `trel` (R268). -/
def execTrel (f : Fields) (s : State) : Out :=
  issueSplit (.trel f) s (allScalar f) {} fun i s =>
    match tileHome s i.w with
    | none => trapAll i 0x06E
    | some (core, b, a) => match s.current core b a (handleOf i f) with
      | none => trapAll i 0x06C
      | some k =>
        let t := s.tile core k
        .done (s.setTile core k (if t.users = 0 then t.freed else { t with relPending := true, state := .draining }))

/-! ### `tld` and `tstr` (R246, R269) -/

/-- A tile access: the word of each lane, and the operation that TILE_OP_COMPLETE finishes. -/
def tileBody (f : Fields) (store : Bool) (i : Iss) (s : State) : Eff :=
  match tileHome s i.w with
  | none => trapAll i 0x06E
  | some (core, b, a) => match s.current core b a (handleOf i f) with
    | none => trapAll i 0x06C
    | some k =>
      let t := s.tile core k
      let n := if f.ty = 3 then 8 else 4
      let lanes := i.lanesFor (allScalar f)
      let word (l : Nat) : Nat := (readReg i.w f.b 0 false l + f.im) % 2 ^ 32
      if t.state != .ready then .hold (i.back s)
      else if lanes.any fun l => decide (t.bytes / 4 < word l + n / 4) || (n == 8 && word l % 2 == 1) then trapAll i 0x06D
      else
        let at_ (l : Nat) : Nat := t.loc core b a + 4 * word l
        let writes := if store then [] else lanes.map fun l => (l, f.d, at_ l, n)
        let data := if store then lanes.flatMap fun l => cellsAt (at_ l) (bytesOf n (readReg i.w f.c 0 (n == 8) l)) else []
        let (id, s) := s.newWid
        let op : TileOp := { id := id, tile := k, core := core, store := store, writes := writes, data := data }
        .done ((s.claimTile core k).upd i fun w => { w with tm := w.tm + 1, tileOps := w.tileOps ++ [op] })

/-- `tld` (R269). -/
def execTld (f : Fields) (s : State) : Out := issueSplit (.tld f) s (allScalar f) {} (tileBody f false)
/-- `tstr` (R269). -/
def execTstr (f : Fields) (s : State) : Out := issueSplit (.tstr f) s (allScalar f) {} (tileBody f true)

/-- Words written into a core's view by an agent of the core. -/
def State.pokeCells (s : State) (core : Nat) (cells : List Host.Cell) : State :=
  let (wid, s) := s.newWid
  enterOrder s wid cells core

/-- TILE_OP_COMPLETE: a warp's oldest tile access finishes (R269). -/
def execTileOpComplete (w : Nat) (s : State) : Out :=
  match s.warp? w with
  | none => .next s
  | some x => match x.tileOps with
    | [] => .next s
    | op :: r =>
      let ws := op.writes.flatMap fun p => destWrites p.2.1 (p.2.2.2 == 8) p.1 (memNat s.mem p.2.2.1 p.2.2.2)
      let y := { x with tileOps := r, tm := x.tm - 1 }.putFrom (some op.id) ws
      -- a result that comes during run-ahead stands in the checkpoint too (R339)
      let y := { y with snare := y.snare.map fun n =>
        let z := { y with threads := n.saveThreads, s := n.saveS }.putFrom (some op.id) ws
        if n.running then { n with saveThreads := z.threads, saveS := z.s } else n }
      let s := s.setWarp y
      let s := if op.store then s.pokeCells op.core op.data else s
      .next (s.dropTile op.core op.tile)

/-! ### `atab` (R137, R164) -/

/-- A byte that a load of the warp would read now: the newest entry of its FIFO, else the core's view; none where an
atomic of the FIFO decides it (R298, R299). -/
def threadByte (s : State) (w : Warp) (loc : Nat) : Option Byte :=
  if w.fifo.any fun e => e.kind.isAtomic && (e.writesAt s s.order.next loc).isSome then none
  else match newestMatch s w s.order.next loc with
  | some (_, b) => some b
  | none => some (viewByte s.order s.mem w.core loc)

/-- So many such bytes. -/
def threadBytes (s : State) (w : Warp) (loc n : Nat) : Option (List Byte) :=
  (List.range n).mapM fun k => threadByte s w (loc + k)

/-- Whether an `act` bound to a bank of a core is in flight. -/
def actBusy (s : State) (core bank : Nat) : Bool :=
  s.warps.any fun w => w.homeCore == core && w.queue.any fun q => q.bank == some bank

/-- `atab` (R164): the address checks, and the warp holds until BANK_FLIP. An L-core has no banks of its own (R130): on a block
placed there no table can become valid (DEDUCED, log 31). -/
def execAtab (f : Fields) (s : State) : Out :=
  issueSplit (.atab f) s (allScalar f) {} fun i s =>
    match s.block? i.w.block with
    | none => trapAll i 0x086
    | some b =>
      let core := i.w.homeCore
      let o := (readReg i.w f.a 0 false i.low + f.im) % 2 ^ 32
      let addr : W64 := BitVec.ofNat 64 (2 ^ 60 + o)
      if o % 16 != 0 then .trap { cause := 0x087, lanes := i.lanes, addr := addr }
      else if b.spad < o + 3088 then .trap { cause := 0x086, lanes := i.lanes, addr := addr }
      else if coreIsL core then trapAll i 0x045
      else
        let c := s.core core
        if c.atab.isSome then .hold (i.back s)
        else
          let base := ((b.allotOn core).map (·.sBase)).getD 0
          let s := s.setCore core { c with atab := some (i.w.key, locChip 1 core (base + o), i.lanes) }
          .hold (s.upd i fun w => { w with hold := .atab i.all })

/-- BANK_FLIP: the table of a held `atab` is copied into the bank that is not current, and the banks change places, or
the `atab` faults (R164). -/
def execBankFlip (core : Nat) (s : State) : Out :=
  let c := s.core core
  match c.atab with
  | none => .next s
  | some (key, loc, lanes) => match s.warp? key with
    | none => .next (s.setCore core { c with atab := none })
    | some w =>
      let x := if c.actCur then 0 else 1
      if actBusy s core x then .next s
      else match threadBytes s w loc 3088 with
      | none => .next s
      | some t =>
        let bank : ActBank := { valid := actValid t, bytes := t }
        let c := { c with atab := none, act0 := if x = 0 then bank else c.act0, act1 := if x = 1 then bank else c.act1 }
        if actValid t then
          .next ((s.setCore core { c with actCur := !c.actCur }).setWarp w.release)
        else
          .next (takeTrap (s.setCore core c) (heldIss w lanes) { cause := 0x045, lanes := lanes })

end Sys2Proof.Machine
end

