-- ==== Sys2Proof/Machine/Copy.lean ====
section
/-!
DEFINITION. The tensor copy engine (09 R248 to R265; 11 R308) and the conversions of its formats (04 R115, R122 to R129).
-/
namespace Sys2Proof.Machine
open Sys2Proof

/-! ### Formats by unit (R124 to R129, R250, R258) -/

/-- Elements of a conversion unit of one side. -/
def fmtUnit (f : Nat) : Nat :=
  if fmtCodebook f then 128 else if fmtScaled f || fmtPlanes f != 0 then 32 else 8 / Nat.gcd (fmtBits f) 8

/-- Alignment of a row start (R250). -/
def fmtAlign (f : Nat) : Nat :=
  if fmtScaled f || fmtPlanes f != 0 then 4 else if fmtBits f % 8 = 0 then fmtBits f / 8 else 1

/-- Bytes of a canonical block (R127). -/
def blockBytes (f : Nat) : Nat := 4 * (1 + fmtPlanes f)

/-- Scale bytes at the start of a row, padded (R124). -/
def scaleBytes (f elems : Nat) : Nat := if fmtScaled f then (elems / 32 + 3) / 4 * 4 else 0

/-- Bytes of a row (R124 to R127). -/
def rowLen (f elems : Nat) : Nat :=
  if fmtPlanes f != 0 then elems / 32 * blockBytes f else scaleBytes f elems + elems * fmtBits f / 8

/-- The byte runs (offset in the row, length) of some elements of a row; the last unit takes the padding of the scales. -/
def runsOf (f elems e0 cnt : Nat) : List (Nat × Nat) :=
  if fmtPlanes f != 0 then [(e0 / 32 * blockBytes f, cnt / 32 * blockBytes f)]
  else
    let el := (scaleBytes f elems + e0 * fmtBits f / 8, cnt * fmtBits f / 8)
    if fmtScaled f then
      [(e0 / 32, (if e0 + cnt = elems then scaleBytes f elems else (e0 + cnt) / 32) - e0 / 32), el]
    else [el]

/-- The elements of a canonical block (R127, R129). -/
def blockDecode (p : Nat) (bs : List Byte) : List Num :=
  let x := natOfBytes bs
  let e := signedOf 10 x
  (List.range 32).map fun i =>
    if bitsOf x 15 1 = 1 then .nan false
    else
      let m := signedOf p ((List.range p).map fun j => bitsOf x (32 * (j + 1) + i) 1 * 2 ^ j).sum
      .fin (decide (m < 0)) m.natAbs e

/-- 32 values converted to a canonical block with p planes (R128). -/
def blockEncode (p : Nat) (rd : Nat → Rnd) (xs : List Num) : List Byte :=
  let nan := xs.any fun x => x.isNan || x.isInf
  let lg (x : Num) : Option Int := match x with
    | .fin _ m e => if m = 0 then none else some (e + lenOf m - 1)
    | _ => none
  match (xs.filterMap lg) with
  | [] => bytesOf (4 * (1 + p)) (bitOf nan * 2 ^ 15)
  | q :: r =>
    let e : Int := r.foldl max q - ((p : Int) - 2)
    let man (i : Nat) (x : Num) : Int := match x with
      | .fin neg m k =>
        let (v, _) := roundAt (rd i) neg m (k - e) 0
        max (-(2 ^ (p - 1) : Nat)) (min (if neg then -(v : Int) else v) ((2 ^ (p - 1) : Nat) - 1))
      | _ => 0
    let ms := (List.range 32).map fun i => wrapNat p (man i (xs.getD i (.nan false)))
    let plane (j : Nat) : Nat := ((List.range 32).map fun i => bitsOf (ms.getD i 0) j 1 * 2 ^ i).sum
    bytesOf (4 * (1 + p)) (wrapNat 10 e + bitOf nan * 2 ^ 15 + ((List.range p).map fun j => plane j * 2 ^ (32 * (j + 1))).sum)

/-- A list cut into pieces of so many. -/
def chop {α : Type} (n : Nat) : Nat → List α → List (List α)
  | 0, _ => []
  | k + 1, l => l.take n :: chop n k (l.drop n)

/-- The values of a unit's elements; a codebook's entries come through the table function: block of the unit, index. -/
def unitDecode (f cnt : Nat) (parts : List (List Byte)) (table : Nat → Nat → Nat) : List Num :=
  if fmtPlanes f != 0 then (chop (blockBytes f) (cnt / 32) (parts.headD [])).flatMap (blockDecode (fmtPlanes f))
  else
    let x := natOfBytes (parts.getLastD [])
    let sc := parts.headD []
    (List.range cnt).map fun i =>
      let b := bitsOf x (fmtBits f * i) (fmtBits f)
      if fmtCodebook f then Fmt.bf16.decode (table (i / 128) b)
      else if fmtScaled f then scaleBy (sc.getD (i / 32) 0).toNat (fmtDecode f b)
      else fmtDecode f b

/-- A unit's values converted to a destination format (R249, R251). -/
def unitEncode (f : Nat) (rd : Nat → Rnd) (xs : List Num) : List Byte :=
  if fmtPlanes f != 0 then
    ((List.range (xs.length / 32)).map fun k => blockEncode (fmtPlanes f) (fun i => rd (32 * k + i)) ((xs.drop (32 * k)).take 32)).flatten
  else
    let bits := fmtBits f
    bytesOf (xs.length * bits / 8) (((List.range xs.length).map fun i =>
      (fmtEncode f (rd i) (xs.getD i (.nan false))).1 * 2 ^ (bits * i)).sum)

/-- The state of a request's generator before its first element, and the draw of element n (R115). -/
def copySeed (seed : Nat) : W64 := BitVec.ofNat 64 (seed * 2 ^ 32 + (2 ^ 32 - 1 - seed))
def rngAfter (s : W64) : Nat → W64
  | 0 => s
  | n + 1 => rngAfter (rngStep s) n

/-! ### Records (R248 to R250) -/

def CopyRec.word (r : CopyRec) (i : Nat) : Nat := (r.words.getD i 0).toNat
def CopyRec.op (r : CopyRec) : Nat := bitsOf (r.word 0) 0 8
def CopyRec.sfmt (r : CopyRec) : Nat := bitsOf (r.word 0) 8 8
def CopyRec.dfmt (r : CopyRec) : Nat := bitsOf (r.word 0) 16 8
def CopyRec.sr (r : CopyRec) : Bool := bitsOf (r.word 0) 24 1 == 1
def CopyRec.sat (r : CopyRec) : Bool := bitsOf (r.word 0) 25 1 == 1
def CopyRec.seedsel (r : CopyRec) : Bool := bitsOf (r.word 0) 26 1 == 1
def CopyRec.nocount (r : CopyRec) : Bool := bitsOf (r.word 0) 27 1 == 1
def CopyRec.trow (r : CopyRec) : Nat := bitsOf (r.word 0) 28 4
def CopyRec.tile (r : CopyRec) : Nat := bitsOf (r.word 0) 32 16
def CopyRec.ttab (r : CopyRec) : Nat := bitsOf (r.word 0) 48 16
def CopyRec.rows (r : CopyRec) : Nat := bitsOf (r.word 3) 0 32
def CopyRec.elems (r : CopyRec) : Nat := bitsOf (r.word 3) 32 32
def CopyRec.barOff (r : CopyRec) : Nat := bitsOf (r.word 6) 0 32
def CopyRec.seed (r : CopyRec) : Nat := bitsOf (r.word 6) 32 32
def CopyRec.next (r : CopyRec) : Nat := bitsOf (r.word 7) 32 32

/-- The kinds of the sides of an OP (R249): 0 global, 1 scratchpad, 2 tile. -/
def CopyRec.srcKind (r : CopyRec) : Nat := if r.op = 1 then 2 else if r.op = 3 then 1 else 0
def CopyRec.dstKind (r : CopyRec) : Nat := if r.op = 0 || r.op = 5 then 2 else if r.op = 2 then 1 else 0
/-- A codebook source that the engine expands. -/
def CopyRec.expands (r : CopyRec) : Bool := fmtCodebook r.sfmt && r.op != 4
/-- Destination bytes (R250). -/
def CopyRec.size (r : CopyRec) : Nat := r.rows * rowLen r.dfmt r.elems
/-- Elements of a conversion unit, and units of a row. -/
def CopyRec.nu (r : CopyRec) : Nat := Nat.lcm (fmtUnit r.sfmt) (fmtUnit r.dfmt)
def CopyRec.upr (r : CopyRec) : Nat := r.elems / r.nu

/-- A destination that cannot be produced (R249). -/
def noDest (f : Nat) : Bool := fmtCodebook f || fmtScaled f

/-- The OP, format and handle combinations of R249. -/
def CopyRec.comboOk (r : CopyRec) : Bool :=
  fmtOk r.sfmt && fmtOk r.dfmt && (decide (r.op ≤ 1) || r.op == 5 || r.tile == 0) && (r.expands != (r.ttab == 0)) &&
  (match r.op with
   | 0 => decide (r.sfmt ≤ 0x7F) && (fmtPlanes r.dfmt != 0 || (r.dfmt == 0 && decide (r.sfmt ≤ 2)))
   | 1 => (r.sfmt == 0 || fmtPlanes r.sfmt != 0) && !noDest r.dfmt
   | 2 | 3 => decide (r.sfmt ≤ 0x7F) && !noDest r.dfmt
   | 4 => r.sfmt == r.dfmt
   | 5 => r.sfmt == 2 && r.dfmt == 2
   | _ => false)

/-- One side's geometry (R249, R250): its pointer's space and the alignment of its rows. -/
def sideOk (r : CopyRec) (kind f ptr stride : Nat) : Bool :=
  r.elems % fmtUnit f == 0 &&
  (kind == 2 ||
    ((if kind = 1 then ptr / 2 ^ 60 == 1 else ptr / 2 ^ 60 == 0 || ptr / 2 ^ 60 == 8) &&
     ptr % 2 ^ 57 % fmtAlign f == 0 && (decide (r.rows ≤ 1) || stride % fmtAlign f == 0)))

def CopyRec.barOk (r : CopyRec) (spad : Nat) : Bool := r.barOff % 16 == 0 && decide (r.barOff + 16 ≤ spad)
def CopyRec.nextOk (r : CopyRec) (spad : Nat) : Bool := r.next % 64 == 0 && decide (r.next + 64 ≤ spad)

/-- The checks of R254 that raise COPY_RECORD_INVALID. -/
def CopyRec.bad (r : CopyRec) (spad : Nat) : Bool :=
  !r.comboOk || r.rows == 0 || r.elems == 0 || (!r.nocount && !r.barOk spad) || (r.next != 0 && !r.nextOk spad) ||
  !sideOk r r.srcKind r.sfmt (r.word 1) (r.word 4) || !sideOk r r.dstKind r.dfmt (r.word 2) (r.word 5)

/-! ### The engine's parts -/

def State.setRecs (s : State) (core : Nat) (g : List CopyRec → List CopyRec) : State :=
  let c := s.core core
  s.setCore core { c with recs := g c.recs }

def State.setCopy (s : State) (core : Nat) (r : CopyRec) : State :=
  s.setRecs core fun l => l.map fun x => if x.id == r.id then r else x

def Core.kick? (c : Core) (id : Nat) : Option Kick := c.kicks.find? fun k => k.id == id
def Core.rec? (c : Core) (id : Nat) : Option CopyRec := c.recs.find? fun r => r.id == id

/-- A record's kick, block and allotment. -/
def copyHome (s : State) (core : Nat) (r : CopyRec) : Option (Kick × Block × Allot) :=
  match (s.core core).kick? r.kick with
  | none => none
  | some k => match s.block? k.block with
    | none => none
    | some b => (b.allotOn core).map fun a => (k, b, a)

/-- The deferred record of a copy fault, against the kick (R263, R457, R463): raised at the record's start or not, and
whether the record's size is known (R264). -/
def raiseCopy (s : State) (core : Nat) (k : Kick) (r : CopyRec) (cause : Nat) (addr detail : W64) (atStart sized toService : Bool) : State :=
  s.raise k.tag.ctx k.tag.region (tagWords k.tag cause (allowOf cause) 0 addr detail)
    (.copy core r.id atStart sized) toService false k.tag.named

/-- A record in its slot (R252). One that was refused at its start has left it (DESIGN CHOICE, log 33: the spec does not say whether it
keeps its slot until its fault is resolved). -/
def CopyRec.inFlight (r : CopyRec) : Bool := r.st == .running || r.st == .held

/-- A record that has started and is not finished. -/
def CopyRec.ran (r : CopyRec) : Bool := r.st == .running || r.st == .restored

/-- Whether a kick has records that have not started (R252): one that its source tile holds at its start has not (R255). -/
def Core.kickPending (c : Core) (k : Kick) : Bool :=
  !k.gated || c.recs.any fun r => r.kick == k.id &&
    (r.st == .new || (r.st == .held && r.srcKind == 2) || (!r.words.isEmpty && r.next != 0))

/-! ### `kick` and its gate (R252, R253, R265) -/

/-- Covered writes to spaces 1 and 3 to 7 that have not reached their home (R253, R308). -/
def kickGate (s : State) (covered : List Nat) : List Nat :=
  s.warps.flatMap fun w => ((w.fifo ++ w.failed).filter fun e =>
    (e.space == 1 || (decide (3 ≤ e.space) && decide (e.space ≤ 7))) && covered.contains e.wid && e.kind.writes).map (·.wid)

/-- `kick` (R265). As a release it waits for what the older loads of its lanes read (R253, R301). -/
def execKick (f : Fields) (s : State) : Out :=
  issueSplit (.kick f) s (allScalar f) {} fun i s =>
    match tileHome s i.w with
    | none => trapAll i 0x06E
    | some (core, b, _) =>
      let (r, p) := effective (BitVec.ofNat 64 (readReg i.w f.a 0 true i.low)) (signedOf 32 f.im) 0
      let n := if f.b = 0xF0 then f.aux else readReg i.w f.b 0 false i.low
      let bad (r : Nat) : Eff := .trap { cause := 0x0C0 + r, lanes := i.lanes, addr := p }
      let c := s.core core
      if ptrSpace p != 1 then bad 5
      else if n = 0 || 256 < n then trapAll i 0x111
      else if r.isSome || b.spad < ptrOff p + 64 * n then bad 6
      else if ptrOff p % 64 != 0 then bad 7
      else if i.w.busyLanes i.lanes then .hold (i.back s)
      else if 32 ≤ (c.kicks.filter c.kickPending).length then .hold (i.back s)
      else
        let k : Kick := {
          id := c.kickCt, warp := i.w.key, block := b.id, off := ptrOff p, n := n, left := n
          seed := ((i.w.thread i.low).rngs >>> 32).truncate 32
          tag := tagOf s i.w i.low true i.pc i.w.ep i.w.since
          gate := kickGate s (i.w.coveredBy i.lanes) }
        .done ((s.setCore core { c with kicks := c.kicks ++ [k], kickCt := c.kickCt + 1 }).upd i fun w => { w with cp := w.cp + 1 })

/-- A fresh record number. -/
def newRec (s : State) (core : Nat) (kick head place off : Nat) : State :=
  let (id, s) := s.newWid
  s.setRecs core fun l => l ++ [{ id := id, kick := kick, head := head, place := place, off := off }]

/-- KICK_GATE: the first kick that has not passed its gate passes it (R253, R308). -/
def execKickGate (core : Nat) (s : State) : Out :=
  let c := s.core core
  match c.kicks.find? fun k => !k.gated with
  | none => .next s
  | some k =>
    if k.gate.any fun wid => inFifo s wid || !(atHome s wid) then .next s
    else
      let s := s.setCore core { c with kicks := c.kicks.map fun x => if x.id == k.id then { x with gated := true } else x }
      .next ((List.range k.n).foldl (fun s j => newRec s core k.id j 1 (k.off + 64 * j)) s)

/-! ### Starting a record (R252 to R257) -/

/-- What the tiles of a record make of its start. -/
inductive TilesAt where
  | bad (cause : Nat)
  | hold
  | waitTable
  | ok
  deriving DecidableEq, Repr, Inhabited

/-- Whether a tile differs from its side of the record (R249, R250, R254). -/
def tileDiffers (r : CopyRec) (f : Nat) (t : Tile) : Bool :=
  let kind := if r.op = 5 then 2 else if fmtPlanes f != 0 then 0 else 1
  t.kind != kind || (kind == 0 && t.planes != fmtPlanes f) || t.rows != r.rows || t.cols != r.elems

/-- The tile checks (R254 to R257); the first codebook block's row is checked when the record starts (R256, R264). A record whose source
tile is to be waited for is held for it before its table tile is looked at (DESIGN CHOICE, log 33: the spec does not say which wait
comes first). -/
def tilesAt (s : State) (core : Nat) (b : Block) (a : Allot) (r : CopyRec) : TilesAt :=
  let side := r.srcKind == 2 || r.dstKind == 2
  let main := s.current core b a r.tile
  let tab := s.current core b a r.ttab
  let t := s.tile core (main.getD 0)
  let u := s.tile core (tab.getD 0)
  if (side && main.isNone) || (r.expands && tab.isNone) then .bad 0x06C
  else if side && (tileDiffers r (if r.srcKind = 2 then r.sfmt else r.dfmt) t ||
      (if r.dstKind = 2 then t.state != .empty else t.state == .empty)) then .bad 0x112
  else if r.expands && (u.kind != 2 || u.cols != (if r.sfmt = 0x10 then 8 else 16)) then .bad 0x112
  else if r.srcKind = 2 && t.state != .ready then .hold
  else if r.expands && (u.state == .empty || u.state == .filling) then .waitTable
  else if r.expands && u.rows ≤ r.trow then .bad 0x113
  else .ok

/-- Unit n of a request: its row and first element. -/
def CopyRec.unitAt (r : CopyRec) (n : Nat) : Nat × Nat := (n / r.upr, n % r.upr * r.nu)

/-- Destination bytes of a unit. -/
def CopyRec.unitBytes (r : CopyRec) (n : Nat) : Nat := ((runsOf r.dfmt r.elems (r.unitAt n).2 r.nu).map (·.2)).sum

/-- The 4 KiB unit in which a unit ends on a side (R258); on a tile all are one. -/
def segOf (r : CopyRec) (kind f : Nat) (ptr stride : Nat) (n : Nat) : Int :=
  if kind = 2 then 0
  else
    let (row, e0) := r.unitAt n
    let last := (runsOf f r.elems e0 r.nu).getLastD (0, 0)
    ((ptr % 2 ^ 57 : Nat) + signedOf 64 stride * row + (last.1 + last.2 : Nat) - 1) / 4096

def CopyRec.key (r : CopyRec) (n : Nat) : Int × Int :=
  (segOf r r.srcKind r.sfmt (r.word 1) (r.word 4) n, segOf r r.dstKind r.dfmt (r.word 2) (r.word 5) n)

/-- The pieces of a chunk from a unit on, newest first, and the first unit behind the chunk (R258): at most 64 KiB, a
new piece where a side passes a 4 KiB boundary. -/
def planChunk (total : Nat) (key : Nat → Int × Int) (bytes : Nat → Nat) : Nat → Nat → Nat → List Piece → List Piece × Nat
  | 0, n, _, acc => (acc, n)
  | k + 1, n, size, acc =>
    if total ≤ n || (!acc.isEmpty && decide (65536 < size + bytes n)) then (acc, n)
    else match acc with
    | p :: r =>
      if key n = key p.first then
        planChunk total key bytes k (n + 1) (size + bytes n) ({ p with count := p.count + 1, bytes := p.bytes + bytes n } :: r)
      else planChunk total key bytes k (n + 1) (size + bytes n) ({ first := n, count := 1, bytes := bytes n } :: p :: r)
    | [] => planChunk total key bytes k (n + 1) (size + bytes n) [{ first := n, count := 1, bytes := bytes n }]

/-- The next chunk of a record. -/
def CopyRec.plan (r : CopyRec) : CopyRec :=
  let (ps, n) := planChunk (r.rows * r.upr) r.key r.unitBytes 65536 r.unit 0 []
  { r with pieces := ps.reverse, unit := n }

/-- A record runs (R245, R255, R257): its tiles are in use, those that it reads DRAINING, and its first chunk is cut. -/
def runRec (s : State) (core : Nat) (r : CopyRec) : State :=
  let s := if r.srcKind = 2 || r.dstKind = 2 then
      (s.claimTile core (r.tile % 256)).tileTo core (r.tile % 256) (if r.dstKind = 2 then .filling else .draining)
    else s
  let s := if r.expands then (s.claimTile core (r.ttab % 256)).tileTo core (r.ttab % 256) .draining else s
  s.setCopy core { r with st := .running }.plan

/-- The start of a record: read, checked, and then refused, held, put on the wait list or run (R252, R254 to R257); one that a
pre-emption stopped goes on where it was (R262). Of several checks that it fails the first in the order 0x114, 0x110, 0x06C, 0x112, and
behind the waits 0x113, is raised (DESIGN CHOICE, log 33: R254 gives no order). -/
def startRec (s : State) (core : Nat) (r : CopyRec) : State :=
  match copyHome s core r with
  | none => s
  | some (k, b, a) =>
    -- a record beyond the chain's limit and one with a stale tile have a known size where they are valid (R264)
    let refuse (s : State) (r : CopyRec) (cause : Nat) : State :=
      raiseCopy (s.setCopy core { r with st := .refused }) core k r cause 0 (BitVec.ofNat 64 (r.off % 2 ^ 32)) true
        ((cause == 0x114 || cause == 0x06C) && !r.bad b.spad) false
    let r := if r.words.isEmpty then
      { r with words := (List.range 8).map fun j => BitVec.ofNat 64 (memNat s.mem (locChip 1 core (a.sBase + r.off + 8 * j)) 8) } else r
    if r.st = .restored then s.setCopy core { r with st := .running }
    else if 65536 < r.place && !r.passed then refuse s r 0x114
    else
      if r.bad b.spad then refuse s r 0x110
      else match tilesAt s core b a r with
      | .bad c => refuse s r c
      | .hold => s.setCopy core { r with st := .held }
      | .waitTable =>
        let n := ((s.core core).recs.filter fun x => x.st == .waiting && x.id != r.id).length
        s.setCopy core { r with st := if n < 64 then .waiting else .held }
      | .ok => runRec s core r

/-- Whether a held or waiting record can go on. -/
def recFree (s : State) (core : Nat) (r : CopyRec) : Bool :=
  match copyHome s core r with
  | none => false
  | some (_, b, a) => match tilesAt s core b a r with
    | .hold | .waitTable => false
    | _ => true

/-- The order of R252: kick, chain head, place. -/
def recLess (x y : CopyRec) : Bool :=
  decide (x.kick < y.kick) || (x.kick == y.kick && (decide (x.head < y.head) || (x.head == y.head && decide (x.place < y.place))))

def firstRec : List CopyRec → Option CopyRec
  | [] => none
  | x :: r => match firstRec r with
    | none => some x
    | some y => if recLess y x then some y else some x

/-- The record that starts next: one held in its slot that can go on; else, where a slot is free, one that was restored, one
back from the wait list, and then the first in order (R252, R255, R257, R262). -/
def nextRec (s : State) (core : Nat) : Option CopyRec :=
  let c := s.core core
  match c.recs.find? fun r => r.st == .held && recFree s core r with
  | some r => some r
  | none =>
    if 16 ≤ (c.recs.filter CopyRec.inFlight).length then none
    else match c.recs.find? fun r => r.st == .restored || (r.st == .waiting && recFree s core r) with
    | some r => some r
    | none => firstRec (c.recs.filter fun r => r.st == .new)

/-- COPY_RECORD_START (R254). -/
def execCopyRecordStart (core : Nat) (s : State) : Out :=
  match nextRec s core with
  | none => .next s
  | some r => .next (startRec s core r)

/-! ### What a piece meets (R258 to R263, R308) -/

/-- What the bytes of one side of a piece meet; the level of a malformed entry (R319). -/
inductive SideAt where
  | waits
  | missing (pages : List Nat)
  | fails (reason : Nat) (addr : W64) (level : Option Nat)
  | ok
  deriving DecidableEq, Repr, Inhabited

/-- The faults of the address checks, and the pages below T0 or not present (R261, R263). -/
def sideFault (s : State) (ctx : Nat) (cs : List LaneChk) : Option SideAt :=
  match worstChk cs with
  | none => none
  | some (r, _, addr, level) => some (if r = 0 && level.isNone then .missing (missingPages s ctx cs) else .fails r addr level)

/-- The block of a checked byte. -/
def LaneChk.blk (c : LaneChk) (s : State) (ctx : Nat) : Blk := s.blockOf ctx (ptrOff c.addr) (s.homeLoc c.loc)

/-- Source bytes read at the home, or from the core's view (R308). A buffer word with an uncorrectable soft error is
uncorrectable data (R263). -/
def readSide (s : State) (ctx : Nat) (cs : List LaneChk) : SideAt :=
  match sideFault s ctx cs with
  | some x => x
  | none =>
    match cs.find? fun c => ptrSpace c.addr == 8 && s.unreachable c.loc with
    | some c => .fails 0xF c.addr none
    | none =>
      if cs.any fun c => (ptrSpace c.addr == 8 && s.fabricPaused c.loc) ||
          (ptrSpace c.addr == 0 && (s.blkWaits (c.blk s ctx) || !s.room (c.blk s ctx))) then .waits
      else match cs.find? fun c => if ptrSpace c.addr = 0 then s.damaged (s.homeLoc c.loc) else s.softWords.contains (c.loc / 4) with
      | some c => .fails 8 c.addr none
      | none => .ok

/-- The packets that a read of some bytes waits for (R345). -/
def State.askSide (s : State) (ctx : Nat) (cs : List LaneChk) : State :=
  cs.foldl (fun s c => if ptrSpace c.addr = 0 then s.requestBlk (c.blk s ctx) else s) s

/-- The blocks that a read of some bytes brings into their caches (R352), and the ports that its requests cross (R479). -/
def State.holdSide (s : State) (ctx : Nat) (cs : List LaneChk) : State :=
  cs.foldl (fun s c => if ptrSpace c.addr = 0 then s.hold (c.blk s ctx) else s.crossed c.loc) s

/-- Destination bytes at their homes (R333, R349, R352, R354). -/
def writeSide (s : State) (ctx : Nat) (cs : List LaneChk) : SideAt :=
  match sideFault s ctx cs with
  | some x => x
  | none =>
    match cs.find? fun c => ptrSpace c.addr == 8 && s.unreachable c.loc with
    | some c => .fails 0xF c.addr none
    | none =>
      let whole := cs.map fun c => s.homeLoc c.loc
      let blk (c : LaneChk) : Blk := c.blk s ctx
      let soft (c : LaneChk) : Bool := match s.lineAt (s.homeLoc c.loc) with
        | some l => (l.soft.any fun x => x / 8 == s.homeLoc c.loc / 8) &&
            !((List.range 8).all fun j => whole.contains (s.homeLoc c.loc / 8 * 8 + j))
        | none => false
      if cs.any fun c => c.cow || (ptrSpace c.addr == 8 && s.fabricPaused c.loc) ||
          (ptrSpace c.addr == 0 && (s.heldLoc c.loc || !s.room (blk c) || (s.needsFill (blk c) && !((blk c).locs.all whole.contains)))) then .waits
      else match cs.find? fun c => ptrSpace c.addr == 0 && soft c with
      | some c => .fails 8 c.addr none
      | none => .ok

/-- One destination byte written as DRAIN does (R308), with the writer's tag (R353): the writes' numbers and the state. -/
def writeByte (ctx view : Nat) (tag : WriterTag) (whole : List Nat) (a : List Nat × State) (x : LaneChk × Byte) : List Nat × State :=
  let (ws, s) := a
  let (wid, s) := s.newWid
  let loc := s.homeLoc x.1.loc
  if ptrSpace x.1.addr = 0 then
    let k := s.blockOf ctx (ptrOff x.1.addr) loc
    let s := if s.needsFill k then (match s.fillBlock k with
      | .ok bs => s.install k bs
      | .error _ => s) else s
    (ws ++ [wid], (enterOrder (s.repair whole loc) wid [(loc, x.2)] view).touchLine k [loc] tag)
  else (ws ++ [wid], enterOrder s wid [(loc, x.2)] view)

def writeBytes (s : State) (ctx view : Nat) (tag : WriterTag) (cs : List LaneChk) (bs : List Byte) : List Nat × State :=
  (cs.zip bs).foldl (writeByte ctx view tag (cs.map fun c => s.homeLoc c.loc)) ([], s)

/-- The bytes of a piece that one ENGINE_WRITE writes: any of those that are left, free each time (R308), the bytes of a block
that the piece covers and the cache does not hold together (R371). -/
def putNow (s : State) (ctx : Nat) (cs : List LaneChk) (put : List Nat) : List Nat :=
  let group (j : Nat) : Nat := match cs[j]? with
    | some c => if ptrSpace c.addr = 0 && s.needsFill (c.blk s ctx) then (c.blk s ctx).base % 128 else j
    | none => j
  (List.range cs.length).filter fun j => !put.contains j && Config.freeBit (s.free + group j)

/-- Those bytes written (R308), with the writer's tag (R353): the numbers of the writes, and the state. -/
def putBytes (s : State) (ctx view : Nat) (tag : WriterTag) (cs : List LaneChk) (bs : List Byte) (put : List Nat) : List Nat × State :=
  let now := putNow s ctx cs put
  let t := { s with free := s.free + max 128 cs.length }
  (now.filterMap fun j => (cs[j]?).map fun c => (c, bs.getD j 0)).foldl (writeByte ctx view tag (cs.map fun c => s.homeLoc c.loc)) ([], t)

/-- A piece with more of its bytes written; it is written when all are. -/
def Piece.with_ (p : Piece) (n : Nat) (put ws : List Nat) : Piece :=
  let all := union p.put put
  let w := (List.range n).all all.contains
  { p with put := all, wids := p.wids ++ ws, written := w, data := if w then none else p.data }

/-- The bytes of the runs of a unit on one side. -/
def sideBytes (s : State) (w : Warp) (core : Nat) (b : Block) (a : Allot) (r : CopyRec) (write : Bool) (n : Nat) : List (List LaneChk) :=
  let kind := if write then r.dstKind else r.srcKind
  let f := if write then r.dfmt else r.sfmt
  let (row, e0) := r.unitAt n
  (runsOf f r.elems e0 r.nu).map fun run => (List.range run.2).map fun j =>
    if kind = 2 then
      { lane := 0, addr := BitVec.ofNat 64 (2 ^ 60)
        loc := (s.tile core (r.tile % 256)).loc core b a + row * rowLen f r.elems + run.1 + j }
    else
      checkLane s { w with core := core } (if write then 5 else 4) 0 (r.words.getD (if write then 2 else 1) 0)
        (signedOf 64 (r.word (if write then 5 else 4)) * row + (run.1 + j : Nat)) 0 1

/-- A codebook entry (R122, R256), or none where the table has no such row. A word of the table that holds an uncorrectable soft error is
taken as it stands, and so is the record (DESIGN CHOICE, log 33: R263 names the data of the two sides only). -/
def tableEntry (s : State) (core : Nat) (b : Block) (a : Allot) (r : CopyRec) (block e : Nat) : Option Nat :=
  let t := s.tile core (r.ttab % 256)
  let row := r.trow + block
  if t.rows ≤ row then none else some (memNat s.mem (t.loc core b a + row * t.rowBytes + 2 * e) 2)

/-- A unit converted (R249, R251, R256): none where a table row is missing. -/
def convUnit (s : State) (core : Nat) (b : Block) (a : Allot) (k : Kick) (r : CopyRec) (n : Nat) (parts : List (List Byte)) : Option (List Byte) :=
  if r.op = 4 || r.op = 5 then some parts.flatten
  else
    let (row, e0) := r.unitAt n
    let n0 := row * r.elems + e0
    let seed := copySeed (if r.seedsel then k.seed.toNat else r.seed)
    let rd (i : Nat) : Rnd := {
      mode := if r.sr then 5 else 0
      sat := r.sat
      r := if r.sr then rngDraw (rngAfter seed (n0 + i + 1)) else 0 }
    let lacks := r.expands && (List.range (r.nu / 128)).any fun j => (tableEntry s core b a r (n0 / 128 + j) 0).isNone
    let entry (j e : Nat) : Nat := (tableEntry s core b a r (n0 / 128 + j) e).getD 0
    if lacks then none
    else if r.expands && r.dfmt = 2 then
      let x := natOfBytes (parts.getLastD [])
      some ((List.range r.nu).flatMap fun i => bytesOf 2 (entry (i / 128) (bitsOf x (fmtBits r.sfmt * i) (fmtBits r.sfmt))))
    else some (unitEncode r.dfmt rd (unitDecode r.sfmt r.nu parts entry))

/-! ### Pieces -/

def CopyRec.setPiece (r : CopyRec) (i : Nat) (p : Piece) : CopyRec := { r with pieces := listAt r.pieces i fun _ => p }

/-- The extra detail of a piece's fault: 1 or 2 for a page that cannot be had (R463), or the mark and level of a malformed
entry (R319). -/
def sideDetail (r : Nat) : Option Nat → Nat
  | some l => 2 ^ 63 + l
  | none => if r = 0 then 2 ^ 32 else 0

/-- A piece fails (R263): the request stops, with one record for the first failure, which goes to the memory service's ring
where a malformed entry was met (R319). -/
def failPiece (s : State) (core : Nat) (k : Kick) (r : CopyRec) (i : Nat) (p : Piece) (cause : Nat) (addr : W64) (more : Nat) : State :=
  let r' := { r.setPiece i { p with failed := true, missing := false, data := none, put := [] } with stopped := true }
  let s := s.setCopy core r'
  if r.stopped then s else raiseCopy s core k r cause addr (BitVec.ofNat 64 (r.off % 2 ^ 32 + more)) false true (decide (2 ^ 63 ≤ more))

/-- A batch at the memory service (R340, R261). -/
def State.addBatch (s : State) (ctx : Nat) (pages : List Nat) (recId : Option Nat) (copy : Option (Nat × Nat)) : State :=
  { s with paging := { s.paging with
      batchCt := (s.paging.batchCt + 1) % 65536
      batches := s.paging.batches ++ [{ id := s.paging.batchCt, ctx := ctx, pages := pages, recId := recId, copy := copy }] } }

/-- A piece whose page is not in T0: the request's missing pages go to the memory service in one batch (R261). -/
def missPiece (s : State) (core : Nat) (w : Warp) (r : CopyRec) (i : Nat) (p : Piece) (pages : List Nat) : State :=
  let s := s.setCopy core (r.setPiece i { p with missing := true })
  if s.paging.batches.any fun b => b.copy == some (core, r.id) then s
  else s.addBatch w.ctx pages none (some (core, r.id))

/-- The units of a piece. -/
def Piece.units (p : Piece) : List Nat := (List.range p.count).map fun j => p.first + j

/-- The missing pages of every piece of a request's chunk that has not been written. -/
def chunkMissing (s : State) (core : Nat) (w : Warp) (b : Block) (a : Allot) (r : CopyRec) : List Nat :=
  let side (write : Bool) (p : Piece) : List Nat :=
    missingPages s w.ctx ((p.units.flatMap fun n => sideBytes s w core b a r write n).flatten)
  union [] (r.pieces.flatMap fun p => if p.written then [] else (if p.data.isNone then side false p else []) ++ side true p)

/-- ENGINE_READ of a copy engine's piece. -/
def copyRead (core id i : Nat) (s : State) : State :=
  match (s.core core).rec? id with
  | none => s
  | some r => match r.pieces[i]?, copyHome s core r with
    | some p, some (k, b, a) => match s.warp? k.warp with
      | none => s
      | some w =>
        if r.st != .running || r.stopped || p.data.isSome || p.missing || p.failed || p.written then s
        else
          let us := p.units.map fun n => (n, sideBytes s w core b a r false n)
          let cs := us.flatMap fun u => u.2.flatten
          match readSide s w.ctx cs with
          | .waits => s.askSide w.ctx cs
          | .missing _ => missPiece s core w r i p (chunkMissing s core w b a r)
          | .fails x addr level => failPiece s core k r i p (0x0C0 + x) addr (sideDetail x level)
          | .ok =>
            let s := (fillLanes s { w with core := core } cs).holdSide w.ctx cs
            let conv := us.mapM fun u => convUnit s core b a k r u.1 (u.2.map fun run => run.map fun c => memGet s.mem (s.homeLoc c.loc))
            match conv with
            | none => failPiece s core k r i p 0x113 0 0
            | some ds => s.setCopy core (r.setPiece i { p with data := some ds.flatten })
    | _, _ => s

/-- ENGINE_WRITE of a copy engine's piece. -/
def copyWrite (core id i : Nat) (s : State) : State :=
  match (s.core core).rec? id with
  | none => s
  | some r => match r.pieces[i]?, copyHome s core r with
    | some p, some (k, b, a) => match s.warp? k.warp, p.data with
      | some w, some bs =>
        if r.st != .running || p.missing || p.failed || p.written then s
        else
          let cs := (p.units.flatMap fun n => sideBytes s w core b a r true n).flatten
          match writeSide s w.ctx cs with
          | .waits => s.noteCow w.ctx cs
          | .missing _ => missPiece s core w r i p (chunkMissing s core w b a r)
          | .fails x addr level => failPiece s core k r i { p with data := none } (0x0D0 + x) addr (sideDetail x level)
          | .ok =>
            let s := cs.foldl (fun s c => s.crossed c.loc) (fillLanes s { w with core := core } cs)
            let (ws, t) := putBytes s w.ctx core k.tag cs bs p.put
            (t.coverRegion k.tag.ctx k.tag.region ws).setCopy core (r.setPiece i (p.with_ cs.length (putNow s w.ctx cs p.put) ws))
      | _, _ => s
    | _, _ => s

/-! ### Counting and finishing (R259, R260, R264) -/

/-- One byte arrival on the record's barrier object, a release of some writes (R221, R259, R308). -/
def copyArriveBar (s : State) (core : Nat) (k : Kick) (r : CopyRec) (a : Allot) (n : Nat) (cov : List Nat) : State :=
  let loc := locChip 1 core (a.sBase + r.barOff)
  let o := s.bar loc
  if !o.txa || o.txb < n then
    (s.setBar loc o.refuse).raise k.tag.ctx k.tag.region
      (tagWords k.tag 0x063 0 0 0 (BitVec.ofNat 64 (7 + r.off % 2 ^ 32 * 2 ^ 32))) .nothing false false k.tag.named
  else s.barUpdate loc { o with txb := o.txb - n } cov

/-- One record of a kick less: CP drops with the last (R260). -/
def kickDown (s : State) (core kick : Nat) : State :=
  let c := s.core core
  match c.kick? kick with
  | none => s
  | some k =>
    if 1 < k.left then s.setCore core { c with kicks := c.kicks.map fun x => if x.id == kick then { x with left := x.left - 1 } else x }
    else (s.setCore core { c with kicks := c.kicks.filter fun x => x.id != kick }).withWarp k.warp fun w => { w with cp := w.cp - 1 }

/-- Whether another record that has started reads a table tile. -/
def tableRead (s : State) (core k id : Nat) : Bool :=
  (s.core core).recs.any fun x => x.id != id && x.ran && x.expands && x.ttab % 256 == k

/-- The tiles of a record that ran are no longer its: a table tile is READY when its last reader finishes (R245, R260). -/
def freeTiles (s : State) (core : Nat) (r : CopyRec) : State :=
  if !r.ran then s
  else
    let s := if r.srcKind = 2 || r.dstKind = 2 then (s.tileTo core (r.tile % 256) .ready).dropTile core (r.tile % 256) else s
    let k := r.ttab % 256
    if !r.expands then s else (if tableRead s core k r.id then s else s.tileTo core k .ready).dropTile core k

/-- A record is finished: its tiles, its chain and its kick (R252, R260, R264). -/
def finishRec (s : State) (core : Nat) (r : CopyRec) (spad : Nat) : State :=
  let s := (freeTiles s core r).setRecs core fun l => l.filter fun x => x.id != r.id
  let c := s.core core
  if !r.words.isEmpty && r.next != 0 && r.nextOk spad then
    let s := s.setCore core { c with kicks := c.kicks.map fun x => if x.id == r.kick then { x with left := x.left + 1 } else x }
    kickDown (newRec s core r.kick r.head (r.place + 1) r.next) core r.kick
  else kickDown s core r.kick

/-- BYTE_ARRIVE: a written piece counts once its bytes have reached every view of the cluster (R259, R308); the last of a
chunk leaves PROG, and the last of all finishes the record (R260). -/
def execByteArrive (core id i : Nat) (s : State) : Out :=
  match (s.core core).rec? id with
  | none => .next s
  | some r => match r.pieces[i]?, copyHome s core r with
    | some p, some (k, b, a) =>
      if r.st != .running || !p.written || p.counted || (!r.nocount && !gateOpen s core 3 p.wids) then .next s
      else
        let r := { r.setPiece i { p with counted := true } with counted := r.counted + p.bytes }
        let full := r.pieces.all (·.counted)
        let last := full && decide (r.rows * r.upr ≤ r.unit)
        let s := s.setCopy core (if full && !last then r.plan else r)
        let s := if full then s.poke (locChip 1 core (a.sBase + r.off + 56)) (bytesOf 4 r.counted) else s
        let s := if last then finishRec s core r b.spad else s
        .next (if r.nocount then s else copyArriveBar s core k r a p.bytes p.wids)
    | _, _ => .next s

/-- The destination tile of a record that was refused at its start, where the record is valid and the tile is its: KILL makes it READY
(R264, log 33). -/
def readyTile (s : State) (core : Nat) (b : Block) (a : Allot) (r : CopyRec) : State :=
  if r.st != .refused || r.bad b.spad || r.dstKind != 2 then s
  else match s.current core b a r.tile with
  | some k => if (s.tile core k).state = .empty then s.tileTo core k .ready else s
  | none => s

/-- RESUME (0 or 2) and KILL (1) of a copy record, raised at its start or not, its size known or not (R264). A record beyond the limit of
its chain goes on, and any other that was refused is read and checked again. -/
def State.resolveCopy (s : State) (core id : Nat) (atStart sized : Bool) (mode : Nat) : State :=
  match (s.core core).rec? id with
  | none => s
  | some r => match copyHome s core r with
    | none => s
    | some (k, b, a) =>
      if mode != 1 then
        if atStart then s.setCopy core (if 65536 < r.place && !r.passed then { r with st := .new, passed := true } else { r with st := .new, words := [] })
        else s.setCopy core { r with stopped := false, pieces := r.pieces.map fun p => { p with failed := false } }
      else
        let bar := !r.words.isEmpty && !r.nocount && r.barOk b.spad
        let loc := locChip 1 core (a.sBase + r.barOff)
        let s := if bar then s.setBar loc { s.bar loc with err := true } else s
        let s := finishRec (readyTile s core b a r) core r b.spad
        if bar && sized then copyArriveBar s core k r a (r.size - r.counted) [] else s

/-- Every record, kick and operation of some warps leaves a core's copy engine without counting (R262, R448). -/
def State.abandonCopies (s : State) (core : Nat) (warps : List Nat) : State :=
  let c := s.core core
  let ks := c.kicks.filter fun k => warps.contains k.warp
  let mine (r : CopyRec) : Bool := ks.any fun k => k.id == r.kick
  let s := (c.recs.filter mine).foldl (fun s r => (freeTiles s core r).setRecs core fun l => l.filter fun x => x.id != r.id) s
  let c := s.core core
  s.setCore core { c with kicks := c.kicks.filter fun k => !warps.contains k.warp }

end Sys2Proof.Machine
end

