-- ==== Sys2Proof/Machine/Matrix.lean ====
section
/-!
DEFINITION. The matrix engine (10 R271 to R292).
-/
namespace Sys2Proof.Machine
open Sys2Proof

/-! ### Reservation (R274, R288, R289) -/

/-- The threads of a block that wait in `mres` for a core's engine go on. -/
def State.wakeMres (s : State) (core block : Nat) : State :=
  { s with warps := s.warps.map fun w =>
      if w.block != block || w.homeCore != core then w
      else { w with threads := w.threads.map fun t => if t.st == .waiting && t.wait == .mres then t.wake else t } }

/-- A pending release takes effect when the queue is empty: the next block in the list is granted the engine. -/
def State.matrixSettle (s : State) (core : Nat) : State :=
  let c := s.core core
  if !c.meRelease || !c.meQueue.isEmpty then s
  else match c.meReqs with
  | [] => s.setCore core { c with meHolder := none, meRelease := false }
  | b :: r => (s.setCore core { c with meHolder := some b, meReqs := r, meRelease := false }).wakeMres core b

/-- Whether a block holds the engine, no release pending. -/
def Core.holds (c : Core) (block : Nat) : Bool := c.meHolder == some block && !c.meRelease

/-- `mres` (R288). -/
def execMres (f : Fields) (s : State) : Out :=
  issueSplit (.mres f) s (allScalar f) {} fun i s =>
    match tileHome s i.w with
    | none => trapAll i 0x06E
    | some (core, b, _) =>
      let c := s.core core
      let pred (v : Nat) : List RegWrite := if f.ty = 1 then i.lanes.flatMap fun l => destWrites f.d false l v else []
      if c.holds b.id then writeEff i s (pred 1)
      else if c.meHolder.isNone then writeEff i (s.setCore core { c with meHolder := some b.id }) (pred 1)
      else if f.ty = 1 then writeEff i s (pred 0)
      else
        let s := s.setCore core { c with meReqs := union c.meReqs [b.id] }
        .jump (s.upd i fun w => w.setLanes i.lanes fun _ t => { t with st := .waiting, wait := .mres }) (i.lanes.map fun l => (l, i.pc))

/-- `mrel` (R289). -/
def execMrel (f : Fields) (s : State) : Out :=
  issueSplit (.mrel f) s (allScalar f) {} fun i s =>
    match tileHome s i.w with
    | none => trapAll i 0x06E
    | some (core, b, _) =>
      let c := s.core core
      if !c.holds b.id then trapAll i 0x103
      else .done ((s.setCore core { c with meRelease := true }).matrixSettle core)

/-- `mfence` (R290). -/
def execMfence (f : Fields) (s : State) : Out :=
  issueSplit (.mfence f) s (allScalar f) {} fun i s =>
    match tileHome s i.w with
    | none => trapAll i 0x06E
    | some _ =>
      let space (n : Nat) : Bool := n == 1 || (decide (4 ≤ n) && decide (n ≤ 6))
      if (i.w.fifo.any fun e => space e.space) || i.w.tileOps.any (·.store) then .hold (i.back s) else .done s

/-! ### Parameters (R276, R277) -/

def paramOpc (ws : List W64) : Nat := bitsOf (ws.getD 0 0).toNat 0 4
def paramZacc (ws : List W64) : Bool := bitsOf (ws.getD 0 0).toNat 4 1 == 1
def paramK (ws : List W64) : Nat := bitsOf (ws.getD 0 0).toNat 8 7
def paramTA (ws : List W64) : Nat := bitsOf (ws.getD 0 0).toNat 32 16
def paramTB (ws : List W64) : Nat := bitsOf (ws.getD 0 0).toNat 48 16
def paramTC (ws : List W64) : Nat := bitsOf (ws.getD 1 0).toNat 0 16
def paramBase (ws : List W64) : Nat := bitsOf (ws.getD 1 0).toNat 32 32

def paramBad (ws : List W64) : Bool :=
  let w0 := (ws.getD 0 0).toNat
  let top := decide (2 ≤ paramOpc ws)
  decide (3 < paramOpc ws) || bitsOf w0 5 3 != 0 || bitsOf w0 15 17 != 0 || bitsOf (ws.getD 1 0).toNat 16 16 != 0 ||
  (if top then paramK ws == 0 || decide (64 < paramK ws) else paramK ws != 0 || paramBase ws != 0) ||
  (ws.drop 2).any fun x => x != 0

def shapeBad (ws : List W64) (ta tb tc : Tile) : Bool :=
  ta.kind != 0 || tb.kind != 0 || ta.cols != tb.cols || tc.kind != 1 || tc.rows != ta.rows ||
  tc.cols != (if 2 ≤ paramOpc ws then 2 * paramK ws else tb.rows)

/-- `mgo` (R291). -/
def execMgo (f : Fields) (s : State) : Out :=
  issueSplit (.mgo f) s (allScalar f) {} fun i s =>
    match tileHome s i.w with
    | none => trapAll i 0x06E
    | some (core, b, a) =>
      let (r, p) := effective (BitVec.ofNat 64 (readReg i.w f.a 0 true i.low)) (signedOf 32 f.im) 0
      let bad (r : Nat) : Eff := .trap { cause := 0x0E0 + r, lanes := i.lanes, addr := p }
      let c := s.core core
      match (if ptrSpace p = 1 then r else some 5) with
      | some r => bad r
      | none =>
        if ptrOff p % 64 != 0 then bad 7
        else if b.spad < ptrOff p + 64 then bad 6
        else if !c.holds b.id then trapAll i 0x100
        else match threadBytes s i.w (locChip 1 core (a.sBase + ptrOff p)) 64 with
        | none => .hold (i.back s)
        | some bs =>
          let ws := (List.range 8).map fun j => BitVec.ofNat 64 (natOfBytes ((bs.drop (8 * j)).take 8))
          if paramBad ws then trapAll i 0x101
          else match s.current core b a (paramTA ws), s.current core b a (paramTB ws), s.current core b a (paramTC ws) with
          | some ka, some kb, some kc =>
            if shapeBad ws (s.tile core ka) (s.tile core kb) (s.tile core kc) then trapAll i 0x102
            else if [ka, kb, kc].any (fun k => (s.tile core k).state != .ready) || decide (8 ≤ c.meQueue.length) then .hold (i.back s)
            else
              let op : MOp := { warp := i.w.key, block := b.id, words := ws, tag := tagOf s i.w i.low false i.pc i.w.ep i.w.since }
              let s := s.setCore core { c with meQueue := c.meQueue ++ [op] }
              .done (([ka, kb, kc].foldl (fun s k => s.claimTile core k) s).upd i fun w => { w with tm := w.tm + 1, mgos := w.mgos + 1 })
          | _, _, _ => trapAll i 0x06C

/-- `mwait` (R284, R292): the results are in the core's view, which every later load of the warp reads. -/
def execMwait (f : Fields) (s : State) : Out :=
  issueSplit (.mwait f) s (allScalar f) {} fun i s =>
    match tileHome s i.w with
    | none => trapAll i 0x06E
    | some _ => if f.aux < i.w.mgos then .hold (i.back s) else .done s

/-! ### What an operation computes (R278 to R281) -/

/-- A canonical block as the array reads it: NAN, the exponent and the mantissas (R127). -/
structure KBlock where
  nan : Bool
  e   : Int
  m   : List Int
  deriving DecidableEq, Repr, Inhabited

def kblock (p : Nat) (bs : List Byte) : KBlock :=
  let x := natOfBytes bs
  let man (i : Nat) : Int := signedOf p ((List.range p).map fun j => bitsOf x (32 * (j + 1) + i) 1 * 2 ^ j).sum
  { nan := bitsOf x 15 1 == 1, e := signedOf 10 x, m := (List.range 32).map man }

/-- The blocks of a row of an operand tile. -/
def rowBlocks (t : Tile) (bs : List Byte) (row : Nat) : List KBlock :=
  let n := 4 * (1 + t.planes)
  (chop n (t.cols / 32) ((bs.drop (row * t.rowBytes)).take t.rowBytes)).map (kblock t.planes)

/-- The block term of MAC (R278). -/
def macTerm (a b : KBlock) : Num :=
  let d := ((a.m.zip b.m).map fun p => p.1 * p.2).sum
  .fin (decide (d < 0)) d.natAbs (a.e + b.e)

/-- The block term of DIST (R279). -/
def distTerm (a b : KBlock) : Num :=
  let e := min a.e b.e
  let d := ((a.m.zip b.m).map fun p =>
    let x := p.1 * 2 ^ (a.e - e).toNat - p.2 * 2 ^ (b.e - e).toNat
    x * x).sum
  .fin false d.natAbs (2 * e)

/-- acc plus a block term, rounded once (R278). -/
def accStep (acc : Nat) (x : Num) : Nat :=
  let a := Fmt.f32.decode acc
  if a.isNan then Fmt.f32.cnan else (Fmt.f32.round {} ((sumNum 0 [a, x]).getD (.nan false))).1

/-- A score of a top-k operation: MAC or DIST of two rows from +0.0 (R280). -/
def matrixScore (dist : Bool) (xs ys : List KBlock) : Nat :=
  let v := (xs.zip ys).foldl (fun acc p => accStep acc (if dist then distTerm p.1 p.2 else macTerm p.1 p.2)) 0
  if (xs.any (·.nan)) || (ys.any (·.nan)) || (Fmt.f32.decode v).isNan then 0x7FC00000 else v

/-- Whether an entry (value, index) ranks before another by rules 1 to 3 of R280. -/
def ranksBefore (isMax : Bool) (x y : Nat × Nat) : Bool :=
  let a := Fmt.f32.decode x.1
  let b := Fmt.f32.decode y.1
  if a.isNan then false
  else if b.isNan then true
  else if (if isMax then numLt false b a else numLt false a b) then true
  else if (if isMax then numLt false a b else numLt false b a) then false
  else decide (x.2 < y.2)

/-- An entry put behind those that it does not rank before (rule 4: the list's own stay first). -/
def rankInsert (isMax : Bool) (x : Nat × Nat) : List (Nat × Nat) → List (Nat × Nat)
  | [] => [x]
  | y :: r => if ranksBefore isMax x y then x :: y :: r else y :: rankInsert isMax x r

def rankSort (isMax : Bool) (l : List (Nat × Nat)) : List (Nat × Nat) :=
  l.foldl (fun acc x => rankInsert isMax x acc) []

/-- A binary32 word of TC's bytes. -/
def tcWord (tc : List Byte) (k : Nat) : Nat := natOfBytes ((tc.drop (4 * k)).take 4)

/-! ### Passes and K-blocks (R271, R283) -/

/-- One step of an operation: a block of at most 128 by 128 outputs, from row `m0` of TA and `n0` of TB, and the K-blocks of
it: one of MAC and DIST, all of a top-k; whether it is the pass's last. -/
structure MStep where
  m0   : Nat
  m    : Nat
  n0   : Nat
  n    : Nat
  b    : Nat
  nb   : Nat
  last : Bool
  deriving DecidableEq, Repr, Inhabited

def paramTop (ws : List W64) : Bool := decide (2 ≤ paramOpc ws)
/-- Steps of a pass, and of an operation. -/
def passSteps (ws : List W64) (ta : Tile) : Nat := if paramTop ws then 1 else ta.cols / 32
def matrixSteps (ws : List W64) (ta tb : Tile) : Nat :=
  (ta.rows + 127) / 128 * ((tb.rows + 127) / 128) * passSteps ws ta

def matrixStep (ws : List W64) (ta tb : Tile) (step : Nat) : MStep :=
  let k := passSteps ws ta
  let pass := step / k
  let cols := (tb.rows + 127) / 128
  let m0 := pass / cols * 128
  let n0 := pass % cols * 128
  { m0 := m0, m := min 128 (ta.rows - m0), n0 := n0, n := min 128 (tb.rows - n0)
    b := if paramTop ws then 0 else step % k, nb := if paramTop ws then ta.cols / 32 else 1, last := step % k + 1 == k }

/-- The locations of a row's K-blocks of a step. -/
def stepRow (t : Tile × Nat) (x : MStep) (row : Nat) : List Nat :=
  let n := 4 * (1 + t.1.planes)
  (List.range (x.nb * n)).map fun j => t.2 + row * t.1.rowBytes + x.b * n + j

/-- The words of TC that a step reads and writes: its outputs, or the lists of its rows. -/
def stepWords (ws : List W64) (tc : Tile) (x : MStep) : List Nat :=
  (List.range x.m).flatMap fun i =>
    if paramTop ws then (List.range (2 * paramK ws)).map fun j => (x.m0 + i) * tc.cols + j
    else (List.range x.n).map fun j => (x.m0 + i) * tc.cols + x.n0 + j

/-- Whether a step starts from an empty accumulator instead of TC's words (R276, R278, R280). -/
def stepEmpty (ws : List W64) (x : MStep) : Bool := paramZacc ws && (if paramTop ws then x.n0 == 0 else x.b == 0)

/-- A list of k entries before a step: TC's, or the fill. -/
def stepList (ws : List W64) (x : MStep) (i : Nat) (word : Nat → Nat) (bad : Nat → Bool) : List (Nat × Nat) :=
  let kk := paramK ws
  (List.range kk).map fun j =>
    if stepEmpty ws x then ((if paramOpc ws = 2 then 0xFF800000 else 0x7F800000), 0xFFFFFFFF)
    else
      let p := i * 2 * kk + j
      (if bad p || bad (p + kk) then 0x7FC00000 else word p, word (p + kk))

/-- What a step makes of the words of TC that it writes, in the order of `stepWords`, and the outputs that a NaN block has met
(R278 to R281): from the bytes of its rows of TA and TB, the words of TC (their order the same), and which rows and words were
damaged (R286). -/
def stepResult (ws : List W64) (ta tb : Tile) (x : MStep) (rowA rowB : Nat → List Byte) (word : Nat → Nat)
    (badA badB badC nan : Nat → Bool) : List (Nat × Bool) :=
  let dist := paramOpc ws = 1 || paramOpc ws = 3
  let blocks (t : Tile) (bs : List Byte) : List KBlock := (chop (4 * (1 + t.planes)) x.nb bs).map (kblock t.planes)
  let as := (List.range x.m).map fun i => (i, blocks ta (rowA i))
  let bs := (List.range x.n).map fun j => (j, blocks tb (rowB j))
  if !paramTop ws then
    as.flatMap fun p => bs.map fun q =>
      let k := p.1 * x.n + q.1
      let empty := stepEmpty ws x
      let isNan := nan k || badA p.1 || badB q.1 || (!empty && badC k) || (p.2.any (·.nan)) || (q.2.any (·.nan))
      let v := (p.2.zip q.2).foldl (fun acc y => accStep acc (if dist then distTerm y.1 y.2 else macTerm y.1 y.2)) (if empty then 0 else word k)
      (if x.last && (isNan || (Fmt.f32.decode v).isNan) then 0x7FC00000 else v, isNan)
  else
    let isMax := paramOpc ws == 2
    as.flatMap fun p =>
      let cand := bs.map fun q =>
        (if badA p.1 || badB q.1 then 0x7FC00000 else matrixScore dist p.2 q.2, (paramBase ws + x.n0 + q.1) % 2 ^ 32)
      let best := (rankSort isMax (stepList ws x p.1 word badC ++ cand)).take (paramK ws)
      let canon (v : Nat) : Nat := if (Fmt.f32.decode v).isNan then 0x7FC00000 else v
      (best.map fun e => (canon e.1, false)) ++ best.map fun e => (e.2, false)

/-! ### The engine's steps (R275, R282 to R286) -/

/-- The tiles of the head operation, with where they lie. -/
def opTiles (s : State) (core : Nat) (op : MOp) : Option ((Tile × Nat) × (Tile × Nat) × (Tile × Nat)) :=
  match s.block? op.block with
  | none => none
  | some b => match b.allotOn core with
    | none => none
    | some al =>
      let t (h : Nat) : Tile × Nat := let x := s.tile core (h % 256); (x, x.loc core b al)
      some (t (paramTA op.words), t (paramTB op.words), t (paramTC op.words))

def State.setHeadOp (s : State) (core : Nat) (op : MOp) : State :=
  let c := s.core core
  s.setCore core { c with meQueue := op :: c.meQueue.drop 1 }

/-- MATRIX_OP_START: the oldest operation starts when the one before it has finished (R273, R275). -/
def execMatrixOpStart (core : Nat) (s : State) : Out :=
  match (s.core core).meQueue with
  | [] => .next s
  | op :: _ => .next (s.setHeadOp core { op with started := true })

/-- What a step reads: the bytes of its rows of TA, of TB, and of its words of TC unless it starts from an empty accumulator. -/
def stepReads (ws : List W64) (ta tb tc : Tile × Nat) (x : MStep) : List Nat × List Nat × List Nat :=
  ((List.range x.m).flatMap fun i => stepRow ta x (x.m0 + i), (List.range x.n).flatMap fun j => stepRow tb x (x.n0 + j),
   if stepEmpty ws x then [] else (stepWords ws tc.1 x).flatMap fun k => (List.range 4).map fun j => tc.2 + 4 * k + j)

/-- ENGINE_READ of the matrix engine: what its next step needs of the tiles, as it stands in the core's view, each word at a moment
of its own (R282, R283). `pick` 0 takes every word that is not read yet, and n + 1 the n-th word alone. A damaged word is recorded
against the `mgo`, once for a tile (R286). -/
def matrixRead (core pick : Nat) (s : State) : State :=
  match (s.core core).meQueue with
  | [] => s
  | op :: _ => match opTiles s core op with
    | none => s
    | some (ta, tb, tc) =>
      if !op.started || op.data.isSome || op.written then s
      else
        let (la, lb, lc) := stepReads op.words ta tb tc (matrixStep op.words ta.1 tb.1 op.step)
        let all := la ++ lb ++ lc
        let now (l : Nat) : Bool := (pick == 0 || l / 4 == all.getD (4 * (pick - 1)) 0 / 4) && !op.part.any fun c => c.1 == l
        let hit (ls : List Nat) : List Nat := s.softWords.filter fun x => ls.any fun l => l / 4 == x && now l
        let new (ls : List Nat) (h : Nat) : List Nat := if (hit ls).isEmpty || op.told.contains h then [] else [h]
        let hs := union [] (new la (paramTA op.words) ++ new lb (paramTB op.words) ++ new lc (paramTC op.words))
        let byte (l : Nat) : Byte := ((op.part.find? fun c => c.1 == l).map (·.2)).getD (memGet s.mem l)
        let s := hs.foldl (fun s h => s.raise op.tag.ctx op.tag.region
          (tagWords op.tag 0x0F8 0 0 0 (BitVec.ofNat 64 h)) .nothing false false op.tag.named) s
        s.setHeadOp core { op with
          part := if pick = 0 then [] else op.part ++ (all.filter now).map fun l => (l, memGet s.mem l)
          told := op.told ++ hs
          bad := union op.bad (hit la ++ hit lb ++ hit lc)
          data := if pick = 0 then some (all.map fun l => (l, byte l)) else none }

/-- ENGINE_WRITE of the matrix engine: its step's words into the core's view, an accumulator after one more K-block or a list
after one more pass (R283); with the last step the operation has written all its results. -/
def matrixWrite (core : Nat) (s : State) : State :=
  match (s.core core).meQueue with
  | [] => s
  | op :: _ => match opTiles s core op, op.data with
    | some (ta, tb, tc), some d =>
      if op.written then s
      else
        let x := matrixStep op.words ta.1 tb.1 op.step
        let bs := d.map (·.2)
        let na := x.nb * (4 * (1 + ta.1.planes))
        let nb := x.nb * (4 * (1 + tb.1.planes))
        let words := stepWords op.words tc.1 x
        let tcs := bs.drop (x.m * na + x.n * nb)
        let bad (ls : List Nat) : Bool := ls.any fun l => op.bad.contains (l / 4)
        let out := stepResult op.words ta.1 tb.1 x (fun i => (bs.drop (i * na)).take na) (fun j => (bs.drop (x.m * na + j * nb)).take nb)
          (tcWord tcs) (fun i => bad (stepRow ta x (x.m0 + i))) (fun j => bad (stepRow tb x (x.n0 + j)))
          (fun k => op.bad.contains (tc.2 / 4 + words.getD k 0)) (fun k => op.nans.contains (words.getD k 0))
        let nans := if x.last then [] else ((words.zip out).filter fun y => y.2.2).map (·.1)
        (s.pokeCells core ((words.zip out).flatMap fun y => cellsAt (tc.2 + 4 * y.1) (bytesOf 4 y.2.1))).setHeadOp core { op with
          data := none, bad := [], nans := nans, step := op.step + 1, written := decide (matrixSteps op.words ta.1 tb.1 ≤ op.step + 1) }
    | _, _ => s

/-- MATRIX_OP_FINISH: TM drops, the tiles are no longer in use, and a pending release may take effect (R274, R284). -/
def execMatrixOpFinish (core : Nat) (s : State) : Out :=
  let c := s.core core
  match c.meQueue with
  | [] => .next s
  | op :: r =>
    if !op.written then .next s
    else
      let s := s.setCore core { c with meQueue := r }
      let s := [paramTA op.words, paramTB op.words, paramTC op.words].foldl (fun s h => s.dropTile core (h % 256)) s
      .next ((s.withWarp op.warp fun w => { w with tm := w.tm - 1, mgos := w.mgos - 1 }).matrixSettle core)

/-- The matrix operations and the reservation of some blocks leave a core's engine (R448). -/
def State.abandonMatrix (s : State) (core : Nat) (blocks : List Nat) : State :=
  let c := s.core core
  let mine := c.meQueue.filter fun o => blocks.contains o.block
  let s := s.setCore core { c with
    meQueue := c.meQueue.filter fun o => !blocks.contains o.block
    meReqs := c.meReqs.filter fun b => !blocks.contains b
    meRelease := c.meRelease || (c.meHolder.any fun b => blocks.contains b) }
  let s := mine.foldl (fun s o => [paramTA o.words, paramTB o.words, paramTC o.words].foldl (fun s h => s.dropTile core (h % 256)) s) s
  s.matrixSettle core

end Sys2Proof.Machine
end

