-- ==== Sys2Proof/Machine/Pages.lean ====
section
/-!
DEFINITION. The memory service and the page instructions (12 R316 to R337, R341 to R344).
-/
namespace Sys2Proof.Machine
open Sys2Proof

/-! ### Leaves -/

/-- The entries of a table that are not zero: index and entry, each once. -/
def tableEntries (m : Memory) (table : Nat) : List (Nat × Nat) :=
  (union [] ((m.filter fun c => decide (table ≤ c.1) && decide (c.1 < table + 8192)).map fun c => (c.1 - table) / 8)).map
    fun k => (k, memNat m (table + 8 * k) 8)

/-- A leaf of a context: its first address, its level, where its entry lies, and the entry. -/
structure LeafAt where
  va    : Nat
  level : Nat
  slot  : Nat
  e     : Nat
  deriving DecidableEq, Repr, Inhabited

/-- The leaves under a table, and the tables (R317). -/
def leavesFrom (m : Memory) : Nat → Nat → Nat → Nat → List LeafAt × List Nat
  | 0, _, _, _ => ([], [])
  | n + 1, table, level, va =>
    (tableEntries m table).foldl (fun acc p =>
      let a := va + p.1 * 2 ^ (47 - 10 * level)
      if !leafV p.2 || malformed level p.2 then acc
      else if leafLeaf p.2 then (acc.1 ++ [⟨a, level, table + 8 * p.1, p.2⟩], acc.2)
      else
        let sub := leavesFrom m n (leafFrame p.2 * 8192) (level + 1) a
        (acc.1 ++ sub.1, acc.2 ++ sub.2)) ([], [table])

def State.leaves (s : State) (ctx : Nat) : List LeafAt := (leavesFrom s.mem 4 (s.context ctx).root 0 0).1
def State.tables (s : State) (ctx : Nat) : List Nat := (leavesFrom s.mem 4 (s.context ctx).root 0 0).2

/-- Every leaf of every context, with its context. -/
def State.allLeaves (s : State) : List (Nat × LeafAt) :=
  s.ctxs.flatMap fun c => (s.leaves c.1).map fun l => (c.1, l)

/-- The first location of a leaf's frame. -/
def LeafAt.base (l : LeafAt) : Nat := leafLoc l.level l.e 0
/-- Frames of 128 KiB that a leaf covers (R326). -/
def LeafAt.frames (l : LeafAt) : Nat := 2 ^ (pageBits l.level - 17)

/-- The leaf of an address of a context's own window (R205, R343). -/
def State.leafAt (s : State) (ctx va : Nat) : Option LeafAt :=
  match s.walk ctx va with
  | .leaf level a e => if leafWin e == (s.context ctx).win then some ⟨pageOf level va, level, a, e⟩ else none
  | _ => none

/-- A page-table entry written by the memory service. -/
def State.setEntry (s : State) (slot e : Nat) : State := { s with mem := memPutAll s.mem (cellsAt slot (bytesOf 8 e)) }

/-- A leaf with a bit field changed. -/
def State.setLeaf (s : State) (l : LeafAt) (lo len v : Nat) : State := s.setEntry l.slot (putBits (memNat s.mem l.slot 8) lo len v)

/-- An invalidation issued for a page (R324), which may free a frame when it completes; `gone` says that the leaf no longer maps
its frame. -/
def State.invalidate (s : State) (ctx : Nat) (l : LeafAt) (frees : Option Nat) (gone : Bool) (also : List (Nat × Nat) := [])
    (brk : Bool := false) : State :=
  { s with paging := { s.paging with invals := s.paging.invals ++ [{
      ctx := ctx, page := l.va, level := l.level, frees := frees, size := 2 ^ pageBits l.level, also := also, brk := brk
      frame := if gone then some l.base else none }] } }

/-! ### Frames (R326) -/

/-- Whether a range of locations meets another. -/
def meets (a n b m : Nat) : Bool := decide (a < b + m) && decide (b < a + n)

/-- Whether an invalidation that has not completed still holds places of a range (R324). -/
def State.invalHolds (s : State) (base size : Nat) : Bool :=
  s.paging.invals.any fun i => (i.frees.any fun f => meets base size f i.size) || (i.also.any fun f => meets base size f.1 f.2) ||
    i.frame.any fun f => meets base size f i.size

/-- Whether a range lies in the top 4 GiB of a stack whose alert is to be followed by a map-out (R351). -/
def State.leaving (s : State) (base size : Nat) : Bool :=
  (List.range 12).any fun i =>
    let k := s.stack i
    k.alert && decide (12 < k.nlayer) && meets base size (i * 2 ^ 36 + (k.nlayer - 1) * 2 ^ 32) (2 ^ 32)

/-- Whether so many bytes from a location are free: no count, no leaf, no table, no move, no invalidation that still
holds them, no pool. -/
def State.isFree (s : State) (base size : Nat) : Bool :=
  ((List.range (size / 131072)).all fun i => s.frt (base + 131072 * i) == 0) &&
  !(s.allLeaves.any fun p => meets base size p.2.base (2 ^ pageBits p.2.level)) &&
  !(s.ctxs.any fun c => (s.tables c.1).any fun t => meets base size t 8192) &&
  !(s.paging.tenants.any fun c => c.2.poolFrames.any fun f => meets base size f 131072) &&
  !(s.paging.moves.any fun m => meets base size m.src (2 ^ pageBits m.level) || meets base size m.dst (2 ^ pageBits m.level)) &&
  !s.invalHolds base size && !s.leaving base size

/-- The lowest free place of a size from a location on that does not meet a range, with fuel. -/
def State.findFree (s : State) (size lo len : Nat) : Nat → Nat → Option Nat
  | 0, _ => none
  | n + 1, base => if s.isFree base size && !meets base size lo len then some base else s.findFree size lo len n (base + size)

/-- A free T0 place of a size: the memory service's choice of a frame is its own. -/
def State.freeT0 (s : State) (size : Nat) : Option Nat := s.findFree size 0 0 (0xC000000000 / size) 0

/-- The counts of the frames that a leaf covers, changed. -/
def State.bumpFrt (s : State) (l : LeafAt) (g : Nat → Nat) : State :=
  (List.range l.frames).foldl (fun s i => s.setFrt (l.base + 131072 * i) (g (s.frt (l.base + 131072 * i)))) s

/-- Whether no frame that a leaf covers is mapped any more, and those that are not where some are. -/
def State.allGone (s : State) (l : LeafAt) : Bool := (List.range l.frames).all fun i => s.frt (l.base + 131072 * i) == 0
def State.someGone (s : State) (l : LeafAt) : List (Nat × Nat) :=
  if s.allGone l then [] else ((List.range l.frames).filter fun i => s.frt (l.base + 131072 * i) == 0).map fun i => (l.base + 131072 * i, 131072)

/-- A leaf that no longer maps its frames: its translations are invalidated, and the frames that nothing maps any more are freed
when that completes (R324, R326). -/
def State.unmapped (s : State) (ctx : Nat) (l : LeafAt) : State :=
  s.invalidate ctx l (if s.allGone l then some l.base else none) true (s.someGone l)

/-- The largest leaf that maps the frame of a leaf: the page that moves (R333, R337). -/
def State.largest (s : State) (l : LeafAt) : LeafAt :=
  s.allLeaves.foldl (fun b p => if p.2.level < b.level && meets p.2.base (2 ^ pageBits p.2.level) l.base (2 ^ pageBits l.level) then p.2 else b) l

/-- The leaves of a tenant: those of its contexts that carry its window (R316, R326; log 52). -/
def State.tenantLeaves (s : State) (ctx : Nat) : List (Nat × LeafAt) :=
  let win := (s.context ctx).win
  s.allLeaves.filter fun p => (s.context p.1).win == win && leafWin p.2.e == win

/-- Leaves of different frames: one for each frame, the largest. -/
def distinctLeaves (ls : List LeafAt) : List LeafAt :=
  let holds (x y : LeafAt) : Bool := decide (x.base ≤ y.base) && decide (y.base + 2 ^ pageBits y.level ≤ x.base + 2 ^ pageBits x.level)
  ls.foldl (fun acc l => if acc.any fun x => holds x l then acc else l :: acc.filter fun x => !holds l x) []

/-- The 128 KiB frames that a tenant holds in a tier (R329, R337). -/
def State.tierCount (s : State) (ctx tier : Nat) : Nat :=
  ((distinctLeaves (((s.tenantLeaves ctx).filter fun p => leafTier p.2.e == tier).map (·.2))).map LeafAt.frames).sum

/-- The tier of a place. -/
def tierAt (base : Nat) : Nat := if flashBase ≤ base then 3 else if inTier 0 base 1 then 0 else if inTier 1 base 1 then 1 else 2

/-- Moves in flight of a tenant's frames. -/
def State.tenantMoves (s : State) (ctx : Nat) : List Move :=
  s.paging.moves.filter fun m => !m.moved && (s.tenantLeaves ctx).any fun p => p.2.base == m.src

/-- The frames that a tenant's QUOTA for a tier counts: those of its leaves, those on their way there, and those of the pool in T0. -/
def State.quotaUsed (s : State) (ctx tier : Nat) : Nat :=
  let pool := if tier = 0 then (s.tenant ctx).poolFrames.length else 0
  let coming := (((s.tenantMoves ctx).filter fun m => m.tier == tier && tierAt m.src != tier).map fun m => 2 ^ (pageBits m.level - 17)).sum
  s.tierCount ctx tier + pool + coming

/-- Whether a tier's QUOTA has room for so many frames more; a tenant without limits set for the tier has none (R329, log 11). -/
def State.quotaRoom (s : State) (ctx tier n : Nat) : Bool :=
  let c := s.tenant ctx
  !kvHas c.quotas tier || decide (s.quotaUsed ctx tier + n ≤ (kvGet c.quotas tier {}).quota)

/-- A tenant's copy-on-write pool filled up to POOL, from free T0 frames and inside QUOTA (R327, R329, log 11). -/
def State.fillPool (s : State) (ctx : Nat) : State :=
  let c := s.tenant ctx
  (List.range ((kvGet c.quotas 0 {}).pool - c.poolFrames.length)).foldl (fun s _ =>
    match s.freeT0 131072 with
    | some g => if s.quotaRoom ctx 0 1 then s.setTenant ctx { s.tenant ctx with poolFrames := (s.tenant ctx).poolFrames ++ [g] } else s
    | none => s) s

/-! ### Bytes of frames -/

/-- A location renamed from one range to another. -/
def renameLoc (src dst n x : Nat) : Nat := if src ≤ x && x < src + n then dst + (x - src) else x

/-- Bytes carried from one place to another: plain and stored bytes, metadata and error status, and what the Ordering
Machine holds of the locations, nothing of what stood at the new place before (R310, R333). Lines of both places are dropped. -/
def State.carry (s : State) (src dst n : Nat) : State :=
  let r := renameLoc src dst n
  let words := (List.range (n / 8)).filter fun i => s.badWords.contains ((src + 8 * i) / 8)
  let metas := (List.range (n / 64)).map fun i => (dst + 64 * i, s.metaBits (src + 64 * i))
  let kept := s.badWords.filter fun x => !(decide (dst / 8 ≤ x) && decide (x < (dst + n) / 8))
  let here (x : Nat) : Bool := decide (dst ≤ x) && decide (x < dst + n)
  let flight := s.order.flight.map fun w => { w with
    cells := (w.cells.filter fun c => !here c.1).map fun c => (r c.1, c.2)
    olds := (w.olds.filter fun c => !here c.1).map fun c => (r c.1, c.2) }
  let last := (s.order.last.filter fun p => !here p.1).map fun p => (r p.1, p.2)
  let s := { s with
    mem := memPutAll s.mem (cellsAt dst (memBytes s.mem src n))
    dram := memPutAll s.dram (cellsAt dst (memBytes s.dram src n))
    badWords := union kept (words.map fun i => (dst + 8 * i) / 8)
    order := { s.order with flight := flight, last := last } }
  let s := metas.foldl (fun s p => s.setMeta p.1 p.2) s
  let off (a b : Nat) : Bool := !meets a b src n && !meets a b dst n
  { s with ports := s.ports.map fun p =>
      (p.1, { p.2 with lines := p.2.lines.filter fun l => off l.pa l.bytes, reads := p.2.reads.filter fun a => off a 1 }) }

/-- The plain bytes of a page come to lie elsewhere, with its cached lines and what is under way to them; its stored form stays where it
is (R360, R373). -/
def State.rehome (s : State) (src dst n : Nat) : State :=
  if src = dst then s
  else
    let r := renameLoc src dst n
    let at_ (a x : Nat) : Bool := decide (a ≤ x) && decide (x < a + n)
    let cells := ((s.mem.filter fun c => at_ dst c.1).map fun c => (c.1, (0 : Byte))) ++ (s.mem.filter fun c => at_ src c.1).map fun c => (r c.1, c.2)
    let entry (e : FifoEnt) : FifoEnt := if e.kind.writes then { e with cells := e.cells.map fun c => (r c.1, c.2) } else e
    { s with
      mem := memPutAll s.mem cells
      order := { s.order with
        flight := s.order.flight.map fun w => { w with
          cells := (w.cells.filter fun c => !at_ dst c.1).map fun c => (r c.1, c.2)
          olds := (w.olds.filter fun c => !at_ dst c.1).map fun c => (r c.1, c.2) }
        last := (s.order.last.filter fun p => !at_ dst p.1).map fun p => (r p.1, p.2) }
      ports := s.ports.map fun p => (p.1, { p.2 with
        lines := (p.2.lines.filter fun l => !meets l.pa l.bytes dst n).map fun l => if meets l.pa l.bytes src n then { l with pa := r l.pa, soft := l.soft.map r } else l })
      warps := s.warps.map fun w => { w with
        fifo := w.fifo.map entry, failed := w.failed.map entry
        loads := w.loads.map fun ld => { ld with lanes := ld.lanes.map fun x => if x.done then x else { x with loc := r x.loc } } } }

/-- Lines of a range of locations. -/
def State.linesIn (s : State) (base n : Nat) : List Line :=
  s.ports.flatMap fun p => p.2.lines.filter fun l => meets l.pa l.bytes base n

/-! ### Moves (R333 to R337) -/

def Move.size (m : Move) : Nat := 2 ^ pageBits m.level
def Move.chunks (m : Move) : Nat := m.size / 4096

/-- Leaves that map a frame. -/
def State.leavesOf (s : State) (base : Nat) : List (Nat × LeafAt) := s.allLeaves.filter fun p => p.2.base == base

/-- Leaves whose frames lie in a range. -/
def State.leavesIn (s : State) (base size : Nat) : List (Nat × LeafAt) :=
  s.allLeaves.filter fun p => decide (base ≤ p.2.base) && decide (p.2.base + 2 ^ pageBits p.2.level ≤ base + size)

/-- A move begins: MIG in every leaf of the frame. -/
def State.startMove (s : State) (src dst tier level : Nat) : State :=
  let s := (s.leavesIn src (2 ^ pageBits level)).foldl (fun s p => s.setLeaf p.2 26 1 1) s
  { s with paging := { s.paging with moves := s.paging.moves ++ [{ src := src, dst := dst, tier := tier, level := level }] } }

def State.setMove (s : State) (m : Move) : State :=
  { s with paging := { s.paging with moves := s.paging.moves.map fun x => if x.src == m.src then m else x } }

/-- A move whose every chunk lies in F again is no more, and MIG is cleared (R335). -/
def State.dropMove (s : State) (m : Move) : State :=
  let s := { s with paging := { s.paging with moves := s.paging.moves.filter fun x => x.src != m.src } }
  (s.leavesIn m.src m.size).foldl (fun s p => s.setLeaf p.2 26 1 0) s

/-- A move is undone (R335): held writes go on at F, and the committed chunks are to return, each as R333 gives. -/
def State.undoMove (s : State) (m : Move) : State :=
  if m.moved then s
  else if m.committed.isEmpty then s.dropMove m
  else s.setMove { m with undo := true, opened := m.committed }

/-- A move ends: every leaf names the new frame with its tier and MIG clear, its translations are invalidated, and the
counts go with it (R333, R337). -/
def State.endMove (s : State) (m : Move) : State :=
  let frame (l : LeafAt) : Nat := if m.tier = 3 then (m.dst - flashBase) / 2 ^ 27 else (m.dst + (l.base - m.src)) / 8192
  let n := m.size / 131072
  let ls := s.leavesIn m.src m.size
  let s := ls.foldl (fun s p =>
    ((((s.setLeaf p.2 28 36 (frame p.2)).setLeaf p.2 2 2 m.tier).setLeaf p.2 26 1 0)).invalidate p.1 p.2 (some p.2.base) true) s
  let s := (List.range n).foldl (fun s i => s.setFrt (m.dst + 131072 * i) (s.frtRaw (m.src + 131072 * i))) s
  -- the plain bytes of packed pages go with their frame
  let s := (List.range 8).foldl (fun s k => s.carry (locPacked k m.src) (locPacked k m.dst) m.size) s
  s.setMove { m with moved := true }

/-- The dirty lines of a range written back for a move: whether none failed or is held (R333, R335). -/
def State.cleanRange (s : State) (base n : Nat) : State × Bool :=
  (s.linesIn base n).foldl (fun (a : State × Bool) l =>
    if a.1.lineHeld l then (a.1, false)
    else if !l.dirty then a
    else
      let (t, fs) := a.1.writeBack l
      (fs.foldl State.raiseWb t, a.2 && fs.isEmpty)) (s, true)

/-- CHUNK_OPEN: the chunk's dirty lines are written back; a failure undoes the move, and the frame is not chosen again until its
record is resolved (R333, R335). A chunk of a move that is undone opens on its way back. -/
def execChunkOpen (frame chunk : Nat) (s : State) : Out :=
  match s.paging.moves.find? fun m => m.src == frame with
  | none => .next s
  | some m =>
    if m.undo then
      if !m.committed.contains chunk || m.back.contains chunk || !s.linkUp m.src || !s.linkUp m.dst then .next s
      else
        let (s, ok) := s.cleanRange (m.dst + 4096 * chunk) 4096
        .next (if ok then s.setMove { m with back := chunk :: m.back } else s)
    else if m.chunks ≤ chunk || m.opened.contains chunk then .next s
    else if !s.linkUp m.src || !s.linkUp m.dst then .next (s.undoMove m)
    else
      let (t, ok) := s.cleanRange (m.src + 4096 * chunk) 4096
      .next (if ok then t.setMove { m with opened := chunk :: m.opened }
        else
          let bar := (List.range (t.recCt - s.recCt)).map fun k => (m.src, s.recCt + k)
          { t with paging := { t.paging with barred := t.paging.barred ++ bar } }.undoMove m)

/-- CHUNK_COMMIT: the chunk's home moves; the last chunk ends the move, or its undoing (R333, R335). -/
def execChunkCommit (frame chunk : Nat) (s : State) : Out :=
  match s.paging.moves.find? fun m => m.src == frame with
  | none => .next s
  | some m =>
    if m.undo then
      if !m.back.contains chunk || !s.linkUp m.src || !s.linkUp m.dst then .next s
      else
        let s := s.carry (m.dst + 4096 * chunk) (m.src + 4096 * chunk) 4096
        let m := { m with committed := m.committed.filter (· != chunk), opened := m.opened.filter (· != chunk), back := m.back.filter (· != chunk) }
        .next (if m.committed.isEmpty then s.dropMove m else s.setMove m)
    else if !m.opened.contains chunk || m.committed.contains chunk then .next s
    else if !s.linkUp m.src || !s.linkUp m.dst then .next (s.undoMove m)
    else
      let s := s.carry (m.src + 4096 * chunk) (m.dst + 4096 * chunk) 4096
      let m := { m with committed := chunk :: m.committed }
      .next (if m.committed.length = m.chunks then (s.setMove m).endMove m else s.setMove m)

/-! ### Promotion and demotion (R329 to R332, R337) -/

/-- The highest AGE and the smallest count of a leaf's frame. -/
def State.leafScore (s : State) (l : LeafAt) : Int :=
  let age := ((s.leavesOf l.base).map fun p => leafAge p.2.e).foldl max 0
  let cnt := ((List.range l.frames).map fun i => s.frt (l.base + 131072 * i)).foldl min (s.frt l.base)
  (age : Int) - min ((cnt : Int) - 1) 7

/-- Whether a record of an undone move of a leaf's frame is not resolved (R335). -/
def State.barredAt (s : State) (l : LeafAt) : Bool :=
  s.paging.barred.any fun b => decide (l.base ≤ b.1) && decide (b.1 < l.base + 2 ^ pageBits l.level) && s.recs.any fun r => r.id == b.2 && !r.resolved

/-- Whether a frame may be chosen: no leaf over any of it PIN, no move in flight, no line held, no record of an undone move
(R331, R335). A frame that a larger leaf maps too goes with that leaf, and none of two leaf sizes goes to flash. -/
def State.candidate (s : State) (l : LeafAt) : Bool :=
  let n := 2 ^ pageBits l.level
  let met := s.allLeaves.filter fun p => meets p.2.base (2 ^ pageBits p.2.level) l.base n
  (met.all fun p => !leafPin p.2.e && !leafMig p.2.e && (if leafTier l.e = 2 then p.2.level == l.level else decide (l.level ≤ p.2.level))) &&
  !(s.paging.moves.any fun m => meets m.src m.size l.base n || meets m.dst m.size l.base n) &&
  !((s.linesIn l.base n).any fun x => x.held.isSome) && !s.barredAt l

/-- Whether so many frames can leave a tier, or are free under its QUOTA: candidates have room in the tier below, or others can
leave that tier first (R332, R337). -/
def State.canFree (s : State) (ctx : Nat) : Nat → Nat → Nat → Bool
  | 0, _, _ => false
  | k + 1, tier, n =>
    let out := distinctLeaves (((s.tenantLeaves ctx).map (·.2)).filter fun l =>
      leafTier l.e == tier && s.candidate l && (s.quotaRoom ctx (tier + 1) l.frames || s.canFree ctx k (tier + 1) l.frames))
    let left := if kvHas (s.tenant ctx).quotas tier then (kvGet (s.tenant ctx).quotas tier {}).quota - s.quotaUsed ctx tier else 0
    !out.isEmpty && decide (n ≤ left + (out.map LeafAt.frames).sum)

/-- The victim of a tier: the highest score, the lower address on a tie, among the candidates that the tier below has room for
or can free it (R331, R332, R337). -/
def State.victim (s : State) (ctx tier : Nat) : Option LeafAt :=
  (((s.tenantLeaves ctx).map (·.2)).filter fun l => leafTier l.e == tier && s.candidate l &&
      (s.quotaRoom ctx (tier + 1) l.frames || s.canFree ctx (2 - tier) (tier + 1) l.frames)).foldl (fun (b : Option LeafAt) l =>
    match b with
    | none => some l
    | some x => if s.leafScore x < s.leafScore l || (s.leafScore x == s.leafScore l && l.base < x.base) then some l else b) none

/-- Whether an unmap or a change of a leaf waits for a move of its frame (R336). -/
def State.leafWaits (s : State) (l : LeafAt) : Bool :=
  leafMig l.e || (s.paging.moves.any fun m => meets m.src m.size l.base (2 ^ pageBits l.level) || meets m.dst m.size l.base (2 ^ pageBits l.level))

/-- Whether T0 has room for a page of a tenant: under QUOTA, and a free place (R331). -/
def State.roomT0 (s : State) (ctx : Nat) (l : LeafAt) : Bool :=
  s.quotaRoom ctx 0 l.frames && (s.freeT0 (2 ^ pageBits l.level)).isSome

/-- Whether a batch of a tenant waits for room in T0 (R331, R341). -/
def State.batchWaits (s : State) (ctx : Nat) : Bool :=
  s.paging.batches.any fun b => (s.context b.ctx).win == (s.context ctx).win && b.pages.any fun p => match s.leafAt b.ctx p with
    | some l => leafTier l.e != 0 && !s.leafWaits l && !s.roomT0 b.ctx (s.largest l)
    | none => false

/-- Whether a tenant's frames are to leave a tier whatever LOW is: for a promotion into T0, or for a demotion into the tier that
finds it at QUOTA (R331, R332). -/
def State.demotes (s : State) (ctx : Nat) : Nat → Bool × Bool
  | 0 => let q := kvGet (s.tenant ctx).quotas 0 {}
    (s.batchWaits ctx, q.demoting || (kvHas (s.tenant ctx).quotas 0 && decide (q.high ≤ s.tierCount ctx 0)))
  | t + 1 => let q := kvGet (s.tenant ctx).quotas (t + 1) {}
    let d := s.demotes ctx t
    ((d.1 || d.2) && (s.tenantLeaves ctx).any (fun p => leafTier p.2.e == t && s.candidate p.2 && !s.quotaRoom ctx (t + 1) p.2.frames),
     q.demoting || (kvHas (s.tenant ctx).quotas (t + 1) && decide (q.high ≤ s.tierCount ctx (t + 1))))

/-- Whether the engine of a boundary, between a tier and the one below it, has 64 frames in flight (R331). -/
def State.engineFull (s : State) (tier : Nat) : Bool :=
  decide (64 ≤ (s.paging.moves.filter fun m => !m.moved && tierAt m.src != m.tier && max (tierAt m.src) m.tier == tier + 1).length)

/-- DEMOTION: from HIGH down to LOW, or for what waits to come in, the engine of a tier's lower boundary begins to move one
victim to a place that the memory service chose (R331, R332). -/
def execDemotion (ctx tier target : Nat) (s : State) : Out :=
  let c := s.tenant ctx
  let q := kvGet c.quotas tier {}
  let (forced, own) := s.demotes ctx tier
  let setQ (b : Bool) (s : State) : State :=
    if kvHas c.quotas tier then s.setTenant ctx { c with quotas := kvSet c.quotas tier { q with demoting := b } } else s
  if 3 ≤ tier || !(forced || own) then .next s
  else if !forced && s.tierCount ctx tier ≤ q.low then .next (setQ false s)
  else match s.victim ctx tier with
  | none => .next s
  | some l =>
    let size := 2 ^ pageBits l.level
    let place := if tier = 2 then decide (flashBase ≤ target) && (target - flashBase) % 2 ^ 27 == 0
      else target % size == 0 && inTier (tier + 1) target size
    if !place || !s.linkUp target || !s.linkUp l.base || !s.isFree target size || !s.quotaRoom ctx (tier + 1) l.frames || s.engineFull tier then .next s
    else .next ((setQ (own && decide (q.low < s.tierCount ctx tier)) s).startMove l.base target (tier + 1) l.level)

/-- AGING_SWEEP: the AGE of every leaf of the tenant's T0 pages rises by 1, to at most 7; from 0 its page is invalidated
(R330). -/
def execAgingSweep (ctx : Nat) (s : State) : Out :=
  .next (((s.tenantLeaves ctx).filter fun p => leafTier p.2.e == 0).foldl (fun s p =>
    let s := s.setLeaf p.2 8 3 (min 7 (leafAge p.2.e + 1))
    if leafAge p.2.e = 0 then s.invalidate p.1 p.2 none false else s) s)

/-! ### Maps, unmaps, invalidations, copy-on-write (R324, R326 to R328) -/

/-- The place of an entry at a level, with the tables on the way made where they are absent, outside a range. -/
def entrySlot (va level lo len : Nat) : Nat → Nat → Nat → State → Option (Nat × State)
  | 0, _, _, _ => none
  | n + 1, table, k, s =>
    let slot := table + 8 * bitsOf va (47 - 10 * k) 10
    let e := memNat s.mem slot 8
    if k = level then some (slot, s)
    else if leafV e then (if leafLeaf e || malformed k e then none else entrySlot va level lo len n (leafFrame e * 8192) (k + 1) s)
    else match s.findFree 131072 lo len (0xC000000000 / 131072) 0 with
    | none => none
    | some t =>
      let s := { s with mem := memPutAll s.mem (cellsAt t (List.replicate 8192 0)) }
      entrySlot va level lo len n t (k + 1) (s.setEntry slot (1 + t / 8192 * 2 ^ 28))

/-- Whether a line of a leaf's frame is held (R375). -/
def State.heldIn (s : State) (l : LeafAt) : Bool := (s.linesIn l.base (2 ^ pageBits l.level)).any (·.held.isSome)

/-- Whether a leaf may not map its frames: a page table or the pool holds one (R316, R327), a move has it (R336), an invalidation
still holds it though no leaf maps it (R324), another window maps it (R326), it has another binding there (R360; log 25), or the
tenant's QUOTA has no room (R329). -/
def State.mapRefused (s : State) (ctx slot : Nat) (l : LeafAt) : Bool :=
  let n := 2 ^ pageBits l.level
  let met := s.allLeaves.filter fun p => meets p.2.base (2 ^ pageBits p.2.level) l.base n && p.2.slot != slot
  let mine := met.any fun p => leafWin p.2.e == (s.context ctx).win && decide (p.2.base ≤ l.base) && decide (l.base + n ≤ p.2.base + 2 ^ pageBits p.2.level)
  (s.ctxs.any fun c => (s.tables c.1).any fun t => meets l.base n t 8192) ||
  (s.paging.tenants.any fun c => c.2.poolFrames.any fun f => meets l.base n f 131072) ||
  (s.paging.moves.any fun m => meets m.src m.size l.base n || meets m.dst m.size l.base n) ||
  ((List.range l.frames).any fun i => s.frt (l.base + 131072 * i) == 0 && s.invalHolds (l.base + 131072 * i) 131072) ||
  (met.any fun p => leafWin p.2.e != leafWin l.e || leafBind p.2.e != leafBind l.e) ||
  (leafWin l.e == (s.context ctx).win && !mine && !s.quotaRoom ctx (leafTier l.e) l.frames)

/-- Whether a leaf's frames are mapped by another leaf with another window (R326). -/
def State.sharedElse (s : State) (slot : Nat) (l : LeafAt) : Bool :=
  s.allLeaves.any fun p => p.2.slot != slot && meets p.2.base (2 ^ pageBits p.2.level) l.base (2 ^ pageBits l.level) && leafWin p.2.e != leafWin l.e

/-- The metadata bits of a leaf's frame cleared, for an unbound page over a frame that no leaf maps yet (R348). -/
def State.clearMeta (s : State) (l : LeafAt) : State :=
  if leafBind l.e != 0 then s
  else { s with metab := s.metab.filter fun p => !(decide (l.base / 64 ≤ p.1) && decide (p.1 < (l.base + 2 ^ pageBits l.level) / 64)) }

/-- PAGE_MAP: the memory service writes a leaf, where none stands or in the place of one, which is then invalidated
(R316, R324, R326); the dirty lines of a frame are written back before it is shared copy-on-write. A change of BIND over one
frame is not a map: REBIND makes it (R360, log 25). -/
def execPageMap (ctx va level leaf : Nat) (s : State) : Out :=
  let e := leaf % 2 ^ 64
  let base := leafLoc level e 0
  let bad := malformed level e
  if level = 0 || 3 < level || !leafV e || !leafLeaf e || 2 ^ 57 ≤ va then .next s
  else match entrySlot va level base (2 ^ pageBits level) 4 (s.context ctx).root 0 s with
  | none => .next s
  | some (slot, t) =>
    let l : LeafAt := ⟨pageOf level va, level, slot, e⟩
    let old := memNat t.mem slot 8
    let l0 : LeafAt := ⟨pageOf level va, level, slot, old⟩
    let stood := leafV old && !malformed level old
    let same := stood && l0.base == base
    let full := !bad && !same && (List.range l.frames).any fun i => decide (0xFFFE ≤ s.frt (base + 131072 * i))
    let other := !bad && (if same then leafBind old != leafBind e || s.sharedElse slot l else s.mapRefused ctx slot l)
    if full || other || (leafV old && (!leafLeaf old || s.leafWaits l0 || (!same && s.heldIn l0))) then .next s
    else
      let (t, ok) := if leafCow e && !bad then t.cleanRange base (2 ^ pageBits level) else (t, true)
      if !ok then .next s
      else
        let t := if stood then t.bumpFrt l0 (· - 1) else t
        let t := if !bad && s.frt base = 0 then t.clearMeta l else t
        let t := t.setEntry slot e
        let t := if bad then t else t.bumpFrt l (· + 1)
        .next (if !leafV old then t else if stood && !same then t.unmapped ctx l0 else t.invalidate ctx l0 none false)

/-- PAGE_UNMAP: it waits while the frame moves (R336); a frame whose last leaf goes is free when the invalidation has
completed (R324). -/
def execPageUnmap (ctx va : Nat) (s : State) : Out :=
  match s.walk ctx va with
  | .leaf level slot e =>
    let l : LeafAt := ⟨pageOf level va, level, slot, e⟩
    if s.leafWaits l || s.heldIn l then .next s
    else
      .next (((s.setEntry slot 0).bumpFrt l (· - 1)).unmapped ctx l)
  | _ => .next s

/-- Whether an access of a context inside a page has not been accepted by its home (R324). -/
def State.usesPage (s : State) (ctx page level : Nat) : Bool :=
  let hit (va : W64) : Bool := ptrSpace va == 0 && ptrOff va / 2 ^ pageBits level == page / 2 ^ pageBits level
  s.warps.any fun w => w.ctx == ctx &&
    ((w.loads.any fun ld => ld.lanes.any fun x => !x.done && hit x.va) ||
     ((w.fifo ++ w.failed).any fun e => (match e.kind with
       | .marker | .trig | .cwb _ => false
       | _ => true) && hit e.va))

/-- The entries of a TLB without those of a page of an address space. -/
def dropTlb (l : List TlbEnt) (asn : Nat) (i : Inval) : List TlbEnt :=
  l.filter fun t => !(t.asn == asn && meets (t.page * 2 ^ pageBits t.level) (2 ^ pageBits t.level) i.page (2 ^ pageBits i.level))

/-- A frame is free (R324, R333): its move is over, its lines are dropped, its counts are 0. -/
def State.freeFrame (s : State) (f n : Nat) : State :=
  let s : State := { s with
    paging := { s.paging with moves := s.paging.moves.filter fun m => !(m.moved && m.src == f) }
    ports := s.ports.map fun p => (p.1, { p.2 with lines := p.2.lines.filter fun l => !meets l.pa l.bytes f n }) }
  (List.range (n / 131072)).foldl (fun (s : State) k =>
    if s.frt (f + 131072 * k) = 0xFFFF then s else s.setFrt (f + 131072 * k) 0) s

/-- The invalidation that a frame waits for last takes over what another was to free. -/
def passFrees (f size : Nat) : List Inval → List Inval
  | [] => []
  | i :: r =>
    if (i.frees.any fun g => meets f size g i.size) || (i.frame.any fun g => meets f size g i.size) || (i.also.any fun g => meets f size g.1 g.2) then
      { i with also := i.also ++ [(f, size)] } :: r
    else i :: passFrees f size r

/-- A place freed now, or by the invalidation that still holds it (R324). -/
def State.freeOrPass (s : State) (p : Nat × Nat) : State :=
  if s.invalHolds p.1 p.2 then { s with paging := { s.paging with invals := passFrees p.1 p.2 s.paging.invals } }
  else s.freeFrame p.1 p.2

/-- TLB_INVALIDATION: an invalidation completes; the last that removes a frame frees it (R324), and it may go to the pool
(R327). -/
def execTlbInvalidation (index : Nat) (s : State) : Out :=
  match s.paging.invals[index]? with
  | none => .next s
  | some i =>
    if s.usesPage i.ctx i.page i.level then .next s
    else
      let rest := s.paging.invals.eraseIdx index
      let s : State := { s with
        cores := s.cores.map fun c => (c.1, { c.2 with tlb := dropTlb c.2.tlb (s.asnOf i.ctx) i })
        clusters := s.clusters.map fun c => (c.1, { c.2 with tlb := dropTlb c.2.tlb (s.asnOf i.ctx) i })
        paging := { s.paging with invals := rest } }
      let places := (i.frees.map fun f => (f, i.size)).toList ++ i.also
      .next ((places.foldl State.freeOrPass s).fillPool i.ctx)

/-! ### Copy-on-write (R327, R328) -/

/-- A break over: writes that waited for it walk again. -/
def State.endBreak (s : State) (ctx page : Nat) : State :=
  { s with paging := { s.paging with
      breaks := s.paging.breaks.filter fun b => !(b.ctx == ctx && b.page == page)
      cowWaits := s.paging.cowWaits.filter fun x => x != (ctx, page) } }

/-- A 128 KiB frame copied to another as stored, for a break: the old frame keeps what it had, and a write that has not reached every
view has its place at both (R327, R310). -/
def State.copyFrame (s : State) (f g : Nat) : State :=
  let here (x : Nat) : Bool := decide (g ≤ x) && decide (x < g + 131072)
  let there (x : Nat) : Bool := decide (f ≤ x) && decide (x < f + 131072)
  let flight := s.order.flight.map fun w =>
    let cells := w.cells.filter fun c => !here c.1
    let olds := w.olds.filter fun c => !here c.1
    { w with
      cells := cells ++ (cells.filter fun c => there c.1).map fun c => (g + (c.1 - f), c.2)
      olds := olds ++ (olds.filter fun c => there c.1).map fun c => (g + (c.1 - f), c.2) }
  let last := s.order.last.foldl (fun (l : List (Nat × Nat)) p =>
    if there p.1 then kvSet l (g + (p.1 - f)) p.2 else l) (s.order.last.filter fun p => !here p.1)
  let t := s.carry f g 131072
  { t with ports := s.ports, order := { t.order with flight := flight, last := last } }

/-- COW_BREAK: a step of the home port's break of a copy-on-write leaf at which a write waits. The first reads the count of the
frame; the second clears COW, or copies the frame to one of the pool, or gives up where no frame is to be had, so that the write
takes reason 4. The write is replayed once the invalidation has completed, so that no load tells the two frames apart. Breaks through two leaves of one frame may overlap (R327, R328); a break waits for a move of the frame (R336),
and one whose leaf has changed begins again. -/
def execCowBreak (ctx va : Nat) (s : State) : Out :=
  match s.walk ctx va with
  | .leaf level slot e =>
    let l : LeafAt := ⟨pageOf level va, level, slot, e⟩
    let page := l.va
    let c := s.tenant ctx
    if !leafCow e || !leafW e || leafTier e != 0 || s.leafWaits l then .next s
    else match s.paging.breaks.find? fun b => b.ctx == ctx && b.page == page with
    | none =>
      if !s.paging.cowWaits.contains (ctx, page) then .next s
      else .next { s with paging := { s.paging with breaks := s.paging.breaks ++ [{ ctx := ctx, page := page, e := putBits e 8 3 0, n := s.frt l.base }] } }
    | some b =>
      let t := s.endBreak ctx page
      if b.e != putBits e 8 3 0 then .next { s with paging := { s.paging with breaks := s.paging.breaks.filter fun x => x != b } }
      else if b.n = 1 then .next ((t.setLeaf l 7 1 0).invalidate ctx l none false [] true)
      else match c.autoCow, c.poolFrames with
      | true, g :: rest =>
        let f := l.base
        let t := (t.setTenant ctx { c with poolFrames := rest }).copyFrame f g
        let t := ((t.setFrt g 1).setLeaf l 28 36 (g / 8192)).setLeaf l 7 1 0
        let n := t.frt f - 1
        .next ((t.setFrt f n).invalidate ctx l (if n = 0 then some f else none) true [] true)
      | _, _ => .next t
  | _ => .next s

/-! ### Batches (R340, R341, R261) -/

/-- Whether a page of a batch can be made resident (R332, R341). -/
inductive PageAt where
  | unmapped
  | resident
  | coming
  | stuck
  deriving DecidableEq, Repr, Inhabited

/-- A page of a batch: not mapped, in T0, on its way or to come, or kept out: T0 has no room, and no frame can leave it or is
leaving it (R332). -/
def State.pageState (s : State) (ctx page : Nat) : PageAt :=
  match s.leafAt ctx page with
  | none => .unmapped
  | some l =>
    if leafTier l.e = 0 then .resident
    else if s.leafWaits l || s.roomT0 ctx (s.largest l) || s.canFree ctx 3 0 (s.largest l).frames || (s.tenantMoves ctx).any (fun m => tierAt m.src == 0 && m.tier != 0) then .coming
    else .stuck

/-- The detail of a page that cannot be made resident: 1 unmapped, 2 a quota limit (R341, R463). -/
def PageAt.detail : PageAt → Nat
  | .unmapped => 1
  | .stuck => 2
  | _ => 0

/-- The move of a page to T0 begins, with the largest page over its frame, where its link is up, T0 has room, and its engine too
(R331, R333, R485). -/
def State.promote (s : State) (ctx page : Nat) : State :=
  match (s.leafAt ctx page).map s.largest with
  | none => s
  | some l =>
    if leafTier l.e = 0 || s.leafWaits l || !s.quotaRoom ctx 0 l.frames || !s.linkUp l.base || s.engineFull (leafTier l.e - 1) then s
    else match s.freeT0 (2 ^ pageBits l.level) with
    | none => s
    | some g => s.startMove l.base g 0 l.level

/-- The pieces of a copy request that missing pages stopped go on, or fail with reason 0, each as its own page is (R261). -/
def State.batchCopy (s : State) (core id : Nat) : State :=
  match (s.core core).rec? id with
  | none => s
  | some r => match copyHome s core r with
    | none => s
    | some (k, b, a) => match s.warp? k.warp with
      | none => s
      | some w =>
        (List.range r.pieces.length).foldl (fun s i => match (s.core core).rec? id with
          | none => s
          | some r => match r.pieces[i]? with
            | none => s
            | some p =>
              let cs := (p.units.flatMap fun n => sideBytes s w core b a r p.data.isSome n).flatten
              let bad := (cs.find? fun c => c.why == some 0).map fun c => (c, (s.pageState w.ctx (ptrOff c.addr)).detail)
              if !p.missing then s
              else match bad with
              | some (c, d) => if d = 0 then s.setCopy core (r.setPiece i { p with missing := false })
                else failPiece s core k r i { p with data := none } (if p.data.isSome then 0x0D0 else 0x0C0) c.addr (d * 2 ^ 32)
              | none => s.setCopy core (r.setPiece i { p with missing := false })) s

/-- The record of a batch is resolved with RESUME, or forwarded with its detail to the region's fault domain (R341). A
task's undo makes it a fault of the undo (R418). -/
def State.batchRec (s : State) (id outcome : Nat) : State :=
  match s.rec? id with
  | none => s
  | some r =>
    if outcome = 0 then { (s.unstop id) with recs := s.recs.filter fun x => x.id != id }
    else
      let undo := match r.acts with
        | .replay w m => (s.warp? w).any fun x => inUndo x (lanesOf m)
        | _ => false
      let words := if undo then asUndo r.words
        else r.words.take 7 ++ [BitVec.ofNat 64 outcome]
      s.setRec { r with toService := false, written := false, words := words }

/-- Where the CP's copies stand among the copies of batches: above every core's key. -/
def cpCore (ctx : Nat) : Nat := 1000 + ctx

/-- BATCH_PROMOTION: the memory service starts the moves of a batch's pages to T0. Once all are there it resolves the record with
RESUME; a page that cannot be made resident, as the state then is, makes it forward the record (R341, R332). A copy engine's
pieces wait until each of its pages is resident or cannot be (R261). A `.warm` hint may be dropped where the tenant is at QUOTA
(R344). -/
def batchPromotion (cpBatch : State → Nat → Nat → State) (batch drop : Nat) (s : State) : State :=
  match s.paging.batches.find? fun b => b.id == batch with
  | none => s
  | some b =>
    let t := b.pages.foldl (fun s p => s.promote b.ctx p) s
    let ps := b.pages.map (t.pageState b.ctx)
    let bad := ps.find? fun p => p.detail != 0
    let past := { t with paging := { t.paging with batches := t.paging.batches.filter fun x => x.id != batch } }
    match b.recId, b.copy with
    | some r, _ => match bad with
      | some p => past.batchRec r p.detail
      | none => if ps.all (· == .resident) then past.batchRec r 0 else t
    | none, some (core, id) => if ps.any (· == .coming) then t else if 1000 ≤ core then cpBatch past core id else past.batchCopy core id
    | none, none => if drop != 0 && !s.quotaRoom b.ctx 0 1 then { s with paging := { s.paging with batches := past.paging.batches } } else if ps.any (· == .coming) then t else past

/-! ### `pgq` and `pgadv` (R343, R344) -/

/-- The word of `pgq`. -/
def pgqWord (s : State) (ctx : Nat) (p : W64) : Nat :=
  if ptrSpace p != 0 then 0
  else match s.leafAt ctx (ptrOff p) with
  | none => 0
  | some l =>
    let f (lo len at_ : Nat) : Nat := bitsOf l.e lo len * 2 ^ at_
    1 + 2 * bitOf (leafTier l.e == 0) + f 2 2 2 + f 4 1 4 + f 5 1 5 + f 6 1 6 + f 7 1 7 + f 8 3 8 + f 11 1 11 + f 12 8 12
      + (3 - l.level) * 2 ^ 20 + f 26 1 22 + s.frt (leafLoc l.level l.e (ptrOff p)) * 2 ^ 24

/-- `pgq` (R343). -/
def execPgq (f : Fields) (s : State) : Out :=
  issueSplit (.pgq f) s (isScal f.a) {} fun i s =>
    let at_ (l : Nat) : W64 := BitVec.ofNat 64 (readReg i.w f.a 0 true l) + f.imm.signExtend 64
    let lanes := if isScal f.d then [i.low] else i.lanes
    writeEff i s (lanes.flatMap fun l => destWrites f.d true l (pgqWord s i.w.ctx (at_ (if isScal f.a then i.low else l))))

/-- `pgadv` (R344). -/
def execPgadv (f : Fields) (s : State) : Out :=
  issueSplit (.pgadv f) s (allScalar f) {} fun i s =>
    let n := if f.b = 0xF0 then f.aux else min 256 (readReg i.w f.b 0 false i.low)
    let p : W64 := BitVec.ofNat 64 (readReg i.w f.a 0 true i.low) + f.imm.signExtend 64
    let named := (List.range n).filterMap fun j =>
      let va := ptrOff p / 131072 * 131072 + 131072 * j
      if ptrSpace p != 0 || 2 ^ 57 ≤ va then none
      else (s.leafAt i.w.ctx va).filter fun l => !leafMig l.e
    if f.ty = 0 then
      let pages := union [] ((named.filter fun l => leafTier l.e != 0).map (·.va))
      .done (if pages.isEmpty then s else s.addBatch i.w.ctx pages none none)
    else .done ((named.filter fun l => leafTier l.e == 0).foldl (fun s l => s.setLeaf l 8 3 (if f.ty = 1 then 7 else 0)) s)

end Sys2Proof.Machine
end

