-- ==== Sys2Proof/Machine/Snare.lean ====
section
/-!
DEFINITION. Snare mode: checkpoint, run-ahead and the batch (12 R338 to R341).
-/
namespace Sys2Proof.Machine
open Sys2Proof

/-- Whether a snare is an instruction fetch's (or the emulation table's), which does not run ahead. -/
def Snare.isFetch (n : Snare) : Bool := n.cause / 16 == 0xB

/-- SNARE_CHECKPOINT: with LD and the scoreboard at 0 and the queues drained, the state is saved and the threads of the
faulting bundle run ahead (R338), unless the batch is full already (R340). -/
def execSnareCheckpoint (w : Nat) (s : State) : Out :=
  match s.warp? w with
  | none => .next s
  | some x => match x.snare with
    | none => .next s
    | some n =>
      if n.running || n.isFetch || x.ld != 0 || !x.sb.isEmpty || !x.queue.isEmpty || !x.stopped.isEmpty then .next s
      else
        let n := { n with
          running := true, ended := decide (32 ≤ n.pages.length), saveThreads := x.threads, saveBundle := x.bundle, saveS := x.s
          saveCtr := [x.ld, x.st, x.cp, x.tm], saveEp := x.ep, saveSince := x.since }
        .next (s.setWarp { x with snare := some n })

/-- A thread that ran ahead as its checkpoint has it: what its own instructions change (R339, R340). What other agents have made
of it since, an abort or a TRIG step, stands. -/
def Thread.backTo (t o : Thread) : Thread :=
  if t.st != .ready || t.wait != .nothing then t
  else { t with
    pc := o.pc, ran := o.ran, v := o.v, p := o.p, fpctl := o.fpctl, fpflags := o.fpflags, rngs := o.rngs, inEmu := o.inEmu, unchecked := o.unchecked
    task := if t.task.seq == o.task.seq then { t.task with live := o.task.live, fresh := o.task.fresh } else t.task }

/-- The warp as its checkpoint has it; loads and queue entries of run-ahead are discarded (R339, R340). -/
def Warp.unsnare (w : Warp) (n : Snare) : Warp :=
  if !n.running then { w with snare := none }
  else
    -- what the stores in flight have made of ST, and the copies of CP and TM, since the checkpoint stands
    let back (l : Nat) (t : Thread) : Thread :=
      let o := n.saveThreads.getD l t
      let t := if n.saveBundle.contains l then t.backTo o else t
      { t with age := o.age }
    { w with
      snare := none, threads := (List.range w.threads.length).zipWith back w.threads, bundle := n.saveBundle.filter fun l => (w.thread l).mayIssue
      s := n.saveS, ld := n.saveCtr.headD 0, loads := [], queue := [], pfx := none, hold := .free, ep := n.saveEp, since := n.saveSince
      trapsOff := [] }

/-- The checkpoint restored, the batch handed over, and the record for the memory service's ring (R340, R341). -/
def handBatch (s : State) (x : Warp) (n : Snare) : State :=
  let y := x.unsnare n
  let pc := (y.thread (y.bundle.headD 0)).pc
  let batch := s.paging.batchCt
  let words := recWords s y n.cause false false (allowOf n.cause) batch pc y.ep y.since n.mask n.addr 0
  let id := s.recCt
  let s := (s.raise y.ctx y.region words (.replay y.key n.mask) true false).addBatch y.ctx n.pages (some id) none
  s.setWarp { y with stopped := y.stopped ++ [id] }

/-- SNARE_BATCH: run-ahead is over, or there is none (R340). -/
def execSnareBatch (w : Nat) (s : State) : Out :=
  match s.warp? w with
  | none => .next s
  | some x => match x.snare with
    | none => .next s
    | some n => .next (if !n.isFetch && !(n.running && n.ended) then s else handBatch s x n)

/-! ### Known and unknown values (R339) -/

/-- Numbers of registers: a vector register of a lane, a scalar register, a predicate of a lane. -/
def unkV (l r : Nat) : Nat := l * 128 + r
def unkS (r : Nat) : Nat := 2 ^ 16 + r
def unkP (l k : Nat) : Nat := 2 ^ 17 + l * 8 + k

/-- The registers of a field, so many from it on, in a lane. -/
def unkField (x : BitVec 8) (n l : Nat) : List Nat :=
  let k := x.toNat
  if isVec x then (List.range n).map fun j => unkV l (k + j)
  else if isScal x then (List.range n).map fun j => unkS (k - 0x80 + j)
  else if isPred x then (if k = 0xC7 then [] else [unkP l (k - 0xC0)])
  else []

/-- The number of a register that a write names. -/
def unkRef : RegRef → Nat
  | .v l r => unkV l r
  | .s r => unkS r
  | .p l k => unkP l k

/-- What an instruction reads in a lane, its guards apart; `pmov` reads all predicates. -/
def unkSources (i : Instr) (l : Nat) : List Nat :=
  match i with
  | .pmovGet _ => (List.range 7).map (unkP l)
  | .wrlane f => unkField f.a 2 l ++ unkField f.b 1 l ++ unkField f.d 2 l
  | _ => match usesOf i, fieldsOf i with
    | [_, a, b, c], some _ => unkField a.1 a.2 l ++ unkField b.1 b.2 l ++ unkField c.1 c.2 l
    | _, _ => []

/-- What it writes in a lane. -/
def unkDests (i : Instr) (l : Nat) : List Nat :=
  match i with
  | .pmovSet _ => (List.range 7).map (unkP l)
  | _ => match usesOf i with
    | d :: _ => unkField d.1 d.2 l
    | _ => []

/-- The predicate of its guard in a lane. -/
def unkGuard (i : Instr) (l : Nat) : List Nat :=
  match fieldsOf i with
  | some (_, f) => if f.g &&& 7 == 7 then [] else [unkP l (f.g &&& 7).toNat]
  | none => []

/-- An operation as run-ahead judges it in a lane: its guard's predicates, whether the guard is true as far as they are known, what
it reads and what it writes. -/
structure UnkOp where
  guard : List Nat
  takes : Bool
  reads : List Nat
  dests : List Nat
  deriving DecidableEq, Repr, Inhabited

/-- The operations of an instruction in a lane: two of a pair, each under its own predicate (R38). -/
def unkOps (w : Warp) (i : Instr) (l : Nat) : List UnkOp :=
  match i with
  | .shortPair p q => [p, q].map fun (x : ShortOp) =>
    { guard := if x.pred.toNat = 7 then [] else [unkP l x.pred.toNat], takes := (w.thread l).pred x.pred.toNat
      reads := [x.a, x.b, x.c].flatMap fun r => unkField (r.zeroExtend 8) 1 l, dests := unkField (x.d.zeroExtend 8) 1 l }
  | _ =>
    [{ guard := unkGuard i l, takes := (fieldsOf i).all fun p => guardTrue w p.2.g l, reads := unkSources i l, dests := unkDests i l }]

/-- How run-ahead takes an instruction. -/
inductive Ahead where
  | load | suppress | branch | compute | cross | wait | stop
  deriving DecidableEq, Repr, Inhabited

def aheadOf : Instr → Ahead
  | .ld _ | .lds _ => .load
  | .st _ | .sts _ | .pf _ | .cwb _ | .cwbSync _ | .wrsr _ => .suppress
  | .bra _ | .brx _ | .call _ | .callx _ | .ret _ | .brs _ => .branch
  | .wait _ => .wait
  | .nop _ | .yield _ | .rdsr _ | .imx _ | .pol _ | .shortPair _ _ | .mkptr _ | .ptrq _ => .compute
  | .shfl _ | .vote _ | .ballot _ | .wred _ | .scan _ | .matchl _ | .elect _ | .rdlane _ | .wrlane _ => .cross
  | i => match fieldsOf i with
    | some (op, _) => if 0x20 ≤ op && op ≤ 0x5B then .compute else .stop
    | none => .stop

/-- What a load of run-ahead makes of one lane: a page for the batch, an unknown value, a wait for data, or its bytes. -/
inductive AheadLane where
  | page (p : Nat)
  | unknown
  | waits
  | bytes (bs : List Byte)
  deriving DecidableEq, Repr, Inhabited

/-- The blocks that the lanes of a load of run-ahead need, filled where their codec gives them. -/
def aheadFill (s : State) (w : Warp) (cs : List LaneChk) : State :=
  cs.foldl (fun s c =>
    let k := s.blockOf w.ctx (ptrOff c.addr) (s.homeLoc c.loc)
    if c.why.isSome || ptrSpace c.addr != 0 || !s.needsFill k || k.busy s || !s.room k then s
    else match s.fillBlock k with
    | .ok bs => s.install k bs
    | .error _ => s) s

/-- A lane of a load of run-ahead (R339): it reads memory where its page is in T0, once no packet and no older atomic or fabric
write of the warp stands before its bytes; data that cannot be had is a reason of R192. -/
def aheadLane (s : State) (w : Warp) (c : LaneChk) (size : Nat) : AheadLane :=
  match c.why with
  | some 0 => if c.level.isSome then .unknown else .page (pageOfVa s w.ctx (ptrOff c.addr))
  | some _ => .unknown
  | none =>
    let locs := (List.range size).map fun j => s.homeLoc (c.loc + j)
    let k := s.blockOf w.ctx (ptrOff c.addr) (locs.headD 0)
    if ptrSpace c.addr = 8 && !s.reachable (locs.headD 0) then .unknown
    else if (ptrSpace c.addr == 8 && s.fabricPaused (locs.headD 0)) || locs.any (fun x => ownPending s w s.order.next c.lane x && (newestMatch s w s.order.next x).isNone) ||
        (ptrSpace c.addr == 0 && !s.cached k && (k.busy s || !s.room k)) then .waits
    else if (ptrSpace c.addr == 0 && (locs.any s.damaged || s.needsFill k)) || locs.any (fun x => s.softWords.contains (x / 4)) then .unknown
    else match locs.mapM (threadByte s w) with
    | some bs => .bytes bs
    | none => .waits

/-- The warp and its snare after one issue of run-ahead. -/
def Warp.aheadDone (w : Warp) (n : Snare) : Warp :=
  { w with snare := some { n with issues := n.issues + 1, ended := n.ended || decide (256 ≤ n.issues + 1) || decide (32 ≤ n.pages.length) } }

/-- Run-ahead ends here. -/
def Warp.aheadStop (w : Warp) (n : Snare) : Warp := { w with snare := some { n with ended := true } }

/-- The bundle goes on to the next instruction. -/
def Warp.aheadNext (w : Warp) : Warp :=
  { (w.countIssue w.bundle) with pfx := none }.advance (w.bundle.map fun l => (l, nextPc (w.thread l).pc))

/-- A load of run-ahead: it reads at once, or waits for its data; on a D-core its destination is unknown until a `wait` covers
it. It waits, as any instruction, for the queue entries that still have to write its registers (R133). -/
def aheadLoad (s : State) (w : Warp) (n : Snare) (i : Instr) (f : Fields) (spad : Bool) : State :=
  if stalled s w i then s else
  let size := sizeBytes f.ty
  let guardUnk (l : Nat) : Bool := (unkGuard i l).any n.unknown.contains
  let lanes := (w.bundle.filter fun l => guardTrue w f.g l || guardUnk l)
  let lanes := if allScalar f then lanes.take 1 else lanes
  let unk (l : Nat) : Bool := guardUnk l || (unkField f.a 2 l ++ unkField f.b 1 l).any n.unknown.contains
  let pol := match w.pfx with
    | some p => if p.isImx || spad then f.pol else p.pol.toNat
    | none => f.pol
  let chk (l : Nat) : LaneChk := checkLane s w 0 l (baseOf w f spad l) (dispOf w f l) pol size
  let s := aheadFill s w ((lanes.filter fun l => !unk l).map chk)
  let res := lanes.map fun l => (l, if unk l then .unknown else aheadLane s w (chk l) size)
  if res.any fun p => p.2 == .waits then s else
  let known := res.filterMap fun p => match p.2 with
    | .bytes bs => some (p.1, bs)
    | _ => none
  let pages := res.filterMap fun p => match p.2 with
    | .page q => some q
    | _ => none
  let dests (l : Nat) : List Nat := unkDests i l
  let lost := (lanes.filter fun l => !(known.any fun p => p.1 == l)).flatMap dests
  let got := known.flatMap fun p => dests p.1
  let unknown := union (n.unknown.filter fun u => !got.contains u) lost
  let unknown := if w.onL then unknown else union unknown got
  let loads := if w.onL then n.loads else n.loads ++ [got.filter fun u => !lost.contains u]
  let w' := (w.putAll (known.flatMap fun p => loadWrites f.d (f.ty == 5 || f.ty == 6) p.1 p.2)).aheadNext
  s.setWarp (w'.aheadDone { n with pages := (union n.pages pages).take (max 32 n.pages.length), unknown := unknown, loads := loads })

/-- What an executed instruction leaves unknown: in the lanes that its guard lets take it, or may let, its destinations where a
source or the guard is unknown, for a cross-lane instruction in any of them (R339). -/
def Snare.after (n : Snare) (w : Warp) (i : Instr) (cross : Bool) : Snare :=
  let isUnk (rs : List Nat) : Bool := rs.any n.unknown.contains
  let ops := (w.bundle.flatMap (unkOps w i)).filter fun o => o.takes || isUnk o.guard
  let src (o : UnkOp) : Bool := isUnk (o.guard ++ o.reads)
  let any := cross && ops.any src
  let lost := (ops.filter fun o => any || src o).flatMap (·.dests)
  let got := (ops.filter fun o => !(any || src o)).flatMap (·.dests)
  -- a scalar destination that one lane leaves unknown is unknown
  { n with
    unknown := union (n.unknown.filter fun u => !got.contains u) lost
    loads := n.loads.map fun ls => ls.filter fun u => !(got.contains u) && !(lost.contains u) }

/-- A `wait` has passed: every load but the youngest `k` has returned. -/
def Snare.covered (n : Snare) (k : Nat) : Snare :=
  if k = 15 then n
  else
    let m := n.loads.length - k
    let done := (n.loads.take m).flatten
    { n with unknown := n.unknown.filter fun u => !done.contains u, loads := n.loads.drop m }

/-- The line of a fetch of run-ahead: a wait for its packet, or the state with its block filled; none where its data cannot be
had, which stops run-ahead. -/
def aheadFetch (s : State) (w : Warp) : Option (Bool × State) :=
  match fetchLoc s w (w.thread (w.bundle.headD 0)).pc with
  | none => some (true, s)
  | some (a, l) =>
    let k := s.blockOf w.ctx a l
    if s.inFlight l || !s.room k then some (false, s)
    else if s.needsFill k then (match s.fillBlock k with
      | .ok bs => some (true, s.install k bs)
      | .error _ => none)
    else if (List.range 64).any fun j => s.damaged (l + j) then none
    else some (true, s)

/-- One issue of a warp in run-ahead (R339, R340): `run` executes an instruction as usual, but for its traps, which have no
effect. A fault of the instruction, or of its fetch, stops run-ahead before it; a code page that is not in T0, be it a branch's
target, joins the batch. -/
def runAhead (run : Instr → State → Out) (s : State) (w : Warp) (n : Snare) : State :=
  let stop (s : State) (n : Snare) : State := s.withWarp w.key fun w => w.aheadStop n
  let pc := (w.thread (w.bundle.headD 0)).pc
  if n.ended then s
  else match aheadFetch s w with
  | none => stop s n
  | some (false, s) => s
  | some (true, s) => match fetchLine s w pc w.bundle with
  | .trap t => match t.pages with
    | some ps => stop s { n with pages := union n.pages ps }
    | none => stop s n
  | .line s line => match slotAt line pc with
    | .trap _ | .illegal _ => stop s n
    | .instr i =>
      if (w.entryCause line pc).isSome || (w.unitCause (.instr i)).isSome then stop s n else
      let unkG := w.bundle.any fun l => (unkGuard i l).any n.unknown.contains
      let unkS := (w.bundle.flatMap (unkOps w i)).any fun o => o.takes && o.reads.any n.unknown.contains
      let exec (cross : Bool) (m : Snare) : State :=
        match run i { s.withWarp w.key (fun w => { w with trapsOff := List.range w.width }) with cur := w.key } with
        | .next t => match t.warp? w.key with
          | some x =>
            if x.snare != some n then stop s { n with pages := union n.pages ((x.snare.map (·.pages)).getD []) }
            else if !x.stopped.isEmpty || x.hold != .free then stop s n
            else if x.issues = w.issues then t
            else t.setWarp (x.aheadDone (m.after w i cross))
          | none => s
        | _ => stop s n
      match aheadOf i with
      | .load => match i with
        | .ld f => aheadLoad s w n i f false
        | .lds f => aheadLoad s w n i f true
        | _ => s
      | .suppress => s.setWarp (w.aheadNext.aheadDone n)
      | .branch => if unkG || unkS then stop s n else exec false n
      | .wait => if unkG then stop s n else exec false (match i with
        | .wait f => n.covered (bitsOf f.aux 0 4)
        | _ => n)
      | .compute => exec false n
      | .cross => exec true n
      | .stop => stop s n

end Sys2Proof.Machine
end

