-- ==== Sys2Proof/Machine/CpCopy.lean ====
section
/-!
DEFINITION. Commands of a context's queues in common, the command processor's copies (16 R428 to R433), and the steps of
the engines (11 R308, 12 R341).
-/
namespace Sys2Proof.Machine
open Sys2Proof

/-! ### Commands (R428 to R431) -/

def State.cqueue (s : State) (ctx q : Nat) : CQueue := kvGet (s.context ctx).queues q {}
def State.setCqueue (s : State) (ctx q : Nat) (x : CQueue) : State :=
  let c := s.context ctx
  s.setContext ctx { c with queues := kvSet c.queues q x }

def State.cmd? (s : State) (ctx q k : Nat) : Option Cmd := (s.cqueue ctx q).cmds.find? fun c => c.index == k
def State.setCmd (s : State) (ctx q : Nat) (c : Cmd) : State :=
  let x := s.cqueue ctx q
  s.setCqueue ctx q { x with cmds := x.cmds.map fun y => if y.index == c.index then c else y }

def Cmd.word (c : Cmd) (i : Nat) : Nat := (c.words.getD i 0).toNat

/-- QHEAD passes the commands in front that have completed (R430). -/
def CQueue.retire (x : CQueue) : CQueue :=
  let n := (x.cmds.takeWhile (·.done)).length
  { x with cmds := x.cmds.drop n, head := x.head + BitVec.ofNat 32 n }

/-- A command completes: a release at system scope of what it covers (R430, R431). -/
def State.finishCmd (s : State) (ctx q k : Nat) (covered : List Nat) : State :=
  match s.cmd? ctx q k with
  | none => s
  | some c =>
    let s := s.setCmd ctx q { c with done := true, covered := union c.covered covered }
    let x := s.cqueue ctx q
    s.setCqueue ctx q { x with covered := union x.covered (union c.covered covered) }.retire

/-- The RCB of a context's root region, 0 where it has none. -/
def State.rootOf (s : State) (ctx : Nat) : Nat := (s.context ctx).rootRegion.getD 0

/-- The tag of a writer that is no warp's, for a context (R353, R464). -/
def agentTag (s : State) (ctx : Nat) : WriterTag :=
  { warp := 0, region := s.rootOf ctx, ctx := ctx, block := 0, core := 0, onL := false, slot := 0, lane := 0
    engine := false, pc := 0, twin := 0, ep := 0, since := 0, nowarp := true }

/-- A record that names no warp (R462, R464). -/
def agentRec (s : State) (ctx region cause : Nat) (addr detail : W64) (acts : Resolves) : State :=
  let allow := if 0x163 ≤ cause && cause ≤ 0x168 || cause = 0x161 || cause = 0x120 then 0 else allowOf cause
  let words : List W64 := [BitVec.ofNat 64 (cause + (if 0x080 ≤ cause && cause ≤ 0x0FF then 2 ^ 9 else 0) + bitOf (allow != 0) * 2 ^ 10 + 2 ^ 13
      + allow * 2 ^ 14 + ctx * 2 ^ 17 + regionId region * 2 ^ 32), 0, 0, 0, 0, 0, addr, detail]
  s.raise ctx region words acts false false

/-! ### COPY (R433) -/

/-- One byte of a COPY's side: the address checks of an access without a warp (R316 to R320). -/
def cpChk (s : State) (ctx : Nat) (p : W64) (write : Bool) (n : Nat) : LaneChk :=
  let (r, q) := effective p n 0
  let c : LaneChk := { lane := 0, addr := q }
  match r with
  | some r => { c with why := some r }
  | none => if ptrSpace q != 0 then { c with why := some 5 }
    else globalChk s (cpCore ctx) ctx (if write then 5 else 4) (ptrOff q) c []

/-- Bytes from a place to the next 4 KiB boundary. -/
def toBoundary (p : W64) (n : Nat) : Nat := 4096 - (ptrOff p + n) % 4096

/-- The pieces of the next chunk (R258, R433). -/
def cpPieces (c : Cmd) (stop : Nat) : Nat → Nat → List Piece
  | 0, _ => []
  | fuel + 1, n =>
    if stop ≤ n then []
    else
      let k := min (stop - n) (min (toBoundary (c.words.getD 1 0) n) (toBoundary (c.words.getD 2 0) n))
      { first := n, count := k, bytes := k } :: cpPieces c stop fuel (n + k)

def Cmd.plan (c : Cmd) : Cmd :=
  let stop := min (c.word 3) (c.unit + 65536)
  { c with pieces := cpPieces c stop 64 c.unit, unit := stop }

/-- The number of a COPY among an engine's records: its queue and its place (R433). -/
def cpRecId (q k : Nat) : Nat := 16 * k + q

def Cmd.setPiece (c : Cmd) (i : Nat) (p : Piece) : Cmd := { c with pieces := listAt c.pieces i fun _ => p }

/-- The checks of a piece's bytes on one side. -/
def cpSide (s : State) (ctx : Nat) (c : Cmd) (p : Piece) (write : Bool) : List LaneChk :=
  (List.range p.count).map fun j => cpChk s ctx (c.words.getD (if write then 2 else 1) 0) write (p.first + j)

/-- A piece fails: one record of kind 4 or 5 for the first failure, in the root region's ring (R263, R433), or in the memory
service's where a malformed entry was met (R319). -/
def cpFail (s : State) (ctx q : Nat) (c : Cmd) (i : Nat) (p : Piece) (cause : Nat) (addr : W64) (more : Nat) : State :=
  let s := s.setCmd ctx q { c.setPiece i { p with failed := true, missing := false, data := none, put := [] } with stopped := true }
  if c.stopped then s
  else
    let t := agentRec s ctx (s.rootOf ctx) cause addr (BitVec.ofNat 64 more) (.copy (cpCore ctx) (cpRecId q c.index) false true)
    if more < 2 ^ 63 then t else { t with recs := t.recs.map fun (x : Rec) => if x.id == s.recCt then { x with toService := true } else x }

/-- A piece whose page is not in T0 waits for a batch (R261, R433). -/
def cpMiss (s : State) (ctx q : Nat) (c : Cmd) (i : Nat) (p : Piece) : State :=
  let s := s.setCmd ctx q (c.setPiece i { p with missing := true })
  let id := (cpCore ctx, cpRecId q c.index)
  let pages := union [] (c.pieces.flatMap fun x => if x.written then [] else
    (if x.data.isNone then missingPages s ctx (cpSide s ctx c x false) else []) ++ missingPages s ctx (cpSide s ctx c x true))
  if s.paging.batches.any fun b => b.copy == some id then s else s.addBatch ctx pages none (some id)

/-- ENGINE_READ of a COPY's piece (R433). -/
def cpRead (ctx id i : Nat) (s : State) : State :=
  match s.cmd? ctx (id % 16) (id / 16) with
  | none => s
  | some c => match c.pieces[i]? with
    | none => s
    | some p =>
      if c.opc != 5 || c.done || c.stopped || c.saved || p.data.isSome || p.missing || p.failed || p.written then s
      else
        let cs := cpSide s ctx c p false
        match readSide s ctx cs with
        | .waits => s.askSide ctx cs
        | .missing _ => cpMiss s ctx (id % 16) c i p
        | .fails x addr level => cpFail s ctx (id % 16) c i p (0x0C0 + x) addr (sideDetail x level)
        | .ok => (s.holdSide ctx cs).setCmd ctx (id % 16) (c.setPiece i { p with data := some (cs.map fun b => memGet s.mem (s.homeLoc b.loc)) })

/-- ENGINE_WRITE of a COPY's piece: the last of a chunk cuts the next, the last of all completes the command (R429). -/
def cpWrite (ctx id i : Nat) (s : State) : State :=
  match s.cmd? ctx (id % 16) (id / 16) with
  | none => s
  | some c => match c.pieces[i]? with
    | none => s
    | some p => match p.data with
      | none => s
      | some bs =>
        if c.opc != 5 || c.done || c.saved || p.missing || p.failed || p.written then s
        else
          let cs := cpSide s ctx c p true
          match writeSide s ctx cs with
          | .waits => s.noteCow ctx cs
          | .missing _ => cpMiss s ctx (id % 16) c i p
          | .fails x addr level => cpFail s ctx (id % 16) c i { p with data := none } (0x0D0 + x) addr (sideDetail x level)
          | .ok =>
            let now := putNow s ctx cs p.put
            let (ws, s) := putBytes s ctx cpView (agentTag s ctx) cs bs p.put
            let c := { c.setPiece i (p.with_ cs.length now ws) with covered := union c.covered ws }
            let full := c.pieces.all (·.written)
            if full && decide (c.word 3 ≤ c.unit) then (s.setCmd ctx (id % 16) c).finishCmd ctx (id % 16) c.index []
            else s.setCmd ctx (id % 16) (if full then c.plan else c)

/-- The missing pieces of a COPY after its batch, each as its own page is (R261). -/
def cpBatch (s : State) (core id : Nat) : State :=
  let ctx := core - 1000
  match s.cmd? ctx (id % 16) (id / 16) with
  | none => s
  | some c =>
    (List.range c.pieces.length).foldl (fun s i => match s.cmd? ctx (id % 16) (id / 16) with
      | none => s
      | some c => match c.pieces[i]? with
        | none => s
        | some p =>
          let bad := ((cpSide s ctx c p p.data.isSome).find? fun x => x.why == some 0).map fun x => (x, (s.pageState ctx (ptrOff x.addr)).detail)
          if !p.missing then s
          else match bad with
          | some (x, d) => if d = 0 then s.setCmd ctx (id % 16) (c.setPiece i { p with missing := false })
            else cpFail s ctx (id % 16) c i { p with data := none } (if p.data.isSome then 0x0D0 else 0x0C0) x.addr (d * 2 ^ 32)
          | none => s.setCmd ctx (id % 16) (c.setPiece i { p with missing := false })) s

/-- RESUME (0, 2) and KILL (1) of a COPY's record (R264, R433). -/
def State.resolveCp (s : State) (ctx id mode : Nat) : State :=
  match s.cmd? ctx (id % 16) (id / 16) with
  | none => s
  | some c =>
    if mode = 1 then s.finishCmd ctx (id % 16) (id / 16) []
    else s.setCmd ctx (id % 16) { c with stopped := false, pieces := c.pieces.map fun p => { p with failed := false } }

/-- A COPY as the end of its context's time slice stops and saves it: the pieces that have not counted are moved again (R262, R433). -/
def Cmd.halt (c : Cmd) : Cmd :=
  if c.opc != 5 || c.done then c
  else { c with saved := true, pieces := c.pieces.map fun (p : Piece) => if p.written then p else { p with data := none, put := [], missing := false } }

/-- The COPY commands of a context changed. -/
def State.mapCmds (s : State) (ctx : Nat) (g : Cmd → Cmd) : State :=
  let c := s.context ctx
  s.setContext ctx { c with queues := c.queues.map fun q => (q.1, { q.2 with cmds := q.2.cmds.map g }) }

/-! ### The engines' steps (R308) -/

/-- ENGINE_READ: engine 0 is the core's copy engine, 1 its matrix engine, 2 the copy engine of a command processor, whose
core is the context (R308). -/
def execEngineRead (core engine rec_ piece : Nat) (s : State) : Out :=
  .next (if engine = 0 then copyRead core rec_ piece s else if engine = 1 then matrixRead core rec_ s
    else if engine = 2 then cpRead core rec_ piece s else s)

/-- ENGINE_WRITE (R308). -/
def execEngineWrite (core engine rec_ piece : Nat) (s : State) : Out :=
  .next (if engine = 0 then copyWrite core rec_ piece s else if engine = 1 then matrixWrite core s
    else if engine = 2 then cpWrite core rec_ piece s else s)

/-- BATCH_PROMOTION (R341, R344). -/
def execBatchPromotion (batch drop : Nat) (s : State) : Out := .next (batchPromotion cpBatch batch drop s)

end Sys2Proof.Machine
end

