-- ==== Sys2Proof/Machine/Fills.lean ====
section
/-!
DEFINITION. Fills and write-backs as steps, soft errors, layer map-out, rebinding, packing, `cbind` and `cbuild`
(13 R346 to R380).
-/
namespace Sys2Proof.Machine
open Sys2Proof

/-! ### What waits for a fill (R370, R371, R374) -/

/-- An access that waits for a block: a load with its lanes, the instruction of the head entry of a warp's FIFO, a piece of a copy
engine or of a command processor, or a warp that fetches. -/
inductive Waiter where
  | load (w id : Nat)
  | entry (w : Nat)
  | piece (core id i : Nat)
  | cp (ctx id i : Nat)
  | fetch (w : Nat)
  deriving DecidableEq, Repr, Inhabited

/-- Whether a range of plain bytes meets a block. -/
def Blk.hit (k : Blk) (s : State) (loc n : Nat) : Bool :=
  (List.range n).any fun j => decide (k.base ≤ s.homeLoc (loc + j)) && decide (s.homeLoc (loc + j) < k.base + k.size)

def Blk.hits (k : Blk) (s : State) (cs : List LaneChk) : Bool := cs.any fun c => ptrSpace c.addr == 0 && k.hit s c.loc 1

/-- Whether a lane of a load waits for a block. -/
def Blk.waitedBy (k : Blk) (s : State) (ld : Load) (x : LoadLane) : Bool := !x.done && x.why.isNone && x.space == 0 && k.hit s x.loc ld.size

/-- Pending loads and head entries of a warp that wait for a block, with their numbers. -/
def warpWaiters (s : State) (k : Blk) (w : Warp) : List (Nat × Waiter) :=
  ((w.loads.filter fun ld => ld.lanes.any (k.waitedBy s ld)).map fun ld => (ld.id, .load w.key ld.id)) ++
  (match w.fifo with
   | e :: _ =>
     let reads := e.kind.isAtomic
     if e.space == 0 && (reads || e.kind == .store || e.kind == .post true || e.kind == .post false) && !w.blocked.contains e.op &&
         mayLeave s w e && (e.cells.any fun c => k.hit s c.1 1) && homeStatus s w e (if reads then [] else opLocs s w e.op) reads == .waits
     then [(e.wid, .entry w.key)] else []
   | [] => [])

/-- Pieces of a copy engine that wait for a block. -/
def pieceWaiters (s : State) (k : Blk) (core : Nat) : List Waiter :=
  (s.core core).recs.flatMap fun r => match copyHome s core r with
    | none => []
    | some (q, b, a) => match s.warp? q.warp with
      | none => []
      | some w => ((List.range r.pieces.length).filter fun i => match r.pieces[i]? with
        | none => false
        | some p =>
          let write := p.data.isSome
          let cs := (p.units.flatMap fun n => sideBytes s w core b a r write n).flatten
          r.st == .running && !r.stopped && !p.missing && !p.failed && !p.written && k.hits s cs &&
            (if write then writeSide s w.ctx cs else readSide s w.ctx cs) == .waits).map fun i => .piece core r.id i

/-- Pieces of a context's COPY commands that wait for a block. -/
def cpWaiters (s : State) (k : Blk) (ctx q : Nat) : List Waiter :=
  (s.cqueue ctx q).cmds.flatMap fun c => if c.opc != 5 || c.done || c.stopped || c.saved then [] else
    ((List.range c.pieces.length).filter fun i => match c.pieces[i]? with
      | none => false
      | some p =>
        let write := p.data.isSome
        let cs := cpSide s ctx c p write
        !p.missing && !p.failed && !p.written && k.hits s cs && (if write then writeSide s ctx cs else readSide s ctx cs) == .waits).map
      fun i => .cp ctx (cpRecId q c.index) i

/-- The PC of a warp's bundle. -/
def Warp.bundlePc (w : Warp) : W64 := (w.thread (w.bundle.headD 0)).pc

/-- Insertion by number. -/
def insertNum (x : Nat × Waiter) : List (Nat × Waiter) → List (Nat × Waiter)
  | [] => [x]
  | y :: r => if x.1 ≤ y.1 then x :: y :: r else y :: insertNum x r

/-- Every access that waits for a block, the oldest first: accesses of warps by their numbers, then pieces, then
fetches. -/
def waiters (s : State) (k : Blk) : List Waiter :=
  (((s.warps.flatMap (warpWaiters s k)).foldr insertNum []).map (·.2)) ++
  (s.cores.flatMap fun c => pieceWaiters s k c.1) ++
  (s.ctxs.flatMap fun c => c.2.queues.flatMap fun q => cpWaiters s k c.1 q.1) ++
  ((s.warps.filter fun w => eligible w && w.snare.isNone && (match fetchLoc s w w.bundlePc with
    | some (_, l) => k.hit s l 64
    | none => false)).map fun w => .fetch w.key)

/-- The batch field of the record raised last (R374). -/
def State.setBatch (s : State) (n : Nat) : State :=
  { s with recs := s.recs.map fun r => if r.id + 1 == s.recCt && (bitsOf (r.words.getD 0 0).toNat 13 1 == 0) then
      { r with words := listAt r.words 2 fun x => BitVec.ofNat 64 (putBits x.toNat 32 16 n) } else r }

/-- One access meets the failure of its fill, in all its lanes that need the block: precise, with its kind (R197, R198, R216, R263,
R371). -/
def failWaiter (k : Blk) (reason entry : Nat) (s : State) : Waiter → State
  | .load key id => match s.warp? key with
    | none => s
    | some w => match w.loads.find? fun l => l.id == id with
      | none => s
      | some ld => settleLoad (s.setWarp (w.setLoad { ld with
          entry := entry, lanes := ld.lanes.map fun x => if k.waitedBy s ld x then { x with why := some reason } else x })) key id
  | .entry key => match s.warp? key with
    | none => s
    | some w => match w.fifo with
      | [] => s
      | e :: _ =>
        if e.kind.isAtomic then failEntries s w e (fun x => x.cells.any fun c => k.hit s c.1 1) reason entry
        else failStore s w e reason entry
  | .piece core id i => match (s.core core).rec? id with
    | none => s
    | some r => match r.pieces[i]?, copyHome s core r with
      | some p, some (q, b, a) => match s.warp? q.warp with
        | none => s
        | some w =>
          let cs := (p.units.flatMap fun n => sideBytes s w core b a r p.data.isSome n).flatten
          let addr := ((cs.find? fun c => ptrSpace c.addr == 0 && k.hit s c.loc 1).map (·.addr)).getD 0
          let t := failPiece s core q r i { p with data := none } ((if p.data.isSome then 0x0D0 else 0x0C0) + reason) addr 0
          if t.recCt = s.recCt then t else t.setBatch entry
      | _, _ => s
  | .cp ctx id i => match s.cmd? ctx (id % 16) (id / 16) with
    | none => s
    | some c => match c.pieces[i]? with
      | none => s
      | some p =>
        let cs := cpSide s ctx c p p.data.isSome
        let addr := ((cs.find? fun x => k.hit s x.loc 1).map (·.addr)).getD 0
        cpFail s ctx (id % 16) c i { p with data := none } ((if p.data.isSome then 0x0D0 else 0x0C0) + reason) addr 0
  | .fetch key => match s.warp? key with
    | none => s
    | some w =>
      let i := issOf w 7 w.bundle
      (takeTrap s i { cause := 0x0B0 + reason, lanes := w.bundle, addr := i.pc }).setBatch entry

/-- The block of an address of a context, where its page is in T0. -/
def State.blockAt (s : State) (ctx va : Nat) : Option Blk :=
  (s.ctxLoc ctx va).map fun l => s.blockOf ctx va l

/-- Whether an access has been charged with a block's failing fill, and its record is not resolved: the others that wait on
the fill keep waiting (R198). -/
def State.charged (s : State) (k : Blk) : Bool :=
  (s.warps.any fun w =>
    (w.loads.any fun ld => ld.lanes.any fun x => x.why.isSome && x.space == 0 && k.hit s x.loc ld.size) ||
    (w.fifo.any fun e => w.blocked.contains e.op && e.space == 0 && e.cells.any fun c => k.hit s c.1 1) ||
    w.failed.any fun e => e.space == 0 && e.cells.any fun c => k.hit s c.1 1) ||
  (s.cores.any fun c => c.2.recs.any fun r => match copyHome s c.1 r with
    | none => false
    | some (q, b, a) => (s.warp? q.warp).any fun w => r.pieces.any fun p =>
        p.failed && k.hits s (p.units.flatMap fun n => sideBytes s w c.1 b a r false n ++ sideBytes s w c.1 b a r true n).flatten) ||
  (s.ctxs.any fun c => c.2.queues.any fun q => (s.cqueue c.1 q.1).cmds.any fun x => x.pieces.any fun p =>
    p.failed && k.hits s (cpSide s c.1 x p false ++ cpSide s c.1 x p true)) ||
  s.recs.any fun r =>
    let cause := bitsOf (r.words.getD 0 0).toNat 0 9
    !r.resolved && decide (0x0B9 ≤ cause) && decide (cause ≤ 0x0BE) && (s.blockAt r.ctx (ptrOff (r.words.getD 6 0))).any fun b => b.base == k.base

/-- The stored bytes of a block are to be read anew (R376). -/
def State.forget (s : State) (k : Blk) : State :=
  let p := s.port (homePort k.base)
  s.setPort (homePort k.base) { p with reads := p.reads.filter fun a => a != k.base }

/-- CODEC_FILL: the stored bytes of the block of an address are asked for (R345); once they have come the block is filled, or its fill
fails: a codec failure goes to the oldest access that waits, once, an uncorrectable burst to all of them (R198, R349, R370, R374). -/
def execCodecFill (ctx va : Nat) (s : State) : Out :=
  match s.blockAt ctx va with
  | none => .next s
  | some k =>
    if !s.needsFill k || k.busy s || !s.room k then .next s
    else if s.unread k then .next (s.requestBlk k)
    else match s.fillBlock k with
    | .ok bs => .next (s.install k bs)
    | .error (8, _, _) => .next ((waiters s k).foldl (failWaiter k 8 0) (s.forget k))
    | .error (r, index, imm) =>
      if s.charged k then .next s
      else
        let (n, s) := (s.forget k).logError k.base { decoder := true, index := index, imm := imm, reason := r, tag := none }
        .next (match waiters s k with
          | [] => s
          | x :: _ => failWaiter k r n s x)

/-- The blocks whose failing fills a record was charged with. -/
def State.failedBlocks (s : State) (r : Rec) : List Blk :=
  let cause := bitsOf (r.words.getD 0 0).toNat 0 9
  if cause % 16 < 9 || 14 < cause % 16 then []
  else match r.acts with
  | .load w id m => match (s.warp? w).bind fun x => (x.loads.find? fun l => l.id == id).map fun ld => (x, ld) with
    | some (x, ld) => ((ld.lanes.filter fun y => y.space == 0 && y.why.isSome && (lanesOf m).contains y.lane).map (laneBlk s x)).eraseDups
    | none => []
  | .store w op | .atomic w op => match s.warp? w with
    | some x => (((x.fifo ++ x.failed).filter fun e => e.op == op && e.space == 0).map fun e =>
        s.blockOf x.ctx (ptrOff e.va) (s.homeLoc ((e.cells.headD (0, 0)).1))).eraseDups
    | none => []
  | _ => if cause / 16 = 0xB || cause / 16 = 0xC || cause / 16 = 0xD then (s.blockAt r.ctx (ptrOff (r.words.getD 6 0))).toList else []

/-- After the KILL of a record the next access that waits on the abandoned fill takes the same fault (R198). -/
def State.chargeNext (s : State) (entry : Nat) (ks : List Blk) : State :=
  ks.foldl (fun s k => if !s.needsFill k || s.charged k then s else match s.fillBlock k with
    | .error (q, _, _) => if q = 8 then s else match waiters s k with
      | [] => s
      | x :: _ => failWaiter k q entry s x
    | .ok _ => s) s

/-- What the fetch of a warp's line meets at its port: nothing, a wait for a fill or for its packets, which it asks for, or a burst that
cannot be corrected (R345, R349, R370). -/
def fetchGate (s : State) (w : Warp) : Option State :=
  match fetchLoc s w w.bundlePc with
  | none => none
  | some (a, l) =>
    let k := s.blockOf w.ctx a l
    if s.blkWaits k || !s.room k then some (s.requestBlk k)
    else if (List.range 64).any fun j => s.damaged (l + j) then
      let i := issOf w 7 w.bundle
      some (takeTrap s i { cause := 0x0B8, lanes := w.bundle, addr := i.pc })
    else none

/-! ### Packets, evictions, soft errors (R346, R349, R352, R354, R372) -/

/-- Blocks that `pf` asked for and whose packets have come are in the cache, where there is room and no burst of them is damaged
(R201, R349). -/
def State.endPf (s : State) (port : Nat) : State :=
  (s.port port).pfs.foldl (fun s x =>
    let k := s.blockOf x.1 x.2.1 x.2.2
    if k.busy s then s
    else
      let p := s.port port
      let s := s.setPort port { p with pfs := p.pfs.filter fun y => y != x }
      if s.room k && !s.needsFill k && !s.unread k && !s.damaged k.base then s.hold k else s.forget k) s

/-- BURST_REPLY: the base die answers a packet; bit k of the status says that burst k of a read could not be corrected, bit
64 + k that it was corrected (R349, R489). Its tag is free, and requests held at the port are tried again (R345, R346). -/
def execBurstReply (port tag status : Nat) (s : State) : Out :=
  let p := s.port port
  match p.packets.find? fun x => x.tag == tag with
  | none => .next s
  | some x =>
    let failed (k : Nat) : Bool := x.kind == .read && status.testBit k
    let bad := ((List.range x.count).filter failed).flatMap fun k => (List.range 8).map fun j => 8 * (x.burst + k) + j
    let s := { s.setPort port { p with packets := p.packets.filter fun y => y.tag != tag }.sendHeld with badWords := union s.badWords bad }
    .next (((List.range x.count).foldl (fun s k =>
      let hbm_ := (x.burst + k) * 64 / 2 ^ 36
      if failed k then s.tally 3 hbm_ else if x.kind == .read && status.testBit (64 + k) then s.tally 2 hbm_ else s) s).endPf port)

/-- WRITE_BACK: the 128-byte line of an address, with the block that it lies in, is written back and evicted, in the order of the
classes (R182, R352, R372, R375). -/
def execWriteBack (ctx va : Nat) (s : State) : Out :=
  match (s.ctxLoc ctx va).bind s.lineAt with
  | none => .next s
  | some l =>
    .next (if !s.mayEvict l || s.lineHeld l then s else s.evict l)

/-- CACHE_SOFT_ERROR: eight bytes of a cached line are damaged: a clean 128-byte line is dropped, a dirty one held, and the ninth
held line of a set stored at once (R354, R375). -/
def execCacheSoftError (ctx va : Nat) (s : State) : Out :=
  match s.ctxLoc ctx va with
  | none => .next s
  | some loc => match s.lineAt loc with
    | none => .next s
    | some l =>
      let s := s.tally 5 0
      if !(s.besides l).any Line.dirty then .next ((s.besides l).foldl (fun s x => s.dropLine x.pa) s)
      else
        let l := { l with soft := union l.soft ((List.range 8).map fun j => loc / 8 * 8 + j) }
        if s.ninth l then
          .next ((s.storeDamaged l).raiseWb { line := l, reason := 8, raw := true, entry := 0 })
        else .next ((s.putLine { l with held := some (l.held.getD 8) }).raiseWb { line := l, reason := 8, raw := false, entry := 0 })

/-! ### Layer map-out (R322, R333, R337, R350, R351) -/

/-- LAYER_ALERT (R350, R351). -/
def execLayerAlert (stack layer : Nat) (s : State) : Out :=
  let k := s.stack stack
  .next { s.setStack stack { k with alert := true, alayer := layer } with dev := { s.dev with alerts := s.dev.alerts ++ [stack] } }

/-- A 128 GiB leaf rewritten as 1,024 leaves of 128 MiB over the same frames, with the same fields (R337). -/
def State.splitLeaf (s : State) (ctx : Nat) (l : LeafAt) : State :=
  match s.freeT0 131072 with
  | none => s
  | some t =>
    let s := { s with mem := memPutAll s.mem (cellsAt t (List.replicate 8192 0)) }
    let s := (List.range 1024).foldl (fun s k => s.setEntry (t + 8 * k) (putBits l.e 28 36 (leafFrame l.e + 16384 * k))) s
    (s.setEntry l.slot (1 + t / 8192 * 2 ^ 28)).invalidate ctx l none false

/-- A frame's move to another T0 place begins (R336); a 128 GiB page for which there is none is split (R337). -/
def State.moveFrame (s : State) (ctx : Nat) (l : LeafAt) : State :=
  if s.leafWaits l || s.heldIn l || s.barredAt l then s
  else match s.freeT0 (2 ^ pageBits l.level) with
  | some g => s.startMove l.base g 0 l.level
  | none => if l.level = 1 then s.splitLeaf ctx l else s

/-- A page table moved to another frame. -/
def State.moveTable (s : State) (ctx t : Nat) : State :=
  match s.freeT0 131072 with
  | none => s
  | some g =>
    let ts := s.tables ctx
    let s := s.carry t g 8192
    let c := s.context ctx
    let s := if c.root = t then s.setContext ctx { c with root := g } else s
    ts.foldl (fun s x =>
      let x := if x = t then g else x
      (tableEntries s.mem x).foldl (fun s p =>
        if leafV p.2 && !leafLeaf p.2 && leafFrame p.2 * 8192 == t then s.setEntry (x + 8 * p.1) (putBits p.2 28 36 (g / 8192)) else s) s) s

/-- Whether nothing uses a range of T0 any more: no leaf, table, pool frame or move, and no translation that is still to be
invalidated (R324, R351). -/
def State.rangeEmpty (s : State) (lo n : Nat) : Bool :=
  !(s.allLeaves.any fun p => meets p.2.base (2 ^ pageBits p.2.level) lo n) &&
  !(s.ctxs.any fun c => (s.tables c.1).any fun t => meets t 8192 lo n) &&
  !(s.paging.tenants.any fun c => c.2.poolFrames.any fun f => meets f 131072 lo n) &&
  !(s.paging.moves.any fun m => meets m.src m.size lo n || meets m.dst m.size lo n) && !s.invalHolds lo n

/-- The moves of every frame and table of a range to other places begin; frames of a pool leave it (R322, R337). -/
def State.evacuate (s : State) (lo n : Nat) : State :=
  let ls := s.allLeaves.filter fun p => leafTier p.2.e == 0 && meets p.2.base (2 ^ pageBits p.2.level) lo n
  let top := distinctLeaves (ls.map (·.2))
  let s := (ls.filter fun p => top.contains p.2).foldl (fun s p => s.moveFrame p.1 p.2) s
  let ts := s.ctxs.flatMap fun c => ((s.tables c.1).filter fun t => meets t 8192 lo n).map fun t => (c.1, t)
  let s := ts.foldl (fun s p => s.moveTable p.1 p.2) s
  { s with paging := { s.paging with
      tenants := s.paging.tenants.map fun c => (c.1, { c.2 with poolFrames := c.2.poolFrames.filter fun f => !meets f 131072 lo n }) } }

/-- The removed range of a stack with so many layers: its first address (R322). -/
def topRange (stack nlayer : Nat) : Nat := stack * 2 ^ 36 + (nlayer - 1) * 2 ^ 32

/-- MAPOUT: the memory service moves what lies in the top 4 GiB still in service, and once nothing does it writes MAPOUT, which
retires the frames; ignored while ALERT is 0 or NLAYER is 12 (R350, R351). -/
def execMapout (stack : Nat) (s : State) : Out :=
  let k := s.stack stack
  if !k.alert || k.nlayer ≤ 12 || k.mapout then .next s
  else if s.rangeEmpty (topRange stack k.nlayer) (2 ^ 32) then .next (s.setStack stack { k with mapout := true })
  else .next (s.evacuate (topRange stack k.nlayer) (2 ^ 32))

/-- MAPOUT_COMPLETE: the range is gone, and the hot-remove event names the stack, the layer and the range (R351). -/
def execMapoutComplete (stack : Nat) (s : State) : Out :=
  let k := s.stack stack
  if !k.mapout then .next s
  else
    let s := s.setStack stack { k with
      mapout := false, nlayer := k.nlayer - 1, cap := k.cap - 4
      live := k.live &&& ~~~BitVec.ofNat 16 (2 ^ k.alayer) }
    .next ({ s with dev := { s.dev with hotRemoved := s.dev.hotRemoved ++ [(stack, k.alayer, topRange stack k.nlayer, 2 ^ 32)] } }.tally 4 stack)

/-! ### Rebinding and packing (R359, R360) -/

/-- The blocks of a range of a page. -/
def blocksOf (ctx va base bind size n : Nat) : List Blk :=
  (List.range (n / size)).map fun i => { base := base + size * i, size := size, ctx := ctx, va := va + size * i, bind := bind }

/-- The plain bytes of blocks brought in, or the failure. -/
def State.fillAll (s : State) : List Blk → Except (Blk × Nat × Nat × Option Nat) State
  | [] => .ok s
  | k :: r =>
    if !s.needsFill k then s.fillAll r
    else match s.fillBlock k with
    | .ok bs => ({ s with mem := memPutAll s.mem (cellsAt k.base bs) } : State).fillAll r
    | .error (x, i, m) => .error (k, x, i, m)

/-- Blocks written under a binding: the first failure ends it. -/
def State.storeAll (s : State) : List Line → Except (WbFail × State) State
  | [] => .ok s
  | l :: r => match (s.putLine l).writeBack l with
    | (s, []) => (s.dropLine l.pa).storeAll r
    | (s, f :: _) => .error (f, s)

/-- A failure of the memory service's own coding of a block, against the writer of the cached block, where one is known: logged, and the
block is held dirty under its page's own binding until its record is resolved (R374 to R376). -/
def State.codingFails (s : State) (l : Line) (e : ErrEnt) : State :=
  let cached := (s.port (homePort l.pa)).lines.filter fun x => decide (x.pa < l.pa + l.bytes) && decide (l.pa < x.pa + x.bytes)
  match cached.findSome? (·.tag) with
  | none => (s.logError l.pa { e with tag := none }).2
  | some t =>
    let l := { l with units := unitsOf l.bytes, tag := some t }
    let (u, fs) := (s.allocate l).failWb l e.decoder e.reason e.index e.imm
    fs.foldl State.raiseWb u

/-- REBIND: a page's BIND changes: its blocks are decoded under the old binding and written back under the new one, or
nothing changes (R335, R360). A packed binding is given to pages by PACK (R359); a packed page leaves its frame's form where it is the
only page of the frame (log 25). -/
def execRebind (ctx va bind : Nat) (s : State) : Out :=
  match s.leafAt ctx va with
  | none => .next s
  | some l =>
    let n := 2 ^ pageBits l.level
    let base := l.base
    let old := leafBind l.e
    let packed (b : Nat) : Bool := (s.binding? ctx b).any (·.packed)
    let sizeOf (b : Nat) : Nat := match s.binding? ctx b with
      | some x => 16 * 2 ^ x.bsize
      | none => 128
    let from_ := s.pageLoc ctx l.level l.e l.va
    if leafMig l.e || 255 < bind || (packed old && (s.frtRaw base != 1 || leafTier l.e == 3)) || packed bind || !s.linkUp base ||
        (s.paging.moves.any fun m => meets m.src m.size base n || meets m.dst m.size base n) || (s.linesIn from_ n).any (·.held.isSome) then .next s
    else
      let lines := s.linesIn from_ n
      let tagAt (k : Blk) : Option WriterTag := (lines.find? fun x => decide (x.pa ≤ k.base) && decide (k.base < x.pa + x.bytes)).bind (·.tag)
      match s.fillAll (blocksOf ctx l.va from_ old (sizeOf old) n) with
      | .error (k, x, i, m) => .next (s.logError k.base { decoder := true, index := i, imm := m, reason := x, tag := tagAt k }).2
      | .ok t =>
        let t := (lines.foldl (fun t x => t.dropLine x.pa) t).rehome from_ base n
        -- no bit of the old layout stays (R357)
        let t := { t with metab := t.metab.filter fun p => !(decide (base / 64 ≤ p.1) && decide (p.1 < (base + n) / 64)) }
        let new := (blocksOf ctx l.va base bind (sizeOf bind) n).map fun k =>
          ({ pa := k.base, bytes := k.size, ctx := ctx, va := k.va, bind := bind, units := unitsOf k.size, tag := tagAt k } : Line)
        match t.storeAll new with
        | .ok t => .next ((t.leavesOf base).foldl (fun t p => (t.setLeaf p.2 12 8 bind).invalidate p.1 p.2 none false) t)
        | .error (f, u) =>
          let x := f.line
          let e := ((u.port (homePort x.pa)).errlog.getLast?).getD { decoder := false, index := 0, imm := none, reason := f.reason, tag := x.tag }
          .next (({ s with mem := memPutAll s.mem (cellsAt x.pa (memBytes t.mem x.pa x.bytes)) } : State).codingFails { x with bind := old } e)

/-- A block's stored form in a packed page: whether RAW, its bytes, and whether it expanded; or how its coding fails. A form of no byte
would read as ZERO, so that such a block is stored RAW (R359, R372). -/
def packBlock (b : Binding) (plain : List Byte) : Except (Bool × Nat × Nat × Option Nat) (Bool × List Byte × Bool) :=
  match b.store plain with
  | .zero => .ok (false, [], false)
  | .raw expanded => .ok (true, plain, expanded)
  | .encoded x => .ok (if !x.isEmpty && decide (x.length < plain.length) then (false, x, false) else (true, plain, false))
  | .fails dec r k m => .error (dec, r, k, m)

/-- The stored form of one page of a group at an offset of the frame: index entries, bytes, and the offsets of the blocks that
expanded; or the block that fails and how. -/
def packPage (s : State) (b : Binding) (base at_ : Nat) :
    Except (Nat × Bool × Nat × Nat × Option Nat) (List Nat × List Byte × List Nat) :=
  let size := 16 * 2 ^ b.bsize
  (List.range (131072 / size)).foldl (fun (acc : Except (Nat × Bool × Nat × Nat × Option Nat) (List Nat × List Byte × List Nat)) i => match acc with
    | .error e => .error e
    | .ok (es, bs, xs) => match packBlock b (memBytes s.mem (base + size * i) size) with
      | .error e => .error (base + size * i, e)
      | .ok (raw, x, big) => .ok (es ++ [at_ + bs.length + bitOf raw * 2 ^ 31], bs ++ x, if big then xs ++ [at_ + bs.length] else xs)) (.ok ([], [], []))

/-- A failure of PACK's coding of a block (R374). -/
def State.packFails (s : State) (ctx pa va : Nat) (e : ErrEnt) : State :=
  match s.lineAt pa with
  | some l => s.codingFails l e
  | none => s.codingFails { pa := pa, bytes := 16, ctx := ctx, va := va, bind := 0 } e

/-- PACK_COMMAND: the pages of a group are encoded and verified into one free frame, which every leaf of the group then
names with the packed binding; expanded blocks count at their port (R372). A group that does not fit, or of which a block fails,
is refused; the failure is logged and recorded (R359, R374). -/
def execPackCommand (ctx va bind frame : Nat) (s : State) : Out :=
  match s.binding? ctx bind with
  | none => .next s
  | some b =>
    let span := 131072 * 2 ^ b.group
    let first := va / span * span
    let ls := (List.range (2 ^ b.group)).filterMap fun k => (s.leafAt ctx (first + 131072 * k)).map fun l => (k, l)
    let n := 131072 / (16 * 2 ^ b.bsize)
    let usable (l : LeafAt) : Bool := l.level == 3 && leafTier l.e == 0 && !leafMig l.e && (s.packedSlot ctx l.e l.va).isNone &&
      !((s.linesIn l.base 131072).any (·.held.isSome)) && !(s.paging.moves.any fun m => m.src == l.base || m.dst == l.base)
    if !b.packed || ls.isEmpty || !ls.all (fun p => usable p.2) || frame % 131072 != 0 || !inTier 0 frame 131072 || !s.isFree frame 131072 then .next s
    else
      let fill := ls.foldl (fun (a : Except (Blk × Nat × Nat × Option Nat) State) p => match a with
        | .error e => .error e
        | .ok t =>
          let size := match s.binding? ctx (leafBind p.2.e) with
            | some x => 16 * 2 ^ x.bsize
            | none => 128
          t.fillAll (blocksOf ctx p.2.va p.2.base (leafBind p.2.e) size 131072)) (.ok s)
      match fill with
      | .error (k, r, i, m) => .next (s.logError k.base { decoder := true, index := i, imm := m, reason := r, tag := none }).2
      | .ok t =>
        let data0 := 32 + 4 * (n + 1) * ls.length
        -- each page: its slot, its index table, its bytes, behind those before it
        let built := ls.foldl (fun (acc : Except (LeafAt × Nat × Bool × Nat × Nat × Option Nat) (List (Nat × List Nat) × List Byte × List Nat)) p => match acc with
          | .error e => .error e
          | .ok (ts, bs, xs) => match packPage t b p.2.base (data0 + bs.length) with
            | .error e => .error (p.2, e)
            | .ok q => .ok (ts ++ [(p.1, q.1 ++ [data0 + bs.length + q.2.1.length])], bs ++ q.2.1, xs ++ q.2.2)) (.ok ([], [], []))
        match built with
        | .error (l, pa, dec, r, i, m) => .next (s.packFails ctx pa (l.va + (pa - l.base)) { decoder := dec, index := i, imm := m, reason := r, tag := none })
        | .ok (ts, bs, xs) =>
          if 131072 < data0 + bs.length then .next s
          else
            let head := (List.range 8).flatMap fun k => bytesOf 4 (match (List.range ts.length).find? fun j => (ts.getD j (0, [])).1 == k with
              | some j => 32 + 4 * (n + 1) * j
              | none => 0)
            let image := head ++ (ts.flatMap fun x => x.2.flatMap (bytesOf 4)) ++ bs
            let u := { t.send .write frame image.length with dram := memPutAll t.dram (cellsAt frame image) }
            let u := (List.range 2048).foldl (fun u i => u.setMeta (frame + 64 * i) 0) u
            let u := xs.foldl (fun (u : State) o => u.countRaw (frame + o)) u
            .next (ls.foldl (fun u p =>
              let u := { u with mem := memPutAll u.mem (cellsAt (locPacked p.1 frame) (memBytes t.mem p.2.base 131072)) }
              let u := (u.linesIn p.2.base 131072).foldl (fun u x => u.dropLine x.pa) u
              let u := u.bumpFrt p.2 (· - 1)
              let u := ((u.setLeaf p.2 28 36 (frame / 8192)).setLeaf p.2 12 8 bind).setFrt frame (u.frtRaw frame + 1)
              u.invalidate ctx p.2 (if u.frtRaw p.2.base = 0 then some p.2.base else none) true) u)

/-! ### `cbind` and `cbuild` (R377 to R379) -/

/-- Bytes of a region read as loads: where they lie, a stop, or the state with their blocks filled. -/
inductive RegionRead where
  | stop (e : Eff)
  | bytes (s : State) (cs : List LaneChk)

/-- Whether the loads by which an instruction reads a region itself may be satisfied: the older acquires of its threads have been, and
their older loads of the same bytes; no write of the warp that covers a byte is still on its way (R299); and a pause or a promotion
holds no request of it (R481, R482). -/
def regionReady (i : Iss) (s : State) (cs : List LaneChk) : Bool :=
  let ld : Load := { id := s.order.next, dst := 0, size := 1, acq := false, scope := 0, pc := 0, lanes := [] }
  cs.all fun c => (i.lanes.all fun l =>
    i.w.loadReady ld { lane := l, loc := c.loc, va := c.addr, space := ptrSpace c.addr, got := [] } &&
      !ownPending s i.w s.order.next l (s.homeLoc c.loc)) && !(ptrSpace c.addr == 8 && s.fabricPaused c.loc)

/-- The checks and fills of a region that an instruction reads itself (R192, R338, R349, R370). -/
def readRegion (i : Iss) (s : State) (base : W64) (off : Int) (n : Nat) : RegionRead :=
  let cs := (List.range n).map fun (j : Nat) => checkLane s i.w 0 i.low base (off + (j : Int)) 0 1
  let cs := cs.map fun c => { c with lane := i.low }
  match worstChk cs with
  | some (r, _, addr, level) =>
    .stop (.trap { cause := 0x080 + r, lanes := i.lanes, addr := addr, level := level
                   pages := if r = 0 && level.isNone then some (missingPages s i.w.ctx cs) else none })
  | none =>
    if !regionReady i s cs then .stop (.hold (i.back s)) else
    match cs.find? fun c => ptrSpace c.addr == 8 && s.unreachable c.loc with
    | some c => .stop (.trap { cause := 0x08F, lanes := i.lanes, addr := c.addr })
    | none =>
    let blks := union [] (((cs.filter fun c => ptrSpace c.addr == 0).map fun c => ptrOff c.addr / 16 * 16))
    let filled := blks.foldl (fun (a : Except (Nat × Blk × Nat × Nat × Option Nat) State) va => match a with
      | .error e => .error e
      | .ok s => match s.blockAt i.w.ctx va with
        | none => .ok s
        | some k =>
          if !s.needsFill k then .ok s
          else match s.fillBlock k with
          | .ok bs => .ok (s.install k bs)
          | .error (r, n, m) => .error (va, k, r, n, m)) (.ok s)
    if cs.any fun c => ptrSpace c.addr == 0 && (!s.room (c.blk s i.w.ctx) || (!s.cached (c.blk s i.w.ctx) && (c.blk s i.w.ctx).busy s)) then .stop (.hold (i.back s))
    else match filled with
    | .error (va, k, r, n, m) => .stop (.trap {
        cause := 0x080 + r, lanes := i.lanes, addr := BitVec.ofNat 64 va
        log := if r = 8 then none else some (homePort k.base, { decoder := true, index := n, imm := m, reason := r, tag := none }) })
    | .ok t => match cs.find? fun c => ptrSpace c.addr == 0 && t.damaged (t.homeLoc c.loc) with
      | some c => .stop (.trap { cause := 0x088, lanes := i.lanes, addr := c.addr })
      | none => .bytes ((fillLanes t i.w cs).holdSide i.w.ctx cs) cs

/-- The bytes of a region as the core sees them, and the writes they come from. -/
def regionBytes (s : State) (core : Nat) (cs : List LaneChk) : List Byte × List Nat :=
  let locs := cs.map fun c => s.homeLoc c.loc
  (locs.map (viewByte s.order s.mem core), union [] (locs.map (viewWriter s.order core)))

def wordsOf (bs : List Byte) (n : Nat) : List W32 := (List.range n).map fun k => BitVec.ofNat 32 (natOfBytes ((bs.drop (4 * k)).take 4))

/-- The binding of a record (R356). -/
def bindingOf (bs : List Byte) : Binding :=
  let w0 := natOfBytes (bs.take 4)
  let tbl := bitsOf w0 5 1 == 1
  { bsize := bitsOf w0 0 3, packed := bitsOf w0 3 1 == 1, xfault := bitsOf w0 4 1 == 1, group := bitsOf w0 22 2
    ebound := natOfBytes ((bs.drop 4).take 2), dbound := natOfBytes ((bs.drop 6).take 2)
    enc := wordsOf (bs.drop 64) (bitsOf w0 8 6 + 1), dec := wordsOf (bs.drop 320) (bitsOf w0 16 6 + 1)
    table := if tbl then (bs.drop 576).take 4096 else List.replicate 4096 0, built := tbl }

/-- The first word of a program field that fails R364 or is not zero behind the program. -/
def progFieldBad (words : List W32) (n : Nat) : Option Nat :=
  match progBad (words.take n) with
  | some k => some k
  | none => (List.range 64).find? fun k => decide (n ≤ k) && words.getD k 0 != 0

/-- The byte offset of the first word of a binding record that fails a check (R356, R364, R366, R378). -/
def bindBad (bs : List Byte) : Option Nat :=
  let w0 := natOfBytes (bs.take 4)
  let b := bindingOf bs
  let most := min 1024 (16 * (16 * 2 ^ b.bsize))
  let bound (x : Nat) : Bool := inRange x 1 most
  if 5 ≤ b.bsize || bitsOf w0 6 2 != 0 || bitsOf w0 14 2 != 0 || bitsOf w0 24 8 != 0 || (!b.packed && b.group != 0) then some 0
  else if !bound b.ebound || !bound b.dbound then some 4
  else match (List.range 14).find? fun k => natOfBytes ((bs.drop (8 + 4 * k)).take 4) != 0 with
  | some k => some (8 + 4 * k)
  | none => match progFieldBad (wordsOf (bs.drop 64) 64) b.enc.length with
    | some k => some (64 + 4 * k)
    | none => match progFieldBad (wordsOf (bs.drop 320) 64) b.dec.length with
      | some k => some (320 + 4 * k)
      | none => if b.built && !lensOk b.table then some 576 else none

/-- A binding installed in a slot. Cached lines keep their plain values, also those of another block size: a later fill of a larger
block leaves their bytes as they are, and a write-back cuts them into the new blocks (R373). Where it changes between in-place and
packed, or the pages of a frame, the plain bytes of its pages come to lie elsewhere. -/
def State.installBinding (s : State) (ctx idx : Nat) (b : Binding) : State :=
  let c := s.context ctx
  let t := s.setContext ctx { c with binds := kvSet c.binds idx b }
  let same := match s.binding? ctx idx with
    | some o => o.packed == b.packed && (!b.packed || o.group == b.group)
    | none => !b.packed
  if same then t
  else ((s.leaves ctx).filter fun l => leafBind l.e == idx && l.level == 3).foldl (fun t l =>
    t.rehome (s.pageLoc ctx l.level l.e l.va) (t.pageLoc ctx l.level l.e l.va) 131072) t

/-- `cbind` (R378). -/
def execCbind (f : Fields) (s : State) : Out :=
  issueSplit (.cbind f) s (allScalar f) {} fun i s =>
    let base : W64 := BitVec.ofNat 64 (readReg i.w f.a 0 true i.low)
    let off := signedOf 32 f.im
    let idx := if f.b = 0xF0 then f.aux % 256 else readReg i.w f.b 0 false i.low
    let (r, p) := effective base off 0
    let bad (r : Nat) : Eff := .trap { cause := 0x080 + r, lanes := i.lanes, addr := p }
    match (if r.isSome then r else if ptrSpace p != 0 then some 5 else if ptrOff p % 64 != 0 then some 7 else none) with
    | some r => bad r
    | none =>
      if idx = 0 || 255 < idx then trapAll i 0x119
      else if i.w.st != 0 then .hold (i.back s)
      else match readRegion i s base off 576 with
      | .stop e => e
      | .bytes s1 cs1 =>
        let tbl := bitsOf (natOfBytes ((regionBytes s1 i.w.core cs1).1.take 4)) 5 1 == 1
        match (if tbl then readRegion i s1 base off 4672 else .bytes s1 cs1) with
        | .stop e => e
        | .bytes s2 cs =>
          let (bs, wids) := regionBytes s2 i.w.core cs
          match bindBad bs with
          | some k => trapAll i 0x118 (BitVec.ofNat 64 k)
          | none =>
            if s2.paging.moves.any fun m => !m.moved && (s2.leavesIn m.src m.size).any fun q => q.1 == i.w.ctx && leafBind q.2.e == idx then .hold (i.back s)
            else
              let s3 := s2.installBinding i.w.ctx idx (bindingOf bs)
              .done (s3.upd i fun w => w.setLanes i.lanes fun _ => threadReads s3.order i.w.core i.w.key (some 4) wids)

/-- `cbuild` (R379). -/
def execCbuild (f : Fields) (s : State) : Out :=
  issueSplit (.cbuild f) s (allScalar f) {} fun i s =>
    let base : W64 := BitVec.ofNat 64 (readReg i.w f.a 0 true i.low)
    let n := readReg i.w f.b 0 true i.low
    let idx := f.aux % 256
    if n = 0 || 2 ^ 20 < n then trapAll i 0x11A
    else match s.binding? i.w.ctx idx with
    | none => trapAll i 0x119
    | some _ => match readRegion i s base (signedOf 32 f.im) n with
      | .stop e => e
      | .bytes s cs =>
        let (bs, wids) := regionBytes s i.w.core cs
        match s.binding? i.w.ctx idx with
        | none => trapAll i 0x119
        | some b =>
          let lens := (huffLens 32 (byteCounts bs)).map fun x => BitVec.ofNat 8 x
          let c := s.context i.w.ctx
          let s := s.setContext i.w.ctx { c with binds := kvSet c.binds idx { b with table := lens ++ b.table.drop 256, built := true } }
          .done (s.upd i fun w => w.setLanes i.lanes fun _ => threadReads s.order i.w.core i.w.key none wids)

end Sys2Proof.Machine
end

