-- ==== Sys2Proof/Machine/Boost.lean ====
section
/-!
DEFINITION. `trig` and `exit` (03 R82, 16 R441, R453), boosted tasks and the boost arbiters (15 R398 to R424).
-/
namespace Sys2Proof.Machine
open Sys2Proof

/-! ### A declined migration (R388, R390) -/

/-- The decline count of a cluster (R396). -/
def State.countDecline (s : State) (cl : Nat) : State :=
  let c := s.cluster cl
  s.setCluster cl { c with decl := if c.decl = 0xFFFFFFFF then c.decl else c.decl + 1 }

/-- The threads that wait in a migration, or that stand at a passive `ep` with its request, go on at the instruction after it
(R388, R390). -/
def Warp.migDecline (w : Warp) : Warp :=
  match w.hold with
  | .ep _ _ => { w with hold := .free }.advance (w.live.map fun l => (l, nextPc (w.thread l).pc))
  | _ => { w with threads := w.threads.map fun t => match t.st, t.wait with
      | .waiting, .mig _ _ => t.wake
      | _, _ => t }

/-- A request declined (R390). -/
def State.decline (s : State) (key : Nat) : State :=
  match s.warp? key with
  | none => s
  | some w =>
    let cl := coreCluster w.core
    let c := s.cluster cl
    ((s.setCluster cl { c with migq := c.migq.filter fun m => m.warp != key }).setWarp { w.migDecline with migrating := false }).countDecline cl

/-- A request of a warp that has no thread left to carry leaves the queue of its cluster (R389). -/
def State.dropRequest (s : State) (w : Warp) : State :=
  let c := s.cluster (coreCluster w.core)
  s.setCluster (coreCluster w.core) { c with migq := c.migq.filter fun m => m.warp != w.key }

/-! ### `trig` and the end of a thread (R82, R91, R92, R441, R453) -/

/-- Threads exit: each counts as its `trig`, its warp drains once all have, and parked threads may be released. -/
def State.exitThreads (s : State) (key : Nat) (lanes : List Nat) (pc : W64) : State :=
  let s := (pushMarker key .trig lanes 4 pc s).withWarp key fun w =>
    let w := w.setLanes lanes fun _ t => { t with st := .exited, wait := .nothing, task := { t.task with live := false, fresh := false, leaving := false } }
    let w := { w with bundle := w.bundle.filter fun l => (w.thread l).mayIssue }
    if w.live.isEmpty then { w with draining := true, bundle := [], migrating := false } else w.wsyncRelease
  match s.warp? key with
  | some w => if w.draining && (s.cluster (coreCluster w.core)).migq.any (fun m => m.warp == key) then s.dropRequest w else s
  | none => s

/-- `trig` (R453). -/
def execTrig (f : Fields) (s : State) : Out :=
  issue (.trig f) s fun i s => .done (pushMarker i.w.key .trig i.lanes 4 i.pc s)

/-- TRIG_STEP: a TRIG marker passes its gate and its threads are triggered (R302, R441, R453). -/
def execTrigStep (w : Nat) (s : State) : Out :=
  match s.warp? w with
  | none => .next s
  | some x => match x.fifo with
    | [] => .next s
    | e :: rest =>
      if e.kind != .trig || !mayLeave s x e then .next s
      else
        let ls := (e.cells.map (·.1)).filter fun l => !(x.thread l).triggered
        let y := { (x.setLanes ls fun _ t => { t with triggered := true }) with fifo := rest }
        let s := s.setWarp y
        .next (match s.regionOf? x.ctx x.region with
          | some r => s.setRegion { r with untrig := r.untrig - (if ((s.block? x.block).any (·.spawned)) then 0 else ls.length)
                                           trigCov := union r.trigCov e.covered }
          | none => s)

/-! ### Tasks (R398, R399) -/

/-- Whether a thread is a task that has not committed. -/
def Thread.isTask (t : Thread) : Bool := t.task.live || t.task.fresh

/-- Every warp, resident or saved. -/
def State.allWarps (s : State) : List Warp := s.warps ++ s.saves.flatMap (·.warps)

/-- Warps changed, resident and saved. -/
def State.mapWarps (s : State) (g : Warp → Warp) : State :=
  { s with warps := s.warps.map g, saves := s.saves.map fun x => { x with warps := x.warps.map g } }

/-- The live task of a context with a sequence number changed. -/
def State.mapTask (s : State) (ctx : Nat) (seq : W64) (g : Thread → Thread) : State :=
  s.mapWarps fun w => if w.ctx != ctx then w else
    { w with threads := w.threads.map fun t => if t.task.live && t.task.seq == seq then g t else t }

/-- Live tasks of a context. -/
def State.liveTasks (s : State) (ctx : Nat) : List Task :=
  (s.allWarps.filter fun w => w.ctx == ctx).flatMap fun w => (w.threads.filter fun t => t.task.live).map (·.task)

/-- Whether a number is that of the oldest live task of its context. -/
def State.isOldest (s : State) (ctx : Nat) (seq : W64) : Bool := (s.liveTasks ctx).all fun t => seq ≤ t.seq

/-- Whether a task holds a grant. -/
def State.holdsGrant (s : State) (ctx : Nat) (seq : W64) : Bool :=
  s.ports.any fun p => p.2.grants.any fun g => g.ctx == ctx && g.seq == seq

/-- Every grant of a task dropped; with what a release covers, what later grants acquire (R414, R418, R419). -/
def State.dropGrants (s : State) (ctx : Nat) (seq : W64) (release : Option (List Nat)) : State :=
  { s with ports := s.ports.map fun p =>
      let mine := p.2.grants.filter fun g => g.ctx == ctx && g.seq == seq
      let rels := match release with
        | none => []
        | some c => mine.map fun g => ({ ctx := g.ctx, obj := g.obj, kind := g.kind, arg0 := g.arg0, covered := c } : BoostRel)
      (p.1, { p.2 with grants := p.2.grants.filter fun g => !(g.ctx == ctx && g.seq == seq), rels := p.2.rels ++ rels }) }

/-! ### The commutativity table (R402 to R405) -/

def CTable.kind? (t : CTable) (k : Nat) : Option Kind := (t.kinds[k]?).filter (·.valid)
def CTable.entry (t : CTable) (i j : Nat) : Nat := t.entries.getD (i * t.kinds.length + j) 0

/-- Whether two operations on one object conflict, and whether the entry is unknown (R404). -/
def CTable.judge (t : CTable) (k1 : Nat) (a1 : W32) (k2 : Nat) (a2 : W32) : Bool × Bool :=
  let argc (k : Nat) : Nat := ((t.kinds[k]?).map (·.argc)).getD 0
  match t.entry k1 k2 with
  | 0 => (true, false)
  | 1 => (false, false)
  | 2 => (a1 == a2 || argc k1 == 0 || argc k2 == 0, false)
  | _ => (true, true)

/-- A kind descriptor (R403). -/
def kindOf (bs : List Byte) : Kind :=
  let n (a len : Nat) : Nat := natOfBytes ((bs.drop a).take len)
  { inv := bitsOf (n 0 2) 0 10, argc := bitsOf (n 2 1) 0 3, valid := bitsOf (n 3 1) 0 1 == 1, noundo := bitsOf (n 3 1) 1 1 == 1
    dpc := BitVec.ofNat 64 (n 8 8), lpc := BitVec.ofNat 64 (n 16 8) }

/-- The zero fields of a descriptor. -/
def kindZeros (bs : List Byte) : Bool :=
  let n (a len : Nat) : Nat := natOfBytes ((bs.drop a).take len)
  bitsOf (n 0 2) 10 6 == 0 && bitsOf (n 2 1) 3 5 == 0 && bitsOf (n 3 1) 2 6 == 0 && n 4 4 == 0 && n 24 8 == 0

/-- Whether a warp's region is one with BOOST (R383). -/
def State.boostRegion (s : State) (w : Warp) : Bool := ((s.regionOf? w.ctx w.region).map Region.boost).getD false

/-- Bytes of an image with K kinds (R402). -/
def imageLen (k : Nat) : Nat := 64 + 32 * k + (2 * k * k + 511) / 512 * 64

/-- The table of an image (R402). -/
def tableOf (bs : List Byte) (k : Nat) : CTable :=
  let m := bs.drop (64 + 32 * k)
  { kinds := (List.range k).map fun j => kindOf ((bs.drop (64 + 32 * j)).take 32)
    entries := (List.range (k * k)).map fun n => bitsOf ((m.getD (n / 4) 0).toNat) (2 * (n % 4)) 2 }

/-- Whether entry e of a derived pair is compatible with c (R405). -/
def compatible (c e : Nat) : Bool := e == 1 || (c == 2 && e == 2)

/-- Whether the entry of two kinds passes: symmetric, and its inverses compatible (R405). -/
def CTable.pairOk (t : CTable) (i j : Nat) : Bool :=
  match t.kind? i, t.kind? j with
  | some x, some y =>
    let c := t.entry i j
    c == t.entry j i &&
    (!(c == 1 || c == 2) ||
      ((x.noundo || y.noundo || compatible c (t.entry x.inv y.inv)) && (x.noundo || compatible c (t.entry x.inv j))))
  | _, _ => true

/-- The detail of the first failure of a table image of K kinds (R405). -/
def tableBad (bs : List Byte) (k : Nat) : Option Nat :=
  let t := tableOf bs k
  let desc := (List.range k).find? fun j =>
    let d := (bs.drop (64 + 32 * j)).take 32
    let x := kindOf d
    !kindZeros d || (x.valid && decide (6 < x.argc)) || (x.valid && !x.noundo && (t.kind? x.inv).isNone)
  match desc with
  | some j => some (64 + 32 * j)
  | none => match (List.range (k * k)).find? fun n => !t.pairOk (n / k) (n % k) with
    | some n => some (0xFFFFFFFF + n / k * 2 ^ 32 + n % k * 2 ^ 42)
    | none =>
      let pad := natOfBytes (bs.drop (64 + 32 * k)) / 2 ^ (2 * k * k)
      if pad != 0 then some 0xFFFFFFFE else none

/-- `ctload` (R424): the warp holds at it until no grant of the context exists, while new requests wait. A thread of a region with
BOOST that is no task any more raises BOOST_NOT_TASK (R399), which is looked at first, as in R422 (DEDUCED, log 45). -/
def execCtload (f : Fields) (s : State) : Out :=
  issueSplit (.ctload f) s (allScalar f) {} fun i s =>
    let base : W64 := BitVec.ofNat 64 (readReg i.w f.a 0 true i.low)
    let off := signedOf 32 f.im
    let (r, p) := effective base off 0
    let c := s.context i.w.ctx
    let free (s : State) : State := s.setContext i.w.ctx { s.context i.w.ctx with ctBusy := false }
    let wait (s : State) : Eff := .hold ((s.setContext i.w.ctx { c with ctBusy := true }).upd i fun w => { w with hold := .again })
    let ended := i.lanes.filter fun l => s.boostRegion i.w && !(i.w.thread l).isTask
    -- a fault behind the wait lets the requests of the context go on
    let fail (t : Trap) : Eff := .hold (takeTrap (i.back (free s)) i t)
    if !ended.isEmpty then .trap { cause := 0x146, lanes := ended }
    else match (if r.isSome then r else if ptrSpace p != 0 then some 5 else if ptrOff p % 64 != 0 then some 7 else none) with
    | some r => .trap { cause := 0x080 + r, lanes := i.lanes, addr := p }
    | none =>
      let busy := i.lanes.filter fun l => (i.w.thread l).isTask && s.holdsGrant i.w.ctx (i.w.thread l).task.seq
      if !busy.isEmpty then .trap { cause := 0x148, lanes := busy }
      else if s.ports.any fun p => p.2.grants.any fun g => g.ctx == i.w.ctx then
        wait (i.back s)
      else match readRegion i s base off 64 with
      | .stop (.hold t) => wait t
      | .stop (.trap t) => fail t
      | .stop e => e
      | .bytes s1 cs1 =>
        let head := (regionBytes s1 i.w.core cs1).1
        let k := natOfBytes (head.take 2)
        if k = 0 || 1024 < k || natOfBytes (head.drop 2) != 0 then fail { cause := 0x14A, lanes := i.lanes }
        else match readRegion i s1 base off (imageLen k) with
        | .stop (.hold t) => wait t
        | .stop (.trap t) => fail t
        | .stop e => e
        | .bytes s2 cs =>
          let (bs, wids) := regionBytes s2 i.w.core cs
          match tableBad bs k with
          | some d => fail { cause := 0x14A, lanes := i.lanes, detail := BitVec.ofNat 64 d }
          | none =>
            let s3 := s2.setContext i.w.ctx { s2.context i.w.ctx with ctable := some (tableOf bs k) }
            .done ((free s3).upd i fun w => { w with hold := .free }.setLanes i.lanes fun _ => threadReads s3.order i.w.core i.w.key (some 4) wids)

/-! ### Aborts (R410, R411) -/

/-- Whether a warp has a request in its cluster's migration queue. -/
def State.asksToMove (s : State) (key : Nat) : Bool :=
  (s.warp? key).any fun w => (s.cluster (coreCluster w.core)).migq.any fun m => m.warp == key

/-- A task takes an abort: undo mode, READY where it stands, with the loop of R411 due before it may issue (R60, R411, R426). A migration that would carry it is declined at once (R392, R420). -/
def State.enterUndo (s : State) (key lane : Nat) (killed : Bool) : State :=
  let s := if s.asksToMove key then s.decline key else s
  match s.warp? key with
  | none => s
  | some w =>
    let t := (w.thread lane).task
    let c := s.context w.ctx
    let s := s.setContext w.ctx { c with aborts := if c.aborts = 0xFFFFFFFF then c.aborts else c.aborts + 1 }
    let s := { s with ports := s.ports.map fun (p : Nat × Port) => (p.1, { p.2 with
        breqs := p.2.breqs.filter fun r => !(r.warp == key && r.lane == lane)
        grants := p.2.grants.map fun (g : Grant) => if g.ctx == w.ctx && g.seq == t.seq then { g with undo := true } else g }) }
    s.withWarp key fun w => { w with bundle := w.bundle.filter fun l => l != lane }.setThread lane fun t => { t with
      st := .ready, wait := .undo
      task := { t.task with
        aborts := if t.task.aborts = 0xFFFFFFFF then t.task.aborts else t.task.aborts + 1
        spawns := [], pendingAbort := false, undoMode := true, inverse := false, unwinding := false, owed := false, leaving := false
        live := true, fresh := false, killed := killed } }

/-- Whether a fault of a thread is pending, or its warp is in snare mode for it: neither is an abort point (R416). -/
def State.faulted (s : State) (w : Warp) (lane : Nat) : Bool :=
  (s.recs.any fun r => w.stopped.contains r.id && (r.words.getD 5 0).getLsbD lane) || w.snare.any fun n => n.mask.getLsbD lane

/-- An arbiter's abort of a holder: at once where it waits inside a `bop`, else at its next abort point (R410, R416). -/
def State.sendAbort (s : State) (ctx : Nat) (seq : W64) : State :=
  let inBop := s.warps.flatMap fun w => if w.ctx != ctx then [] else
    ((List.range w.threads.length).filter fun l => (w.thread l).task.live && (w.thread l).task.seq == seq &&
      (w.thread l).wait == .boost && !s.faulted w l).map fun l => (w.key, l)
  match inBop with
  | (key, l) :: _ => s.enterUndo key l false
  | [] => s.mapTask ctx seq fun t => if t.task.undoMode then t else { t with task := { t.task with pendingAbort := true } }

/-! ### `bop` (R408, R409, R422) -/

def bopArgc (f : Fields) : Nat := bitsOf f.aux 10 3
def bopKind (f : Fields) : Nat := bitsOf f.aux 0 10

/-- The 64-byte location check of a push or a pop (R409, R411). -/
def ustkChk (s : State) (w : Warp) (lane kind : Nat) (p : W64) : LaneChk := checkLane s w kind lane p 0 0 64

/-- The first check of R422 that a lane fails: its rank, cause and address. -/
def bopCheck (s : State) (w : Warp) (f : Fields) (boost : Bool) (l : Nat) : Option (Nat × Nat × W64) :=
  let t := w.thread l
  let (r, p) := effective (BitVec.ofNat 64 (readReg w f.a 0 true l)) (signedOf 32 f.im) 0
  if !boost || !t.isTask then some (1, 0x146, 0)
  else if t.task.undoMode then some (2, 0x143, 0)
  else match (s.context w.ctx).ctable with
  | none => some (3, 0x141, 0)
  | some ct => match ct.kind? (bopKind f) with
    | none => some (4, 0x140, 0)
    | some k =>
      if bopArgc f != k.argc then some (5, 0x147, 0)
      else if r.isSome || ptrSpace p != 0 then some (6, 0x0A0 + r.getD 5, p)
      else if !k.noundo && t.task.depth == 256 then some (7, 0x145, 0)
      else if ptrSpace t.ustk != 0 && ptrSpace t.ustk != 3 then some (8, 0x095, t.ustk)
      else if ptrOff t.ustk % 64 != 0 then some (8, 0x097, t.ustk)
      else none

/-- A request sent to its arbiter (R407, R408). -/
def State.sendBoost (s : State) (w : Warp) (f : Fields) (pc : W64) (l : Nat) : State :=
  let obj := (effective (BitVec.ofNat 64 (readReg w f.a 0 true l)) (signedOf 32 f.im) 0).2
  let args : List W32 := (List.range (bopArgc f)).map fun j => BitVec.ofNat 32 (readReg w (f.b + BitVec.ofNat 8 j) 0 false l)
  let req : BoostReq := { warp := w.key, lane := l, seq := (w.thread l).task.seq, ctx := w.ctx, obj := obj, kind := bopKind f
                          args := args, pc := pc, ep := w.ep, since := w.since, run := w.issues }
  let q := ptrOff obj / 4096 % 48
  let p := s.port q
  s.setPort q { p with breqs := p.breqs ++ [req] }

/-- The trap of the lanes that fail the earliest check (R422). -/
def earliest (cs : List (Nat × Nat × Nat × W64)) : Option Trap :=
  match cs with
  | [] => none
  | c :: _ =>
    let k := cs.foldl (fun m x => min m x.2.1) c.2.1
    let bad := cs.filter fun x => x.2.1 == k
    match bad with
    | [] => none
    | (_, _, cause, addr) :: _ => some { cause := cause, lanes := bad.map (·.1), addr := addr }

/-- `bop` (R422). -/
def execBop (f : Fields) (s : State) : Out :=
  issue (.bop f) s fun i s =>
    match earliest (i.lanes.filterMap fun l => (bopCheck s i.w f (s.boostRegion i.w) l).map fun x => (l, x)) with
    | some t => .trap t
    | none =>
      .jump (i.lanes.foldl (fun s l =>
        if (i.w.thread l).task.pendingAbort then s.enterUndo i.w.key l false
        else (s.sendBoost i.w f i.pcCur l).upd i fun w => w.setThread l fun t => { t with st := .waiting, wait := .boost }) s)
        (i.lanes.map fun l => (l, i.pc))

/-- A record of a thread that waits, found when its request is served: the warp stops, and the thread is READY at its
instruction (R422). -/
def State.waitTrap (s : State) (w : Warp) (lane cause : Nat) (pc : W64) (ep : W32) (since : Nat) (addr : W64)
    (level : Option Nat) (pages : Option (List Nat)) : State :=
  let w := w.setThread lane fun t => { t with st := .ready, wait := .nothing }
  match pages with
  | some ps => s.setWarp { w with snare := some { running := false, cause := cause, mask := maskOf [lane], addr := addr, pages := ps, lanes := [lane] }
                                  bundle := [lane] }
  | none =>
    let detail : W64 := (level.map fun l => BitVec.ofNat 64 (2 ^ 63 + l)).getD 0
    let words := recWords s w cause false false (allowOf cause) 0 pc ep since (maskOf [lane]) addr detail
    let acts : Resolves := if 0x080 ≤ cause && cause ≤ 0x0FF then .replay w.key (maskOf [lane]) else .after w.key (maskOf [lane]) [lane] 1
    (s.raise w.ctx w.region words acts level.isSome false).setWarp { w with stopped := w.stopped ++ [s.recCt], bundle := [lane] }

/-- The 64 bytes of an undo record (R409). -/
def undoBytes (kind inv : Nat) (obj : W64) (args : List W32) : List Byte :=
  bytesOf 8 (inv + kind * 2 ^ 10 + args.length * 2 ^ 20) ++ bytesOf 8 obj.toNat ++
  ((List.range 6).flatMap fun j => bytesOf 4 (args.getD j 0).toNat) ++ List.replicate 24 0

/-- The push of an undo record after a grant (R409): a plain store through the warp's FIFO, then the next instruction. No
counter counts it: R75 lists the instructions that do, and `bop` is none of them (DEDUCED, log 45). -/
def pushUndo (s : State) (w : Warp) (r : BoostReq) (k : Kind) : Option State :=
  let t := w.thread r.lane
  let go (s : State) : State := s.withWarp w.key fun w => w.setThread r.lane Thread.wake
  if k.noundo then some (go s)
  else
    let c := ustkChk s w r.lane 1 t.ustk
    match c.why with
    | some x =>
      let pages := if x = 0 && c.level.isNone then some (missingPages s w.ctx [c]) else none
      some ((s.withWarp w.key fun w => w.setThread r.lane fun t => { t with task := { t.task with owed := true } }) |> fun s =>
        match s.warp? w.key with
        | some w => s.waitTrap w r.lane (0x090 + x) r.pc r.ep r.since c.addr c.level pages
        | none => s)
    | none => if c.cow then none else
      let p : Post := { op := w.nextOp, kind := .store, m := { pol := 0, scope := 0, ord := 0 }, pc := r.pc, ep := r.ep, since := r.since, quiet := true }
      let s := fillLanes s w [c]
      let s := (pieces 1 64 (cellsAt c.loc (undoBytes r.kind k.inv r.obj r.args))).foldl (fun s e => pushEntry w.key p r.lane t.ustk e s) s
      some ((go s).withWarp w.key fun w => { (w.setThread r.lane fun t => { t with
        ustk := t.ustk + 64
        task := { t.task with
          ubase := if t.task.depth = 0 then t.ustk else t.task.ubase
          pushed := true, depth := t.task.depth + 1, owed := false } }) with nextOp := w.nextOp + 1 })

/-- Whether a boost arbiter is in the middle of the requests of one `bop` (R513). -/
def State.inRun (s : State) (port : Nat) : Option (Nat × Nat) :=
  let p := s.port port
  p.running.filter fun k => p.breqs.any fun r => r.warp == k.1 && r.run == k.2 && !r.judged && (s.warp? r.warp).isSome

/-- Whether a boost arbiter may judge a request now: the requests of one `bop` one after another in lane order, and no other between
them (R513). A warp that stands still sends no first request to judgment. -/
def State.mayJudge (s : State) (port index : Nat) : Bool :=
  let p := s.port port
  match p.breqs[index]? with
  | none => false
  | some r => match s.warp? r.warp with
    | none => false
    | some w =>
      let first := r.judged || !(p.breqs.take index).any fun x => x.warp == r.warp && x.run == r.run && !x.judged
      match s.inRun port with
      | some k => first && !r.judged && k == (r.warp, r.run) && (w.snare.isNone || (ustkChk s w r.lane 1 (w.thread r.lane).ustk).why.isNone)
      | none => first && !(s.context r.ctx).ctBusy && !(r.waits.any (s.holdsGrant r.ctx)) && w.stopped.isEmpty && w.snare.isNone && !w.suspended

/-- BOOST_GRANT: an arbiter judges a request in one step (R408, R419). -/
def execBoostGrant (port index : Nat) (s : State) : Out :=
  let stay := s
  let p := s.port port
  match p.breqs[index]? with
  | none => .next s
  | some r => match s.warp? r.warp, (s.context r.ctx).ctable with
    | some w, some ct =>
      let obj := ptrOff r.obj
      let a := r.args.headD 0
      let own := p.grants.any fun g => g.ctx == r.ctx && g.seq == r.seq && g.obj == obj && g.kind == r.kind && g.arg0 == a
      let owed := (w.thread r.lane).task.owed && own
      if !s.mayJudge port index then .next s
      else if (w.thread r.lane).task.pendingAbort then .next (s.enterUndo r.warp r.lane false)
      else
        let others := p.grants.filter fun g => g.ctx == r.ctx && g.obj == obj && g.seq != r.seq
        let judged := others.map fun g => (g, ct.judge r.kind a g.kind g.arg0)
        let unk := (judged.filter fun x => x.2.2).length
        let c := s.context r.ctx
        let s := s.setContext r.ctx { c with unk := BitVec.ofNat 32 (min 0xFFFFFFFF (c.unk.toNat + unk)) }
        let bad := (judged.filter fun x => x.2.1).map (·.1)
        let p := { p with running := some (r.warp, r.run) }
        let s := s.setPort port p
        let take (s : State) : State := let p := s.port port; s.setPort port { p with breqs := p.breqs.eraseIdx index }
        if bad.any fun g => g.seq < r.seq then .next ((take s).enterUndo r.warp r.lane false)
        else if !bad.isEmpty then
          let s := s.setPort port { p with breqs := listAt p.breqs index fun r => { r with waits := bad.map (·.seq), judged := true } }
          .next ((bad.map (·.seq)).foldl (fun s seq => s.sendAbort r.ctx seq) s)
        else
          let oldest := s.isOldest r.ctx r.seq
          let room := decide ((p.grants.filter fun g => !g.kept).length < 4080)
          let kept := oldest && decide ((p.grants.filter (·.kept)).length < 16)
          if owed || room || kept then
            match ct.kinds[r.kind]? with
            | none => .next s
            | some k =>
              let g : Grant := { seq := r.seq, obj := obj, kind := r.kind, ctx := r.ctx, undo := false, arg0 := if k.argc = 0 then 0 else a, kept := !room }
              let s := take s
              let p := s.port port
              let s := if owed then s else s.setPort port { p with grants := p.grants ++ [g] }
              let cov := (p.rels.filter fun x => x.ctx == r.ctx && x.obj == obj && (ct.judge r.kind a x.kind x.arg0).1).foldl
                (fun (c : List Nat) x => union c x.covered) []
              let s := s.withWarp r.warp fun w => w.setThread r.lane fun t =>
                { threadAcquires cov t with task := { t.task with ports := t.task.ports ||| BitVec.ofNat 48 (2 ^ port) } }
              match (s.warp? r.warp).bind fun w => pushUndo s w r k with
              | some t => .next t
              | none => .next (stay.noteCow w.ctx [ustkChk s w r.lane 1 (w.thread r.lane).ustk])
          else if !oldest then .next ((take s).enterUndo r.warp r.lane false)
          else .next ((take s).waitTrap w r.lane 0x142 r.pc r.ep r.since 0 none none)
    | _, _ => .next s

/-! ### `tcommit`, `exit`, `tabort`, `tspawn` (R414, R421, R423) -/

/-- The check of a lane of `tcommit`, `tabort` and `tspawn` (R421, R423). -/
def taskCheck (w : Warp) (boost : Bool) (l : Nat) : Option (Nat × Nat × W64) :=
  let t := w.thread l
  if !boost || !t.isTask then some (1, 0x146, 0) else if t.task.undoMode then some (2, 0x143, 0) else none

/-- Whether a task holds grants whose BOOST-RELEASE, a release at device scope, has to wait (R302, R414, R419). -/
def releaseShut (s : State) (w : Warp) (lane : Nat) : Bool :=
  let t := w.thread lane
  s.holdsGrant w.ctx t.task.seq && (w.busyLanes [lane] || !gateOpen s w.core 4 t.covered)

/-- The grants of a committing task are released; then it is no task (R414). -/
def releaseTask (s : State) (key lane : Nat) : State :=
  match s.warp? key with
  | none => s
  | some w =>
    let t := w.thread lane
    if !t.isTask then s
    else (s.dropGrants w.ctx t.task.seq (some t.covered)).withWarp key fun w => w.setThread lane fun t => { t with
      ustk := if t.task.pushed then t.task.ubase else t.ustk
      task := { t.task with live := false, fresh := false, depth := 0, pendingAbort := false, ports := 0 } }

/-- The pending spawns enter the region's queue together, or wait (R398, R414, R415). -/
def passSpawns (s : State) (key lane : Nat) : Option State :=
  match s.warp? key with
  | none => none
  | some w =>
    let t := w.thread lane
    if t.task.spawns.isEmpty then some s
    else match s.regionOf? w.ctx w.region with
    | none => none
    | some r =>
      let clear (s : State) : State := s.withWarp key fun w => w.setThread lane fun t => { t with task := { t.task with spawns := [] } }
      if r.spawnq.length + t.task.spawns.length ≤ 65536 then
        let c := s.context w.ctx
        let n := t.task.spawns.length
        let es := (List.range n).zipWith (fun k a => ({ arg := a, seq := c.taskCt + BitVec.ofNat 64 k, covered := t.covered } : SpawnEnt)) t.task.spawns
        let s := s.setContext w.ctx { c with taskCt := c.taskCt + BitVec.ofNat 64 n }
        some (clear (s.setRegion { r with spawnq := r.spawnq ++ es }))
      else if r.endSent then some (clear s)
      else none

/-- A lane commits; or its release is done and it waits for room for its spawns (R414). -/
def commitLane (s : State) (key lane : Nat) : State × Bool :=
  let s := releaseTask s key lane
  match passSpawns s key lane with
  | none => (s, false)
  | some s => (s, true)

/-- Whether a `tcommit` or an `exit` has to wait before it commits a lane: it does not issue (R414). -/
def commitShut (i : Iss) (s : State) : Bool :=
  i.lanes.any fun l => (i.w.thread l).isTask && !(i.w.thread l).task.pendingAbort && releaseShut s i.w l

/-- The lanes of a `tcommit` or of an `exit` of tasks: those that abort, those done, those that wait. -/
def commitLanes (i : Iss) (leaving : Bool) (s : State) : State × List Nat :=
  i.lanes.foldl (fun (a : State × List Nat) l =>
    let t := i.w.thread l
    if !t.isTask then (a.1, a.2 ++ [l])
    else if t.task.pendingAbort then (a.1.enterUndo i.w.key l false, a.2)
    else
      let (s, ok) := commitLane a.1 i.w.key l
      if ok then (s, a.2 ++ [l])
      else (s.withWarp i.w.key fun w => w.setThread l fun t => { t with st := .waiting, wait := .spawns, task := { t.task with leaving := leaving } }, a.2)) (s, [])

/-- `tcommit` (R414, R423). -/
def execTcommit (f : Fields) (s : State) : Out :=
  issue (.tcommit f) s fun i s =>
    match earliest (i.lanes.filterMap fun l => (taskCheck i.w (s.boostRegion i.w) l).map fun x => (l, x)) with
    | some t => .trap t
    | none => if commitShut i s then .hold (i.back s) else
      let (s, ok) := commitLanes i false s
      .jump s ((i.lanes.filter fun l => !ok.contains l).map fun l => (l, i.pc))

/-- `exit` (R82, R414). -/
def execExit (f : Fields) (s : State) : Out :=
  issue (.exit f) s fun i s =>
    let nested := i.lanes.filter fun l => (i.w.thread l).task.undoMode
    if !nested.isEmpty then .trap { cause := 0x143, lanes := nested }
    else if commitShut i s then .hold (i.back s)
    else
      let (s, ok) := commitLanes i true s
      let s := if ok.isEmpty then s else s.exitThreads i.w.key ok i.pc
      .jump s ((i.lanes.filter fun l => !ok.contains l).map fun l => (l, i.pc))

/-- `tabort` (R411, R423). -/
def execTabort (f : Fields) (s : State) : Out :=
  issue (.tabort f) s fun i s =>
    match earliest (i.lanes.filterMap fun l => (taskCheck i.w (s.boostRegion i.w) l).map fun x => (l, x)) with
    | some t => .trap t
    | none => .jump (i.lanes.foldl (fun s l => s.enterUndo i.w.key l false) s) (i.lanes.map fun l => (l, i.pc))

/-- `tspawn` (R423). -/
def execTspawn (f : Fields) (s : State) : Out :=
  issue (.tspawn f) s fun i s =>
    let chk (l : Nat) : Option (Nat × Nat × W64) := match taskCheck i.w (s.boostRegion i.w) l with
      | some x => some x
      | none => if (i.w.thread l).task.spawns.length = 8 then some (3, 0x142, 0) else none
    match earliest (i.lanes.filterMap fun l => (chk l).map fun x => (l, x)) with
    | some t => .trap t
    | none => .done (s.upd i fun w => w.setLanes i.lanes fun l t =>
        { t with task := { t.task with spawns := t.task.spawns ++ [BitVec.ofNat 64 (readReg i.w f.a 0 true l)] } })

/-- `uret` (R411, R423). -/
def execUret (f : Fields) (s : State) : Out :=
  issue (.uret f) s fun i s =>
    let boost := s.boostRegion i.w
    let bad := i.lanes.filter fun l => !((i.w.thread l).task.undoMode && (i.w.thread l).task.inverse)
    if !boost then trapAll i 0x146
    else if !bad.isEmpty then .trap { cause := 0x149, lanes := bad }
    else .jump (s.upd i fun w => w.setLanes i.lanes fun _ t => { t with wait := .undo, task := { t.task with inverse := false } })
      (i.lanes.map fun l => (l, i.pc))

/-- SPAWN_ENQUEUE: a thread that waits in `tcommit` or `exit` goes on once its spawns fit (R414, R415). -/
def execSpawnEnqueue (w lane : Nat) (s : State) : Out :=
  match s.warp? w with
  | none => .next s
  | some x =>
    let t := x.thread lane
    if t.st != .waiting || t.wait != .spawns || !x.stopped.isEmpty || x.suspended then .next s
    else
      let (s, ok) := commitLane s w lane
      if !ok then .next s
      else if t.task.leaving then .next (s.exitThreads w [lane] t.pc)
      else .next (s.withWarp w fun x => x.setThread lane Thread.wake)

/-- ABORT_SIGNAL: a task that waits inside a `bop` with an abort pending takes it (R410). -/
def execAbortSignal (w lane : Nat) (s : State) : Out :=
  match s.warp? w with
  | none => .next s
  | some x =>
    let t := x.thread lane
    .next (if t.wait == .boost && t.task.pendingAbort && !s.faulted x lane then s.enterUndo w lane false else s)

/-! ### Undo and restart (R400, R411 to R413) -/

/-- Whether a younger task of the context is in undo mode (R412). -/
def State.youngerUndo (s : State) (ctx : Nat) (seq : W64) : Bool := (s.liveTasks ctx).any fun t => t.undoMode && seq < t.seq

/-- A fault of an undo (R418): precise, of the one thread, fatal to the region when its record is written. -/
def undoFault (s : State) (w : Warp) (lane cause : Nat) (addr : W64) (entry : Nat := 0) : State :=
  let t := w.thread lane
  let words := recWords s w cause false false 0 entry t.pc w.ep w.since (maskOf [lane]) addr 0
  (s.raise w.ctx w.region (asUndo words) .nothing false false (some w.key)).setWarp { w with stopped := w.stopped ++ [s.recCt] }

/-- Whether a target's fault is that of the fetch of its line: the target is checked when the line comes in (R23, log 51). -/
def Trap.ofFetch (t : Trap) : Bool := t.cause / 16 == 0xB

/-- One record popped: its inverse routine begins (R411). A fill that fails is logged (R374). -/
def popUndo (s : State) (w : Warp) (lane : Nat) : State :=
  let t := w.thread lane
  let top := t.ustk - 64
  let c := ustkChk s w lane 0 top
  match c.why with
  | some 0 =>
    -- a page below T0 is brought up first; one that is not mapped faults (R338, R341)
    let pages := missingPages s w.ctx [c]
    if c.level.isSome || pages.isEmpty || pages.any fun p => (s.pageState w.ctx p).detail != 0 then undoFault s w lane 0x080 c.addr
    else if s.paging.batches.any fun b => b.ctx == w.ctx && pages.all b.pages.contains then s
    else s.addBatch w.ctx pages none none
  | some r => undoFault s w lane (0x080 + r) c.addr
  | none =>
    let global := ptrSpace top == 0
    let k := s.blockOf w.ctx (ptrOff top) (s.homeLoc c.loc)
    if global && s.unread k then s.requestBlk k
    else if global && !s.cached k && (k.busy s || !s.room k) then s
    else match (if global && s.needsFill k then s.fillBlock k else .ok []) with
    | .error (r, n, m) =>
      if r = 8 then undoFault (s.forget k) w lane 0x088 c.addr
      else
        let (e, s) := (s.forget k).logError k.base { decoder := true, index := n, imm := m, reason := r, tag := none }
        undoFault s w lane (0x080 + r) c.addr e
    | .ok plain =>
      let s := if global && s.needsFill k then s.install k plain else s
      if global && (List.range 64).any (fun j => s.damaged (s.homeLoc (c.loc + j))) then undoFault s w lane 0x088 c.addr
      else match threadBytes s w (s.homeLoc c.loc) 64, (s.context w.ctx).ctable with
      | some bs, some ct =>
        let n := natOfBytes (bs.take 8)
        let pc : W64 := match ct.kinds[bitsOf n 10 10]? with
          | some d => if w.onL then d.lpc else d.dpc
          | none => 0xFFFFFFFFFFFFFFFF
        if pc = 0xFFFFFFFFFFFFFFFF then undoFault s w lane 0x144 0
        else
          let at_ := transferTrap s w [(lane, pc)]
          match at_.filter fun t => !t.ofFetch with
          | some t => undoFault s w lane t.cause t.addr
          | none =>
          let arg (j : Nat) : W32 := BitVec.ofNat 32 (natOfBytes ((bs.drop (16 + 4 * j)).take 4))
          s.setWarp (w.setThread lane fun t => { t with
            ustk := top, st := .ready, wait := .nothing, pc := pc, unchecked := at_.isSome
            v := (List.range 6).foldl (fun v j => listAt v j fun _ => arg j) t.v
            task := { t.task with depth := t.task.depth - 1, inverse := true } })
      | _, _ => s

/-- The cycles that a task backs off for (R411). -/
def backoffOf (t : Thread) : Nat := 64 * 2 ^ min (t.task.aborts.toNat - 1) 10

/-- The end of an undo: the grants are released and the task backs off, or exits where it was killed (R411, R417). -/
def endUndo (s : State) (w : Warp) (lane : Nat) : State :=
  let t := w.thread lane
  let s := (s.dropGrants w.ctx t.task.seq (some t.covered)).withWarp w.key fun w => w.setThread lane fun t => { t with
    ustk := if t.task.pushed then t.task.ubase else t.ustk
    st := .waiting, wait := .backoff (s.cyclesOf w.core + backoffOf t)
    task := { t.task with undoMode := false, inverse := false, unwinding := false, ports := 0 } }
  if t.task.killed then s.exitThreads w.key [lane] t.pc else s

/-- UNDO_REPLAY: a step of the loop of R411. -/
def execUndoReplay (w lane : Nat) (s : State) : Out :=
  match s.warp? w with
  | none => .next s
  | some x =>
    let t := x.thread lane
    if t.st == .exited || t.wait != .undo || !x.stopped.isEmpty || x.snare.isSome || x.suspended then .next s
    else if !t.task.unwinding && s.youngerUndo x.ctx t.task.seq then .next s
    else
    let x := x.setThread lane fun t => { t with task := { t.task with unwinding := true } }
    let s := s.setWarp x
    if 0 < t.task.depth then .next (popUndo s x lane)
    else if releaseShut s x lane then .next s
    else .next (endUndo s x lane)

/-- The state in which a task starts (R400). -/
def Thread.startTask (t : Thread) (entry : W64) : Thread :=
  { t with
    pc := entry, st := .ready, wait := .nothing, p := 0, fpflags := 0
    v := listAt (listAt t.v 0 fun _ => t.task.arg.truncate 32) 1 fun _ => (t.task.arg >>> 32).truncate 32 }

/-- TASK_RESTART: the backoff is over; the entry is checked as a target (R23, R400, R411). -/
def execTaskRestart (w lane : Nat) (s : State) : Out :=
  match s.warp? w with
  | none => .next s
  | some x => match (x.thread lane).wait, s.regionOf? x.ctx x.region with
    | .backoff until_, some r =>
      if (x.thread lane).st != .waiting || decide (s.cyclesOf x.core < until_) || !x.stopped.isEmpty || x.snare.isSome || x.suspended then .next s
      else
        let entry : W64 := BitVec.ofNat 64 (r.entry x.onL)
        let y := x.setThread lane fun t => t.startTask entry
        let at_ := transferTrap s x [(lane, entry)]
        match at_.filter fun t => !t.ofFetch with
        | none => .next (s.setWarp (y.setThread lane fun t => { t with unchecked := at_.isSome }))
        | some t => .next ((s.setWarp y).waitTrap y lane t.cause entry y.ep y.since t.addr none none)
    | _, _ => .next s

end Sys2Proof.Machine
end

