-- ==== Sys2Proof/Machine/Migrate.lean ====
section
/-!
DEFINITION. The room of a core (03 R68, R69, 07 R187), equivalence points and migration (14 R385 to R396).
-/
namespace Sys2Proof.Machine
open Sys2Proof

/-! ### Free values of registers and allotments (R69, R188, R207, R239) -/

/-- Vector registers without a defined value. -/
def State.freeRegs (s : State) (n : Nat) : List W32 × State :=
  ((List.range n).map fun k => Config.freeWord (s.free + k), { s with free := s.free + n })

/-- Bytes of an allotment: each is zero, or what an earlier occupant of the same partition left there, free each time (R188,
R207, R239). A cluster that changes partition is cleared (`movePartition`). -/
def State.freeBytes (s : State) (base n : Nat) : State :=
  let left (k : Nat) : Byte := if Config.freeBit (s.free + k) then memGet s.mem (base + k) else 0
  { s with mem := memPutAll s.mem (cellsAt base ((List.range n).map left)), free := s.free + n }

/-! ### What warps occupy (R68, R69, R187) -/

/-- What a warp, or a granted migration, occupies of a core. -/
structure Use where
  core  : Nat
  slot  : Nat
  quarter : Nat
  width : Nat
  vregs : Nat
  priv  : Nat
  deriving DecidableEq, Repr, Inhabited

/-- The quarters of a use. -/
def Use.quarters (u : Use) : List Nat :=
  if coreIsL u.core then [0] else (List.range (u.width / 16)).map fun k => u.quarter + k

/-- How often a use counts in each lane: an L-core's one quarter holds a wide warp as groups of 16. -/
def Use.groups (u : Use) : Nat := if coreIsL u.core then u.width / 16 else 1

/-- The use of a warp of a region on a core. -/
def useOf (s : State) (w : Warp) (core slot quarter : Nat) : Use :=
  let r := s.regionOf? w.ctx w.region
  { core := core, slot := slot, quarter := quarter, width := w.width
    vregs := (r.map fun r => r.vregs (coreIsL core)).getD 0, priv := (r.map Region.priv).getD 0 }

/-- Everything that is occupied: resident warps, and the places of granted migrations. -/
def State.uses (s : State) : List Use :=
  (s.warps.map fun w => useOf s w w.core w.slot w.quarter) ++
  (s.clusters.flatMap fun c => (c.2.migq.filter (·.granted)).filterMap fun m => (s.warp? m.warp).map fun w => useOf s w m.core m.slot m.quarter)

def coreSlots (core : Nat) : Nat := if coreIsL core then 16 else 96
def coreThreads (core : Nat) : Nat := if coreIsL core then 512 else 3072
def laneRegs (core : Nat) : Nat := if coreIsL core then 4096 else 3072
def sliceBytes (core : Nat) : Nat := if coreIsL core then 32768 else 8192

/-- Free warp slots of a core. -/
def freeSlots (us : List Use) (core : Nat) : Nat := coreSlots core - (us.filter fun u => u.core == core).length

/-- The place of one more warp on a core: the lowest free slot and the first quarters that hold it. -/
def placeOne (us : List Use) (core width vregs priv : Nat) : Option Use :=
  let mine := us.filter fun u => u.core == core
  let slot := (List.range (coreSlots core)).find? fun k => !mine.any fun u => u.slot == k
  let starts := if coreIsL core then [0] else if width = 16 then [0, 1, 2, 3] else if width = 32 then [0, 2] else [0]
  let fits (q : Nat) : Bool :=
    let u : Use := { core := core, slot := 0, quarter := q, width := width, vregs := vregs, priv := priv }
    u.quarters.all fun k =>
      let here := mine.filter fun x => x.quarters.contains k
      decide ((here.map fun x => x.groups * x.vregs).sum + u.groups * vregs ≤ laneRegs core) &&
      decide ((here.map fun x => x.groups * x.priv).sum + u.groups * priv ≤ sliceBytes core)
  if coreThreads core < (mine.map (·.width)).sum + width then none
  else match slot, starts.find? fits with
  | some k, some q => some { core := core, slot := k, quarter := q, width := width, vregs := vregs, priv := priv }
  | _, _ => none

/-! ### `ep`, `mig` (R387, R388, R393, R394) -/

/-- The L-core of a cluster that a migration goes to (R387). -/
def State.pickL (s : State) (cl : Nat) : Nat :=
  let a := coreOfLocal cl 16
  let b := coreOfLocal cl 17
  if freeSlots s.uses a < freeSlots s.uses b then b else a

/-- A request formed: declined at once where the queue is full or a thread cannot be carried (R388, R389, R392). -/
def State.formRequest (s : State) (key id : Nat) (toL : Bool) : State :=
  match s.warp? key with
  | none => s
  | some w =>
    let cl := coreCluster w.core
    let c := s.cluster cl
    let bad := w.live.any fun l => (w.thread l).task.undoMode || (w.thread l).inEmu
    if bad || 32 ≤ (c.migq.filter fun m => !m.granted).length then s.decline key
    else
      let core := if toL then s.pickL cl else w.homeCore
      s.setCluster cl { c with migq := c.migq ++ [{ warp := key, ep := id, toL := toL, core := core, time := c.cycles.toNat }] }

/-- Whether the target of a passive `ep` is chosen (R394). -/
def epPolicy (s : State) (w : Warp) : Bool :=
  match s.regionOf? w.ctx w.region with
  | none => false
  | some r =>
    let c := s.cluster (coreCluster w.core)
    if w.onL then
      c.pen && r.hasD && w.home.isSome && decide (c.lcthr.toNat ≤ coreSlots w.core - freeSlots s.uses w.core)
    else
      c.pen && r.hasL && decide (256 ≤ w.issues) && decide (c.dthr.toNat * w.width + w.sizes.sum < 256 * w.width)

/-- `%ep` and the since-EP count (R394). -/
def Warp.passEp (w : Warp) (id : Nat) : Warp := { w with ep := BitVec.ofNat 32 id, since := 0 }

def State.epcntOf (s : State) (w : Warp) : Nat := ((s.regionOf? w.ctx w.region).map Region.epcnt).getD 0

/-- Threads that wait in a `mig`. -/
def Warp.waitMig (w : Warp) (ls : List Nat) (id : Nat) (toL : Bool) : Warp :=
  w.setLanes ls fun _ t => { t with st := .waiting, wait := .mig id toL }

/-- `ep` (R394): while its request stands, its threads are READY and its warp is held (R60). -/
def execEp (f : Fields) (s : State) : Out :=
  issueSplit (.ep f) s (allScalar f) {} fun i s =>
    let id := f.aux % 256
    if s.epcntOf i.w ≤ id then trapAll i 0x122
    else
      let s := s.upd i fun w => w.passEp id
      match s.warp? i.w.key with
      | none => .done s
      | some w =>
        if i.lanes == w.live && epPolicy s w then
          .hold ((s.upd i fun w => { w with hold := .ep id (!w.onL) }).formRequest i.w.key id (!w.onL))
        else .done s

/-- `mig.l` and `mig.d` (R394). -/
def migBody (f : Fields) (toL : Bool) (i : Iss) (s : State) : Eff :=
  let id := f.aux % 256
  match s.regionOf? i.w.ctx i.w.region with
  | none => .done s
  | some r =>
    if r.epcnt ≤ id then trapAll i 0x122
    else if !(if toL then r.hasL else r.hasD) then trapAll i 0x121
    else
      let cl := coreCluster i.w.core
      let s := s.upd i fun w => w.passEp id
      if i.w.onL == toL then .done s
      else if !(s.cluster cl).aen then .done (s.countDecline cl)
      else .jump (s.upd i fun w => w.waitMig i.lanes id toL) (i.lanes.map fun l => (l, i.pc))

/-- `mig.l` (R394). -/
def execMigL (f : Fields) (s : State) : Out := issue (.migL f) s (migBody f true)
/-- `mig.d` (R394). -/
def execMigD (f : Fields) (s : State) : Out := issue (.migD f) s (migBody f false)

/-! ### The cluster's queue (R388 to R390, R392) -/

/-- The EP and direction of the `mig` at which a thread waits, with its PC. -/
def Thread.atMig (t : Thread) : Option (Nat × Bool × W64) :=
  match t.st, t.wait with
  | .waiting, .mig id toL => some (id, toL, t.pc)
  | _, _ => none

def State.migReq? (s : State) (w : Warp) : Option MigReq := (s.cluster (coreCluster w.core)).migq.find? fun m => m.warp == w.key

/-- The passive `ep` that holds a warp. -/
def Hold.atEp : Hold → Option (Nat × Bool)
  | .ep id toL => some (id, toL)
  | _ => none

/-- MIGRATION_REQUEST: no live thread is READY: all wait at one `mig`, or those that wait at one are released (R388); the
request of a passive `ep` is formed again after a restoration (R392). -/
def execMigrationRequest (w : Nat) (s : State) : Out :=
  match s.warp? w with
  | none => .next s
  | some x =>
    let ls := x.live
    let migs := ls.filterMap fun l => (x.thread l).atMig
    if (s.migReq? x).isSome || x.saved || !x.stopped.isEmpty then .next s
    else match x.hold.atEp with
    | some (id, toL) => .next (s.formRequest w id toL)
    | none =>
    if migs.isEmpty || (ls.any fun l => (x.thread l).st == .ready) then .next s
    else match migs with
    | m :: rest =>
      if migs.length = ls.length && rest.all fun n => n.2.2 == m.2.2 then .next (s.formRequest w m.1 m.2.1)
      else .next ((s.setWarp x.migDecline).countDecline (coreCluster x.core))
    | [] => .next s

/-- MIGRATION_GRANT: the target has room, and no older request to the same core waits; one that has waited for 4,096 cycles is declined
(R389). -/
def execMigrationGrant (cluster w : Nat) (s : State) : Out :=
  let c := s.cluster cluster
  match c.migq.find? fun m => m.warp == w, s.warp? w with
  | some m, some x =>
    let older := (c.migq.takeWhile fun n => n.warp != w).any fun n => !n.granted && n.core == m.core
    let u := useOf s x m.core 0 0
    if !m.granted && decide (m.time + 4096 ≤ c.cycles.toNat) then .next (s.decline w)
    else if m.granted || older then .next s
    else match placeOne s.uses m.core x.width u.vregs u.priv with
    | none => .next s
    | some p => .next ((s.setCluster cluster { c with migq := c.migq.map fun n =>
        if n.warp == w then { n with granted := true, slot := p.slot, quarter := p.quarter } else n }).setWarp { x with migrating := true })
  | _, _ => .next s

/-- DECLINE: a request not granted within 4,096 cycles (R389). -/
def execDecline (cluster w : Nat) (s : State) : Out :=
  let c := s.cluster cluster
  match c.migq.find? fun m => m.warp == w with
  | some m => if m.granted || decide (c.cycles.toNat < m.time + 4096) then .next s else .next (s.decline w)
  | none => .next s

/-! ### The sequencer (R385, R386, R391, R392) -/

/-- Whether a location of a mapping entry is in range (R386). -/
def locOk (r : Region) (onL : Bool) (x : Nat) : Bool :=
  let i := bitsOf x 0 14
  match bitsOf x 14 2 with
  | 0 => decide (i < r.vregs onL)
  | 1 => decide (i < r.sregs)
  | 2 => decide (4 * i + 4 ≤ r.priv)
  | _ => decide (i ≤ 6)

/-- Whether a mapping entry is valid (R386). -/
def entryOk (r : Region) (x : Nat) : Bool :=
  let d := bitsOf x 16 16
  let l := bitsOf x 0 16
  let kd := bitsOf d 14 2
  let kl := bitsOf l 14 2
  locOk r false d && locOk r true l && (if kd = 1 || kl = 1 || kd = 3 || kl = 3 then kd == kl else true)

/-- The EP record and the mapping entries, as the context reads them (R385). -/
def State.epRecord (s : State) (r : Region) (ep : Nat) : Option (Nat × List Nat) :=
  match s.ctxRead r.ctx (r.kobj + r.epOff + 16 * ep) 16 with
  | none => none
  | some x =>
    let n := bitsOf x 64 16
    if 1024 < n || bitsOf x 80 16 != 0 then some (x, [0xC007C007])
    else ((List.range n).mapM fun k => s.ctxRead r.ctx (r.kobj + bitsOf x 96 32 + 4 * k) 4).map fun es => (x, es)

/-- One mapping entry carried out for a warp: read from the old places, written to the new (R391). -/
def carryEntry (s : State) (old : Warp) (e : Nat) (new : Warp) : State × Warp :=
  let src := if old.onL then bitsOf e 0 16 else bitsOf e 16 16
  let dst := if old.onL then bitsOf e 16 16 else bitsOf e 0 16
  let i := bitsOf src 0 14
  let j := bitsOf dst 0 14
  match bitsOf src 14 2, bitsOf dst 14 2 with
  | 1, _ => (s, { new with s := listAt new.s j fun _ => old.sreg i })
  | 3, _ => (s, new.putAll (old.live.map fun l => ⟨.p l j, BitVec.ofNat 64 (bitOf ((old.thread l).pred i))⟩))
  | k, kd => old.live.foldl (fun (a : State × Warp) l =>
      let v := if k = 0 then ((old.thread l).vreg i).toNat else memNat s.mem (locPriv old.core old.slot l (4 * i)) 4
      if kd = 0 then (a.1, a.2.put ⟨.v l j, BitVec.ofNat 64 v⟩)
      else ({ a.1 with mem := memPutAll a.1.mem (cellsAt (locPriv new.core new.slot l (4 * j)) (bytesOf 4 v)) }, a.2)) (s, new)

/-- The registers and private words of the target before the entries are carried: without a defined value (R69, R188). -/
def migBlank (s : State) (r : Region) (old : Warp) (m : MigReq) : State × Warp :=
  let n := r.vregs m.toL
  let new : Warp := { old with
    core := m.core, slot := m.slot, quarter := m.quarter, onL := m.toL, migrating := false, issues := 0, hold := .free
    s := old.s.map fun _ => 0 }
  (List.range old.width).foldl (fun (a : State × Warp) l =>
    let (v, s) := a.1.freeRegs n
    (s.freeBytes (locPriv m.core m.slot l 0) r.priv, a.2.setThread l fun t => { t with v := v, p := 0 })) (s, new)

/-- The migration of a warp whose entries are valid (R391). -/
def migrateWarp (s : State) (r : Region) (w : Warp) (m : MigReq) (target : Nat) (es : List Nat) : State :=
  let (s, new) := migBlank s r w m
  let (s, new) := es.foldl (fun (a : State × Warp) e => carryEntry a.1 w e a.2) (s, new)
  let pc := nextPc (BitVec.ofNat 64 (r.imageBase m.toL + target))
  -- an acquire at cluster scope from the release of every thread (R311)
  let cov := w.threads.foldl (fun c t => union c t.covered) []
  let new := new.setLanes w.live fun _ t => { threadAcquires cov t with st := .ready, wait := .nothing, pc := pc, age := 0 }
  let cl := coreCluster w.core
  let c := s.cluster cl
  (s.setCluster cl { c with
    migq := c.migq.filter fun n => n.warp != w.key
    migDone := if c.migDone = 0xFFFFFFFF then c.migDone else c.migDone + 1 }).setWarp { new with bundle := w.live }

/-- MIGRATION_SEQUENCE (R311, R391, R392). -/
def execMigrationSequence (w : Nat) (s : State) : Out :=
  match s.warp? w with
  | none => .next s
  | some x => match s.migReq? x, s.regionOf? x.ctx x.region with
    | some m, some r =>
      let still := x.fifo.isEmpty && x.failed.isEmpty && x.loads.isEmpty && x.ld == 0 && x.st == 0 && x.sb.isEmpty && x.queue.isEmpty && x.tileOps.isEmpty &&
        x.barOps.isEmpty && (x.threads.all fun t => gateOpen s x.core 3 t.covered)
      if x.live.any fun l => (x.thread l).task.undoMode || (x.thread l).inEmu then .next (if m.granted then s.decline w else s)
      else if !m.granted || !still || !x.stopped.isEmpty then .next s
      else match s.epRecord r m.ep with
      | none => .next s
      | some (e, es) =>
        if es.all (entryOk r) then .next (migrateWarp s r x m (bitsOf e (if m.toL then 32 else 0) 32) es)
        else
          let cl := coreCluster x.core
          let c := s.cluster cl
          let s := s.setCluster cl { c with migq := c.migq.filter fun n => n.warp != w }
          let y := { (x.setLanes x.live fun _ t => { t with st := .ready, wait := .nothing }) with migrating := false, hold := .free, bundle := x.live }
          let i := issOf y 7 y.bundle
          .next (takeTrap s { i with pfx := none } { cause := 0x123, lanes := x.live })
    | _, _ => .next s

end Sys2Proof.Machine
end

