-- ==== Sys2Proof/Machine/Regions.lean ====
section
/-!
DEFINITION. Regions in common: their control blocks, the tree, suspension, what a block and a warp give back, and the end
of a region (16 R434 to R442, 17 R467, 03 R92).
-/
namespace Sys2Proof.Machine
open Sys2Proof

/-! ### Writes of the machine's own agents through a context's translations (R466) -/

/-- Where an agent without a warp reads or writes a byte of a context: none where the page is not in T0, lacks the
permission, or waits for a copy-on-write break or a move. -/
def State.agentLoc (s : State) (ctx va : Nat) (write : Bool) : Option Nat :=
  match (if va < 2 ^ 57 then s.leafAt ctx va else none) with
  | none => none
  | some l =>
    let loc := s.pageLoc ctx l.level l.e va
    let ok := if write then leafW l.e && !leafCow l.e && (s.packedSlot ctx l.e va).isNone && !s.heldLoc loc else leafR l.e
    if leafTier l.e = 0 && ok then some (s.homeLoc loc) else none

/-- So many bytes, read at the home. -/
def State.agentRead (s : State) (ctx va n : Nat) : Option Nat :=
  ((List.range n).mapM fun j => (s.agentLoc ctx (va + j) false).map (memGet s.mem)).map natOfBytes

/-- The checks that writeBytes asks for, of bytes that can be written. -/
def agentChks (s : State) (ctx va n : Nat) : Option (List LaneChk) :=
  (List.range n).mapM fun j => (s.agentLoc ctx (va + j) true).map fun loc => { lane := 0, addr := BitVec.ofNat 64 (va + j), loc := loc }

/-- Lines of full sets that leave for a block's lines (R182, R352): an agent's write finds room. -/
def State.makeRoom (s : State) (k : Blk) : State :=
  (lineNums k.base k.size).foldl (fun (s : State) n =>
    let p := s.port (homePort k.base)
    let ways := p.waysOf (setOf n) fun _ => true
    if ways.contains n || decide (ways.length < 16) then s
    else match p.lines.reverse.find? fun l => !s.lineHeld l && (l.nums.any fun m => setOf m == setOf n) && s.mayEvict l with
    | some l => s.evict l
    | none => s) s

/-- The bytes of one event at their homes (R296, R353): its number. -/
def State.agentPut (s : State) (ctx va view : Nat) (bs : List Byte) : Option (Nat × State) :=
  match agentChks s ctx va bs.length with
  | none => none
  | some cs =>
    let locs := cs.map (·.loc)
    let k := s.blockOf ctx va (locs.headD 0)
    let s := s.makeRoom k
    let filled := if s.needsFill k then (match s.fillBlock k with
      | .ok plain => some (s.install k plain)
      | .error _ => none) else some s
    match filled with
    | none => none
    | some s =>
      let (wid, s) := s.newWid
      let s := locs.foldl (fun s l => s.repair locs l) s
      some (wid, (enterOrder s wid (locs.zip bs) view).touchLine k locs (agentTag s ctx))

/-- A release of an agent that is in its device: what it covers (R302, R303, R431). -/
def State.agentRelease (s : State) (wid scope agent : Nat) (covered : List Nat) : State :=
  s.addMeta { wid := wid, release := true, scope := scope, core := agent, warp := 2 ^ 32, covered := covered, heads := [wid] }

/-- A field of a control block written by the command processor; left as it is where the page cannot be written. -/
def State.cpWord (s : State) (ctx va n val : Nat) : State :=
  match s.agentPut ctx va cpView (bytesOf n val) with
  | some (_, t) => t
  | none => s

/-! ### The tree (R434, R435) -/

/-- A number that names a region: its context above the 40 bits of its RCB address. -/
def Region.key (r : Region) : Nat := r.ctx * 2 ^ 40 + r.rcb
def State.keyed? (s : State) (key : Nat) : Option Region := s.regionOf? (key / 2 ^ 40) (key % 2 ^ 40)

/-- A region and its ancestors, with fuel for the seven levels. -/
def State.ancestors (s : State) (ctx rcb : Nat) : Nat → List Region
  | 0 => []
  | n + 1 => match s.regionOf? ctx rcb with
    | none => []
    | some r => r :: (if r.parent = 0 then [] else s.ancestors ctx r.parent n)

def State.chain (s : State) (r : Region) : List Region := s.ancestors r.ctx r.rcb 9

/-- The regions of the subtree of an RCB. -/
def State.subtree (s : State) (ctx rcb : Nat) : List Region :=
  s.regions.filter fun r => r.ctx == ctx && (s.chain r).any fun a => a.rcb == rcb

def RState.code : RState → Nat
  | .idle => 0 | .pending => 1 | .running => 2 | .suspended => 3 | .complete => 4 | .killed => 5

/-- A region that has not ended. -/
def Region.alive (r : Region) : Bool := r.state == .pending || r.state == .running || r.state == .suspended

/-- Resident blocks of some regions. -/
def State.blocksOfRegions (s : State) (rs : List Region) : List Block :=
  s.blocks.filter fun b => rs.any fun r => r.ctx == b.ctx && r.rcb == b.region

/-- D-cores and L-cores that the subtree of a region holds (R437). -/
def State.held (s : State) (ctx rcb : Nat) : List Nat × List Nat :=
  let cs := union [] ((s.blocksOfRegions (s.subtree ctx rcb)).flatMap fun b => b.allots.map (·.core))
  (cs.filter fun c => !coreIsL c, cs.filter coreIsL)

/-- SHARE of a region and of its ancestors (R434). -/
def State.writeShare (s : State) (r : Region) : State :=
  (s.chain r).foldl (fun s a =>
    let h := s.held a.ctx a.rcb
    s.cpWord a.ctx (a.rcb + 88) 8 (h.1.length + h.2.length * 2 ^ 16 + (a.used.map (·.2)).foldl max 0 % 2 ^ 32 * 2 ^ 32)) s

/-- Writes that a region's completion is to cover beside those of its freed warps (R431). -/
def State.coverWarps (s : State) (ws : List Warp) : State :=
  ws.foldl (fun s w => s.coverRegion w.ctx w.region (w.threads.foldl (fun c t => union c t.covered) [])) s

/-- STATE changes (R434). -/
def State.setRState (s : State) (r : Region) (st : RState) : State :=
  if r.state = st then s else (s.setRegion { r with state := st }).cpWord r.ctx (r.rcb + 144) 8 st.code

/-! ### Suspension (R467, R475, R478) -/

def Rec.needRes (r : Rec) : Bool := bitsOf (r.words.getD 0 0).toNat 10 1 == 1
def Rec.cause (r : Rec) : Nat := bitsOf (r.words.getD 0 0).toNat 0 9
/-- Outstanding: written, and not resolved (R468). -/
def Rec.outstanding (r : Rec) : Bool := r.needRes && r.written && !r.resolved && !r.toService

/-- The region whose ring and policy are in force for a record (R435, R467). -/
def State.domainOf (s : State) (r : Rec) : Option Region :=
  (s.regionOf? r.ctx r.region).bind fun x => s.regionOf? r.ctx x.faultRegion

/-- Whether a region stands still: a record of a domain with POLICY 0, a debugger halt or a tocsin of it or of an ancestor. -/
def State.halted (s : State) (r : Region) : Bool :=
  (s.chain r).any fun a => a.tocStop || s.recs.any fun x => x.ctx == a.ctx && x.outstanding &&
    (if x.toDebug then x.region == a.rcb else (s.domainOf x).any fun d => d.rcb == a.rcb && d.policy == 0)

/-- A warp at its last instruction boundary: a unit of prefix and target is not split (R51). -/
def Warp.unitBack (w : Warp) : Warp :=
  match w.pfx with
  | some p => { w.setLanes w.bundle (fun _ t => { t with pc := p.pc }) with pfx := none }
  | none => w

/-- The regions and warps of a context stand still or go on as their records say. -/
def State.settle (s : State) (ctx : Nat) : State :=
  (s.regions.filter fun r => r.ctx == ctx).foldl (fun s r =>
    let h := s.halted r
    let s := if h && r.state == .running then s.setRState r .suspended
      else if !h && r.state == .suspended then s.setRState r .running else s
    { s with warps := s.warps.map fun w => if w.ctx == ctx && w.region == r.rcb then
        (if h && !w.suspended then { w.unitBack with suspended := true } else { w with suspended := h }) else w }) s

/-! ### What warps and blocks give back (R92, R241, R448) -/

/-- Warps leave without finishing: FIFO entries, copies, tile operations, waits and requests are dropped; the region's completion covers
what they wrote (R262, R311, R431, R448). A `ctload` of theirs has ended. -/
def State.dropWarps (s : State) (keys : List Nat) : State :=
  let ws := s.warps.filter fun w => keys.contains w.key
  let s := s.coverWarps ws
  let s := ws.foldl (fun s w => if w.hold == .again then s.setContext w.ctx { s.context w.ctx with ctBusy := false } else s) s
  let s := ws.foldl (fun s w => w.tileOps.foldl (fun s o => s.dropTile o.core o.tile) s) s
  let s := (union [] (ws.map Warp.homeCore)).foldl (fun s c => s.abandonCopies c keys) s
  { s with
    warps := s.warps.filter fun w => !keys.contains w.key
    qwaits := s.qwaits.filter fun q => !keys.contains q.warp
    ports := s.ports.map fun p => (p.1, { p.2 with breqs := p.2.breqs.filter fun r => !keys.contains r.warp })
    clusters := s.clusters.map fun c => (c.1, { c.2 with migq := c.2.migq.filter fun m => !keys.contains m.warp })
    cores := s.cores.map fun c => (c.1, { c.2 with atab := c.2.atab.filter fun a => !keys.contains a.1 }) }

/-- The region's clusters no longer asked of it, and its quantum there from 0 (R448). -/
def Region.left (r : Region) (cl : Nat) : Region :=
  { r with preempt := r.preempt.filter fun p => p.1 != cl, used := kvDel r.used cl }

/-- A region whose last block has gone from a cluster that was asked of it has left it (R446, R448). -/
def State.leaveCluster (s : State) (ctx rcb cl : Nat) : State :=
  match s.regionOf? ctx rcb with
  | none => s
  | some r =>
    if (r.preempt.any fun p => p.1 == cl) && !((s.blocksOfRegions [r]).any fun b => b.cluster == cl) then (s.setRegion (r.left cl)).writeShare r
    else s

/-- A block's tiles, barriers, queues and reservation are freed with it (R92, R228, R230, R241, R274). -/
def State.freeBlock (s : State) (b : Block) : State :=
  let s := b.allots.foldl (fun s a =>
    let s := s.abandonMatrix a.core [b.id]
    let c := s.core a.core
    s.setCore a.core { c with
      nbars := (List.range b.nbars).foldl (fun l k => kvDel l (a.nBase + k)) c.nbars
      queues := (List.range b.queues).foldl (fun l k => kvDel l (a.qBase + k)) c.queues
      tiles := (List.range b.tiles).foldl (fun l k =>
        let t := kvGet l (a.tBase + k) {}
        if t.inUse then kvSet l (a.tBase + k) t.freed else l) c.tiles }) s
  { s with blocks := s.blocks.filter fun x => x.id != b.id }

/-- Grants of the tasks of some warps dropped without replay (R418, R467). -/
def State.dropAllGrants (s : State) (ws : List Warp) : State :=
  ws.foldl (fun s w => w.threads.foldl (fun s t => if t.task.live then s.dropGrants w.ctx t.task.seq none else s) s) s

/-! ### The end of a region (R442, R444, R467, R472) -/

/-- The command of a region completes, or its graph goes on (R442, R444). -/
def State.endLaunch (s : State) (r : Region) (covered : List Nat) : State :=
  match s.cmd? r.ctx r.queue r.cmd with
  | none => s
  | some c =>
    if c.opc = 2 then s.setCmd r.ctx r.queue { c with run := false, covered := union c.covered covered }
    else s.finishCmd r.ctx r.queue r.cmd covered

/-- STATE of an ended region, a release at system scope of the region's writes (R442). -/
def State.closeRegion (s : State) (r : Region) (st : RState) (covered : List Nat) : State :=
  let s := s.setRegion { r with state := st, spawnq := [], redo := [], tocStop := false, preempt := [] }
  let s := match s.agentPut r.ctx (r.rcb + 144) cpView (bytesOf 8 st.code) with
    | some (wid, t) => t.agentRelease wid 5 cpView covered
    | none => s
  s.endLaunch r covered

/-- What KILL does to what a record of a killed region holds outside its warps: a line, the lines of a `cwb.sync`, a COPY (R467). -/
def State.killHeld (s : State) (r : Rec) : State :=
  match r.acts with
  | .line _ pa => s.resolveLine pa 1
  | .sync _ _ pas => pas.foldl (State.resolveSync 1) s
  | .copy core id _ _ => if 1000 ≤ core then s.resolveCp (core - 1000) id 1 else s
  | _ => s

/-- A region and its subtree are killed: each of its records is resolved as KILL, and each LAUNCH completes, a release of every write
of the region, which stand in every view by then (R431, R467, R472). A debugger halt of theirs ends (R475). -/
def State.killTree (s : State) (ctx rcb : Nat) : State :=
  let rs := (s.subtree ctx rcb).filter Region.alive
  let mine (c k : Nat) : Bool := rs.any fun r => r.ctx == c && r.rcb == k
  let ws := s.allWarps.filter fun w => mine w.ctx w.region
  let open_ := s.recs.filter fun x => mine x.ctx x.region && !x.resolved
  let fills := open_.map fun x => (bitsOf (x.words.getD 2 0).toNat 32 16, s.failedBlocks x)
  let s := s.coverWarps (s.saves.flatMap fun x => x.warps.filter fun w => mine w.ctx w.region)
  let s := s.dropAllGrants ws
  let s := s.dropWarps (ws.map (·.key))
  let s := (s.blocksOfRegions rs).foldl State.freeBlock s
  let s := rs.foldl State.writeShare s
  let s := { s with
    saves := s.saves.filter fun x => !mine x.block.ctx x.block.region
    recs := s.recs.map fun (x : Rec) => if mine x.ctx x.region then { x with resolved := true } else x }
  let s := open_.foldl State.killHeld s
  let s := fills.foldl (fun s x => s.chargeNext x.1 x.2) s
  let s := rs.foldl (fun s r => match s.regionOf? r.ctx r.rcb with
    | some x => (reachAll s x.covered).closeRegion x .killed x.covered
    | none => s) s
  let c := s.context ctx
  (s.setContext ctx { c with halted := s.recs.any fun x => x.ctx == ctx && x.toDebug && x.written && !x.resolved }).settle ctx

/-! ### WARP_FREE (R92, R93, R274, R442, R447) -/

/-- Whether a record that has not been resolved acts on an operation of a warp (R93). -/
def State.holdsWarp (s : State) (key : Nat) : Bool :=
  s.recs.any fun r => !r.resolved && (match r.acts with
    | .store w _ | .atomic w _ | .load w _ _ => w == key
    | _ => false)

/-- The time of a finished block counted in its region's mean (R447). -/
def State.countBlock (s : State) (b : Block) : State :=
  match s.regionOf? b.ctx b.region with
  | none => s
  | some r => (s.setRegion { r with freed := r.freed + 1, meanSum := r.meanSum + (s.tick.toNat - b.started), meanCt := r.meanCt + 1 }).writeShare r

/-- WARP_FREE: a DRAINING warp whose operations are over frees what it holds; its block goes with its last warp. R92 names the
counters and the slots; an entry of its special-function queue, a tile operation or a barrier update that is not over holds
the warp too (DEDUCED, log 38). -/
def execWarpFree (w : Nat) (s : State) : Out :=
  match s.warp? w with
  | none => .next s
  | some x =>
    if !x.draining || x.ld != 0 || x.st != 0 || x.cp != 0 || x.tm != 0 || !x.sb.isEmpty || !x.fifo.isEmpty || !x.failed.isEmpty ||
        !x.loads.isEmpty || !x.queue.isEmpty || !x.tileOps.isEmpty || !x.barOps.isEmpty || !x.stopped.isEmpty || s.holdsWarp w then .next s
    else
      let s := s.coverWarps [x]
      let trigd := (x.threads.filter (·.triggered)).length
      let swaps := x.threads.foldl (fun c t => union c t.swapCov) []
      let s := { s with
        warps := s.warps.filter fun y => y.key != w
        blocks := s.blocks.map fun (b : Block) => if b.id == x.block then { b with trigd := b.trigd + trigd, swapCov := union b.swapCov swaps } else b }
      if s.warps.any fun y => y.block == x.block then .next s
      else match s.block? x.block with
      | none => .next s
      | some b => .next (((s.freeBlock b).countBlock b).leaveCluster b.ctx b.region b.cluster)

end Sys2Proof.Machine
end

