-- ==== Sys2Proof/Machine/Faults.lean ====
section
/-!
DEFINITION. Rings, resolution, `trap`, `brk`, `fres`, host kills and the tocsin (17 R462 to R478).
-/
namespace Sys2Proof.Machine
open Sys2Proof

/-! ### `trap` and `brk` (R474, R475) -/

/-- `trap` (R474). -/
def execTrap (f : Fields) (s : State) : Out :=
  issueSplit (.trap f) s (allScalar f) {} fun i _ =>
    let v := if f.a = 0xF1 then f.im else readReg i.w f.a 0 true i.low
    trapAll i (0x170 + f.aux % 16) (BitVec.ofNat 64 v)

/-- `brk` (R475): the debugger takes it where DEN is set. -/
def execBrk (f : Fields) (s : State) : Out :=
  issueSplit (.brk f) s (allScalar f) {} fun i s =>
    .trap { cause := 0x162, lanes := i.lanes, detail := BitVec.ofNat 64 (f.aux % 65536), debug := (s.context i.w.ctx).den }

/-! ### What a resolution does (R469, R470) -/

/-- Threads of a mask that a KILL takes: a live task aborts first and then exits (R417, R469). -/
def State.killThreads (s : State) (key : Nat) (m : W64) : State :=
  match s.warp? key with
  | none => s
  | some w =>
    let ls := (lanesOf m).filter fun l => decide (l < w.width) && (w.thread l).st != .exited
    let tasks := ls.filter fun l => (w.thread l).task.live
    let s := tasks.foldl (fun s l => s.enterUndo key l true) s
    let rest := ls.filter fun l => !(w.thread l).task.live
    if rest.isEmpty then s else s.exitThreads key rest ((w.thread (rest.headD 0)).pc)

/-- The threads that a fault stopped go on behind a unit of so many slots (R51, R469). -/
def Warp.skipUnit (w : Warp) (lanes : List Nat) (unit : Nat) : Warp :=
  w.pass (lanes.map fun l => (l, if unit = 2 then nextPc (nextPc (w.thread l).pc) else nextPc (w.thread l).pc))

/-- An entry in its place of issue order. -/
def insertEnt (e : FifoEnt) : List FifoEnt → List FifoEnt
  | [] => [e]
  | x :: r => if e.wid < x.wid then e :: x :: r else x :: insertEnt e r

/-- Failed entries of an instruction back in their FIFO, in issue order (R299, R469). -/
def Warp.reissue (w : Warp) (op : Nat) : Warp :=
  { w with
    fifo := (w.failed.filter fun e => e.op == op).foldr (fun e l => insertEnt { e with why := none, soft := false } l) w.fifo
    failed := w.failed.filter fun e => e.op != op
    blocked := w.blocked.filter fun x => x != op }

/-- Entries of an instruction dropped, those of some lanes or all; its count drops or its slot frees with the last. -/
def Warp.dropOp (w : Warp) (op : Nat) (lanes : Option (List Nat)) (ret : Bool) : Warp :=
  let quiet := (w.fifo ++ w.failed).any fun e => e.op == op && e.quiet
  let keep (e : FifoEnt) : Bool := e.op != op || (lanes.any fun ls => !ls.contains e.lane)
  let w := { w with fifo := if lanes.isNone then w.fifo else w.fifo.filter keep, failed := w.failed.filter fun e => e.op != op
                    blocked := w.blocked.filter fun x => x != op }
  if quiet || ((w.fifo ++ w.failed).any fun e => e.op == op) then w
  else if ret then { w with sb := w.sb.filter fun b => b.1 != op } else { w with st := w.st - 1 }

/-- The warp that a resolution acts on. -/
def Resolves.warp? : Resolves → Option Nat
  | .replay w _ | .sync w _ _ | .fp w _ _ | .after w _ _ _ | .load w _ _ | .store w _ | .atomic w _ => some w
  | _ => none

/-- The core that holds a copy record now. -/
def State.copyCore (s : State) (id : Nat) : Option Nat :=
  (s.cores.find? fun c => c.2.recs.any fun r => r.id == id).map (·.1)

/-- What a resolution does to what its record names. Under a KILL the other threads of the bundle stay at the instruction, whatever its
cause: R469's third row says 'with no replay', and R499 has the lanes beside TMASK replay it (DEDUCED, log 35). -/
def State.actOn (s : State) (r : Rec) (mode : Nat) : State :=
  let s := s.unstop r.id
  let mask := r.words.getD 5 0
  match r.acts with
  | .nothing => s
  | .replay w m => if mode = 1 then s.killThreads w m else s
  | .fp w m ls => if mode = 1 then s.killThreads w m else s.withWarp w fun w => { w with trapsOff := union w.trapsOff ls }
  | .after w m ls unit => if mode = 1 then s.killThreads w m else s.withWarp w fun w => w.skipUnit ls unit
  | .load w id m => match s.warp? w with
    | none => s
    | some x => match x.loads.find? fun l => l.id == id with
      | none => s
      | some ld =>
        let hit (y : LoadLane) : Bool := (lanesOf m).contains y.lane
        if mode = 1 then
          (settleLoad (s.setWarp (x.setLoad { ld with lanes := ld.lanes.filter fun y => !hit y })) w id).killThreads w m
        else s.setWarp (x.setLoad { ld with lanes := ld.lanes.map fun y => if hit y then { y with why := none, again := true } else y })
  | .store w op =>
    let deferred := bitsOf (r.words.getD 0 0).toNat 9 1 == 1
    if mode != 1 then s.withWarp w fun w => w.reissue op
    else if deferred then s.withWarp w fun w => w.dropOp op none false
    else (s.withWarp w fun w => w.dropOp op (some (lanesOf mask)) false).killThreads w mask
  | .atomic w op =>
    if mode != 1 then s.withWarp w fun w => w.reissue op
    else (s.withWarp w fun w => w.dropOp op (some []) true).killThreads w mask
  | .copy core id atStart sized =>
    if 1000 ≤ core then s.resolveCp (core - 1000) id mode
    else match s.copyCore id with
    | some c => s.resolveCopy c id atStart sized mode
    | none => s
  | .line _ pa => s.resolveLine pa mode
  | .sync w m pas =>
    let s := pas.foldl (State.resolveSync mode) s
    if mode = 1 then s.killThreads w m else s
  | .tocsin key => match s.keyed? key with
    | none => s
    | some x => if mode = 1 then s.killTree x.ctx x.rcb else s.setRegion { x with count := 0, tocStop := false }

/-- The effect of a resolution: RESUME 0, KILL 1, RESUME-WITH-REBIND 2 (R469). After a KILL the next access that waits on the
fills that the record was charged with takes their fault (R198). -/
def State.applyRes (s : State) (r : Rec) (mode : Nat) : State :=
  if mode = 1 then (s.actOn r mode).chargeNext (bitsOf (r.words.getD 2 0).toNat 32 16) (s.failedBlocks r) else s.actOn r mode

/-- Whether what a record names is saved by pre-emption (R433, R470): its warp or its copy; for a held line and for a tocsin every
block of the record's region. -/
def State.isSaved (s : State) (r : Rec) : Bool :=
  let region (ctx rcb : Nat) : Bool := (s.saves.any fun x => x.block.ctx == ctx && x.block.region == rcb) &&
    !(s.blocks.any fun b => b.ctx == ctx && b.region == rcb)
  match r.acts with
  | .copy core id _ _ =>
    if 1000 ≤ core then (s.cmd? (core - 1000) (id % 16) (id / 16)).any (·.saved)
    else s.saves.any fun x => x.cores.any fun c => c.2.recs.any fun k => k.id == id
  | .line _ _ => region r.ctx r.region
  | .tocsin key => region (key / 2 ^ 40) (key % 2 ^ 40)
  | a => (a.warp?).any fun w => s.saves.any fun x => x.warps.any fun y => y.key == w

/-- A record resolved: at once, or when its region is restored (R469, R470). -/
def State.resolve (s : State) (r : Rec) (mode : Nat) : State :=
  if s.isSaved r then s.setRec { r with resolved := true, later := some mode }
  else ((s.setRec { r with resolved := true }).applyRes r mode).settle r.ctx

/-- The outstanding record of a context at a ring slot whose ALLOW has the mode (R464, R468, R476). -/
def State.resolvable (s : State) (ctx : Nat) (slot : W64) (mode : Nat) : Option Rec :=
  s.recs.find? fun r => r.ctx == ctx && r.outstanding && !r.toDebug && r.slot == some slot && bitsOf (r.words.getD 0 0).toNat (14 + mode) 1 == 1

/-! ### `fres` (R476) -/

/-- Whether a record names a warp: not one that has come into the slot of a freed warp (R93). -/
def Rec.names (r : Rec) (w : Warp) : Bool := r.acts.warp? == some w.key || r.who == some w.key

/-- The lanes of a warp that a resolution has replay or retry what its record names: the whole bundle that a precise fault stopped,
else the lanes of the record (R469, R476). -/
def Resolves.lanesOf (a : Resolves) (w : Warp) (mask : W64) : List Nat :=
  match a with
  | .replay _ _ | .fp _ _ _ | .after _ _ _ _ | .sync _ _ _ => union w.bundle (Machine.lanesOf mask)
  | _ => Machine.lanesOf mask

/-- The replay or the retry that a `fres` starts acquires from it, also in a saved warp and in a copy engine (R476). A line that is
written back again is read at its home, where it holds every write. -/
def State.acquireFrom (s : State) (r : Rec) (cov : List Nat) : State :=
  let mask := r.words.getD 5 0
  match r.acts.warp? with
  | some k =>
    let learn (w : Warp) : Warp := if w.key = k then w.setLanes (r.acts.lanesOf w mask) fun _ t => threadAcquires cov t else w
    { s with warps := s.warps.map learn, saves := s.saves.map fun x => { x with warps := x.warps.map learn } }
  | none => match r.acts with
    | .copy core id _ _ =>
      if 1000 ≤ core then (match s.cmd? (core - 1000) (id % 16) (id / 16) with
        | some c => s.setCmd (core - 1000) (id % 16) { c with covered := union c.covered cov }
        | none => s)
      else
        let learn (c : Core) : Core := { c with recs := c.recs.map fun (x : CopyRec) => if x.id == id then
          { x with pieces := x.pieces.map fun p => { p with wids := union p.wids cov } } else x }
        { s with
          cores := s.cores.map fun c => (c.1, learn c.2)
          saves := s.saves.map fun x => { x with cores := x.cores.map fun c => (c.1, learn c.2) } }
    | _ => s

/-- `fres` (R476): a release at device scope, which the replay or the retry acquires from. It waits for what the older loads of
its lanes read (R301). -/
def fresBody (f : Fields) (mode : Nat) (i : Iss) (s : State) : Eff :=
  let a : W64 := BitVec.ofNat 64 (readReg i.w f.a 0 true i.low) + f.imm.signExtend 64
  let cov := i.w.coveredBy i.lanes
  let pred (ok : Bool) : List RegWrite := i.lanes.flatMap fun l => destWrites f.d false l (bitOf ok)
  if i.w.busyLanes i.lanes || !gateOpen s i.w.core 4 cov then .hold (i.back s)
  else match s.resolvable i.w.ctx a mode with
  | none => writeEff i s (pred false)
  | some r =>
    if r.names i.w then writeEff i s (pred false)
    else
      writeEff i ((s.acquireFrom r cov).resolve r mode) (pred true)

/-- `fres.resume` (R476). -/
def execFresResume (f : Fields) (s : State) : Out := issueSplit (.fresResume f) s (allScalar f) {} (fresBody f 0)
/-- `fres.kill` (R476). -/
def execFresKill (f : Fields) (s : State) : Out := issueSplit (.fresKill f) s (allScalar f) {} (fresBody f 1)
/-- `fres.rebind` (R476). -/
def execFresRebind (f : Fields) (s : State) : Out := issueSplit (.fresRebind f) s (allScalar f) {} (fresBody f 2)

/-! ### Rings (R465 to R468) -/

/-- A page below T0 that an agent needs is asked for (R466). -/
def State.bringUp (s : State) (ctx va : Nat) : State :=
  match s.leafAt ctx va with
  | some l => if leafTier l.e = 0 || s.paging.batches.any (fun b => b.ctx == ctx && b.pages.contains l.va) then s else s.addBatch ctx [l.va] none none
  | none => s

/-- Whether a ring has no room: producer minus consumer has reached its size (R465). -/
def ringFull (r : Region) (ridx : Nat) : Bool :=
  decide (2 ^ r.rlog ≤ (ridx % 2 ^ 32 + 2 ^ 32 - ridx / 2 ^ 32 % 2 ^ 32) % 2 ^ 32)

/-- The warp that a record names, by its number: a warp that has come into a freed warp's slot is another (R93). -/
def Rec.warp? (r : Rec) : Option Nat := r.acts.warp?.orElse fun _ => r.who

/-- Two records of one warp. -/
def Rec.sameWarp (x y : Rec) : Bool := x.warp?.isSome && x.warp? == y.warp?

/-- A trap of a queue entry comes before another record of its warp (R136), also as the fault in undo mode that it is for a task there,
whose DETAIL names it (R418). -/
def Rec.rank (r : Rec) : Nat :=
  let cause := if r.cause = 0x144 then bitsOf (r.words.getD 7 0).toNat 0 9 else r.cause
  if 0x040 ≤ cause && cause ≤ 0x044 then 0 else 1

/-- Whether a record of one warp comes before another. -/
def Rec.before (x y : Rec) : Bool := decide (x.rank < y.rank) || (x.rank == y.rank && decide (x.id < y.id))

/-- Records that wait for a ring, each the first of its warp. -/
def State.waitingRecs (s : State) : List Rec :=
  let ws := s.recs.filter fun r => !r.written && !r.toService && !r.toDebug
  ws.filter fun r => !ws.any fun x => x.id != r.id && x.sameWarp r && x.before r

/-- Whether a record is next in its ring: the order of its warp, and increasing causes within a tick (R465). -/
def State.isNext (s : State) (r : Rec) : Bool :=
  let ws := s.waitingRecs
  let dom (x : Rec) : Option Nat := (s.domainOf x).map (·.rcb)
  (ws.any fun x => x.id == r.id) &&
  !(ws.any fun x => x.id != r.id && x.ctx == r.ctx && dom x == dom r && x.tick == r.tick &&
    (decide (x.cause < r.cause) || (x.cause == r.cause && decide (x.id < r.id))))

/-- The POLICY of a written record (R418, R467). -/
def State.applyPolicy (s : State) (r : Rec) (d : Region) : State :=
  if r.cause = 0x143 || r.cause = 0x144 then s.killTree r.ctx r.region
  else if !r.needRes then s
  else if d.policy = 1 then s.killTree d.ctx d.rcb
  else s.settle r.ctx

/-- Where a ring's next record goes, for a producer index. -/
def ringSlot (d : Region) (p : Nat) : Nat := d.ring.toNat + 64 * (p % 2 ^ d.rlog)

/-- Whether a page cannot be had for an agent's access: it is unmapped or lacks the permission, which a page below T0 is not asked
before it has come (R466). -/
def State.agentLacks (s : State) (ctx va : Nat) (write : Bool) : Bool :=
  match (if va < 2 ^ 57 then s.leafAt ctx va else none) with
  | none => true
  | some l => leafTier l.e == 0 && (if write then !leafW l.e || (s.packedSlot ctx l.e va).isSome || (leafCow l.e && !s.canBreak ctx l.e) else !leafR l.e)

/-- Whether a record waits as for a full ring: the ring has no room, the slot's record is outstanding, the context holds 4,096
outstanding records, or RIDX or the slot cannot be read or written (R465, R466, R468). -/
def State.ringStops (s : State) (d : Region) (needRes : Bool) : Bool :=
  let idx := d.rcb + 112
  let out := s.recs.filter fun x => x.ctx == d.ctx && x.outstanding
  (needRes && decide (4096 ≤ out.length)) ||
  match s.agentRead d.ctx idx 8 with
  | none => s.agentLacks d.ctx idx false
  | some x =>
    let slot := ringSlot d (x % 2 ^ 32)
    ringFull d x || (out.any fun y => y.slot == some (BitVec.ofNat 64 slot)) || s.agentLacks d.ctx slot true || s.agentLacks d.ctx idx true

/-- The pages of a record's slot and of RIDX are made ready: promoted, or broken from a copy-on-write frame (R327, R466). -/
def State.readyRing (s : State) (ctx : Nat) (vas : List Nat) : State :=
  vas.foldl (fun s va => (match s.leafAt ctx va with
    | some l => if leafTier l.e = 0 && leafCow l.e then { s with paging := { s.paging with
        cowWaits := if s.paging.cowWaits.contains (ctx, l.va) then s.paging.cowWaits else s.paging.cowWaits ++ [(ctx, l.va)] } } else s
    | none => s).bringUp ctx va) s

/-- FAULT_RECORD: a record goes to the memory service, to the debug ring, or into its region's ring (R340, R465 to R468,
R475). -/
def execFaultRecord (rec_ : Nat) (s : State) : Out :=
  match s.rec? rec_ with
  | none => .next s
  | some r =>
    let queued := (r.acts.warp?).any fun k => (s.warp? k).any fun w => !w.queue.isEmpty
    if r.written || queued then .next s
    else if r.toService then .next (s.setRec { r with written := true })
    else if r.toDebug then
      let c := s.context r.ctx
      .next (((s.setRec { r with written := true }).setContext r.ctx { c with halted := true }).settle r.ctx)
    else match s.domainOf r with
    | none => .next s
    | some d =>
      if !s.isNext r then .next s
      else match s.agentRead d.ctx (d.rcb + 112) 8 with
      | none => .next (s.bringUp d.ctx (d.rcb + 112))
      | some ridx =>
        let p := ridx % 2 ^ 32
        let slot := ringSlot d p
        if s.ringStops d r.needRes then .next s
        else match agentChks s d.ctx slot 64, agentChks s d.ctx (d.rcb + 112) 4 with
        | some cs, some _ =>
          let s := s.makeRoom (s.blockOf d.ctx slot (s.homeLoc ((cs.headD { lane := 0, addr := 0 }).loc)))
          let (ws, t) := writeBytes s d.ctx hostView (agentTag s d.ctx) cs (r.words.flatMap fun x => bytesOf 8 x.toNat)
          -- the release of RIDX covers the record's bytes: they stand in every view
          let t := reachAll t ws
          (match t.agentPut d.ctx (d.rcb + 112) hostView (bytesOf 4 ((p + 1) % 2 ^ 32)) with
           | none => .next s
           | some (wid, t) =>
             let t := t.agentRelease wid 5 cpView ws
             let t := if d.msien then { t with dev := { t.dev with msix := t.dev.msix ++ [(d.ctx, d.vector)] } } else t
             .next ((t.setRec { r with written := true, slot := some (BitVec.ofNat 64 slot) }).applyPolicy r d))
        | _, _ => .next (s.readyRing d.ctx [slot, d.rcb + 112])

/-! ### The tocsin (R466, R477, R478) -/

/-- TOCSIN: a region's count has reached its limit; where its record would wait as for a full ring, the region is killed (R466). -/
def execTocsin (region : Nat) (s : State) : Out :=
  match s.keyed? region with
  | none => .next s
  | some r =>
    if r.tocsin = 0 || decide (r.count < r.tocsin) || r.tocStop || !r.alive then .next s
    else
      let s := (s.setRegion { r with tocStop := true }).settle r.ctx
      if (s.regionOf? r.ctx r.faultRegion).any fun d => s.ringStops d true then
        let t := s.killTree r.ctx r.rcb
        .next { t with dev := { t.dev with devlog := t.dev.devlog ++ [0x167 + 512 * r.key] } }
      else .next (agentRec s r.ctx r.rcb 0x160 0 r.count (.tocsin r.key))

/-! ### Host software (R471, R472, R475) -/

/-- FRESGO, in the word that holds FRESMODE too: FRESOK says whether it took effect. -/
def hostFres (mode ctx : Nat) (s : State) : State :=
  let s := s.setContext ctx { s.context ctx with fresMode := mode }
  let c := s.context ctx
  match s.resolvable ctx c.fresAddr mode with
  | none => s.setContext ctx { c with fresOk := false }
  | some r => let s := s.resolve r mode
    s.setContext ctx { s.context ctx with fresOk := true }

/-- HOST_FRES_RESUME (R471). -/
def execHostFresResume (ctx : Nat) (s : State) : Out := .next (hostFres 0 ctx s)
/-- HOST_FRES_KILL (R471). -/
def execHostFresKill (ctx : Nat) (s : State) : Out := .next (hostFres 1 ctx s)
/-- HOST_FRES_REBIND (R471). -/
def execHostFresRebind (ctx : Nat) (s : State) : Out := .next (hostFres 2 ctx s)

/-- One region killed, with its HOST_KILL record (R463, R472). -/
def State.hostKill (s : State) (r : Region) (reset : Bool) : State :=
  agentRec (s.killTree r.ctx r.rcb) r.ctx r.rcb 0x168 0 (BitVec.ofNat 64 (r.rcb + bitOf reset * 2 ^ 63)) .nothing

/-- HOST_KILL: KILLGO (R472). -/
def execHostKill (ctx : Nat) (s : State) : Out :=
  let c := s.context ctx
  match (s.regionOf? ctx c.killAddr.toNat).filter Region.alive with
  | none => .next (s.setContext ctx { c with killOk := false })
  | some r =>
    let s := s.hostKill r false
    .next (s.setContext ctx { s.context ctx with killOk := true })

/-- FUNCTION_RESET: every region of the context is killed, also one whose root has ended, with one record for each root (R472). -/
def execFunctionReset (ctx : Nat) (s : State) : Out :=
  .next ((s.regions.filter fun r => r.ctx == ctx && r.parent == 0 && (s.subtree ctx r.rcb).any Region.alive).foldl (fun s r => s.hostKill r true) s)

/-- CDBGCTL_RUN: every debugger halt of a context ends (R475). -/
def execCdbgctlRun (ctx : Nat) (s : State) : Out :=
  let s := (s.recs.filter fun r => r.ctx == ctx && r.toDebug && r.written && !r.resolved).foldl (fun s r => s.resolve r 0) s
  .next (s.setContext ctx { s.context ctx with halted := false })

end Sys2Proof.Machine
end

