-- ==== Sys2Proof/Machine/Queues.lean ====
section
/-!
DEFINITION. The command queues: how a command starts, WAIT, SIGNAL and COPY (16 R428 to R433).
-/
namespace Sys2Proof.Machine
open Sys2Proof

/-- The partition of a context (R427): its number is partition × 8 + slot. -/
def State.partition (s : State) (ctx : Nat) : Partition := kvGet s.parts (ctx / 8) { clusters := [] }
def State.setPartition (s : State) (ctx : Nat) (p : Partition) : State :=
  if kvHas s.parts (ctx / 8) then { s with parts := kvSet s.parts (ctx / 8) p } else s

/-! ### Starting a command (R428 to R432) -/

/-- The address of the slot of a queue's next command (R429). -/
def CQueue.slotVa (x : CQueue) : Nat := x.base.toNat / 64 * 64 + 64 * (x.next.toNat % 2 ^ x.qlog)

/-- Whether the queue may start another command (R428, R432, R492). -/
def State.queueOpen (s : State) (x : CQueue) : Bool := s.dev.stage == 11 && x.en && !x.err && x.next != x.tail

/-- Whether a command must wait for commands before it: SERIAL for all of them, a SIGNAL for the one before (R429, R430). -/
def CQueue.mustWait (x : CQueue) (w0 : Nat) : Bool :=
  (bitsOf w0 8 1 == 1 && x.cmds.any fun c => !c.done) || (bitsOf w0 0 8 == 4 && x.cmds.getLast?.any fun c => !c.done)

/-- The eight words of a queue's next command, if it can start now (R430). -/
def State.readyCmd (s : State) (ctx q : Nat) : Option (List Nat) :=
  let x := s.cqueue ctx q
  if !s.queueOpen x then none
  else match s.agentRead ctx x.slotVa 64 with
  | none => none
  | some v => if x.mustWait v then none else some ((List.range 8).map fun i => bitsOf v (64 * i) 64)

/-- The queues of a partition with a command ready: priority and number, the context's slot × 16 + the queue. -/
def State.readyQueues (s : State) (part : Nat) : List (Nat × Nat) :=
  (List.range 8).flatMap fun c => (List.range 16).filterMap fun q =>
    (s.readyCmd (8 * part + c) q).map fun _ => ((s.cqueue (8 * part + c) q).prio, 16 * c + q)

/-- The next in a rotation: the lowest number above the last, else the lowest. -/
def nextAfter (last : Nat) (l : List Nat) : Option Nat :=
  let low (l : List Nat) : Option Nat := l.foldl (fun m x => match m with
    | none => some x
    | some y => some (min y x)) none
  match low (l.filter fun x => decide (last < x)) with
  | some x => some x
  | none => low l

/-- Whether the command processor serves a queue next: the highest QPRIO, and equals in rotation (R430). -/
def State.served (s : State) (ctx q : Nat) : Bool :=
  let l := s.readyQueues (ctx / 8)
  let top := l.foldl (fun m x => max m x.1) 0
  nextAfter (s.partition ctx).lastQ ((l.filter fun x => x.1 == top).map (·.2)) == some (16 * (ctx % 8) + q)

/-- Whether a command is invalid (R429, R432). -/
def cmdBad (ws : List Nat) : Bool :=
  let w (i : Nat) : Nat := ws.getD i 0
  let opc := w 0 % 256
  bitsOf (w 0) 9 7 != 0 || bitsOf (w 0) 32 32 != 0 || opc == 0 || decide (5 < opc) ||
  ((List.range 8).any fun i => (if opc = 5 then 3 else 2) < i && w i != 0) ||
  ((opc == 3 || opc == 4) && w 1 % 8 != 0) || (opc == 2 && w 1 % 64 != 0) ||
  (opc == 5 && (w 3 == 0 || decide (2 ^ 40 < w 3)))

/-- The next command as it stands in its queue once it has started. -/
def CQueue.take (x : CQueue) (ws : List Nat) (opc : Nat) : CQueue × Cmd :=
  let c : Cmd := {
    index := x.next.toNat, opc := opc, words := ws.map (BitVec.ofNat 64)
    covered := if bitsOf (ws.headD 0) 8 1 = 1 || opc = 4 then x.covered else [] }
  ({ x with next := x.next + 1, cmds := x.cmds ++ [c] }, c)

/-- An invalid command stops its queue (R432). -/
def State.stopQueue (s : State) (ctx q : Nat) (ws : List Nat) : State :=
  let x := s.cqueue ctx q
  let s := s.setCqueue ctx q { (x.take ws 0).1 with err := true, erridx := x.next }
  agentRec s ctx (s.rootOf ctx) 0x166 0 (x.next.zeroExtend 64) .nothing

/-- The start of a queue's next command where its OPC is the given one: the command and the state with it started. An
invalid command stops the queue whichever start was asked for; a slot below T0 is brought up. -/
def startCmd (s : State) (ctx q opc : Nat) (go : State → Cmd → State) : Out :=
  let x := s.cqueue ctx q
  match s.readyCmd ctx q with
  | none => .next (if s.queueOpen x && (s.agentRead ctx x.slotVa 64).isNone then s.bringUp ctx x.slotVa else s)
  | some ws =>
    if !s.served ctx q then .next s
    else if cmdBad ws then .next (s.stopQueue ctx q ws)
    else if ws.headD 0 % 256 != opc then .next s
    else
      let (y, c) := x.take ws opc
      let t := s.setCqueue ctx q y
      .next (go (t.setPartition ctx { t.partition ctx with lastQ := 16 * (ctx % 8) + q }) c)

/-- QUEUE_DOORBELL: a write of QTAIL (R428). -/
def execQueueDoorbell (ctx queue tail : Nat) (s : State) : Out :=
  if 16 ≤ queue || !s.answers then .next s else .next (s.setCqueue ctx queue { s.cqueue ctx queue with tail := BitVec.ofNat 32 tail })

/-- QERR_CLEAR: QERR is cleared, and the queue goes on behind the invalid command (R428, R432). -/
def execQerrClear (ctx queue : Nat) (s : State) : Out :=
  let x := s.cqueue ctx queue
  if !x.err then .next s
  else
    let cmds := x.cmds.map fun (c : Cmd) => if c.opc = 0 then { c with done := true } else c
    .next (s.setCqueue ctx queue { x with err := false, cmds := cmds }.retire)

/-! ### WAIT, SIGNAL, COPY (R429, R431, R433) -/

/-- What a system-scope acquire of the command processor learns from some bytes (R301, R303, R431). -/
def State.agentAcquire (s : State) (ctx va n : Nat) : List Nat :=
  let locs := (List.range n).filterMap fun j => (s.agentLoc ctx (va + j) false).map s.homeLoc
  let ws := (union [] (locs.map fun l => kvGet s.order.last l 0)).filter (· != 0)
  union ws (ws.flatMap fun wid => acquired s.order cpView (2 ^ 32) 5 wid)

/-- WAIT_COMMAND: a WAIT starts (R429). -/
def execWaitCommand (ctx queue : Nat) (s : State) : Out := startCmd s ctx queue 3 fun t _ => t

/-- Whether the value of a WAIT has come (R429). -/
def waitMet (s : State) (ctx : Nat) (c : Cmd) : Bool :=
  c.opc == 3 && !c.done && (s.agentRead ctx (c.word 1) 8).any fun v => decide (c.word 2 ≤ v)

/-- WAIT_SATISFIED: the first WAIT of a queue whose value has come completes (R429, R431). -/
def execWaitSatisfied (ctx queue : Nat) (s : State) : Out :=
  let x := s.cqueue ctx queue
  match x.cmds.find? (waitMet s ctx) with
  | some c => .next (s.finishCmd ctx queue c.index (s.agentAcquire ctx (c.word 1) 8))
  | none => .next ((x.cmds.filter fun c => c.opc == 3 && !c.done).foldl (fun s c => s.bringUp ctx (c.word 1)) s)

/-- SIGNAL: the value is stored as a system-scope release, once its gate is open (R302, R429, R431). -/
def execSignal (ctx queue : Nat) (s : State) : Out :=
  startCmd s ctx queue 4 fun t c =>
    if !gateOpen s 0 5 c.covered then s
    else match t.agentPut ctx (c.word 1) cpView (bytesOf 8 (c.word 2)) with
    | none => s.bringUp ctx (c.word 1)
    | some (wid, t) => (t.agentRelease wid 5 cpView c.covered).finishCmd ctx queue c.index [wid]

/-- COPY: its first chunk is cut into pieces (R433). -/
def execCopy (ctx queue : Nat) (s : State) : Out := startCmd s ctx queue 5 fun t c => t.setCmd ctx queue c.plan

end Sys2Proof.Machine
end

