-- ==== Sys2Proof/Machine/Launch.lean ====
section
/-!
DEFINITION. LAUNCH and GRAPH: the checks of a region control block and of a kernel object, effective values, and where a
block fits (14 R382 to R384, 16 R434 to R439, R443, R444).
-/
namespace Sys2Proof.Machine
open Sys2Proof

/-! ### The kernel object (R382 to R384) -/

/-- Whether the header block of a kernel object, as one number, breaks R382 to R384. -/
def headerBad (y : Nat) : Bool :=
  let h (lo len : Nat) : Nat := bitsOf y lo len
  let b (byte n : Nat) : Nat := bitsOf y (8 * byte) (8 * n)
  let dimg := h 3 1 == 1
  let limg := h 4 1 == 1
  let regsBad (present : Bool) (n top : Nat) : Bool := if present then n % 8 != 0 || n == 0 || decide (top < n) else n != 0
  let imageBad (present : Bool) (off len entry : Nat) : Bool :=
    off % 64 != 0 || len % 64 != 0 ||
    (if present then decide (off < 64) || len == 0 || entry % 8 != 0 || decide (4 < entry / 8 % 8) || decide (len ≤ entry) else off != 0)
  decide (2 < h 0 2) || !(dimg || limg) || regsBad dimg (h 8 8) 64 || regsBad limg (h 16 8) 128 || decide (64 < h 32 8) ||
  h 48 8 == 0 || decide (4 < h 48 8) || h 56 8 != 0 || (b 40 2 != 0 && h 7 1 == 0) ||
  imageBad dimg (b 8 4) (b 12 4) (b 24 4) || imageBad limg (b 16 4) (b 20 4) (b 28 4) ||
  (dimg && limg && decide (b 8 4 < b 16 4 + b 20 4) && decide (b 16 4 < b 8 4 + b 12 4)) ||
  b 32 4 % 16 != 0 || (h 40 8 == 0 && b 32 4 != 0) || b 36 4 % 8 != 0 || (h 7 1 == 0 && b 36 4 != 0) || b 42 22 != 0

/-- The fields of a region that its kernel's header block gives. -/
def Region.withHeader (r : Region) (y : Nat) : Region :=
  let b (byte n : Nat) : Nat := bitsOf y (8 * byte) (8 * n)
  { r with
    hdr := BitVec.ofNat 64 (b 0 8), dOff := b 8 4, dLen := b 12 4, lOff := b 16 4, lLen := b 20 4
    dEntry := b 24 4, lEntry := b 28 4, epOff := b 32 4, emuOff := b 36 4, emuCnt := b 40 2 }

/-! ### The region control block (R434, R435) -/

/-- A field of a control block read as one number: byte, first bit, length. -/
def rcbField (x byte lo len : Nat) : Nat := bitsOf x (8 * byte + lo) len

/-- Whether a field of a control block lies outside its range (R434); a group region has no kernel fields. -/
def rcbBad (x : Nat) : Bool :=
  let f := rcbField x
  let kind := f 0 0 2
  kind == 0 || kind == 3 || f 0 8 8 != 0 || f 0 24 8 != 0 || f 0 48 16 != 0 || f 40 53 11 != 0 || f 48 55 9 != 0 ||
  f 56 0 64 != 0 || f 64 47 17 != 0 || decide (288 < f 64 32 9) || decide (36 < f 64 41 6) || f 96 0 2 == 3 ||
  decide (f 96 14 5 < 4) || decide (16 < f 96 14 5) || f 96 19 45 != 0 || f 104 0 6 != 0 || f 128 32 32 != 0 ||
  f 152 0 576 != 0 ||
  (if kind = 2 then f 32 0 64 != 0 else
    f 40 0 32 == 0 || f 40 32 16 == 0 || decide (32768 < f 40 32 16) || f 40 48 5 == 0 || decide (16 < f 40 48 5) ||
    decide (512 < f 48 0 10) || decide (256 < f 48 10 9) || decide (128 < f 48 19 8) || decide (64 < f 48 27 7) ||
    decide (256 < f 48 34 9) || decide (16 < f 48 43 5) || decide (32 < f 48 48 6))

/-- The smaller of the limits that are set (R435). -/
def capSet (own cap : Nat) : Nat := if own = 0 then cap else if cap = 0 then own else min own cap

/-- The region of a control block, with its effective values (R435). -/
def regionOf (ctx rcb x : Nat) (parent : Option Region) : Region :=
  let f := rcbField x
  let inh (k : Nat) : Bool := parent.isSome && f 0 (16 + k) 1 == 1
  let p : Region := parent.getD { rcb := 0, ctx := ctx, group := true, parent := 0, depth := 0, state := .idle }
  let capped (own cap : Nat) : Nat := if parent.isSome then min own cap else own
  let frames := [f 72 0 32, f 72 32 32, f 80 0 32, f 80 32 32]
  { rcb := rcb, ctx := ctx, group := f 0 0 2 == 2, parent := if parent.isSome then p.rcb else 0
    depth := if parent.isSome then p.depth + 1 else 0
    state := .pending, kobj := f 32 0 64, blocks := f 40 0 32, bthreads := f 40 32 16, ncore := f 40 48 5
    alloc := BitVec.ofNat 64 (f 48 0 64)
    prio := if inh 0 then p.prio else if parent.isSome then min (f 0 6 2) p.prio else f 0 6 2
    weight := if inh 0 then p.weight else max 1 (f 0 32 16)
    quantum := if inh 1 then p.quantum else f 64 0 32
    maxd := if inh 2 then p.maxd else capped (f 64 32 9) p.maxd
    maxl := if inh 2 then p.maxl else capped (f 64 41 6) p.maxl
    frames := if inh 3 then p.frames else if parent.isSome then (frames.zip p.frames).map fun z => min z.1 z.2 else frames
    restart := if inh 6 then p.restart else f 0 5 1 == 1 && (parent.isNone || p.restart)
    faultRegion := if inh 4 then p.faultRegion else rcb
    policy := f 96 0 2, msien := f 96 2 1 == 1, vector := f 96 3 11, rlog := f 96 14 5, ring := BitVec.ofNat 64 (f 104 0 64)
    tocsin := BitVec.ofNat 64 (if inh 5 then p.tocsin.toNat else if parent.isSome then capSet (f 120 0 64) p.tocsin.toNat else f 120 0 64)
    deadline := if inh 7 then p.deadline else f 128 0 32 }

/-! ### Where a block fits (R68, R187, R207, R228, R230, R234, R239, R241, R438) -/

/-- Whether blocks of a region lie on D-cores (R384). -/
def Region.onD (r : Region) : Bool := r.hasD

/-- Warps of a block. -/
def Region.warpCount (r : Region) : Nat := (r.bthreads + r.width - 1) / r.width

/-- The lowest place of a contiguous run that overlaps no other. -/
def firstFit (ivs : List (Nat × Nat)) (n cap : Nat) : Option Nat :=
  if n = 0 then some 0
  else
    let ok (c : Nat) : Bool := decide (c + n ≤ cap) && ivs.all fun v => decide (v.1 + v.2 ≤ c) || decide (c + n ≤ v.1)
    ((0 :: ivs.map fun v => v.1 + v.2).filter ok).foldl (fun m c => match m with
      | none => some c
      | some y => some (min y c)) none

/-- The runs of one resource that blocks hold on a core. -/
def runs (bs : List Block) (core : Nat) (base : Allot → Nat) (size : Block → Nat) : List (Nat × Nat) :=
  bs.filterMap fun b => (b.allotOn core).map fun a => (base a, size b)

/-- The sizes that a block of a region asks for (R434, bytes 48 to 55), in bytes and entries. -/
def Region.emptyBlock (r : Region) : Block :=
  let a := r.allocBits
  let d := r.onD
  { id := 0, ctx := r.ctx, region := r.rcb, index := 0, cluster := 0, onL := !d, allots := [], threads := r.bthreads
    spad := 1024 * a 0 10, wbuf := if d then 4096 * a 10 9 else 0, xbuf := if d then 4096 * a 19 8 else 0
    abuf := if d then 4096 * a 27 7 else 0, tiles := if d then a 34 9 else 0, nbars := if d then a 43 5 else 0
    queues := if d then a 48 6 else 0, shadow := d && a 54 1 == 1 }

/-- The allotments of a block on a core, where they fit beside those of other blocks. -/
def fitAllot (bs : List Block) (core : Nat) (b : Block) : Option Allot :=
  let run (base : Allot → Nat) (size : Block → Nat) (cap : Nat) : Option Nat := firstFit (runs bs core base size) (size b) cap
  if b.shadow && bs.any (fun x => x.shadow && (x.allotOn core).isSome) then none
  else match run (·.sBase) (·.spad) (if coreIsL core then 131072 else 524288), run (·.wBase) (·.wbuf) 1048576,
      run (·.xBase) (·.xbuf) 524288, run (·.aBase) (·.abuf) 262144, run (·.tBase) (·.tiles) 256,
      run (·.nBase) (·.nbars) 16, run (·.qBase) (·.queues) 32 with
  | some s, some w, some x, some a, some t, some n, some q =>
    some { core := core, sBase := s, wBase := w, xBase := x, aBase := a, tBase := t, nBase := n, qBase := q }
  | _, _, _, _, _, _, _ => none

/-- So many warps of a region placed on a core, one after another. -/
def fitWarps (us : List Use) (core width vregs priv : Nat) : Nat → Option (List Use)
  | 0 => some []
  | n + 1 => match placeOne us core width vregs priv with
    | none => none
    | some u => (fitWarps (us ++ [u]) core width vregs priv n).map fun r => u :: r

/-- Room for a block on one core: its share of the warps and its allotments. -/
def fitCore (us : List Use) (bs : List Block) (r : Region) (core m : Nat) : Option (List Use × Allot) :=
  match fitWarps us core r.width (r.vregs (coreIsL core)) r.priv m, fitAllot bs core r.emptyBlock with
  | some u, some a => some (u, a)
  | _, _ => none

/-- The lowest-indexed cores that fit: warp w lies on the w mod n-th of n cores (R438). -/
def fitCores (us : List Use) (bs : List Block) (r : Region) (n : Nat) : List Nat → Nat → Option (List (List Use × Allot))
  | [], i => if i = n then some [] else none
  | c :: cs, i =>
    if i = n then some []
    else match fitCore us bs r c ((r.warpCount - i + n - 1) / n) with
    | some x => (fitCores us bs r n cs (i + 1)).map fun l => x :: l
    | none => fitCores us bs r n cs i

/-- The cores of a cluster that blocks of a region lie on. -/
def Region.coresIn (r : Region) (cl : Nat) : List Nat :=
  if r.onD then (List.range 16).map (coreOfLocal cl) else [coreOfLocal cl 16, coreOfLocal cl 17]

def Region.coreCount (r : Region) : Nat := if r.onD then r.ncore else 1

/-- Where the next block of a region fits in a cluster. -/
def fitCluster (us : List Use) (bs : List Block) (r : Region) (cl : Nat) : Option (List (List Use × Allot)) :=
  fitCores us bs r r.coreCount (r.coresIn cl) 0

/-! ### LAUNCH (R436, R437, R442, R445) -/

/-- Whether some bytes that an agent asks for lie in a page below T0, and so come after a batch (R466). -/
def State.below (s : State) (ctx va : Nat) : Bool := (s.leafAt ctx va).any fun l => leafTier l.e != 0

/-- CHILD and SIBLING of a region and of its children, in the order they were launched (R434). -/
def State.relink (s : State) (ctx parent : Nat) : State :=
  let cs := (s.regions.filter fun r => r.ctx == ctx && r.parent == parent).map (·.rcb)
  let s := if parent = 0 then s else s.cpWord ctx (parent + 16) 8 (cs.headD 0)
  if parent = 0 then s
  else (cs.zip (cs.drop 1 ++ [0])).foldl (fun s c => s.cpWord ctx (c.1 + 24) 8 c.2) s

/-- A region entered in the place of its control block's previous run. -/
def State.addRegion (s : State) (r : Region) : State :=
  match s.regionOf? r.ctx r.rcb with
  | some old =>
    if old.parent = r.parent then s.setRegion r
    else ({ s with regions := (s.regions.filter fun (x : Region) => !(x.ctx == r.ctx && x.rcb == r.rcb)) ++ [r] }).relink r.ctx old.parent
  | none => { s with regions := s.regions ++ [r] }

/-- What a LAUNCH comes to: it waits, it is refused, or its region is there. -/
inductive Launched where
  | waits (s : State)
  | refused (s : State)
  | started (s : State)

/-- A refusal: the cause goes to the given region's ring, STATE becomes killed (R436, R437). -/
def refuseLaunch (s : State) (ctx rcb ring cause : Nat) : Launched :=
  .refused (agentRec (if rcb % 256 = 0 && rcb < 2 ^ 40 then s.cpWord ctx (rcb + 144) 8 5 else s) ctx ring cause 0 0 .nothing)

/-- Whether a PRODUCER names a valid control block: one that has been launched, or one in memory that passes R434; none where its page has
to be brought up first (R445). -/
def State.rcbValid (s : State) (ctx rcb : Nat) : Option Bool :=
  if s.regions.any fun y => y.rcb == rcb then some true
  else if rcb % 256 != 0 || decide (2 ^ 40 ≤ rcb) then some false
  else match s.agentRead ctx rcb 256 with
  | some x => some (!rcbBad x)
  | none => if s.below ctx rcb then none else some false

/-- A region accepted: its numbers, its links and its STATE (R398, R434, R441, R445); it stands still at once under an ancestor that
does (R467). -/
def acceptRegion (s : State) (r : Region) (x : Nat) : State :=
  let c := s.context r.ctx
  let n := r.blocks * r.bthreads
  let rootEnded := match c.rootRegion with
    | none => true
    | some k => !((s.regionOf? r.ctx k).any Region.alive)
  let c := { c with
    rootRegion := if r.parent = 0 && rootEnded then some r.rcb else c.rootRegion
    taskCt := if !r.group && r.boost then c.taskCt + BitVec.ofNat 64 n else c.taskCt }
  let r := { r with seqBase := (s.context r.ctx).taskCt, untrig := if r.group then 0 else n, state := if r.producer = 0 then .running else .pending }
  let s := (s.setContext r.ctx c).addRegion r
  let s := s.cpWord r.ctx r.rcb 8 (putBits (rcbField x 0 0 64) 2 3 r.depth)
  let s := (s.cpWord r.ctx (r.rcb + 16) 8 0).cpWord r.ctx (r.rcb + 24) 8 0
  let s := s.relink r.ctx r.parent
  let s := match (s.regions.find? fun y => y.ctx == r.ctx && y.parent == r.rcb) with
    | some y => s.cpWord r.ctx (r.rcb + 16) 8 y.rcb
    | none => s
  ((s.writeShare r).cpWord r.ctx (r.rcb + 144) 8 r.state.code).settle r.ctx

/-- The clusters of a context's partition (R427). -/
def State.clustersOf (s : State) (ctx : Nat) : List Nat := (s.partition ctx).clusters

/-- LAUNCH of an RCB by a command of a queue (R436, R437, R445). A PRODUCER that has not been launched has no untriggered threads (log 37). -/
def launchRegion (s : State) (ctx q k rcb prod : Nat) (cov : List Nat) : Launched :=
  let root := s.rootOf ctx
  if rcb % 256 != 0 || decide (2 ^ 40 ≤ rcb) then refuseLaunch s ctx rcb root 0x163
  else match s.agentRead ctx rcb 256 with
  | none => if s.below ctx rcb then .waits (s.bringUp ctx rcb) else refuseLaunch s ctx rcb root 0x163
  | some x =>
    let parent := rcbField x 8 0 64
    let p := (s.regionOf? ctx parent).filter Region.alive
    let ring := if parent = 0 then root else (p.map (·.rcb)).getD root
    let r0 := { regionOf ctx rcb x (if parent = 0 then none else p) with queue := q, cmd := k }
    if (s.regionOf? ctx rcb).any Region.alive then .waits s
    else if (parent != 0 && (p.isNone || (p.any fun p => decide (7 ≤ p.depth)))) || rcbBad x then refuseLaunch s ctx rcb ring 0x163
    else
      let known := if prod = 0 then some true else s.rcbValid ctx prod
      let pr := if prod = 0 then none else s.regionOf? ctx prod
      let r0 := { r0 with
        producer := if (pr.any Region.alive) then prod else 0
        startCov := union cov ((pr.map (·.trigCov)).getD []) }
      if known.isNone then .waits (s.bringUp ctx prod)
      else if known == some false then refuseLaunch s ctx rcb ring 0x163
      else if r0.group then .started (acceptRegion s r0 x)
      else if r0.kobj % 64 != 0 then refuseKernel s r0
      else match s.agentRead ctx r0.kobj 64 with
      | none => if s.below ctx r0.kobj then .waits (s.bringUp ctx r0.kobj) else refuseKernel s r0
      | some y =>
        let r := r0.withHeader y
        if headerBad y then refuseKernel s r
        else if (if r.onD then decide (r.ncore * 3072 < r.bthreads) else decide (512 < r.bthreads) || r.ncore != 1 || decide (128 < r.allocBits 0 10))
          then refuseLaunch s ctx rcb ring 0x163
        else if decide (r.maxd < r.ncore) || !((s.clustersOf ctx).any fun cl => (fitCluster [] [] r cl).isSome)
          then refuseLaunch s ctx rcb ring 0x164
        else .started (acceptRegion s r x)
where
  /-- KERNEL_INVALID, in the region's own fault domain (R384). -/
  refuseKernel (s : State) (r : Region) : Launched :=
    refuseLaunch (s.addRegion { r with state := .killed }) r.ctx r.rcb r.rcb 0x120

/-- LAUNCH (R429, R436). -/
def execLaunch (ctx queue : Nat) (s : State) : Out :=
  startCmd s ctx queue 1 fun t c =>
    match launchRegion t ctx queue c.index (c.word 1) (c.word 2) c.covered with
    | .waits _ => match launchRegion s ctx queue c.index (c.word 1) (c.word 2) c.covered with
      | .waits u => u
      | _ => s
    | .refused u => u.finishCmd ctx queue c.index []
    | .started u => u

/-! ### GRAPH (R443, R444) -/

/-- GRAPH: the walk starts at its first node (R444). -/
def execGraph (ctx queue : Nat) (s : State) : Out :=
  startCmd s ctx queue 2 fun t c => t.setCmd ctx queue { c with node := c.words.getD 1 0 }

/-- The walk ends with GRAPH_INVALID (R444). -/
def graphFails (s : State) (ctx q : Nat) (c : Cmd) : State :=
  (agentRec s ctx (s.rootOf ctx) 0x165 0 c.node .nothing).finishCmd ctx q c.index []

/-- The successor that a node gives for a result: the lowest range that holds it, else DEFAULT (R443, R444). The node's
words stand behind the command's. -/
def Cmd.successor (c : Cmd) (r : Nat) : W64 :=
  let w (i : Nat) : Nat := c.word (8 + i)
  match (List.range (bitsOf (w 0) 0 3)).find? fun k => decide (w (3 + 3 * k) ≤ r) && decide (r ≤ w (4 + 3 * k)) with
  | some k => BitVec.ofNat 64 (w (5 + 3 * k))
  | none => BitVec.ofNat 64 (w 2)

/-- Whether a node breaks R443, or its RCB pointer cannot be one (R434). -/
def nodeBad (s : State) (ctx x : Nat) : Bool :=
  let w (i : Nat) : Nat := bitsOf x (64 * i) 64
  bitsOf (w 0) 3 61 != 0 || decide (4 < bitsOf (w 0) 0 3) || w 15 != 0 ||
  w 1 % 256 != 0 || decide (2 ^ 40 ≤ w 1) || (s.leafAt ctx (w 1)).isNone

/-- One move of a walk (R444): a node that has run gives way to its successor; a node that has not is read, checked and
launched. -/
def graphStep (s : State) (ctx q : Nat) (c : Cmd) : State :=
  if c.stopped then
    let a := c.word 9 + 136
    match s.agentRead ctx a 8 with
    | none => s.bringUp ctx a
    | some r => s.setCmd ctx q { c with node := c.successor r, steps := c.steps + 1, stopped := false
                                        covered := union c.covered (s.agentAcquire ctx a 8) }
  else if c.node = 0 then s.finishCmd ctx q c.index []
  else if c.word 2 != 0 && c.steps == c.word 2 then graphFails s ctx q c
  else
    let a := c.node.toNat
    if a % 64 != 0 || decide (2 ^ 57 < a + 128) then graphFails s ctx q c
    else match s.agentRead ctx a 128 with
    | none => if s.below ctx a then s.bringUp ctx a else graphFails s ctx q c
    | some x =>
      if nodeBad s ctx x then graphFails s ctx q c
      else
        let d := { c with words := (c.words.take 8) ++ (List.range 16).map fun i => BitVec.ofNat 64 (bitsOf x (64 * i) 64) }
        match launchRegion s ctx q c.index (d.word 9) 0 c.covered with
        | .waits u => u
        | .refused u => u.setCmd ctx q { d with stopped := true }
        | .started u => u.setCmd ctx q { d with stopped := true, run := true }

/-- GRAPH_NODE: the first walk of a queue that can move (R444). -/
def execGraphNode (ctx queue : Nat) (s : State) : Out :=
  match (s.cqueue ctx queue).cmds.find? fun c => c.opc == 2 && !c.done && !c.run with
  | none => .next s
  | some c => .next (graphStep s ctx queue c)

end Sys2Proof.Machine
end

