-- ==== Sys2Proof/Machine/Blocks.lean ====
section
/-!
DEFINITION. Dispatch of blocks, early dependent launch, and the completion of regions (16 R438 to R442, R445).
-/
namespace Sys2Proof.Machine
open Sys2Proof

/-! ### Where the next block goes (R438, R439) -/

/-- Whether a context has work: a region that has not ended, a command that can start, or a COPY (R433, R446). -/
def State.hasWork (s : State) (ctx : Nat) : Bool :=
  (s.regions.any fun r => r.ctx == ctx && r.alive) ||
  (List.range 16).any fun q => (s.readyCmd ctx q).isSome || (s.cqueue ctx q).cmds.any fun c => c.opc == 5 && !c.done

/-- Whether a cluster holds a block of another context (R137: its tables are one context's at a time). -/
def State.foreign (s : State) (ctx cl : Nat) : Bool := s.blocks.any fun b => b.cluster == cl && b.ctx != ctx

/-- Whether a region and its ancestors would stay within MAXD and MAXL with some more cores (R437, R438). -/
def State.within (s : State) (r : Region) (cores : List Nat) : Bool :=
  (s.chain r).all fun a =>
    let h := s.held a.ctx a.rcb
    decide ((union h.1 (cores.filter fun c => !coreIsL c)).length ≤ a.maxd) && decide ((union h.2 (cores.filter coreIsL)).length ≤ a.maxl)

/-- Free warp slots of some cores. -/
def State.slotsFree (s : State) (cores : List Nat) : Nat := (cores.map (freeSlots s.uses)).sum

/-- Where the next block of a region goes: the cluster with the most free warp slots of all its cores, the lower number on a tie (R438).
A cluster that is being freed of the region takes none (R448). -/
def State.placement (s : State) (r : Region) : Option (Nat × List (List Use × Allot)) :=
  let fits := (s.clustersOf r.ctx).filterMap fun cl =>
    if s.foreign r.ctx cl || r.preempt.any (fun p => p.1 == cl) then none
    else match fitCluster s.uses s.blocks r cl with
    | none => none
    | some plan => if s.within r (plan.map (·.2.core)) then some (cl, plan) else none
  let free (cl : Nat) : Nat := s.slotsFree ((List.range 18).map (coreOfLocal cl))
  fits.foldl (fun m x => match m with
    | none => some x
    | some y => if free y.1 < free x.1 || (free y.1 == free x.1 && decide (x.1 < y.1)) then some x else some y) none

/-- The next block of a region: its index, and whether it is one of spawned tasks (R415, R438, R448). -/
def Region.nextBlock (r : Region) : Option (Nat × Bool) :=
  match r.redo with
  | b :: l => if r.endSent then none else some (l.foldl min b, false)
  | [] => if r.endSent then none else if r.next < r.blocks then some (r.next, false)
    else if r.spawnq.isEmpty then none else some (r.next, true)

/-- Whether a region has a block ready and room for it (R439). -/
def State.blockReady (s : State) (r : Region) : Bool :=
  !r.group && r.state == .running && r.nextBlock.isSome && (s.placement r).isSome

/-- The regions of a partition's first class with a block ready (R439). -/
def State.firstClass (s : State) (part : Nat) : List Region :=
  let l := s.regions.filter fun r => r.ctx / 8 == part && s.blockReady r
  let top := l.foldl (fun m r => max m r.prio) 0
  l.filter fun r => r.prio == top

/-- The credit of a region in the rotation, reloaded once no region of the class has any (R72, R439). -/
def creditIn (l : List Region) (r : Region) : Nat := if l.all fun x => x.credit == 0 then max 1 r.weight else r.credit

/-- Whether the next block placed in a partition is this region's (R439). -/
def State.isTurn (s : State) (r : Region) : Bool :=
  let l := s.firstClass (r.ctx / 8)
  nextAfter (s.partition r.ctx).lastR ((l.filter fun x => creditIn l x != 0).map Region.key) == some r.key

/-! ### What a block is given (R69, R74, R188, R207, R228, R230, R234, R239, R438) -/

/-- A range of an on-chip memory when an allotment is made: zero or what was left there, and nothing of an earlier block is
acquired through it. -/
def State.freshRange (s : State) (base n : Nat) : State :=
  let s := s.freeBytes base n
  let inR (l : Nat) : Bool := decide (base ≤ l) && decide (l < base + n)
  { s with order := { s.order with
      last := s.order.last.filter fun p => !inR p.1
      bars := s.order.bars.filter fun p => !inR (p.1 / 32) } }

/-- The ranges of a block on one core. -/
def chipRanges (b : Block) (a : Allot) : List (Nat × Nat) :=
  [(locChip 1 a.core a.sBase, b.spad), (locChip 4 a.core a.wBase, b.wbuf), (locChip 5 a.core a.xBase, b.xbuf),
   (locChip 6 a.core a.aBase, b.abuf)] ++ (if b.shadow then [(locShadow a.core 0 0, 65536), (locShadow a.core 1 0, 65536)] else [])

/-- The lane-private ranges of a warp. -/
def privRanges (w : Warp) (priv : Nat) : List (Nat × Nat) := (List.range w.width).map fun l => (locPriv w.core w.slot l 0, priv)

/-- Barriers and queue descriptors of a core are idle when they are allotted (R228, R230). -/
def State.freshCore (s : State) (b : Block) (a : Allot) : State :=
  let c := s.core a.core
  s.setCore a.core { c with
    nbars := (List.range b.nbars).foldl (fun l k => kvDel l (a.nBase + k)) c.nbars
    queues := (List.range b.queues).foldl (fun l k => kvDel l (a.qBase + k)) c.queues
    readable := if b.shadow then 0 else c.readable }

/-- Whether two contexts are one partition's and one tenant's (R316, R427). -/
def State.sameTenant (s : State) (c d : Nat) : Bool := c / 8 == d / 8 && (s.context c).win == (s.context d).win

/-- The buffers of a core cleared: another tenant's values never stand in an allotment (R188, R207, R239). -/
def State.wipeCore (s : State) (core : Nat) : State :=
  let mine (l : Nat) : Bool := decide (chipBase ≤ l) && decide (l < remoteBase) && (l - chipBase) % 2 ^ 64 / 2 ^ 40 == core
  { s with mem := memPutAll s.mem ((s.mem.filter fun c => mine c.1).map fun c => (c.1, 0)) }

/-- The activation tables of a core are its context's: another's are saved with it (R137), and its buffers pass to no other
tenant. -/
def State.swapTables (s : State) (core ctx : Nat) : State :=
  let c := s.core core
  if c.actCtx = some ctx then s
  else
    let s := match c.actCtx with
      | some o => let x := s.context o
        (if s.sameTenant o ctx then s else s.wipeCore core).setContext o { x with acts := kvSet x.acts core (c.act0, c.act1, c.actCur) }
      | none => s
    let t := kvGet (s.context ctx).acts core ({}, {}, false)
    s.setCore core { c with act0 := t.1, act1 := t.2.1, actCur := t.2.2, actCtx := some ctx }

/-- The cores of a cluster taken over by a context. -/
def State.claimCluster (s : State) (cl ctx : Nat) : State := (List.range 18).foldl (fun s i => s.swapTables (coreOfLocal cl i) ctx) s

/-- A cluster without blocks takes the expansion table that was loaded for it (R52). -/
def State.takeDxt (s : State) (cl : Nat) : State :=
  let c := s.cluster cl
  if s.blocks.any fun b => b.cluster == cl then s else s.setCluster cl { c with dxt := c.dxtNext.getD c.dxt, dxtNext := none }

/-- One thread of a block at its launch (R61, R69, R74, R398, R400, R445). -/
def launchThread (r : Region) (b : Block) (es : List SpawnEnt) (pc : W64) (v : List W32) (tid : Nat) : Thread :=
  let t : Thread := { tid := tid, v := v }
  if (if b.spawned then es.length else r.bthreads) ≤ tid then t
  else
    let e : SpawnEnt := es.getD tid { arg := 0, seq := r.seqBase + BitVec.ofNat 64 (b.index * r.bthreads + tid), covered := [] }
    let t := { t with
      pc := pc, st := .ready, rngs := BitVec.ofNat 64 (b.index * 2 ^ 32 + tid + 1), covered := union r.startCov e.covered }
    if r.boost then ({ t with task := { t.task with seq := e.seq, fresh := true, arg := e.arg } }).startTask pc else t

/-- Registers for so many threads. -/
def State.freeRegSets (s : State) (n : Nat) : Nat → List (List W32) × State
  | 0 => ([], s)
  | k + 1 =>
    let (v, s) := s.freeRegs n
    let (l, s) := s.freeRegSets n k
    (v :: l, s)

/-- One warp of a block, placed; an entry PC that is no target is a fault at it, and one whose line cannot be read yet is checked
when it comes in (R23, log 51). -/
def launchWarp (s : State) (r : Region) (b : Block) (es : List SpawnEnt) (wnum : Nat) (u : Use) : State :=
  let pc : W64 := BitVec.ofNat 64 (r.entry b.onL)
  let (vs, s) := s.freeRegSets u.vregs r.width
  let ts := (List.range r.width).zipWith (fun l v => launchThread r b es pc v (wnum * r.width + l)) vs
  let w : Warp := {
    key := s.warpCt, ctx := r.ctx, region := r.rcb, block := b.id, wnum := wnum, onL := b.onL, core := u.core, slot := u.slot
    quarter := u.quarter, home := if b.onL then none else some u.core, width := r.width, lw := r.hdrBits 2 1 == 1
    threads := ts, s := List.replicate r.sregs 0, credit := max 1 r.weight }
  let w := { w with bundle := w.live, draining := w.live.isEmpty }
  let s := { s with warpCt := s.warpCt + 1, warps := s.warps ++ [w] }
  let s := (privRanges w r.priv).foldl (fun s x => s.freshRange x.1 x.2) s
  match (if w.live.isEmpty then none else transferTrap s w (w.live.map fun l => (l, pc))) with
  | some t => if t.ofFetch then s.setWarp (w.setLanes w.live fun _ t => { t with unchecked := true }) else takeTrap s (issOf w 7 w.bundle) t
  | none => s

/-- The next block of a region placed (R438). -/
def placeBlock (s : State) (r : Region) (cl : Nat) (plan : List (List Use × Allot)) (index : Nat) (spawned : Bool) : State :=
  let b := { r.emptyBlock with
    id := s.blockCt, index := index, cluster := cl, allots := plan.map (·.2), spawned := spawned, started := s.tick.toNat }
  let es := if spawned then r.spawnq.take r.bthreads else []
  let l := s.firstClass (r.ctx / 8)
  let s := { s with regions := s.regions.map fun (x : Region) => if l.any (fun y => y.key == x.key) then { x with credit := creditIn l x } else x }
  let s := s.setRegion { r with
    credit := creditIn l r - 1, redo := r.redo.filter fun k => k != index
    next := if r.redo.isEmpty then r.next + 1 else r.next, spawnq := if spawned then r.spawnq.drop r.bthreads else r.spawnq, started := true }
  let s := ((s.takeDxt cl).claimCluster cl r.ctx).setPartition r.ctx { s.partition r.ctx with lastR := r.key }
  let s := { s with blockCt := s.blockCt + 1, blocks := s.blocks ++ [b] }
  let s := b.allots.foldl (fun s a => (chipRanges b a).foldl (fun s x => s.freshRange x.1 x.2) (s.freshCore b a)) s
  let s := (List.range r.warpCount).foldl (fun s w => match plan[w % plan.length]? with
    | some p => match p.1[w / plan.length]? with
      | some u => launchWarp s r b es w u
      | none => s
    | none => s) s
  s.writeShare r

/-- A region asked to leave a cluster, if it is not leaving it. -/
def Region.askOff (r : Region) (cl : Nat) : Region :=
  if r.preempt.any fun p => p.1 == cl then r else { r with preempt := r.preempt ++ [(cl, 0)] }

/-- The clusters on which a region has blocks. -/
def State.clustersHeld (s : State) (r : Region) : List Nat := union [] ((s.blocksOfRegions [r]).map (·.cluster))

/-- The request of a region that cannot place its next block (R446): of the regions of its context with a lower effective PRIO and with
blocks, the first of the lowest is asked off each cluster that it occupies (DESIGN CHOICE, log 39: the spec does not say which). -/
def State.askRoom (s : State) (r : Region) : State :=
  let low := s.regions.filter fun x => x.ctx == r.ctx && x.alive && decide (x.prio < r.prio) && !(s.clustersHeld x).isEmpty
  match low.find? fun x => low.all fun y => decide (x.prio ≤ y.prio) with
  | some x => s.setRegion ((s.clustersHeld x).foldl Region.askOff x)
  | none => s

/-- BLOCK_DISPATCH (R438, R439); a region that cannot place its block asks for room (R446). -/
def execBlockDispatch (region : Nat) (s : State) : Out :=
  match s.keyed? region with
  | none => .next s
  | some r => match r.nextBlock, s.placement r with
    | some (k, spawned), some (cl, plan) => .next (if s.blockReady r && s.isTurn r then placeBlock s r cl plan k spawned else s)
    | some _, none => .next (if r.group || r.state != .running then s else s.askRoom r)
    | _, _ => .next s

/-- DEPENDENT_LAUNCH_START: the producer's threads are triggered, or it has ended, and room exists; a group takes no blocks and needs none
(R437, R445). -/
def execDependentLaunchStart (region : Nat) (s : State) : Out :=
  match s.keyed? region with
  | none => .next s
  | some r =>
    let p := s.regionOf? r.ctx r.producer
    if r.state != .pending || (p.any fun p => p.alive && p.untrig != 0) || (!r.group && (s.placement r).isNone) then .next s
    else
      let early := (p.filter Region.alive).map fun p => { p with dependants := true }
      let s := match early with
        | some p => s.setRegion p
        | none => s
      .next ((s.setRState { r with startCov := union r.startCov ((p.map (·.trigCov)).getD []) } .running).settle r.ctx)

/-- END_REQUEST: the request of a `post.end` reaches the cluster controllers (R440). -/
def execEndRequest (region : Nat) (s : State) : Out :=
  match s.keyed? region with
  | none => .next s
  | some r => .next (if r.endReq && !r.endSent then s.setRegion { r with endSent := true } else s)

/-! ### The end of a region (R442) -/

/-- Whether nothing of a region is left, and with what its completion covers (R431, R442). -/
def State.finished (s : State) (r : Region) : Option (List Nat) :=
  if r.group then
    let cs := s.regions.filter fun x => x.ctx == r.ctx && x.parent == r.rcb
    if cs.isEmpty || cs.any Region.alive then none else some (cs.foldl (fun c x => union c x.covered) [])
  else if (s.blocksOfRegions [r]).isEmpty && !(s.saves.any fun x => x.block.ctx == r.ctx && x.block.region == r.rcb) &&
      (r.endSent || (r.redo.isEmpty && decide (r.blocks ≤ r.next) && r.spawnq.isEmpty)) then some r.covered
  else none

/-- REGION_COMPLETE: STATE becomes complete with a system-scope release, and the LAUNCH completes (R431, R442). -/
def execRegionComplete (region : Nat) (s : State) : Out :=
  match s.keyed? region with
  | none => .next s
  | some r =>
    if r.state != .running && r.state != .suspended then .next s
    else match s.finished r with
    | none => .next s
    | some cov =>
      if !gateOpen s 0 5 cov then .next s
      else if s.below r.ctx (r.rcb + 144) then .next (s.bringUp r.ctx (r.rcb + 144))
      else .next ((s.setRegion { r with covered := cov }).closeRegion { r with covered := cov } .complete cov)

end Sys2Proof.Machine
end

