-- ==== Sys2Proof/Machine/Preempt.lean ====
section
/-!
DEFINITION. Pre-emption: requests, the choice, save and discard, and restoration (16 R446 to R450, 09 R262, 10 R285,
11 R311, 12 R341, 14 R392).
-/
namespace Sys2Proof.Machine
open Sys2Proof

/-! ### Requests (R446) -/

/-- The migration registers of a partition's clusters are saved with one context and restored with another (R396). -/
def State.swapMig (s : State) (old new : Nat) : State :=
  (s.clustersOf old).foldl (fun s cl =>
    let c := s.cluster cl
    let o := s.context old
    let s := s.setContext old { o with mig := kvSet o.mig cl { pen := c.pen, aen := c.aen, dthr := c.dthr, lcthr := c.lcthr, decl := c.decl, migDone := c.migDone } }
    let m := kvGet (s.context new).mig cl {}
    s.setCluster cl { c with pen := m.pen, aen := m.aen, dthr := m.dthr, lcthr := m.lcthr, decl := m.decl, migDone := m.migDone }) s

/-- Resolutions that came while their warps or copies were saved (R470). -/
def State.applyLater (s : State) : State :=
  (s.recs.filter fun r => r.later.isSome && !s.isSaved r).foldl (fun s r =>
    (s.setRec { r with later := none }).applyRes r (r.later.getD 0)) s

/-- TIME_SLICE_END: another context with work takes the partition, and every block of the old one is asked off (R446); the COPY commands
of the old one are stopped and saved, and those of the new one go on (R433). -/
def execTimeSliceEnd (part next : Nat) (s : State) : Out :=
  let old := 8 * part + (s.partition (8 * part)).slice
  let new := 8 * part + next % 8
  if new = old || !s.hasWork new then .next s
  else
    let s := (s.setPartition new { s.partition new with slice := next % 8 }).swapMig old new
    let ask (s : State) (r : Region) : State := s.setRegion ((s.clustersHeld r).foldl Region.askOff r)
    let s := (s.mapCmds old Cmd.halt).mapCmds new fun c => { c with saved := false }
    .next ((s.regions.filter fun r => r.ctx == old && r.alive).foldl ask (s.applyLater))

/-- QUANTUM_EXPIRY: a region has used its QUANTUM on a cluster, and another of its context and of no lower PRIO cannot
place a block (R446). -/
def execQuantumExpiry (region cluster : Nat) (s : State) : Out :=
  match s.keyed? region with
  | none => .next s
  | some r =>
    let waits := s.regions.any fun x => x.ctx == r.ctx && x.rcb != r.rcb && !x.group && decide (r.prio ≤ x.prio) &&
      x.state == .running && x.nextBlock.isSome && (s.placement x).isNone
    .next (if r.quantum = 0 || decide (kvGet r.used cluster 0 < r.quantum) || !waits then s else s.setRegion (r.askOff cluster))

/-! ### The choice (R447) -/

/-- Resident blocks of a region on a cluster. -/
def State.blocksOn (s : State) (r : Region) (cl : Nat) : List Block := (s.blocksOfRegions [r]).filter fun b => b.cluster == cl

/-- The warps of a block that have not finished (R94). -/
def State.unfinished (s : State) (b : Block) : List Warp := (s.warpsOf b.id).filter fun w => !w.draining

/-- Bytes that a save of a block writes (R449): none of one whose warps are all DRAINING, which is not saved. -/
def savedBytes (s : State) (r : Region) (b : Block) : Nat :=
  if (s.unfinished b).isEmpty then 0 else
  ((s.unfinished b).map fun w => w.width * (4 * r.vregs w.onL + 40 + r.priv) + 8 * r.sregs + 64).sum +
  b.allots.length * (b.spad + b.wbuf + b.xbuf + b.abuf + 16 * (b.tiles + b.nbars + b.queues) + if b.shadow then 131072 else 0)

/-- The estimate of a drain in ticks, unknown while no block has finished. -/
def drainCost (s : State) (r : Region) (cl : Nat) : Option Nat :=
  if r.meanCt = 0 then none
  else some (((s.blocksOn r cl).map fun b => r.meanSum / r.meanCt - (s.tick.toNat - b.started)).foldl max 0)

/-- The estimate of a save in ticks. -/
def saveCost (s : State) (r : Region) (cl : Nat) : Nat := (((s.blocksOn r cl).map (savedBytes s r)).sum + 127) / 128

/-- Whether a discard is allowed (R420, R447). The kernel's header has a RESTART of its own (R383), and both have to be set (DESIGN CHOICE,
log 39: the spec does not say how the two go together). -/
def mayDiscard (s : State) (r : Region) : Bool :=
  r.restart && r.hdrBits 6 1 == 1 && !r.dependants &&
  !((s.allWarps.filter fun w => w.ctx == r.ctx && w.region == r.rcb).any fun w => w.threads.any fun t => t.task.live && s.holdsGrant r.ctx t.task.seq)

/-- The choice: 1 drain, 2 save, 3 discard; none where nothing is within DEADLINE. -/
def choose (s : State) (r : Region) (cl : Nat) : Option Nat :=
  let ok (e : Nat) : Bool := r.deadline == 0 || decide (e ≤ r.deadline)
  let drain := ((drainCost s r cl).filter ok).map fun e => (e, 1)
  let save := if ok (saveCost s r cl) then some (saveCost s r cl, 2) else none
  let discard := if mayDiscard s r then some (0, 3) else none
  ([drain, save, discard].filterMap id).foldl (fun m x => match m with
    | none => some x
    | some y => if x.1 < y.1 then some x else some y) none |>.map (·.2)

/-! ### Save (R448) -/

/-- A warp stops for its save: a unit of prefix and target is not split, a waiting migration request is withdrawn, and
snare mode ends (R51, R341, R392). -/
def stopForSave (s : State) (key : Nat) : State :=
  match s.warp? key with
  | none => s
  | some w =>
    let cl := coreCluster w.core
    let c := s.cluster cl
    let s := s.setCluster cl { c with migq := c.migq.filter fun m => m.warp != key || m.granted }
    -- a `ctload` begins again after the restoration
    let s := if w.hold == .again then s.setContext w.ctx { s.context w.ctx with ctBusy := false } else s
    let w := { w.unitBack with saved := true, hold := if w.hold = .again then .free else w.hold }
    let s := s.setWarp w
    match w.snare with
    | some n => handBatch s w n
    | none => s

/-- What a region's discard gives back of a block: an undispatched block, whose threads are untriggered again, also those of warps that
have been freed, or its spawned tasks (R415, R448). -/
def Region.giveBack (r : Region) (s : State) (b : Block) : Region :=
  let ts := (s.warpsOf b.id).flatMap (·.threads)
  if b.spawned then
    let launched := ts.filter fun t => t.task.seq != 0 || t.task.live || t.task.fresh || t.triggered
    { r with spawnq := (launched.map fun t => { arg := t.task.arg, seq := t.task.seq, covered := t.covered }) ++ r.spawnq }
  else { r with redo := r.redo ++ [b.index], untrig := r.untrig + b.trigd + (ts.filter (·.triggered)).length }

/-- Discard (R262, R311, R448). -/
def discardOn (s : State) (r : Region) (cl : Nat) : State :=
  ((s.blocksOn r cl).filter fun b => !(s.unfinished b).isEmpty).foldl (fun s b => match s.regionOf? r.ctx r.rcb with
    | none => s
    | some r =>
      let s := s.setRegion (r.giveBack s b)
      (s.dropWarps ((s.warpsOf b.id).map (·.key))).freeBlock b) s

/-- PREEMPTION: a cluster chooses drain, save or discard for a region (R447, R448). -/
def execPreemption (region cluster : Nat) (s : State) : Out :=
  match s.keyed? region with
  | none => .next s
  | some r =>
    if (s.blocksOn r cluster).isEmpty || r.preempt.any (fun p => p.1 == cluster && p.2 != 0) then .next (s.leaveCluster r.ctx r.rcb cluster)
    else
      let r' := r.left cluster
      let set (k : Nat) : State := s.setRegion { r' with preempt := r'.preempt ++ [(cluster, k)] }
      let save : State := ((s.blocksOn r cluster).flatMap fun b => (s.unfinished b).map (·.key)).foldl stopForSave (set 2)
      .next (match choose s r cluster with
        | some 1 => set 1
        | some 3 => (discardOn (set 1) r cluster).writeShare r
        | some _ => save
        | none => agentRec save r.ctx r.rcb 0x161 0 0 .nothing)

/-- Whether a warp has come to rest: its FIFO drained, LD, the scoreboard and the queues at 0, and its writes in every
view of the device (R78, R136, R311, R392), but for the operations that a record of its own holds: the save goes ahead
around them (R470). -/
def atRest (s : State) (w : Warp) : Bool :=
  let own := w.fifo ++ w.failed
  (w.fifo.all fun e => w.blocked.contains e.op) && (w.loads.all fun x => x.lanes.all fun y => y.done || y.why.isSome) &&
  (w.sb.all fun b => w.failed.any fun e => e.op == b.1) && w.queue.isEmpty && w.tileOps.isEmpty && w.barOps.isEmpty &&
  !(s.links.fports.any fun p => p.2.queue.any fun q => q.warp == w.key) &&
  (w.hold == .free || w.hold.atEp.isSome) && !w.migrating && w.pfx.isNone && w.snare.isNone &&
  w.threads.all fun t => gateOpen s w.core 4 (t.covered.filter fun x => !(own.any fun e => e.wid == x))

/-- A copy record as it is saved: its counted pieces, and every other to be moved again (R262). -/
def CopyRec.halt (r : CopyRec) : CopyRec :=
  { r with pieces := r.pieces.map fun (p : Piece) => if p.counted then p else { p with data := none, wids := [], put := [], written := false, missing := false } }

/-- What a block holds of a core, by index (R449). -/
def coreParts (c : Core) (b : Block) (a : Allot) : Core :=
  let ks := c.kicks.filter fun k => k.block == b.id
  let part {α : Type} (l : List (Nat × α)) (base n : Nat) : List (Nat × α) :=
    (l.filter fun p => decide (base ≤ p.1) && decide (p.1 < base + n)).map fun p => (p.1 - base, p.2)
  { nbars := part c.nbars a.nBase b.nbars, queues := part c.queues a.qBase b.queues, tiles := part c.tiles a.tBase b.tiles
    kicks := ks, recs := (c.recs.filter fun r => ks.any fun k => k.id == r.kick).map CopyRec.halt
    meHolder := c.meHolder.filter fun k => k == b.id, meReqs := c.meReqs.filter fun k => k == b.id
    meRelease := c.meRelease && c.meHolder == some b.id
    meQueue := (c.meQueue.filter fun o => o.block == b.id).map fun (o : MOp) => { o with part := [], data := none, bad := [] }
    readable := c.readable }

/-- The bytes of a range with their last writers. -/
def State.rangeOut (s : State) (base n : Nat) : List (Nat × Byte × Nat) :=
  (List.range n).map fun j => (j, memGet s.mem (base + j), kvGet s.order.last (base + j) 0)

/-- Every range of a block: on its cores, and its warps' private ones. -/
def blockRanges (b : Block) (ws : List Warp) (priv : Nat) : List (Nat × Nat) :=
  b.allots.flatMap (chipRanges b) ++ ws.flatMap fun w => privRanges w priv

/-- What the arrivals of a block's barrier objects release, by core, offset and phase (R226). -/
def State.barsOut (s : State) (b : Block) : List (Nat × Nat × Nat × List Nat) :=
  b.allots.flatMap fun a =>
    let base := locChip 1 a.core a.sBase
    (s.order.bars.filter fun p => decide (base ≤ p.1 / 32) && decide (p.1 / 32 < base + b.spad)).map fun p =>
      (a.core, p.1 / 32 - base, p.1 % 32, p.2)

/-- A core without what a saved block held there: the tile entries keep their generations, and the engine passes on. -/
def State.vacate (s : State) (b : Block) (a : Allot) : State :=
  let c := s.core a.core
  let ks := c.kicks.filter fun k => k.block == b.id
  let prog (s : State) (r : CopyRec) : State := if r.ran then s.poke (locChip 1 a.core (a.sBase + r.off + 56)) (bytesOf 4 r.counted) else s
  let s := s.setCore a.core { c with
    nbars := c.nbars.filter fun p => !(decide (a.nBase ≤ p.1) && decide (p.1 < a.nBase + b.nbars))
    queues := c.queues.filter fun p => !(decide (a.qBase ≤ p.1) && decide (p.1 < a.qBase + b.queues))
    tiles := c.tiles.map fun p => if a.tBase ≤ p.1 && p.1 < a.tBase + b.tiles then (p.1, { gen := p.2.gen }) else p
    kicks := c.kicks.filter fun k => k.block != b.id
    recs := c.recs.filter fun r => !(ks.any fun k => k.id == r.kick)
    meQueue := c.meQueue.filter fun o => o.block != b.id
    meReqs := c.meReqs.filter fun k => k != b.id
    meRelease := c.meRelease || c.meHolder == some b.id }
  (((c.recs.filter fun r => ks.any fun k => k.id == r.kick)).foldl prog s).matrixSettle a.core

/-- A block saved (R448, R449). -/
def saveBlock (s : State) (r : Region) (b : Block) : State :=
  let ws := s.warpsOf b.id
  -- PROG is written before the bytes are saved (R262)
  let parts := b.allots.map fun a => (a.core, coreParts (s.core a.core) b a)
  let bars := s.barsOut b
  let qws := s.qwaits.filter fun q => ws.any fun w => w.key == q.warp
  let s := b.allots.foldl (fun s a => s.vacate b a) s
  let ranges := (blockRanges b ws r.priv).map fun x => s.rangeOut x.1 x.2
  { s with
    saves := s.saves ++ [{ block := { b with started := s.tick.toNat - b.started }, warps := ws, ranges := ranges, cores := parts, qwaits := qws, bars := bars }]
    warps := s.warps.filter fun w => w.block != b.id
    blocks := s.blocks.filter fun x => x.id != b.id
    qwaits := s.qwaits.filter fun q => !(ws.any fun w => w.key == q.warp) }

/-- PREEMPT_SAVE: the first block of a region at rest on a cluster that it leaves by save is saved; with the last block
the region has left (R448, R449). A block whose warps are DRAINING is finished work (R94). -/
def execPreemptSave (region cluster : Nat) (s : State) : Out :=
  match s.keyed? region with
  | none => .next s
  | some r =>
    let bs := s.blocksOn r cluster
    if bs.isEmpty then .next (s.leaveCluster r.ctx r.rcb cluster)
    else if !(r.preempt.any fun p => p.1 == cluster && p.2 == 2) then .next s
    else match bs.find? fun b => (s.warpsOf b.id).all fun w => !w.draining && w.saved && atRest s w with
    | some b => .next ((saveBlock s r b).writeShare r)
    | none => .next s

/-! ### Restoration (R450) -/

/-- The core of a cluster with the local index of another core (R450). -/
def moveCore (cl core : Nat) : Nat := coreOfLocal cl (coreLocal core)

/-- Room for the warps of a saved block on the cores of a cluster. -/
def restoreWarps (s : State) (cl : Nat) (r : Region) : List Use → List Warp → Option (List Use)
  | _, [] => some []
  | us, w :: ws =>
    let core := moveCore cl w.core
    match placeOne us core w.width (r.vregs w.onL) r.priv with
    | none => none
    | some u => (restoreWarps s cl r (us ++ [u]) ws).map fun l => u :: l

/-- Room for the allotments of a saved block: its tile entries at their own indices. -/
def restoreAllots (s : State) (cl : Nat) (b : Block) : Option (List Allot) :=
  b.allots.mapM fun a =>
    let core := moveCore cl a.core
    let clash := b.tiles != 0 && s.blocks.any fun x => (x.allotOn core).any fun y => decide (a.tBase < y.tBase + x.tiles) && decide (y.tBase < a.tBase + b.tiles)
    if clash then none else (fitAllot s.blocks core { b with tiles := 0 }).map fun y => { y with tBase := a.tBase }

/-- Whether the matrix engines that a saved block holds are free in a cluster (R285). -/
def enginesFree (s : State) (cl : Nat) (x : Saved) : Bool :=
  x.cores.all fun p => p.2.meHolder.isNone || (s.core (moveCore cl p.1)).meHolder.isNone

/-- Where a saved block can be restored: the lowest such cluster (R450). -/
def restorePlace (s : State) (r : Region) (x : Saved) : Option (Nat × List Use × List Allot) :=
  (s.clustersOf r.ctx).foldl (fun m cl => match m with
    | some y => some y
    | none =>
      if s.foreign r.ctx cl || r.preempt.any (fun p => p.1 == cl) || !enginesFree s cl x ||
          !s.within r (x.block.allots.map fun a => moveCore cl a.core) then none
      else match restoreWarps s cl r s.uses x.warps, restoreAllots s cl x.block with
      | some us, some as => some (cl, us, as)
      | _, _ => none) none

/-- A location of one of a block's ranges at its new place. -/
def moveLoc (old new : List (Nat × Nat)) (loc : Nat) : Nat :=
  match (old.zip new).find? fun z => decide (z.1.1 ≤ loc) && decide (loc < z.1.1 + z.1.2) with
  | some z => z.2.1 + (loc - z.1.1)
  | none => loc

/-- What a waiting thread waits for after its restoration: the same object, its time from the beginning (R450). -/
def moveWait (s : State) (cl : Nat) (old new : List (Nat × Nat)) (x : Saved) (b : Block) (core : Nat) (t : Thread) : Waiting :=
  match t.wait with
  | .bwait o ph _ span p => .bwait (moveLoc old new o) ph (s.cyclesOf core + span) span p
  | .nbar k ph =>
    let c := x.block.allots.find? fun a => moveCore cl a.core == core
    match c, b.allotOn core with
    | some a, some y => .nbar (k - a.nBase + y.nBase) ph
    | _, _ => .nbar k ph
  | .queue push o k =>
    match x.block.allotOn o, b.allotOn (moveCore cl o) with
    | some a, some y => .queue push y.core (k - a.qBase + y.qBase)
    | _, _ => .queue push o k
  | .backoff _ => .backoff (s.cyclesOf core + backoffOf t)
  | w => w

/-- A copy record as it comes back: one that had started waits for a slot ahead of those that had not (R252, R262). -/
def CopyRec.back (r : CopyRec) : CopyRec :=
  { r with st := match r.st with
    | .running => .restored
    | .held => .new
    | x => x }

/-- What a block held on a core put back there: copies in flight go ahead of those not started, and the engine is held
again (R262, R285, R288). -/
def State.refit (s : State) (parts : Core) (b : Block) (a : Allot) : State :=
  let c := s.core a.core
  let put {α : Type} (l : List (Nat × α)) (base : Nat) (ps : List (Nat × α)) : List (Nat × α) := ps.foldl (fun l p => kvSet l (base + p.1) p.2) l
  let n := c.kickCt
  let num (id : Nat) : Nat := n + (parts.kicks.takeWhile fun k => k.id != id).length
  s.setCore a.core { c with
    nbars := put c.nbars a.nBase parts.nbars, queues := put c.queues a.qBase parts.queues, tiles := put c.tiles a.tBase parts.tiles
    kicks := c.kicks ++ parts.kicks.map fun (k : Kick) => { k with id := num k.id }
    kickCt := n + parts.kicks.length
    recs := (parts.recs.map fun (r : CopyRec) => { r.back with kick := num r.kick }) ++ c.recs
    meHolder := if parts.meHolder.isSome || (c.meHolder.isNone && !parts.meReqs.isEmpty) then some b.id else c.meHolder
    meReqs := if c.meHolder.isNone && parts.meHolder.isNone then c.meReqs else c.meReqs ++ parts.meReqs
    meRelease := if parts.meHolder.isSome then parts.meRelease else c.meRelease
    meQueue := c.meQueue ++ parts.meQueue, readable := if b.shadow then parts.readable else c.readable }

/-- Bytes of a range put back with their last writers. -/
def State.rangeIn (s : State) (base : Nat) (bs : List (Nat × Byte × Nat)) : State :=
  { s with
    mem := memPutAll s.mem (bs.map fun x => (base + x.1, x.2.1))
    order := { s.order with last := bs.foldl (fun l x => if x.2.2 = 0 then kvDel l (base + x.1) else kvSet l (base + x.1) x.2.2) s.order.last } }

/-- A saved block restored at a place (R450). -/
def restoreBlock (s : State) (r : Region) (x : Saved) (cl : Nat) (us : List Use) (as : List Allot) : State :=
  let b := { x.block with cluster := cl, allots := as, started := s.tick.toNat - x.block.started }
  let moved := (x.warps.zip us).map fun z =>
    { z.1 with core := z.2.core, slot := z.2.slot, quarter := z.2.quarter, home := z.1.home.map (moveCore cl), saved := false }
  let old := blockRanges x.block x.warps r.priv
  let new := blockRanges b moved r.priv
  let s := (s.takeDxt cl).claimCluster cl r.ctx
  let entry (e : FifoEnt) : FifoEnt := { e with cells := e.cells.map fun c => (moveLoc old new c.1, c.2) }
  let ws := moved.map fun w => { w with
    bundle := w.bundle.filter fun l => (w.thread l).mayIssue
    fifo := w.fifo.map entry, failed := w.failed.map entry
    loads := w.loads.map fun (x : Load) => { x with lanes := x.lanes.map fun (y : LoadLane) => { y with loc := moveLoc old new y.loc } }
    threads := w.threads.map fun (t : Thread) =>
      { threadAcquires (w.threads.foldl (fun c t => union c t.covered) []) t with wait := moveWait s cl old new x b w.core t } }
  let s := { s with blocks := s.blocks ++ [b], warps := s.warps ++ ws }
  let s := (x.cores.zip as).foldl (fun s z => s.refit z.1.2 b z.2) s
  let s := (new.zip x.ranges).foldl (fun s z => s.rangeIn z.1.1 z.2) s
  let keep := x.qwaits.map fun (q : QWait) =>
    let place := match x.block.allotOn q.owner, b.allotOn (moveCore cl q.owner) with
      | some a, some y => (y.core, q.id - a.qBase + y.qBase)
      | _, _ => (q.owner, q.id)
    { q with owner := place.1, id := place.2, deadline := q.deadline.map fun _ => s.cyclesOf place.1 + q.span }
  let bars := x.bars.map fun p =>
    let base := (b.allotOn (moveCore cl p.1)).map fun a => locChip 1 a.core a.sBase
    (barKey (base.getD 0 + p.2.1) p.2.2.1, p.2.2.2)
  let s := { s with
    qwaits := s.qwaits ++ keep
    order := { s.order with bars := bars.foldl (fun l p => kvSet l p.1 p.2) s.order.bars } }
  -- a waiting `mres` whose engine is free now holds it (R288)
  let s := as.foldl (fun s a => if (s.core a.core).meHolder == some b.id && !(s.core a.core).meRelease then s.wakeMres a.core b.id else s) s
  s

/-- RESTORE (R311, R450): the saved block with that place in the list. -/
def execRestore (index : Nat) (s : State) : Out :=
  match s.saves[index]? with
  | none => .next s
  | some x => match s.regionOf? x.block.ctx x.block.region with
    | none => .next s
    | some r =>
      match restorePlace s r x with
      | none => .next s
      | some (cl, us, as) =>
        let s := { s with saves := s.saves.eraseIdx index }
        .next ((((restoreBlock s r x cl us as).writeShare r).applyLater).settle r.ctx)

end Sys2Proof.Machine
end

