-- ==== Sys2Proof/Machine/Platform.lean ====
section
/-!
DEFINITION. Links, islands, health, signatures, the registers of the hypervisor complex, and bring-up (16 R451, 18).
-/
namespace Sys2Proof.Machine
open Sys2Proof

/-! ### Islands and current (R451, R486 to R488) -/

/-- A thermal cycle of more than 40 °C: the temperature has risen by more than that and fallen again (R489). -/
def Cluster.heat (c : Cluster) (temp tjmax : Nat) : Cluster × Bool :=
  let low := if c.temp = 0 then temp else min c.tLow temp
  let high := if temp ≤ low then temp else max c.tHigh temp
  let cycle := decide (low + 40 < high) && decide (temp + 40 < high)
  ({ c with
    temp := temp, hot := decide (tjmax ≤ temp) || (c.hot && decide (tjmax < temp + 5))
    tLow := if cycle then temp else low, tHigh := if cycle then temp else high }, cycle)

/-- The weight of the `mgo` queued on a cluster: pa × pb each (R17, R273, R451). -/
def State.mgoWeight (s : State) (cl : Nat) : Nat :=
  ((List.range 16).map fun i =>
    let core := coreOfLocal cl i
    ((s.core core).meQueue.map fun op => match opTiles s core op with
      | some (ta, tb, _) => if op.written then 0 else ta.1.planes * tb.1.planes
      | none => 0).sum).sum

/-- The current of the core rail in A: within ILIM, and within what PCAP leaves beside the budgets of the other consumers
(R17, R486; log 40). -/
def State.railAmps (s : State) : Nat :=
  let volts := (List.range 18).foldl (fun m cl => max m (s.cluster cl).vnow) 1
  min s.dev.ilim ((s.dev.pcap - 1170) * 1000 / volts)

/-- An island's share of so much current, by its demand among all (R451). -/
def shareOf (total : Nat) (demands : List Nat) (cl : Nat) : Nat := total * demands.getD cl 0 / demands.sum

/-- CURRENT_ARBITRATION: the rail's current over the last 1 µs, each island's demand beside its `mgo`, and its hottest sensor.
The rail is divided by demand, with the queued `mgo` at their weight; an island at TJMAX is granted only enough for FMIN
(R17, R451, R486). -/
def execCurrentArbitration (inow : Nat) (demands temps : List Nat) (s : State) : Out :=
  let ds := (List.range 18).map fun cl => demands.getD cl 0 + s.mgoWeight cl
  let total := s.railAmps
  let s := { s with dev := { s.dev with inow := inow % 4096 } }
  .next ((List.range 18).foldl (fun s cl =>
    let (c, cycle) := (s.cluster cl).heat (temps.getD cl (s.cluster cl).temp) s.dev.tjmax
    let g := shareOf total ds cl
    let s := s.setCluster cl { c with grant := if c.hot then min g (Config.islandAmps cl c.fmin) else g }
    if cycle then s.tally 1 0 else s) s)

/-- The core supply for a frequency: the reference points, and the firmware's values between them, 560 mV at least (R9, R487). -/
def tableVolts (f : Nat) : Nat :=
  if f = 20 then 560 else if f = 30 then 610 else if f = 40 then 675 else if f = 44 then 760 else max 560 (Config.islandVolts f)

/-- The highest frequency in an island's limits that its grant allows; FMIN at TJMAX, and where its grant allows none (R451,
R486). -/
def Cluster.topFreq (c : Cluster) (cl : Nat) : Nat :=
  if c.hot then c.fmin
  else ((List.range (min c.fmax c.flimit + 1)).filter fun f => decide (c.fmin ≤ f) && decide (Config.islandAmps cl f ≤ c.grant)).foldl max c.fmin

/-- An island's supply at a frequency: the table's value and the guardband (R487, R488). -/
def Cluster.voltsAt (c : Cluster) (f : Nat) : Nat := min 760 (tableVolts f + c.guardband)

/-- ISLAND_STEP: towards the highest frequency in the island's limits that its grant allows, one step of 100 MHz (R451, R486, R487).
On the way up the voltage is raised first, and the next ISLAND_STEP raises the frequency; on the way down the frequency is lowered
first, and an ISLAND_STEP to the frequency that the island has lowers the voltage to it. Until stage 10 islands stay as bring-up
sets them (R492). -/
def execIslandStep (cluster target : Nat) (s : State) : Out :=
  let c := s.cluster cluster
  let top := c.topFreq cluster
  .next (
    if s.dev.stage < 10 then s
    else if target = c.fnow then s.setCluster cluster { c with vnow := c.voltsAt target }
    else if target = c.fnow + 1 && decide (target ≤ top) then
      s.setCluster cluster (if c.vnow < c.voltsAt target then { c with vnow := c.voltsAt target } else { c with fnow := target })
    else if target + 1 = c.fnow && decide (top ≤ target) then s.setCluster cluster { c with fnow := target }
    else s)

/-- CAGE_UPDATE: the daily comparison (R488): the supply follows the guardband (R487), FMAX stays at or below FLIMIT, and EOLDAYS
below 365 is a health event. -/
def execCageUpdate (cluster guardband flimit eoldays : Nat) (s : State) : Out :=
  let c := s.cluster cluster
  if 100 < guardband || 64 ≤ flimit || 65536 ≤ eoldays then .next s
  else
    let s := if eoldays < 365 && 365 ≤ c.eoldays then { s with dev := { s.dev with health := s.dev.health ++ [cluster] } } else s
    let c := { c with guardband := guardband, flimit := flimit, eoldays := eoldays, fmax := min c.fmax flimit }
    .next (s.setCluster cluster { c with vnow := c.voltsAt c.fnow })

/-! ### Lifetime counters (R489) -/

/-- LIFETIME_SAVE: the counters and the histograms are saved. -/
def execLifetimeSave (s : State) : Out :=
  .next { s with dev := { s.dev with saved := s.dev.counters, savedHists := s.clusters.map fun c => (c.1, c.2.tempHist, c.2.voltHist) } }

/-- Histogram bin of a value: bins of a width from a base, the first and last open. -/
def histBin (base width x : Nat) : Nat := min 15 ((x - base) / width)

/-- One powered hour counted for the device and for every island's histograms (R489). -/
def State.countHour (s : State) : State :=
  (List.range 18).foldl (fun s cl =>
    let c := s.cluster cl
    let t := histBin 40 5 c.temp
    let v := histBin 520 15 c.vnow
    s.setCluster cl { c with
      tempHist := kvSet c.tempHist t (kvGet c.tempHist t 0 + 1)
      voltHist := kvSet c.voltHist v (kvGet c.voltHist v 0 + 1) }) (s.tally 0 0)

/-! ### Registers (R316, R329, R350, R396, R426, R428, R451, R471, R472, R475, R479, R480, R482, R486) -/

/-- A word of a fabric window (R480). -/
def FWin.setWord (f : FWin) (word v : Nat) : FWin :=
  match word with
  | 0 => { f with valid := v.testBit 0, rd := v.testBit 1, wr := v.testBit 2, at_ := v.testBit 3, dev := bitsOf v 16 16, rctx := bitsOf v 32 8 }
  | 1 => { f with rbase := bitsOf v 0 57 / 131072 * 131072 }
  | 2 => { f with size := bitsOf v 0 46 }
  | _ => f

/-- QLOG, QPRIO, QEN and QERR in one write (R428): QLOG keeps its value while QEN is 1, and where the value is above 12. -/
def CQueue.setCtl (x : CQueue) (v : Nat) : CQueue :=
  let y := { x with qlog := if x.en || 12 < bitsOf v 0 4 then x.qlog else bitsOf v 0 4, prio := bitsOf v 4 2, en := v.testBit 6 }
  if v.testBit 7 && x.err then
    let cmds := y.cmds.map fun (c : Cmd) => if c.opc = 0 then { c with done := true } else c
    { y with err := false, cmds := cmds }.retire
  else y

/-- Whether a partition has a region that has not ended, a block or a saved block. -/
def State.partBusy (s : State) (part : Nat) : Bool :=
  (s.regions.any fun r => r.ctx / 8 == part && r.alive) || (s.blocks.any fun b => s.partOf b.cluster == part) ||
  s.saves.any fun x => x.block.ctx / 8 == part

/-- A cluster moved to the partition of another cluster, or to one of its own where both are the same: each partition's
number is its lowest cluster (R427). Partitions at work are not divided anew (log 12). -/
def State.movePartition (s : State) (cl v : Nat) : State :=
  if 18 ≤ cl || 18 ≤ v || s.partBusy (s.partOf cl) || s.partBusy (s.partOf v) then s
  else
    let group (c : Nat) : Nat := if c = cl then (if v = cl then 18 else s.partOf v) else s.partOf c
    let members (n : Nat) : List Nat := (List.range 18).filter fun c => group c == group n
    { s with parts := (List.range 18).filterMap fun n =>
        if (members n).head? = some n then some (n, { kvGet s.parts n { clusters := [] } with clusters := members n }) else none }

/-- A limit of a tenant in a tier written (R329): a write that breaks LOW ≤ HIGH ≤ QUOTA is ignored (log 52). -/
def State.setLimit (s : State) (ctx tier item v : Nat) : State :=
  let t := s.tenant ctx
  let q := kvGet t.quotas tier {}
  let q := match item with
    | 0 => { q with quota := v }
    | 1 => { q with high := v }
    | 2 => { q with low := v }
    | _ => { q with pool := v }
  if q.high < q.low || q.quota < q.high then s
  else (s.setTenant ctx { t with quotas := kvSet t.quotas tier q }).fillPool ctx

/-- The context that a PCIe function owns: each context is at most one function's, the physical function 0 or a virtual function 1 to
64 (R428). -/
def State.ownedBy (s : State) (fn : Nat) : Option Nat := (s.links.funcs.find? fun p => p.1 == fn).map (·.2)

/-- The hypervisor complex gives a function a context that no other function owns (R428). -/
def State.giveContext (s : State) (fn ctx : Nat) : State :=
  if 64 < fn || 144 ≤ ctx || s.links.funcs.any (fun p => p.1 != fn && p.2 == ctx) then s
  else { s with links := { s.links with funcs := kvSet s.links.funcs fn ctx } }

def Out.orSame (o : Out) (s : State) : State :=
  match o with
  | .next t => t
  | _ => s

/-- A write at an offset of a function's register window, which reaches that function's context alone (R428, R471, R472): QBASE, the
word of QLOG to QERR and the doorbell of a queue; FRESADDR, FRESMODE with FRESGO, KILLADDR and KILLGO. -/
def fnWrite (s : State) (fn off v : Nat) : State :=
  match s.ownedBy fn with
  | none => s
  | some ctx =>
    let q := (off - 0x1000) / 32
    if off = 0x800 then s.setContext ctx { s.context ctx with fresAddr := BitVec.ofNat 64 v }
    else if off = 0x808 then
      if v % 4 = 3 then s
      else
        let s := s.setContext ctx { s.context ctx with fresMode := v % 4 }
        if v.testBit 2 then hostFres (v % 4) ctx s else s
    else if off = 0x810 then s.setContext ctx { s.context ctx with killAddr := BitVec.ofNat 64 v }
    else if off = 0x818 then (if v.testBit 0 then (execHostKill ctx s).orSame s else s)
    else if off < 0x1000 || 0x1200 ≤ off then s
    else match off % 32 with
    | 0 => if (s.cqueue ctx q).en then s else s.setCqueue ctx q { s.cqueue ctx q with base := BitVec.ofNat 64 v }
    | 8 => s.setCqueue ctx q ((s.cqueue ctx q).setCtl v)
    | 16 => (execQueueDoorbell ctx q v s).orSame s
    | _ => s

/-- REGISTER_WRITE: a write outside a register's ranges is ignored (R451, R486), and in recovery any (R492). -/
def execRegisterWrite (reg : RegName) (v : Nat) (s : State) : Out :=
  .next (if !s.answers then s else match reg with
    | .cmigctl cl => s.setCluster cl { s.cluster cl with
        pen := v.testBit 0, aen := v.testBit 1, dthr := BitVec.ofNat 8 (v / 4), lcthr := BitVec.ofNat 5 (v / 1024) }
    | .cmigstat cl => s.setCluster cl { s.cluster cl with decl := BitVec.ofNat 32 v, migDone := BitVec.ofNat 32 (v / 2 ^ 32) }
    | .cisland cl =>
      let lo := bitsOf v 0 6
      let hi := bitsOf v 6 6
      let c := s.cluster cl
      if lo < 20 || 44 < hi || hi < lo then s else s.setCluster cl { c with fmin := lo, fmax := min hi c.flimit }
    | .pcurlim =>
      let i := bitsOf v 0 12
      let p := bitsOf v 12 12
      let t := bitsOf v 24 8
      if i < 500 || 3300 < i || p < 1000 || 3400 < p || t < 85 || 110 < t then s
      else { s with dev := { s.dev with ilim := i, pcap := p, tjmax := t } }
    | .cboostStat ctx => s.setContext ctx { s.context ctx with unk := BitVec.ofNat 32 v, aborts := BitVec.ofNat 32 (v / 2 ^ 32) }
    | .cdbgctlDen ctx => s.setContext ctx { s.context ctx with den := v.testBit 0 }
    | .stkcapAlert st => if v.testBit 28 then s.setStack st { s.stack st with alert := false } else s
    | .qbase ctx q =>
      let x := s.cqueue ctx q
      if x.en || 16 ≤ q then s else s.setCqueue ctx q { x with base := BitVec.ofNat 64 v }
    | .qctl ctx q => if 16 ≤ q then s else s.setCqueue ctx q ((s.cqueue ctx q).setCtl v)
    | .fresAddr ctx => s.setContext ctx { s.context ctx with fresAddr := BitVec.ofNat 64 v }
    | .fresMode ctx => if v % 4 = 3 then s else s.setContext ctx { s.context ctx with fresMode := v % 4 }
    | .killAddr ctx => s.setContext ctx { s.context ctx with killAddr := BitVec.ofNat 64 v }
    | .pto => if v < 1000 || 1000000000 < v then s else { s with links := { s.links with pto := v } }
    | .route dev => { s with links := { s.links with routes := kvSet s.links.routes dev ((List.range 96).filter v.testBit) } }
    | .window part i word => if 18 ≤ part || 4096 ≤ i then s else { s with links := { s.links with windows := kvSet s.links.windows (part * 4096 + i) ((s.window part i).setWord word v) } }
    | .ctxRoot ctx => s.setContext ctx { s.context ctx with root := v }
    | .ctxWin ctx => s.setContext ctx { s.context ctx with win := v % 64 }
    | .ctxAsn ctx => s.setContext ctx { s.context ctx with asn := BitVec.ofNat 8 v }
    | .autoCow ctx => s.setTenant ctx { s.tenant ctx with autoCow := v.testBit 0 }
    | .quota ctx tier item => s.setLimit ctx tier item v
    | .partition cl => s.movePartition cl v
    | .fnWindow fn off => fnWrite s fn off v
    | .fnContext fn => s.giveContext fn v)

/-! ### Signatures and attestation (R52, R490, R491) -/

/-- An image refused: counted and logged (R52, R490). -/
def State.refuseImage (s : State) (what : Nat) : State :=
  { s with dev := { s.dev with refused := s.dev.refused + 1, devlog := s.dev.devlog ++ [512 * what] } }.tally 9 0

/-- Whether an image is accepted: its signature is right, its key is not revoked, its version not too low (R490). -/
def State.accepts (s : State) (g : ImageSig) : Bool := g.valid && !s.dev.revoked.contains g.key && decide (s.dev.minVer ≤ g.version)

/-- DXT_LOAD (R52): a table whose signature fails is refused, and what was accepted before it stays in force or due, where the
rule speaks of the built-in table only (DEDUCED, log 41); one that is valid takes effect once no region is resident on the
cluster. -/
def execDxtLoad (cluster dxt : Nat) (sig : ImageSig) (s : State) : Out :=
  .next (if !s.answers then s else if s.accepts sig then (s.setCluster cluster { s.cluster cluster with dxtNext := some dxt }).takeDxt cluster else s.refuseImage (1 + cluster))

/-- A new attestation key, certified by the next identity signature, where one is left (R491). -/
def State.newKey (s : State) : State :=
  if 2 ^ 20 ≤ s.dev.idLeaf then { s with dev := { s.dev with attKey := false } }
  else { s with dev := { s.dev with idLeaf := s.dev.idLeaf + 1, attKey := true, attCt := 0 } }

/-- ATTESTATION_REPORT (R491). -/
def execAttestationReport (nonce : Nat) (s : State) : Out :=
  let s := if s.dev.attKey && s.dev.attCt = 1024 then s.newKey else s
  .next (if !s.dev.attKey then s
    else
      let r : Report := { nonce := nonce, leaf := s.dev.idLeaf - 1, sig := s.dev.attCt, images := s.dev.images
                          dxts := s.clusters.map fun c => (c.1, c.2.dxt), fuses := (s.dev.revoked, s.dev.minVer), counters := s.dev.counters }
      { s with dev := { s.dev with attCt := s.dev.attCt + 1, reports := s.dev.reports ++ [r] } })

/-! ### Bring-up (R492) -/

/-- The machine after a reset: what stands in non-volatile storage stays (R489, R491). -/
def State.afterReset (s : State) : State :=
  { State.reset with
    agenda := s.agenda, free := s.free, tick := s.tick
    clusters := s.dev.savedHists.map fun h => (h.1, { tempHist := h.2.1, voltHist := h.2.2 })
    dev := { State.reset.dev with
      counters := s.dev.saved, saved := s.dev.saved, savedHists := s.dev.savedHists, idLeaf := s.dev.idLeaf
      revoked := s.dev.revoked, minVer := s.dev.minVer } }

/-- The layers of a stack as its base die reports them, 12 at least (R350). -/
def Stack.report (k : Stack) (live : Nat) : Stack :=
  let n := ((List.range 16).filter live.testBit).length
  if n < 12 then k else { k with live := BitVec.ofNat 16 live, nlayer := n, cap := 4 * n }

/-- The images of a stage verified: all of them, or each that is refused counted (R490). The first-stage firmware is one. -/
def State.verify (s : State) (stage : Nat) (gs : List ImageSig) : Bool × State :=
  if stage != 2 && stage != 5 then (true, s)
  else if gs.all s.accepts then (stage != 2 || !gs.isEmpty, s)
  else (false, (gs.filter fun g => !s.accepts g).foldl (fun s _ => s.refuseImage 0) s)

/-- What a stage of bring-up does when it completes (R492): the images run and are measured; the stacks report LIVE; islands start at
2.0 GHz, and go to the limits in CISLAND in stage 10; the memory service clears T0 and builds the frame reference table, in which
every frame is free; the links that do not fail train. -/
def stageDone (s : State) (stage : Nat) (x : StageLoad) : State :=
  let islands (s : State) (f : Cluster → Nat) : State := (List.range 18).foldl (fun s cl =>
    let c := s.cluster cl
    s.setCluster cl { c with fnow := f c, vnow := c.voltsAt (f c) }) s
  match stage with
  | 2 | 5 => { s with dev := { s.dev with images := s.dev.images ++ x.images.map (·.digest) } }
  | 3 => (List.range 12).foldl (fun s k => s.setStack k ((s.stack k).report (kvGet x.live k 0xFFFF))) s
  | 4 => islands s fun _ => 20
  | 6 => { s with mem := s.mem.filter fun c => decide (2 ^ 42 ≤ c.1), paging := { s.paging with frt := [] } }
  | 7 => { s with links := { s.links with hostUp := true, hostCxl := Config.strapCxl } }
  | 8 => { s with links := { s.links with cxlUp := [0, 1, 2].filter fun k => !x.lost.contains k } }
  | 9 =>
    let s := (List.range 96).foldl (fun s p => if x.lost.contains p then s else s.setFport p { s.fport p with up := true }) s
    { s with links := { s.links with routes := x.routes.foldl (fun r p => kvSet r p.1 p.2) s.links.routes } }
  | 10 => (islands s fun c => max c.fmin (min c.fmax c.fnow)).newKey
  | _ => s

/-- BRING_UP: the next stage; from Ready, or after a failure in stages 1 to 6, a fundamental reset and the first stage. Stages 2 and 5
fail where an image is refused (R490). A link that fails in stage 8 or 9 is left out, with the failure in CODE, and bring-up goes on
(R492). -/
def execBringUp (ok : Bool) (load : StageLoad) (s : State) : Out :=
  let again := s.dev.stage == 11 || (s.dev.fail && s.dev.stage != 8 && s.dev.stage != 9)
  let s := if again then s.afterReset else s
  let stage := s.dev.stage + 1
  let (good, s) := s.verify stage load.images
  let links := stage == 8 || stage == 9
  let ok := ok && good && !(links && !load.lost.isEmpty)
  let s := { s with dev := { s.dev with stage := stage, fail := !ok, code := if ok then s.dev.code else load.code % 65536 } }
  .next (if ok || links then stageDone s stage load else s)

/-- RECOVERY_IMAGE: a signed image ends recovery and bring-up starts again; another is refused (R490, R492). -/
def execRecoveryImage (sig : ImageSig) (s : State) : Out :=
  if !(s.dev.fail && decide (s.dev.stage ≤ 6)) then .next s
  else .next (if s.accepts sig then s.afterReset else s.refuseImage 0)

/-! ### The Slosis fabric (R479 to R483) -/

/-- A port goes down (R479, R482, R483): what is in flight on it stays in its queue, from where `fabricWrite` takes it to another port
of its route or fails it. -/
def State.portDown (s : State) (port : Nat) : State :=
  if (s.fport port).up then (s.setFport port { queue := (s.fport port).queue }).tally 8 port else s

/-- FLIT_RESEND: the eighth in a row retrains the port (R479). -/
def execFlitResend (port : Nat) (s : State) : Out :=
  let p := s.fport port
  if !p.up then .next s
  else
    let s := s.tally 6 port
    .next (if p.resends < 7 then s.setFport port { p with resends := p.resends + 1 }
      else (s.setFport port { p with resends := 0, training := some s.tick }).tally 7 port)

/-- RETRAIN_TIMEOUT: 10 ms without success (R479). -/
def execRetrainTimeout (port : Nat) (s : State) : Out :=
  match (s.fport port).training with
  | none => .next s
  | some t => .next (if s.tick.toNat < t.toNat + 10000000 then s else s.portDown port)

/-- PORT_DOWN (R483). -/
def execPortDown (port : Nat) (s : State) : Out := .next (s.portDown port)

/-- PAUSE_FLIT (R482). A flit that arrives shows that the port has trained. -/
def execPauseFlit (port cls : Nat) (s : State) : Out :=
  let p := s.fport port
  .next (if !p.up || 3 ≤ cls || p.paused.any (fun c => c.1 == cls) then s
    else s.setFport port { p with training := none, resends := 0, paused := p.paused ++ [(cls, s.tick)] })

/-- RESUME_FLIT (R482). -/
def execResumeFlit (port cls : Nat) (s : State) : Out :=
  let p := s.fport port
  .next (if !p.up then s else s.setFport port { p with training := none, resends := 0, paused := p.paused.filter fun c => c.1 != cls })

/-- PAUSE_TIMEOUT: a class paused for longer than PTO takes the port down (R482). -/
def execPauseTimeout (port cls : Nat) (s : State) : Out :=
  match (s.fport port).paused.find? fun c => c.1 == cls with
  | none => .next s
  | some c => .next (if s.tick.toNat ≤ c.2.toNat + s.links.pto then s else s.portDown port)

/-! ### Requests from outside (R481, R484) -/

/-- What the tables of a context make of some bytes asked for from outside: present, a wait for a promotion, a
copy-on-write break or a move, or a reason. -/
inductive OutsideAt where
  | ok (cs : List LaneChk)
  | waits
  | missing
  | refused (reason : Nat)

/-- The checks of a request from outside (R189, R318 to R320, R481). -/
def outsideAt (s : State) (q : RemoteReq) : OutsideAt :=
  let cs := (List.range q.size).map fun j =>
    if 2 ^ 57 ≤ q.addr + j then ({ lane := 0, addr := 0, why := some 6 } : LaneChk)
    else globalChk s (cpCore q.ctx) q.ctx (if q.atomic then 2 else if q.write then 1 else 0) (q.addr + j)
      { lane := 0, addr := BitVec.ofNat 64 (q.addr + j) } []
  match cs.find? fun c => c.why.isSome with
  | some c => if c.why = some 0 && c.level.isNone && (s.leafAt q.ctx (q.addr)).isSome then .missing else .refused (c.why.getD 0)
  | none => if cs.any fun c => c.cow || s.heldLoc c.loc then .waits else .ok cs

/-- The blocks of some bytes in their caches, with room made for them as for any agent's (R370, R352): none while a READ of one is
under way, which is sent if it is not (R345). A failure is logged (R374) and leaves its reason. -/
def State.bringIn (s : State) (ctx : Nat) : List LaneChk → Option (Option Nat) × State
  | [] => (some none, s)
  | c :: r =>
    let k := c.blk s ctx
    if s.unread k || (!s.cached k && k.busy s) then (none, s.requestBlk k)
    else
      let s := s.makeRoom k
      if s.needsFill k then match s.fillBlock k with
        | .ok plain => (s.install k plain).bringIn ctx r
        | .error (x, n, m) =>
          (some (some x), if x = 8 then s else (s.logError k.base { decoder := true, index := n, imm := m, reason := x, tag := none }).2)
      else (s.hold k).bringIn ctx r

/-- A reply to a request from outside: a reason, or 16 with the value. -/
def State.answer (s : State) (reason v : Nat) : State := { s with links := { s.links with reply := some (reason, v) } }

/-- A request performed at the home for an agent with a view of its own (R300, R309, R484). -/
def outside (s : State) (view : Nat) (fabric : Bool) (q : RemoteReq) : State :=
  let refuse (r : Nat) : State := s.answer (if fabric then 15 else r) 0
  match outsideAt s q with
  | .waits => s
  | .missing => s.bringUp q.ctx q.addr
  | .refused r => refuse r
  | .ok cs => match s.bringIn q.ctx cs with
    | (none, s) => s
    | (some (some r), s) => s.answer (if fabric then 15 else r) 0
    | (some none, s) =>
      let refuse (r : Nat) : State := s.answer (if fabric then 15 else r) 0
      let locs := cs.map fun c => s.homeLoc c.loc
      if locs.any s.damaged && !(q.write && !q.atomic) then refuse 8
      else
        let home := natOfBytes (locs.map (memGet s.mem))
        let put (s : State) (v : Nat) : State := match s.agentPut q.ctx q.addr view (bytesOf q.size v) with
          | some (_, t) => t
          | none => s
        if q.atomic then
          let t := match atomicNew (q.aop / 16 % 256) (q.aop % 16) (q.aop / 4096) home q.data q.cmp with
            | some v => put s v
            | none => s
          t.answer 16 home
        else if q.write then (put s q.data).answer 16 0
        else s.answer 16 (natOfBytes (locs.map (viewByte s.order s.mem view)))

/-- REMOTE_ACCESS: a request that another device's window sends here (R480, R481). It is not served while every port that is up is
paused for replies, class 1 (R482). -/
def execRemoteAccess (req : RemoteReq) (s : State) : Out :=
  .next (if (List.range 96).any fun p => (s.fport p).up && !((s.fport p).paused.any fun c => c.1 == 1) then outside s remoteView true req else s)

/-- HOST_MEMORY_ACCESS: a load or store of the host (R300, R484). -/
def execHostMemoryAccess (req : RemoteReq) (s : State) : Out := .next (if s.links.hostUp then outside s hostView false req else s)

/-! ### CXL memory links (R485) -/

/-- CXL_LINK_LOSS: the moves that use the link's pool are undone (R335, R485). -/
def execCxlLinkLoss (link : Nat) (s : State) : Out :=
  let s := { s with links := { s.links with cxlUp := s.links.cxlUp.filter fun k => k != link } }
  .next ((s.paging.moves.filter fun m => !s.linkUp m.src || !s.linkUp m.dst).foldl (fun s m => s.undoMove m) s)

/-- CXL_LINK_RETURN (R485). -/
def execCxlLinkReturn (link : Nat) (s : State) : Out :=
  .next (if 3 ≤ link then s else { s with links := { s.links with cxlUp := union s.links.cxlUp [link] } })

end Sys2Proof.Machine
end

