-- ==== Sys2Proof/Machine/Dispatch.lean ====
section
/-!
DEFINITION. One arm for each constructor of Instr.
-/
namespace Sys2Proof.Machine
open Sys2Proof

def exec (i : Instr) (s : State) : Host.Outcome State Fault Refusal :=
  match i with
  | .nop f => Sys2Proof.Machine.execNop f s
  | .wait f => Sys2Proof.Machine.execWait f s
  | .yield f => Sys2Proof.Machine.execYield f s
  | .trap f => Sys2Proof.Machine.execTrap f s
  | .brk f => Sys2Proof.Machine.execBrk f s
  | .fence f => Sys2Proof.Machine.execFence f s
  | .ifence f => Sys2Proof.Machine.execIfence f s
  | .rdsr f => Sys2Proof.Machine.execRdsr f s
  | .wrsr f => Sys2Proof.Machine.execWrsr f s
  | .exit f => Sys2Proof.Machine.execExit f s
  | .trig f => Sys2Proof.Machine.execTrig f s
  | .post f => Sys2Proof.Machine.execPost f s
  | .postEnd f => Sys2Proof.Machine.execPostEnd f s
  | .fresResume f => Sys2Proof.Machine.execFresResume f s
  | .fresKill f => Sys2Proof.Machine.execFresKill f s
  | .fresRebind f => Sys2Proof.Machine.execFresRebind f s
  | .ep f => Sys2Proof.Machine.execEp f s
  | .migL f => Sys2Proof.Machine.execMigL f s
  | .migD f => Sys2Proof.Machine.execMigD f s
  | .emu f => Sys2Proof.Machine.execEmu f s
  | .bra f => Sys2Proof.Machine.execBra f s
  | .brx f => Sys2Proof.Machine.execBrx f s
  | .call f => Sys2Proof.Machine.execCall f s
  | .callx f => Sys2Proof.Machine.execCallx f s
  | .ret f => Sys2Proof.Machine.execRet f s
  | .brs f => Sys2Proof.Machine.execBrs f s
  | .wsync f => Sys2Proof.Machine.execWsync f s
  | .add f => Sys2Proof.Machine.execAdd f s
  | .sub f => Sys2Proof.Machine.execSub f s
  | .mul f => Sys2Proof.Machine.execMul f s
  | .mulhi f => Sys2Proof.Machine.execMulhi f s
  | .mad f => Sys2Proof.Machine.execMad f s
  | .min f => Sys2Proof.Machine.execMin f s
  | .max f => Sys2Proof.Machine.execMax f s
  | .abs f => Sys2Proof.Machine.execAbs f s
  | .and f => Sys2Proof.Machine.execAnd f s
  | .or f => Sys2Proof.Machine.execOr f s
  | .xor f => Sys2Proof.Machine.execXor f s
  | .andn f => Sys2Proof.Machine.execAndn f s
  | .shl f => Sys2Proof.Machine.execShl f s
  | .shr f => Sys2Proof.Machine.execShr f s
  | .sar f => Sys2Proof.Machine.execSar f s
  | .cmp f => Sys2Proof.Machine.execCmp f s
  | .sel f => Sys2Proof.Machine.execSel f s
  | .mov f => Sys2Proof.Machine.execMov f s
  | .movi f => Sys2Proof.Machine.execMovi f s
  | .popc f => Sys2Proof.Machine.execPopc f s
  | .clz f => Sys2Proof.Machine.execClz f s
  | .brev f => Sys2Proof.Machine.execBrev f s
  | .bfe f => Sys2Proof.Machine.execBfe f s
  | .bfi f => Sys2Proof.Machine.execBfi f s
  | .addsh f => Sys2Proof.Machine.execAddsh f s
  | .idiv f => Sys2Proof.Machine.execIdiv f s
  | .plog f => Sys2Proof.Machine.execPlog f s
  | .pmovGet f => Sys2Proof.Machine.execPmovGet f s
  | .pmovSet f => Sys2Proof.Machine.execPmovSet f s
  | .perm f => Sys2Proof.Machine.execPerm f s
  | .rng f => Sys2Proof.Machine.execRng f s
  | .rot f => Sys2Proof.Machine.execRot f s
  | .clamp f => Sys2Proof.Machine.execClamp f s
  | .fadd f => Sys2Proof.Machine.execFadd f s
  | .fsub f => Sys2Proof.Machine.execFsub f s
  | .fmul f => Sys2Proof.Machine.execFmul f s
  | .fma f => Sys2Proof.Machine.execFma f s
  | .fmin f => Sys2Proof.Machine.execFmin f s
  | .fmax f => Sys2Proof.Machine.execFmax f s
  | .fcmp f => Sys2Proof.Machine.execFcmp f s
  | .fsgn f => Sys2Proof.Machine.execFsgn f s
  | .frnd f => Sys2Proof.Machine.execFrnd f s
  | .fclass f => Sys2Proof.Machine.execFclass f s
  | .fdot4 f => Sys2Proof.Machine.execFdot4 f s
  | .fscl f => Sys2Proof.Machine.execFscl f s
  | .famax f => Sys2Proof.Machine.execFamax f s
  | .cvt f => Sys2Proof.Machine.execCvt f s
  | .pack f => Sys2Proof.Machine.execPack f s
  | .unpack f => Sys2Proof.Machine.execUnpack f s
  | .rcp f => Sys2Proof.Machine.execRcp f s
  | .rsq f => Sys2Proof.Machine.execRsq f s
  | .sqrt f => Sys2Proof.Machine.execSqrt f s
  | .exp2 f => Sys2Proof.Machine.execExp2 f s
  | .log2 f => Sys2Proof.Machine.execLog2 f s
  | .sin f => Sys2Proof.Machine.execSin f s
  | .cos f => Sys2Proof.Machine.execCos f s
  | .tanh f => Sys2Proof.Machine.execTanh f s
  | .act f => Sys2Proof.Machine.execAct f s
  | .shfl f => Sys2Proof.Machine.execShfl f s
  | .vote f => Sys2Proof.Machine.execVote f s
  | .ballot f => Sys2Proof.Machine.execBallot f s
  | .wred f => Sys2Proof.Machine.execWred f s
  | .scan f => Sys2Proof.Machine.execScan f s
  | .matchl f => Sys2Proof.Machine.execMatchl f s
  | .elect f => Sys2Proof.Machine.execElect f s
  | .rdlane f => Sys2Proof.Machine.execRdlane f s
  | .wrlane f => Sys2Proof.Machine.execWrlane f s
  | .ld f => Sys2Proof.Machine.execLd f s
  | .st f => Sys2Proof.Machine.execSt f s
  | .lds f => Sys2Proof.Machine.execLds f s
  | .sts f => Sys2Proof.Machine.execSts f s
  | .pf f => Sys2Proof.Machine.execPf f s
  | .cwb f => Sys2Proof.Machine.execCwb f s
  | .cwbSync f => Sys2Proof.Machine.execCwbSync f s
  | .mkptr f => Sys2Proof.Machine.execMkptr f s
  | .ptrq f => Sys2Proof.Machine.execPtrq f s
  | .atom f => Sys2Proof.Machine.execAtom f s
  | .cas f => Sys2Proof.Machine.execCas f s
  | .redm f => Sys2Proof.Machine.execRedm f s
  | .fatom f => Sys2Proof.Machine.execFatom f s
  | .fredm f => Sys2Proof.Machine.execFredm f s
  | .amxr f => Sys2Proof.Machine.execAmxr f s
  | .binit f => Sys2Proof.Machine.execBinit f s
  | .barrive f => Sys2Proof.Machine.execBarrive f s
  | .bwait f => Sys2Proof.Machine.execBwait f s
  | .bexpect f => Sys2Proof.Machine.execBexpect f s
  | .bexpectArrive f => Sys2Proof.Machine.execBexpectArrive f s
  | .btest f => Sys2Proof.Machine.execBtest f s
  | .nbarSync f => Sys2Proof.Machine.execNbarSync f s
  | .nbarArrive f => Sys2Proof.Machine.execNbarArrive f s
  | .qinit f => Sys2Proof.Machine.execQinit f s
  | .qpush f => Sys2Proof.Machine.execQpush f s
  | .qpop f => Sys2Proof.Machine.execQpop f s
  | .xswap f => Sys2Proof.Machine.execXswap f s
  | .kick f => Sys2Proof.Machine.execKick f s
  | .tdef f => Sys2Proof.Machine.execTdef f s
  | .tstat f => Sys2Proof.Machine.execTstat f s
  | .trel f => Sys2Proof.Machine.execTrel f s
  | .tld f => Sys2Proof.Machine.execTld f s
  | .tstr f => Sys2Proof.Machine.execTstr f s
  | .atab f => Sys2Proof.Machine.execAtab f s
  | .mres f => Sys2Proof.Machine.execMres f s
  | .mrel f => Sys2Proof.Machine.execMrel f s
  | .mfence f => Sys2Proof.Machine.execMfence f s
  | .mgo f => Sys2Proof.Machine.execMgo f s
  | .mwait f => Sys2Proof.Machine.execMwait f s
  | .pgq f => Sys2Proof.Machine.execPgq f s
  | .pgadv f => Sys2Proof.Machine.execPgadv f s
  | .bop f => Sys2Proof.Machine.execBop f s
  | .tcommit f => Sys2Proof.Machine.execTcommit f s
  | .tabort f => Sys2Proof.Machine.execTabort f s
  | .uret f => Sys2Proof.Machine.execUret f s
  | .tspawn f => Sys2Proof.Machine.execTspawn f s
  | .ctload f => Sys2Proof.Machine.execCtload f s
  | .cbind f => Sys2Proof.Machine.execCbind f s
  | .cbuild f => Sys2Proof.Machine.execCbuild f s
  | .imx f => Sys2Proof.Machine.execImx f s
  | .pol f => Sys2Proof.Machine.execPol f s
  | .dadd f => Sys2Proof.Machine.execDadd f s
  | .dmul f => Sys2Proof.Machine.execDmul f s
  | .dfma f => Sys2Proof.Machine.execDfma f s
  | .ddiv f => Sys2Proof.Machine.execDdiv f s
  | .dsqrt f => Sys2Proof.Machine.execDsqrt f s
  | .dcvt f => Sys2Proof.Machine.execDcvt f s
  | .shortPair first second => Sys2Proof.Machine.execShortPair first second s
  | .txGetImm d n => Sys2Proof.Machine.execTxGetImm d n s
  | .txGetReg d b => Sys2Proof.Machine.execTxGetReg d b s
  | .txPeekImm d n => Sys2Proof.Machine.execTxPeekImm d n s
  | .txPeekReg d b => Sys2Proof.Machine.execTxPeekReg d b s
  | .txPutImm a n => Sys2Proof.Machine.execTxPutImm a n s
  | .txPutReg a b => Sys2Proof.Machine.execTxPutReg a b s
  | .txLi d imm => Sys2Proof.Machine.execTxLi d imm s
  | .txMov d a => Sys2Proof.Machine.execTxMov d a s
  | .txAddImm d a n => Sys2Proof.Machine.execTxAddImm d a n s
  | .txAddReg d a b => Sys2Proof.Machine.execTxAddReg d a b s
  | .txSubImm d a n => Sys2Proof.Machine.execTxSubImm d a n s
  | .txSubReg d a b => Sys2Proof.Machine.execTxSubReg d a b s
  | .txXorImm d a n => Sys2Proof.Machine.execTxXorImm d a n s
  | .txXorReg d a b => Sys2Proof.Machine.execTxXorReg d a b s
  | .txAndImm d a n => Sys2Proof.Machine.execTxAndImm d a n s
  | .txAndReg d a b => Sys2Proof.Machine.execTxAndReg d a b s
  | .txOrImm d a n => Sys2Proof.Machine.execTxOrImm d a n s
  | .txOrReg d a b => Sys2Proof.Machine.execTxOrReg d a b s
  | .txShlImm d a n => Sys2Proof.Machine.execTxShlImm d a n s
  | .txShlReg d a b => Sys2Proof.Machine.execTxShlReg d a b s
  | .txShrImm d a n => Sys2Proof.Machine.execTxShrImm d a n s
  | .txShrReg d a b => Sys2Proof.Machine.execTxShrReg d a b s
  | .txSarImm d a n => Sys2Proof.Machine.execTxSarImm d a n s
  | .txSarReg d a b => Sys2Proof.Machine.execTxSarReg d a b s
  | .txSextImm d a n => Sys2Proof.Machine.execTxSextImm d a n s
  | .txSextReg d a b => Sys2Proof.Machine.execTxSextReg d a b s
  | .txZze d a w => Sys2Proof.Machine.execTxZze d a w s
  | .txZzd d a w => Sys2Proof.Machine.execTxZzd d a w s
  | .txTbl d a => Sys2Proof.Machine.execTxTbl d a s
  | .txTblImm d a m => Sys2Proof.Machine.execTxTblImm d a m s
  | .txPdec d => Sys2Proof.Machine.execTxPdec d s
  | .txPenc a => Sys2Proof.Machine.execTxPenc a s
  | .txBfw c a b skip => Sys2Proof.Machine.execTxBfw c a b skip s
  | .txRepImm n => Sys2Proof.Machine.execTxRepImm n s
  | .txRepReg a => Sys2Proof.Machine.execTxRepReg a s
  | .txEndr => Sys2Proof.Machine.execTxEndr s
  | .txEob d => Sys2Proof.Machine.execTxEob d s
  | .txDone => Sys2Proof.Machine.execTxDone s
  | .txFail c => Sys2Proof.Machine.execTxFail c s
  | .warpResort w => Sys2Proof.Machine.execWarpResort w s
  | .wsyncRelease w => Sys2Proof.Machine.execWsyncRelease w s
  | .warpFree w => Sys2Proof.Machine.execWarpFree w s
  | .queueOpComplete w queue => Sys2Proof.Machine.execQueueOpComplete w queue s
  | .tileOpComplete w => Sys2Proof.Machine.execTileOpComplete w s
  | .forward w load lane => Sys2Proof.Machine.execForward w load lane s
  | .read w load lane => Sys2Proof.Machine.execRead w load lane s
  | .drain w => Sys2Proof.Machine.execDrain w s
  | .propagate wid view => Sys2Proof.Machine.execPropagate wid view s
  | .homeRmw w => Sys2Proof.Machine.execHomeRmw w s
  | .engineRead core engine rec_ piece => Sys2Proof.Machine.execEngineRead core engine rec_ piece s
  | .engineWrite core engine rec_ piece => Sys2Proof.Machine.execEngineWrite core engine rec_ piece s
  | .kickGate core => Sys2Proof.Machine.execKickGate core s
  | .copyRecordStart core => Sys2Proof.Machine.execCopyRecordStart core s
  | .byteArrive core rec_ piece => Sys2Proof.Machine.execByteArrive core rec_ piece s
  | .barrierUpdate w => Sys2Proof.Machine.execBarrierUpdate w s
  | .bwaitTimeout w lane => Sys2Proof.Machine.execBwaitTimeout w lane s
  | .queueStep core queue => Sys2Proof.Machine.execQueueStep core queue s
  | .queueTimeout w lane => Sys2Proof.Machine.execQueueTimeout w lane s
  | .swap block => Sys2Proof.Machine.execSwap block s
  | .trigStep w => Sys2Proof.Machine.execTrigStep w s
  | .matrixOpStart core => Sys2Proof.Machine.execMatrixOpStart core s
  | .matrixOpFinish core => Sys2Proof.Machine.execMatrixOpFinish core s
  | .snareCheckpoint w => Sys2Proof.Machine.execSnareCheckpoint w s
  | .snareBatch w => Sys2Proof.Machine.execSnareBatch w s
  | .batchPromotion batch outcome => Sys2Proof.Machine.execBatchPromotion batch outcome s
  | .cowBreak ctx va => Sys2Proof.Machine.execCowBreak ctx va s
  | .tlbInvalidation index => Sys2Proof.Machine.execTlbInvalidation index s
  | .pageMap ctx va level leaf => Sys2Proof.Machine.execPageMap ctx va level leaf s
  | .pageUnmap ctx va => Sys2Proof.Machine.execPageUnmap ctx va s
  | .agingSweep ctx => Sys2Proof.Machine.execAgingSweep ctx s
  | .demotion ctx tier target => Sys2Proof.Machine.execDemotion ctx tier target s
  | .chunkOpen frame chunk => Sys2Proof.Machine.execChunkOpen frame chunk s
  | .chunkCommit frame chunk => Sys2Proof.Machine.execChunkCommit frame chunk s
  | .rebind ctx va bind => Sys2Proof.Machine.execRebind ctx va bind s
  | .burstReply port tag status => Sys2Proof.Machine.execBurstReply port tag status s
  | .codecFill ctx va => Sys2Proof.Machine.execCodecFill ctx va s
  | .writeBack ctx va => Sys2Proof.Machine.execWriteBack ctx va s
  | .cacheSoftError ctx va => Sys2Proof.Machine.execCacheSoftError ctx va s
  | .layerAlert stack layer => Sys2Proof.Machine.execLayerAlert stack layer s
  | .mapout stack => Sys2Proof.Machine.execMapout stack s
  | .mapoutComplete stack => Sys2Proof.Machine.execMapoutComplete stack s
  | .boostGrant port index => Sys2Proof.Machine.execBoostGrant port index s
  | .abortSignal w lane => Sys2Proof.Machine.execAbortSignal w lane s
  | .undoReplay w lane => Sys2Proof.Machine.execUndoReplay w lane s
  | .taskRestart w lane => Sys2Proof.Machine.execTaskRestart w lane s
  | .spawnEnqueue w lane => Sys2Proof.Machine.execSpawnEnqueue w lane s
  | .migrationRequest w => Sys2Proof.Machine.execMigrationRequest w s
  | .migrationGrant cluster w => Sys2Proof.Machine.execMigrationGrant cluster w s
  | .decline cluster w => Sys2Proof.Machine.execDecline cluster w s
  | .migrationSequence w => Sys2Proof.Machine.execMigrationSequence w s
  | .faultRecord rec_ => Sys2Proof.Machine.execFaultRecord rec_ s
  | .tocsin region => Sys2Proof.Machine.execTocsin region s
  | .queueDoorbell ctx queue tail => Sys2Proof.Machine.execQueueDoorbell ctx queue tail s
  | .qerrClear ctx queue => Sys2Proof.Machine.execQerrClear ctx queue s
  | .launch ctx queue => Sys2Proof.Machine.execLaunch ctx queue s
  | .graph ctx queue => Sys2Proof.Machine.execGraph ctx queue s
  | .graphNode ctx queue => Sys2Proof.Machine.execGraphNode ctx queue s
  | .waitCommand ctx queue => Sys2Proof.Machine.execWaitCommand ctx queue s
  | .waitSatisfied ctx queue => Sys2Proof.Machine.execWaitSatisfied ctx queue s
  | .signal ctx queue => Sys2Proof.Machine.execSignal ctx queue s
  | .copy ctx queue => Sys2Proof.Machine.execCopy ctx queue s
  | .blockDispatch region => Sys2Proof.Machine.execBlockDispatch region s
  | .dependentLaunchStart region => Sys2Proof.Machine.execDependentLaunchStart region s
  | .endRequest region => Sys2Proof.Machine.execEndRequest region s
  | .regionComplete region => Sys2Proof.Machine.execRegionComplete region s
  | .timeSliceEnd part next => Sys2Proof.Machine.execTimeSliceEnd part next s
  | .quantumExpiry region cluster => Sys2Proof.Machine.execQuantumExpiry region cluster s
  | .preemption region cluster => Sys2Proof.Machine.execPreemption region cluster s
  | .preemptSave region cluster => Sys2Proof.Machine.execPreemptSave region cluster s
  | .restore index => Sys2Proof.Machine.execRestore index s
  | .currentArbitration inow shares temps => Sys2Proof.Machine.execCurrentArbitration inow shares temps s
  | .islandStep cluster target => Sys2Proof.Machine.execIslandStep cluster target s
  | .cageUpdate cluster guardband flimit eoldays => Sys2Proof.Machine.execCageUpdate cluster guardband flimit eoldays s
  | .lifetimeSave => Sys2Proof.Machine.execLifetimeSave s
  | .hostFresResume ctx => Sys2Proof.Machine.execHostFresResume ctx s
  | .hostFresKill ctx => Sys2Proof.Machine.execHostFresKill ctx s
  | .hostFresRebind ctx => Sys2Proof.Machine.execHostFresRebind ctx s
  | .hostKill ctx => Sys2Proof.Machine.execHostKill ctx s
  | .functionReset ctx => Sys2Proof.Machine.execFunctionReset ctx s
  | .cdbgctlRun ctx => Sys2Proof.Machine.execCdbgctlRun ctx s
  | .registerWrite reg value => Sys2Proof.Machine.execRegisterWrite reg value s
  | .dxtLoad cluster dxt sig => Sys2Proof.Machine.execDxtLoad cluster dxt sig s
  | .attestationReport nonce => Sys2Proof.Machine.execAttestationReport nonce s
  | .bringUp ok load => Sys2Proof.Machine.execBringUp ok load s
  | .recoveryImage sig => Sys2Proof.Machine.execRecoveryImage sig s
  | .flitResend port => Sys2Proof.Machine.execFlitResend port s
  | .retrainTimeout port => Sys2Proof.Machine.execRetrainTimeout port s
  | .portDown port => Sys2Proof.Machine.execPortDown port s
  | .pauseFlit port cls => Sys2Proof.Machine.execPauseFlit port cls s
  | .resumeFlit port cls => Sys2Proof.Machine.execResumeFlit port cls s
  | .pauseTimeout port cls => Sys2Proof.Machine.execPauseTimeout port cls s
  | .remoteAccess req => Sys2Proof.Machine.execRemoteAccess req s
  | .bankFlip core => Sys2Proof.Machine.execBankFlip core s
  | .packCommand ctx va bind frame => Sys2Proof.Machine.execPackCommand ctx va bind frame s
  | .hostMemoryAccess req => Sys2Proof.Machine.execHostMemoryAccess req s
  | .cxlLinkLoss link => Sys2Proof.Machine.execCxlLinkLoss link s
  | .cxlLinkReturn link => Sys2Proof.Machine.execCxlLinkReturn link s

end Sys2Proof.Machine
end

