-- ==== Sys2Proof/Machine/Moves.lean ====
section
/-!
DEFINITION. What a step does beside an instruction: whose move it is, the clock, and a word placed for the next fetch
(log 1, 03 R4, R72, 16 R448, 17 R477, 18 R489).
-/
namespace Sys2Proof.Machine
open Sys2Proof

/-- The move that the machine makes next, and the state without it. -/
def nextMove (s : State) : Agenda × State :=
  match s.agenda with
  | m :: r => (m, { s with agenda := r })
  | [] => (Config.nextMove s.free, { s with free := s.free + 1 })

/-! ### Arbitration (R70 to R72, R80) -/

def State.prioOf (s : State) (w : Warp) : Nat := ((s.regionOf? w.ctx w.region).map (·.prio)).getD 0
def State.weightOf (s : State) (w : Warp) : Nat := max 1 (((s.regionOf? w.ctx w.region).map (·.weight)).getD 1)

/-- The quarters of its core that a warp's bundle occupies (R69, R70). -/
def Warp.quarters (w : Warp) : List Nat := if w.onL then [0] else (List.range (w.width / 16)).map fun k => w.quarter + k

/-- Whether an issue of a warp would take place: its line stands in the instruction cache, and its next instruction is held
by no `wait`, counter, scoreboard, queue or interlock (R71). It is tried out: what issues counts the issue, or faults. -/
def wouldIssue (run : Instr → State → Out) (s : State) (v : Warp) : Bool :=
  eligible v && v.snare.isNone && (fetchLoc s v v.bundlePc).isNone &&
  match fetchNext s v with
  | .done _ => true
  | .instr t i => match run i { t with cur := v.key } with
    | .next u => (u.warp? v.key).any fun y => y.issues != v.issues || y.stopped != v.stopped || y.snare.isSome
    | _ => false

/-- The other warps of a core. -/
def State.beside (s : State) (w : Warp) : List Warp := s.warps.filter fun v => v.core == w.core && v.key != w.key

/-- Where no warp of its class that would issue has credit, every warp of the class takes its region's weight, also one that
would not issue (R72). A `yield` left its warp without (R80). -/
def reloadCredits (run : Instr → State → Out) (s : State) (w : Warp) : State :=
  let cls := (s.beside w).filter fun v => s.prioOf v == s.prioOf w
  if w.credit == 0 && cls.all fun v => v.credit == 0 || !wouldIssue run s v then
    { s with warps := s.warps.map fun v => if v.key == w.key || cls.any fun x => x.key == v.key then
        { v with credit := s.weightOf v, yielded := false } else v }
  else s

/-- How far a warp's slot lies behind the slot that the rotation of its class visited last (R72). -/
def rotaRank (c : Core) (cls slot : Nat) : Nat := (slot + 95 - kvGet c.rota cls 95) % 96

/-- Whether one warp is picked before another of its core: by class, then one with credit, then by rotation (R72). -/
def precedes (s : State) (v w : Warp) : Bool :=
  if s.prioOf v != s.prioOf w then decide (s.prioOf w < s.prioOf v)
  else if (v.credit == 0) != (w.credit == 0) then v.credit != 0
  else
    let c := s.core w.core
    decide (rotaRank c (s.prioOf w) v.slot < rotaRank c (s.prioOf w) w.slot)

/-- Whether a warp may be picked in a cycle in which bundles occupy these quarters: its own are free, and no other warp that
would issue in free quarters comes before it (R70, R72). -/
def mayPick (run : Instr → State → Out) (s : State) (w : Warp) (taken : List Nat) : Bool :=
  let open_ (v : Warp) : Bool := v.quarters.all fun q => !taken.contains q
  open_ w && !(s.beside w).any fun v => open_ v && precedes s v w && wouldIssue run s v

/-- The state in which a warp's turn has come: in the current cycle of its core, or as the first of a new one (R70, R72). -/
def takeTurn (run : Instr → State → Out) (s : State) (w : Warp) : Option State :=
  let c := s.core w.core
  let go (taken : List Nat) : Option State :=
    some (s.setCore w.core { c with picked := taken ++ w.quarters, rota := kvSet c.rota (s.prioOf w) w.slot })
  if mayPick run s w c.picked then go c.picked else if mayPick run s w [] then go [] else none

/-- An issue of a warp, up to the instruction that it executes: the re-sort that is due, its turn, its fetch. -/
def issueOfWarp (run : Instr → State → Out) (w : Nat) (s : State) : Next :=
  let s := s.withWarp w Warp.sortDue
  match s.warp? w with
  | none => .done s
  | some x =>
    if !eligible x then .done s
    else
      let s := reloadCredits run s x
      match (s.warp? w).bind fun x => (takeTurn run s x).map fun t => (x, t) with
      | none => .done s
      | some (x, s) => match x.snare with
        | some n => .done (runAhead run s x n)
        | none => match fetchGate s x with
          | some t => .done t
          | none => match fetchNext s x with
            | .done t => .done t
            | .instr t i => .instr { t with cur := w } i

/-! ### The clock (R4) -/

/-- Whether a kernel region counts a tick: a warp that is being saved counts until it has given up its slot (R477). -/
def State.kernelCounts (s : State) (r : Region) : Bool :=
  !r.group && r.alive && !s.halted r &&
  ((s.warps.any fun w => w.ctx == r.ctx && w.region == r.rcb) ||
   (s.blocksOfRegions [r]).any fun b => b.allots.any fun a =>
     let c := s.core a.core
     (c.kicks.any fun k => k.block == b.id) || c.meQueue.any fun o => o.block == b.id)

/-- Whether a region counts a tick: a group does where any region of its subtree does (R477). -/
def State.regionCounts (s : State) (r : Region) : Bool :=
  if r.group then r.alive && (s.subtree r.ctx r.rcb).any s.kernelCounts else s.kernelCounts r

/-- The tocsin count and the ticks on each cluster of a region (R434, R448, R477). -/
def State.countTicks (s : State) (n : Nat) (r : Region) : Region :=
  { r with
    count := if s.regionCounts r then r.count + BitVec.ofNat 64 n else r.count
    used := (s.clustersHeld r).foldl (fun l cl => kvSet l cl (kvGet l cl 0 + n)) r.used }

/-- Ticks of the reference clock pass: cycles of each island, the regions' counts, and powered hours (R4, R477, R489). -/
def clockTicks (n : Nat) (s : State) : State :=
  let regions := s.regions.map (s.countTicks n)
  let s := { s with tick := s.tick + BitVec.ofNat 64 n, regions := regions }
  let s := (List.range 18).foldl (fun s cl =>
    let c := s.cluster cl
    let x := n * c.fnow + c.cycRem
    s.setCluster cl { c with cycles := c.cycles + BitVec.ofNat 64 (x / 10), cycRem := x % 10 }) s
  -- SHARE shows the ticks of each quantum (R434)
  let s := (s.regions.filter fun r => !(s.clustersHeld r).isEmpty).foldl State.writeShare s
  let h := s.dev.hourRem + n
  let hour := 3600000000000
  (List.range (h / hour)).foldl (fun s _ => s.countHour) { s with dev := { s.dev with hourRem := h % hour } }

/-- The memory service finds a free frame faulty: it is retired (R326). -/
def retireFrame (pa : Nat) (s : State) : State :=
  let f := pa / 131072 * 131072
  if s.isFree f 131072 then s.setFrt f 0xFFFF else s

/-- A word of a CXL pool reads back poisoned, which is error status; a move carries it with the bytes (R349, R485, log 56). -/
def poisonWord (loc : Nat) (s : State) : State :=
  if loc < 2 ^ 42 || 2 ^ 43 ≤ loc then s else { s with badWords := union s.badWords [loc / 8] }

/-- What a remote device answers for a 128 KiB page from now on (R481). -/
def farAnswer (page status : Nat) (s : State) : State :=
  { s with links := { s.links with far := kvSet s.links.far page (min status 2) } }

/-- A word of an on-chip buffer comes to hold an uncorrectable soft error (R286, R489). -/
def softWord (loc : Nat) (s : State) : State :=
  if loc < chipBase || remoteBase ≤ loc then s else { s with softWords := union s.softWords [loc / 4] }.tally 5 0

/-! ### A word for the next fetch -/

/-- A transducer lane at the start of a program of one instruction. -/
def placeTx (s : State) (w : Nat) : State :=
  { s with
    agenda := [.transduce 0]
    lanes := [(0, { x := [0, 0, 0, 0, 0, 0, 0, 0], prog := [BitVec.ofNat 32 w], bound := 1000, input := List.replicate 128 false })] }

/-- A fetch line with an instruction in its slot 0, which is a target (R18, R19). -/
def lineWith (w : Nat) : Nat :=
  let spar := parity w 96
  let lw := 1 + spar * 2 ^ 10
  bitsOf w 0 96 + (lw + parity lw 31 * 2 ^ 15) * 2 ^ 480

/-- A kernel of one warp of width 16 of which every thread stands at a PC, in a context whose first 128 GiB are one page. -/
def placeWarp (s : State) (pc : Nat) : State :=
  let region : Region := {
    rcb := 0x10000, ctx := 0, group := false, parent := 0, depth := 0, state := .running, kobj := pc - 64
    hdr := BitVec.ofNat 64 (2 ^ 3 + 2 ^ 4 + 64 * 2 ^ 8 + 64 * 2 ^ 16 + 16 * 2 ^ 24 + 64 * 2 ^ 32 + 2 ^ 48), dOff := 64, dLen := 64
    blocks := 1, bthreads := 16, ncore := 1, maxd := 288, maxl := 36, faultRegion := 0x10000, started := true, next := 1, untrig := 16 }
  let block : Block := {
    id := 0, ctx := 0, region := 0x10000, index := 0, cluster := 0, onL := false
    allots := [{ core := 0, sBase := 0, wBase := 0, xBase := 0, aBase := 0, tBase := 0, nBase := 0, qBase := 0 }]
    threads := 16, spad := 65536, wbuf := 65536, xbuf := 65536, abuf := 65536, tiles := 16, nbars := 16, queues := 16, shadow := true }
  let thread (l : Nat) : Thread := { tid := l, pc := BitVec.ofNat 64 pc, st := .ready, v := List.replicate 64 0, rngs := BitVec.ofNat 64 (l + 1) }
  let warp : Warp := {
    key := 0, ctx := 0, region := 0x10000, block := 0, wnum := 0, onL := false, core := 0, slot := 0, home := some 0, width := 16
    threads := (List.range 16).map thread, bundle := List.range 16, s := List.replicate 64 0 }
  let c := s.context 0
  { s.setContext 0 { c with root := 0x2000, rootRegion := some 0x10000 } with regions := [region], blocks := [block], warps := [warp], blockCt := 1, warpCt := 1 }

/-- An instruction of a fetch line placed where the next issue fetches it: its line has been read from its home. -/
def placeLine (s : State) (w : Nat) : State :=
  let s := placeWarp s 0x1000
  let p := s.port (homePort 0x1000)
  { (s.setPort (homePort 0x1000) { p with reads := [0x1000] }) with
    agenda := [.issue 0]
    mem := memPutAll s.mem (cellsAt 0x2000 (bytesOf 8 (1 + 2 * 2 ^ 28)) ++ cellsAt 0x4000 (bytesOf 8 0x873) ++ cellsAt 0x1000 (bytesOf 64 (lineWith w))) }

end Sys2Proof.Machine
end

