-- ==== Sys2Proof/Machine/Step.lean ====
section
/-!
DEFINITION. One step of the machine: the agenda says which agent moves (log 1).
-/
namespace Sys2Proof.Machine
open Sys2Proof

/-- A warp issues: a warp that may not, or none, issues nothing (R71); one in run-ahead issues as R339 says. -/
def issueStep (w : Nat) (s : State) : Host.Outcome State Fault Refusal :=
  match issueOfWarp exec w s with
  | .done t => .next t
  | .instr t i => exec i t

/-- A transducer lane executes one instruction (13 R361, R365); a lane without a program does nothing. -/
def transduceStep (lane : Nat) (s : State) : Host.Outcome State Fault Refusal :=
  let s := { s with txCur := lane }
  match s.lane.prog[s.lane.index]? with
  | none => .next s
  | some w => match (decodeTx w.toNat).toOption with
    | none => .next s
    | some i => exec i s

/-- One move. -/
def move (m : Agenda) (s : State) : Host.Outcome State Fault Refusal :=
  match m with
  | .issue w => issueStep w s
  | .transduce lane => transduceStep lane s
  | .event i => exec i s
  | .clock n => .next (clockTicks n s)
  | .evictLine core => .next (evictLine s core)
  | .evictTlb core => .next (evictTlb s core)
  | .softWord loc => .next (softWord loc s)
  | .poison loc => .next (poisonWord loc s)
  | .fabricWrite port => .next (fabricWrite port s)
  | .farPage page status => .next (farAnswer page status s)
  | .retireFrame pa => .next (retireFrame pa s)
  | .parityFail w => match s.warp? w with
    | none => .next s
    | some x => .next (if eligible x then parityFails s x else s)

/-- One step. -/
def step (s : State) : Host.Outcome State Fault Refusal := move (nextMove s).1 (nextMove s).2

/-- The instruction of a table word placed where the next step fetches it: a transducer instruction as the program of the
lane, any other in a fetch line before a warp. -/
def State.withFetchWord (s : State) (nbits w : Nat) : State := if nbits ≤ 32 then placeTx s w else placeLine s w

end Sys2Proof.Machine
end

