-- ==== Sys2Proof/Safety.lean ====
section
/-!
DEFINITION. Safe runs, and the terms that claims use: a step that answers a next state, an invariant that every step
keeps, an instruction that nothing stops at issue, and the state after it.
-/
namespace Sys2Proof
open Sys2Proof.Machine

/-- The machine goes on from a state. -/
def Safe (s : State) : Prop := ∃ t, step s = .next t

/-- Every step from a state with the property leaves a state with it. -/
def StepKeeps (inv : State → Prop) : Prop := ∀ s t, inv s → step s = .next t → inv t

namespace Machine

/-- The warp that issues is `w`, and nothing stops its full instruction `i` at issue: its guard is true in some lane
(R26), no decode check fails (R44), no hazard and no full resource stalls it (R71, R75 to R77). -/
def Issues (s : State) (w : Warp) (i : Instr) (f : Fields) : Prop :=
  s.warp? s.cur = some w ∧ guarded w f.g w.bundle ≠ [] ∧
  (∃ e, entryOf i = some e ∧ checkFields e f (s.vregsOf w) (s.sregsOf w) = none) ∧ stalled s w i = false

/-- An instruction that executes once over P or on the scalar unit executes over the whole bundle: the warp is not in
legacy mode with more than 16 lanes (R179). -/
def Whole (w : Warp) (split : Bool) : Prop := split = true → w.lw = false ∨ w.width ≤ 16

/-- The issue of a warp's whole bundle: B and the PCs. -/
abbrev issueOf (w : Warp) (f : Fields) : Iss := issOf w f.g w.bundle

/-- The state in which the warp has counted the issue (R60, R394). -/
def counted (s : State) (w : Warp) : State := s.withWarp w.key fun v => v.countIssue w.bundle

/-- Every lane of the bundle at the next slot (R22, R63). -/
def fall (w : Warp) : List (Nat × W64) := w.bundle.map fun l => (l, nextPc (w.thread (w.bundle.headD 0)).pc)

/-- The state with the lanes of the bundle at these PCs. -/
def goTo (s : State) (w : Warp) (pcs : List (Nat × W64)) : State := s.withWarp w.key fun v => v.advance pcs

/-- The state after an instruction that ends as `t` and whose bundle goes on. -/
def ends (w : Warp) (t : State) : State := goTo t w (fall w)

/-- The state after an instruction that ends as `t` and sends lanes of its bundle to PCs of their own. -/
def endsAt (w : Warp) (t : State) (q : List (Nat × W64)) : State :=
  goTo t w ((fall w).map fun p => (p.1, kvGet q p.1 p.2))

/-- The bundles of an instruction that executes by half-groups in legacy mode (R179): of those that have not executed it yet. -/
abbrev groupsOf (w : Warp) (split : Bool) : List (List Nat) := subBundles w split (if w.splits split then w.unran else w.bundle)

/-- Where the half-groups go on that have executed the instruction before (R66, R179). -/
abbrev ranOf (w : Warp) (split : Bool) : List (Nat × W64) := if w.splits split then w.ranPcs else []

/-- No half-group of the bundle has executed its instruction before the others. -/
def Fresh (w : Warp) : Prop := ∀ l ∈ w.bundle, (w.thread l).ran = none

/-- The issue of one of them, by the warp as those before it leave it. -/
def groupIss (w x : Warp) (f : Fields) (b : List Nat) : Iss := { issOf x f.g b with pfx := w.pfx }

/-- One of them executes an instruction that writes results at once: what it writes under an all-false guard is `blank`. -/
def groupStep (w : Warp) (f : Fields) (scal : Bool) (outs : Iss → List LaneOut) (blank : List RegWrite) (x : Warp) (b : List Nat) : Warp :=
  let j := groupIss w x f b
  let y := x.countIssue b
  if j.lanes = [] then y.putAll blank
  else ((y.putAll ((outs j).flatMap (·.writes))).raiseFlags (flagsOf j.lanes scal (outs j))).stepRngs (outs j)

/-- The state in which the warp waits at its instruction: nothing has issued. -/
def held (s : State) (w : Warp) : State := (counted s w).setWarp w

/-- The state with a warp's threads of B waiting at their instruction, as `ends` else. -/
def parks (w : Warp) (f : Fields) (t : State) (g : Thread → Thread) : State :=
  endsAt w (t.withWarp w.key fun x => x.setLanes (issueOf w f).lanes fun _ th => g th)
    ((issueOf w f).lanes.map fun l => (l, (issueOf w f).pc))

/-- The registers an instruction's D names, numbered as the hazard checks number them. -/
def destRegs (i : Instr) (f : Fields) : List Nat := regsAt f.d ((usesOf i).headD (0, 0)).2

/-- What an instruction that only writes registers, or waits, or faults, leaves of a state (05 R138, 17 R456): all but
warps and records; every other warp; of its own warp the registers that its D does not name, the scalar registers, the
special registers other than flags and generator, and all that the warp has started. -/
def RegisterFrame (i : Instr) (f : Fields) (s t : State) (w : Warp) : Prop :=
  t = { s with warps := t.warps, recs := t.recs, recCt := t.recCt } ∧
  (∀ k, k ≠ w.key → t.warp? k = s.warp? k) ∧
  ∃ y, t.warp? w.key = some y ∧
    (∀ l r, r ∉ destRegs i f → (y.thread l).vreg r = (w.thread l).vreg r) ∧
    (∀ r, 128 + r ∉ destRegs i f → y.sreg r = w.sreg r) ∧
    (∀ l r, 192 + r ∉ destRegs i f → (y.thread l).pred r = (w.thread l).pred r) ∧
    (∀ l, (y.thread l).fpctl = (w.thread l).fpctl ∧ (y.thread l).ustk = (w.thread l).ustk ∧
      (y.thread l).st = (w.thread l).st ∧ (y.thread l).wait = (w.thread l).wait) ∧
    y.loads = w.loads ∧ y.fifo = w.fifo ∧ y.tileOps = w.tileOps ∧ y.sb = w.sb ∧ y.ep = w.ep ∧
    y.ld = w.ld ∧ y.st = w.st ∧ y.cp = w.cp ∧ y.tm = w.tm

/-! ### What the rules give the instructions that only write registers -/

/-- A destination, and the value of each lane, that 05 R142 to R148 and 06 R166, R167 give an instruction: its fields,
whether 64 bits are written, the value. -/
def valueRule : Instr → Option (Fields × Bool × (Iss → Nat → Nat))
  | .add f => elems f fun w g a b _ => val w g a + val w g b
  | .sub f => elems f fun w g a b _ => val w g a - val w g b
  | .mul f => elems f fun w g a b _ => val w g a * val w g b
  | .mulhi f => elems f fun w g a b _ => val w g a * val w g b / (2 ^ w : Nat)
  | .mad f => elems f fun w g a b c => val w g a * val w g b + val w g c
  | .min f => elems f fun w g a b _ => min (val w g a) (val w g b)
  | .max f => elems f fun w g a b _ => max (val w g a) (val w g b)
  | .abs f => elems f fun w g a _ _ => (val w g a).natAbs
  | .and f => elems f fun _ _ a b _ => (a &&& b : Nat)
  | .or f => elems f fun _ _ a b _ => (a ||| b : Nat)
  | .xor f => elems f fun _ _ a b _ => (a ^^^ b : Nat)
  | .andn f => elems f fun w _ a b _ => (a &&& (2 ^ w - 1 - b) : Nat)
  | .shl f => elems f fun w _ a b _ => if w ≤ b then 0 else (a * 2 ^ b : Nat)
  | .shr f => elems f fun w _ a b _ => if w ≤ b then 0 else (a / 2 ^ b : Nat)
  | .sar f => elems f fun w _ a b _ => signedOf w a / (2 ^ (min b w) : Nat)
  | .rot f => elems f fun w _ a b _ => (a * 2 ^ (b % w) + a / 2 ^ (w - b % w) : Nat)
  | .clamp f => elems f fun w g a b c => min (max (val w g a) (val w g b)) (val w g c)
  | .addsh f => elems f fun w g a b c => val w g a + val w g b * (2 ^ (c % 64) : Nat)
  | .mov f => some (f, w64 f.ty, fun i l => srcT i f f.a l)
  | .sel f => some (f, w64 f.ty, fun i l => if readPred i.w f.c l then srcT i f f.a l else srcT i f f.b l)
  | .movi f => some (f, w64 f.ty, fun i l =>
      narrow (elW f.ty) (elS f.ty) f.sat (val (elW f.ty) (elS f.ty) (srcT i f f.a l) + val (elW f.ty) (elS f.ty) (srcT i f f.b l) * l))
  | .cmp f => some (f, false, fun i l =>
      bitOf (cmpInt f.cond (val (elW f.ty) (elS f.ty) (srcT i f f.a l)) (val (elW f.ty) (elS f.ty) (srcT i f f.b l))))
  | .popc f => some (f, false, fun i l => popCount (srcT i f f.a l) (elW f.ty))
  | .clz f => some (f, false, fun i l => elW f.ty - lenOf (srcT i f f.a l))
  | .brev f => some (f, w64 f.ty, fun i l => revBits (srcT i f f.a l) (elW f.ty))
  | .bfe f => some (f, w64 f.ty, fun i l => bfeVal (elW f.ty) (elS f.ty) (srcT i f f.a l) (srcT i f f.b l) (srcT i f f.c l))
  | .bfi f => some (f, w64 f.ty, fun i l => bfiVal (elW f.ty) (srcT i f f.a l) (srcT i f f.b l) (srcT i f f.c l))
  | .perm f => some (f, false, fun i l => permVal (srcT i f f.a l) (srcT i f f.b l) (srcT i f f.c l))
  | .plog f => some (f, false, fun i l =>
      bitsOf f.im (4 * bitOf (readPred i.w f.a l) + 2 * bitOf (readPred i.w f.b l) + bitOf (readPred i.w f.c l)) 1)
  | .pmovGet f => some (f, false, fun i l => (i.w.thread l).p.toNat % 128 + 128)
  | _ => none
where
  /-- Element by element of A, B and C, clamped or wrapped (R104, R142). -/
  elems (f : Fields) (op : Nat → Bool → Nat → Nat → Nat → Int) : Option (Fields × Bool × (Iss → Nat → Nat)) :=
    some (f, w64 f.ty, fun i l => intVal f.ty f.sat op (srcT i f f.a l) (srcT i f f.b l) (srcT i f f.c l))

/-- The lanes' results that 05 R150 to R157 give a floating instruction of the vector ALU, or `rng`: its fields, whether
it executes on the scalar unit, and register writes, flags and generator of each lane. -/
def floatRule : Instr → Option (Fields × Bool × (Iss → List LaneOut))
  | .fadd f => elems f fun m rd a b _ => fpAdd m rd a b
  | .fsub f => elems f fun m rd a b _ => fpSub m rd a b
  | .fmul f => elems f fun m rd a b _ => fpMul m rd a b
  | .fma f => elems f fun m rd a b c => fpFma m rd a b c
  | .fscl f => elems f fun m rd a b _ => fpScl m rd a (signedOf (flW f.ty) b)
  | .fmin f => elems f fun m _ a b _ => fpMinMax m false a b
  | .fmax f => elems f fun m _ a b _ => fpMinMax m true a b
  | .famax f => elems f fun m _ a b _ => fpAMax m a b
  | .frnd f => elems f fun m rd a _ _ => fpRnd m rd a
  | .fclass f => elems f fun m _ a _ _ => (fpClass m a, 0)
  | .fsgn f => elems f fun m _ a b _ => (fpSgn m f.cond a b, 0)
  | .fdot4 f => some (f, allScalar f, fun i => fpOuts i f f.d (allScalar f) fun l r =>
      dot4 (f.im % 256) (bitsOf f.im 8 8) { mode := f.rnd, sat := f.sat, ftz := f.ftz, r := r }
        (src32 i f f.a l) (src32 i f f.b l) (src32 i f f.c l))
  | .fcmp f => some (f, !isVec f.a && !isVec f.b, fun i => i.lanes.map fun l =>
      let x := fpCmp .f32 f.cond (src32 i f f.a l) (src32 i f f.b l)
      { lane := l, writes := destWrites f.d false l (bitOf x.1), flags := x.2 })
  | .rng f => some (f, false, fun i => (i.lanesFor (allScalar f)).map fun l =>
      let r := rngStep (i.w.thread l).rngs
      { lane := l, rng := some r, writes := destWrites f.d (f.ty == 3) l (if f.ty = 3 then r.toNat else rngDraw r) })
  | _ => none
where
  /-- Element by element of A, B and C (R97, R113). -/
  elems (f : Fields) (g : Fmt → Rnd → Nat → Nat → Nat → Nat × Flags) : Option (Fields × Bool × (Iss → List LaneOut)) :=
    some (f, allScalar f, fun i => fpOuts i f f.d (allScalar f) fun l r =>
      fpElems f.ty f r fun rd k => g (fmtOf f.ty) rd (elemF f.ty (src32 i f f.a l) k)
        (elemF f.ty (src32 i f f.b l) k) (elemF f.ty (src32 i f f.c l) k))

/-- The lanes' results that 06 R173 to R178 give a cross-lane instruction over P. -/
def laneRule : Instr → Option (Fields × Bool × (Iss → List LaneOut))
  | .shfl f => some (f, false, fun i => i.lanes.map fun l =>
      let src := ((shflFrom i.w f.ty l (src32 i f f.b l)).filter i.lanes.contains).getD l
      { lane := l, writes := destWrites f.d false l (src32 i f f.a src) })
  | .vote f => some (f, false, fun i => oneResult i f.d false (bitOf (voteVal f.ty (i.lanes.map (readPred i.w f.a)))) 0)
  | .ballot f => some (f, false, fun i => oneResult i f.d true (laneMask i.w (i.lanes.filter (readPred i.w f.a))) 0)
  | .wred f => some (f, true, fun i =>
      let x := redVal f.ty f.cond (redRnd f) (i.lanes.map fun l => readReg i.w f.a 0 (w64 f.ty) l)
      oneResult i f.d (w64 f.ty) x.1 x.2)
  | .scan f => some (f, false, fun i => i.lanes.map fun l =>
      let ls := i.lanes.filter fun k => if f.cond < 8 then decide (k ≤ l) else decide (k < l)
      let x := redVal f.ty (f.cond % 8) (redRnd f) (ls.map fun k => readReg i.w f.a 0 (w64 f.ty) k)
      { lane := l, writes := destWrites f.d (w64 f.ty) l x.1, flags := x.2 })
  | .matchl f => some (f, false, fun i => i.lanes.map fun l =>
      { lane := l, writes := destWrites f.d true l (laneMask i.w (i.lanes.filter fun k =>
          readReg i.w f.a 0 (w64 f.ty) k == readReg i.w f.a 0 (w64 f.ty) l)) })
  | .elect f => some (f, false, fun i => if isScal f.d then oneResult i f.d true i.low 0
      else i.lanes.map fun l => { lane := l, writes := destWrites f.d false l (bitOf (l == i.low)) })
  | .rdlane f => some (f, false, fun i => oneResult i f.d (w64 f.ty)
      (if i.lanes.contains (namedLane i f) then readReg i.w f.a 0 (w64 f.ty) (namedLane i f) else 0) 0)
  | .wrlane f => some (f, false, fun i => if i.lanes.contains (namedLane i f) then
      [{ lane := namedLane i f, writes := destWrites f.d (w64 f.ty) (namedLane i f)
          (readReg i.w f.a (immVal i.pfx f false) (w64 f.ty) i.low) }] else [])
  | _ => none

/-- The results of an instruction that writes them at once: its fields, whether each half-group of legacy mode is a bundle of
its own, whether every lane of B receives all flags, the lanes' results. -/
def resultRule (i : Instr) : Option (Fields × Bool × Bool × (Iss → List LaneOut)) :=
  ((valueRule i).map fun r => (r.1, allScalar r.1, allScalar r.1, fun j => valueOuts j r.1.d r.2.1 (allScalar r.1) (r.2.2 j))).orElse fun _ =>
  ((floatRule i).map fun r => (r.1, allScalar r.1, r.2)).orElse fun _ => (laneRule i).map fun r => (r.1, true, r.2)

/-- The empty-set result of a cross-lane instruction, in a scalar D (06 R168, R174 to R178). -/
def emptyResult : Instr → List RegWrite
  | .vote f => put f false (bitOf (voteVal f.ty []))
  | .ballot f | .rdlane f => put f true 0
  | .wred f => put f (w64 f.ty) (redIdentity f.ty f.cond)
  | .elect f => put f true (2 ^ 64 - 1)
  | _ => []
where
  put (f : Fields) (wide : Bool) (v : Nat) : List RegWrite := if isScal f.d then destWrites f.d wide 0 v else []

/-- What 05 R149 and R158 to R163 put into the special-function (0) or conversion (1) queue: the fields, the queue,
whether the scalar unit computes, the flags that can be raised, the activation bank, and the lanes' results. -/
def queueRule (s : State) : Instr → Option (Fields × Nat × Bool × Flags × (Warp → Option Nat) × (Iss → List LaneOut))
  | .idiv f => some (f, 0, allScalar f, 0, fun _ => none, fun i => valueOuts i f.d (decide (4 ≤ f.ty)) (allScalar f) fun l =>
      idivVal (f.ty % 4) (if 4 ≤ f.ty then 64 else 32)
        (readReg i.w f.a (immVal i.pfx f (f.ty == 5 || f.ty == 7)) (decide (4 ≤ f.ty)) l)
        (readReg i.w f.b (immVal i.pfx f (f.ty == 5 || f.ty == 7)) (decide (4 ≤ f.ty)) l))
  | .cvt f => some (f, 1, allScalar f, cvtRaises f.cond f.ty, fun _ => none, fun i => (i.lanesFor (allScalar f)).map fun l =>
      let x := cvtVal f (srStep i f l).2 (readReg i.w f.a 0 (w64 f.cond) l) (readReg i.w f.b 0 (w64 f.cond) l)
      { lane := l, writes := destWrites f.d (w64 f.ty) l x.1, flags := x.2, rng := (srStep i f l).1 })
  | .pack f => some (f, 1, false, 0x1D, fun _ => none, fun i => i.lanes.map fun l =>
      let xs := (List.range 4).map fun k => readReg i.w (f.a + BitVec.ofNat 8 k) 0 false l
      let x := packVal f (srStep i f l).2 xs (readReg i.w f.b 0 false l)
      { lane := l, writes := destWrites f.d false l x.1, flags := x.2, rng := (srStep i f l).1 })
  | .unpack f => some (f, 1, false, 0, fun _ => none, fun i => i.lanes.map fun l =>
      { lane := l, writes := (List.range 4).flatMap fun k => destWrites (f.d + BitVec.ofNat 8 k) false l
          (Fmt.f32.round {} (fmtDecode (f.im % 256) (bitsOf (readReg i.w f.a 0 false l)
            (bitsOf f.im 8 5 + packBits (f.im % 256) * k) (packBits (f.im % 256))))).1 })
  | .rcp f => special f 0x53
  | .rsq f => special f 0x54
  | .sqrt f => special f 0x55
  | .exp2 f => special f 0x56
  | .log2 f => special f 0x57
  | .sin f => special f 0x58
  | .cos f => special f 0x59
  | .tanh f => special f 0x5A
  | .act f => some (f, 0, allScalar f, 0x1D, fun w => some (bitOf (s.core w.homeCore).actCur), fun i =>
      fpOuts i f f.d (allScalar f) fun l _ =>
        actEval (s.core i.w.homeCore).actBank.bytes { sat := f.sat, ftz := f.ftz } (src32 i f f.a l))
  | _ => none
where
  /-- A special function by its opcode (R161). -/
  special (f : Fields) (op : Nat) : Option (Fields × Nat × Bool × Flags × (Warp → Option Nat) × (Iss → List LaneOut)) :=
    some (f, 0, allScalar f, specialRaises op, fun _ => none, fun i => fpOuts i f f.d (allScalar f) fun l r =>
      fpElems f.ty f r fun rd k =>
        specialElem op (fmtOf f.ty) rd
          (Config.faithfulUp op (BitVec.ofNat 32 (Fmt.f32.round {} ((fmtOf f.ty).decode (elemF f.ty (src32 i f f.a l) k))).1))
          (elemF f.ty (src32 i f f.a l) k))

/-- What `rdsr`, `mkptr` and `ptrq` put into D (03 R83, 07 R204, R205): the fields, whether 64 bits, the value. -/
def readRule (s : State) : Instr → Option (Fields × Bool × (Iss → Nat → Nat))
  | .rdsr f => some (f, f.ty == 3, fun i l => special s i.w f.im l)
  | .mkptr f => some (f, true, fun i l =>
      mkptrVal (f.im % 16) (bitsOf f.im 4 3) (readReg i.w f.a 0 true l) (readReg i.w f.b 0 false l))
  | .ptrq f => some (f, false, fun i l => ptrqWord s i.w l (baseOf i.w f false l) (dispOf i.w f l))
  | _ => none

/-- The fields of an instruction that only writes registers, or does nothing. -/
def registerOnly (s : State) (i : Instr) : Option Fields :=
  match i with
  | .nop f | .yield f | .wait f => some f
  | _ => ((valueRule i).map (·.1)).orElse fun _ => ((floatRule i).map (·.1)).orElse fun _ =>
    ((laneRule i).map (·.1)).orElse fun _ => ((queueRule s i).map (·.1)).orElse fun _ => (readRule s i).map (·.1)

/-- The targets of a transfer: its fields, whether it writes a link, whether it may leave an emulation routine, and the
target of each lane (03 R85, R86). -/
def transferRule : Instr → Option (Fields × Bool × Bool × (Iss → Nat → W64))
  | .bra f => some (f, false, false, fun i _ => lineOf i.pc + (f.imm.signExtend 64) * 4)
  | .call f => some (f, true, false, fun i _ => lineOf i.pc + (f.imm.signExtend 64) * 4)
  | .callx f => some (f, true, false, fun i l => BitVec.ofNat 64 (readReg i.w f.a 0 true l))
  | .brx f => some (f, false, true, fun i l => BitVec.ofNat 64 (readReg i.w f.a 0 true l))
  | .ret f => some (f, false, true, fun i l => BitVec.ofNat 64 (readReg i.w f.a 0 true l))
  | _ => none

/-- The accesses by lanes: the fields, whether in space 1, the kind, the orders accepted, the instruction's own policy, and
the bytes of a lane (07 R194 to R199, 08 R212). -/
def accessRule : Instr → Option (Fields × Bool × Nat × List Nat × Nat × Nat)
  | .ld f => some (f, false, 0, [0, 1, 2], f.pol, sizeBytes f.ty)
  | .lds f => some (f, true, 0, [0, 1, 2], f.pol, sizeBytes f.ty)
  | .st f => some (f, false, 1, [0, 1, 3], f.pol, sizeBytes f.ty)
  | .sts f => some (f, true, 1, [0, 1, 3], f.pol, sizeBytes f.ty)
  | .atom f | .cas f | .fatom f | .amxr f => some (f, false, 2, [1, 2, 3, 4], 0, atomBytes f.pol)
  | .redm f | .fredm f => some (f, false, 2, [1, 3], 0, atomBytes f.pol)
  | _ => none

/-- An access as it issues: its modifiers, and its lanes' checks. -/
def modsAt (w : Warp) (f : Fields) (spad : Bool) (pol : Nat) : Mods :=
  modsOf (issueOf w f) { pol := pol, scope := f.scope, ord := f.ord } spad
def checksAt (s : State) (w : Warp) (f : Fields) (spad : Bool) (kind pol size : Nat) : List LaneChk :=
  lanesChk s w f spad kind (modsAt w f spad pol).pol size ((issueOf w f).lanesFor (allScalar f))

/-- Nothing stops an access: the instruction issues, a prefix's order is accepted, and no lane fails a check or waits
for a copy-on-write break. -/
def Accesses (s : State) (w : Warp) (i : Instr) (f : Fields) (cs : List LaneChk) (ords : List Nat) : Prop :=
  Issues s w i f ∧ Whole w (allScalar f) ∧ modsBad (issueOf w f) ords = false ∧ ∀ c ∈ cs, c.why = none ∧ c.cow = false

/-- A warp's barrier update at its bank, which may begin (08 R224, R534). -/
def AtBank (s : State) (x : Warp) (p : BarPend) : Prop :=
  s.warp? x.key = some x ∧ x.barOps = [p] ∧ barOpen s x p = true ∧ s.mem.wf = true

/-- Registers as they were. -/
def SameRegs (w y : Warp) : Prop := y.s = w.s ∧ ∀ l, (y.thread l).v = (w.thread l).v ∧ (y.thread l).p = (w.thread l).p

end Machine
end Sys2Proof
end

