-- ==== Sys2Proof/Certificates/Slice0/Obligations.lean ====
section
/-!
DEFINITION. The statements.
-/
open Sys2Proof Sys2Proof.Machine

/-- 05 R142 to R148 and 06 R166, R167: nothing stops an instruction that writes a value; it writes exactly its
destination in each lane of B, or once on the scalar unit, and its bundle goes on. -/
def Sys2Proof.Claims.ValueResults : Prop :=
  ∀ (s : State) (w : Warp) (i : Instr) (f : Fields) (wide : Bool) (v : Iss → Nat → Nat),
    valueRule i = some (f, wide, v) → Issues s w i f → Whole w (allScalar f) →
    exec i s = .next (ends w ((counted s w).withWarp w.key fun x =>
      x.putAll (((issueOf w f).lanesFor (allScalar f)).flatMap fun l => destWrites f.d wide l (v (issueOf w f) l))))

/-- 04 R107, 05 R150 to R157: a floating instruction of the vector ALU, or `rng`, of which no lane takes a trap writes
its results, raises its sticky flags and steps its generators. -/
def Sys2Proof.Claims.FloatResults : Prop :=
  ∀ (s : State) (w : Warp) (i : Instr) (f : Fields) (scal : Bool) (outs : Iss → List LaneOut),
    floatRule i = some (f, scal, outs) → Issues s w i f → Whole w (allScalar f) →
    fpTrap w (issueOf w f).lanes scal (flagsOf (issueOf w f).lanes scal (outs (issueOf w f))) = none →
    exec i s = .next (ends w ((counted s w).withWarp w.key fun x =>
      ((x.putAll ((outs (issueOf w f)).flatMap (·.writes))).raiseFlags
        (flagsOf (issueOf w f).lanes scal (outs (issueOf w f)))).stepRngs (outs (issueOf w f))))

/-- 04 R108: where a lane raises a flag whose enable is set, the first such flag is the trap, of the lanes that raised
it, and the instruction has no other effect. -/
def Sys2Proof.Claims.FloatTraps : Prop :=
  ∀ (s : State) (w : Warp) (i : Instr) (f : Fields) (scal : Bool) (outs : Iss → List LaneOut) (t : Trap),
    floatRule i = some (f, scal, outs) → Issues s w i f → Whole w (allScalar f) →
    fpTrap w (issueOf w f).lanes scal (flagsOf (issueOf w f).lanes scal (outs (issueOf w f))) = some t →
    exec i s = .next (takeTrap s (issueOf w f) t)

/-- 06 R168, R173 to R179: a cross-lane instruction computes over P, the lanes of B, and writes what its entry gives; in legacy
mode each half-group is a bundle of its own, in order, and one in which no guard is true writes the empty-set result to a
scalar D. The other instructions that write results at once do the same where they execute once for a bundle. -/
def Sys2Proof.Claims.LaneResults : Prop :=
  ∀ (s : State) (w : Warp) (i : Instr) (f : Fields) (split scal : Bool) (outs : Iss → List LaneOut),
    resultRule i = some (f, split, scal, outs) → Issues s w i f →
    let run (bs : List (List Nat)) : Warp := bs.foldl (groupStep w f scal outs (emptyResult i)) w
    (∀ pre b post, groupsOf w split = pre ++ b :: post → let j := groupIss w (run pre) f b
      fpTrap j.w j.lanes scal (flagsOf j.lanes scal (outs j)) = none) →
    exec i s = .next (s.setWarp ((run (groupsOf w split)).advance
      (ranOf w split ++ (groupsOf w split).flatMap fun b => b.map fun l => (l, nextPc (w.thread (b.headD 0)).pc))))

/-- 06 R176: `match` writes into each lane of P the mask of the lanes of P whose A has the same bits, itself among them, each
at its place in its group: the whole warp, or the half-group of legacy mode. -/
def Sys2Proof.Claims.Matches : Prop :=
  ∀ (s : State) (w : Warp) (f : Fields), Issues s w (.matchl f) f → w.bundle.Nodup → (∀ l ∈ w.bundle, l < w.width) → w.width ≤ 64 →
    ∃ t y, exec (.matchl f) s = .next t ∧ t.warp? w.key = some y ∧ ∀ b ∈ groupsOf w true, ∀ l ∈ guarded w f.g b,
      l < w.threads.length → f.d.toNat + 1 < (w.thread l).v.length →
      let a (q : Nat) : Nat := readReg w f.a 0 (w64 f.ty) q
      let mask := readReg y f.d 0 true l
      mask.testBit (l % groupSize w) = true ∧ mask < 2 ^ 64 ∧
      ∀ k, k < 64 → (mask.testBit k = true ↔ ∃ q ∈ guarded w f.g b, q % groupSize w = k ∧ a q = a l)

/-- 05 R130 to R135, R149, R158 to R163: an instruction of a queue takes an entry that holds its results, flags and
trap; where it can trap the warp holds at it, else its bundle goes on. -/
def Sys2Proof.Claims.QueueResults : Prop :=
  ∀ (s : State) (w : Warp) (i : Instr) (f : Fields) (q : Nat) (scal : Bool) (raises : Flags) (bank : Warp → Option Nat)
    (outs : Iss → List LaneOut),
    queueRule s i = some (f, q, scal, raises, bank, outs) → Issues s w i f → Whole w (allScalar f) →
    (bank w ≠ none → (s.core w.homeCore).actBank.valid = true) →
    let j := issueOf w f
    let fl := flagsOf j.lanes scal (outs j)
    let t := fpTrap w j.lanes scal fl
    let may := canTrap w j.lanes raises
    let op : QueueOp := {
      queue := q, writes := (outs j).flatMap (·.writes), flags := fl, trapMask := (t.map fun t => maskOf t.lanes).getD 0
      trapCause := (t.map (·.cause)).getD 0, bank := bank w, pc := j.pcCur, lanes := if may then w.bundle else [] }
    let put (x : Warp) : Warp :=
      let y := { x with queue := x.queue ++ [op] }
      if t.isSome then y else y.stepRngs (outs j)
    exec i s = .next (if may then (counted s w).withWarp w.key fun x => { put x with hold := .trapOp }
      else ends w ((counted s w).withWarp w.key put))


/-- 05 R138 and the entries of its instructions: an instruction that only writes registers changes no memory and no
other part of the machine, no other warp, and of its warp no register but D's, whether it goes on, waits or traps. -/
def Sys2Proof.Claims.RegisterFrames : Prop :=
  ∀ (s t : State) (w : Warp) (i : Instr) (f : Fields), registerOnly s i = some f → s.warp? s.cur = some w →
    exec i s = .next t → RegisterFrame i f s t w

/-- 02 R45, 03 R79: under a guard that is false in every lane of the bundle, an instruction only advances it, and so
does a pair with both guards false; a cross-lane instruction writes the empty-set result to a scalar D that nothing pending
will write (06 R168). A prefix with such a guard is ILLEGAL_MOD (02 R50). -/
def Sys2Proof.Claims.FalseGuards : Prop :=
  ∀ (s : State) (w : Warp), s.warp? s.cur = some w → w.bundle ≠ [] →
    (∀ (i : Instr) (op : Nat) (f : Fields), fieldsOf i = some (op, f) → guarded w f.g w.bundle = [] → Whole w true →
      op ≠ 0xF0 → op ≠ 0xF1 → (0x60 ≤ op → op ≤ 0x68 → isScal f.d = false) → exec i s = .next (ends w (counted s w))) ∧
    (∀ f : Fields, guarded w f.g w.bundle = [] → Whole w true → isScal f.d = true →
      ∀ x ∈ [(Instr.vote f, false, bitOf (voteVal f.ty [])), (.ballot f, true, 0), (.wred f, w64 f.ty, redIdentity f.ty f.cond),
          (.elect f, true, 2 ^ 64 - 1), (.rdlane f, w64 f.ty, 0)],
        (∃ e, entryOf x.1 = some e ∧ checkFields e f (s.vregsOf w) (s.sregsOf w) = none) → (∀ r ∈ regsAt f.d 1, r ∉ w.pendingRegs) →
        exec x.1 s = .next (ends w ((counted s w).withWarp w.key fun y => y.putAll (destWrites f.d x.2.1 0 x.2.2)))) ∧
    (∀ p q : ShortOp, sopLanes w p w.bundle = [] → sopLanes w q w.bundle = [] →
      exec (.shortPair p q) s = .next (ends w (counted s w))) ∧
    (∀ f : Fields, guarded w f.g w.bundle = [] → ∀ i ∈ [Instr.imx f, .pol f],
      exec i s = .next (takeTrap s (issueOf w f) { cause := 0x007, lanes := w.bundle }))

/-- 02 R44: the first check of an instruction's encoding that fails is the cause of the fault it takes; the checks are made before
a half-group of legacy mode executes it. -/
def Sys2Proof.Claims.DecodeTraps : Prop :=
  ∀ (s : State) (w : Warp) (i : Instr) (op : Nat) (f : Fields) (e : Entry) (c : Nat), fieldsOf i = some (op, f) →
    entryOf i = some e → s.warp? s.cur = some w → guarded w f.g w.bundle ≠ [] → Fresh w →
    checkFields e f (s.vregsOf w) (s.sregsOf w) = some c →
    exec i s = .next (takeTrap s (issueOf w f) { cause := c, lanes := guarded w f.g w.bundle })

/-- 02 R54: an instruction of the FP64 group raises ABSENT_INSTRUCTION, whatever its other fields. -/
def Sys2Proof.Claims.AbsentInstructions : Prop :=
  ∀ (s : State) (w : Warp) (f : Fields), s.warp? s.cur = some w → guarded w f.g w.bundle ≠ [] →
    ∀ i ∈ [Instr.dadd f, .dmul f, .dfma f, .ddiv f, .dsqrt f, .dcvt f],
      exec i s = .next (takeTrap s (issueOf w f) { cause := 0x001, lanes := guarded w f.g w.bundle })

/-- 03 R71, R75 to R77, 05 R130: an instruction that a hazard or a full resource stalls does not issue; half-groups of legacy mode
that have executed it wait on (R66). -/
def Sys2Proof.Claims.Stalls : Prop :=
  ∀ (s : State) (w : Warp) (i : Instr) (op : Nat) (f : Fields) (e : Entry), fieldsOf i = some (op, f) →
    entryOf i = some e → s.warp? s.cur = some w → guarded w f.g w.bundle ≠ [] →
    checkFields e f (s.vregsOf w) (s.sregsOf w) = none → stalled s w i = true →
    Whole w true ∨ (∃ b, (groupsOf w true).head? = some b ∧ guarded w f.g b ≠ []) →
    ∃ t, exec i s = .next t ∧ (Whole w true ∨ Fresh w → t = s) ∧ (t = s ∨ t = s.leave w.key w.pfx w.ranPcs)

/-- 06 R179: in legacy mode the bundle executes as its groups of 16 lanes: every lane in one, none of them empty. -/
def Sys2Proof.Claims.HalfGroups : Prop :=
  ∀ (w : Warp) (ls : List Nat), w.lw = true → 16 < w.width → (∀ l ∈ ls, l < 64) →
    (∀ l, ((subBundles w true ls).flatten).count l = ls.count l) ∧
    ∀ b ∈ subBundles w true ls, b ≠ [] ∧ ∃ h, ∀ l ∈ b, l / 16 = h

/-- 17 R456, R462: a fault that an instruction takes leaves the registers and memory, stops its warp, and raises one
record, behind the others, that names the cause, the context, the region, the PC, the threads and the address; of the rest it
changes a port's codec error log at most, where the fault names an entry of it (13 R374). -/
def Sys2Proof.Claims.TakesFault : Prop :=
  ∀ (s : State) (i : Iss) (t : Trap) (w0 : Warp), s.warp? i.w.key = some w0 → t.pages = none → t.cause < 512 →
    i.w.ctx < 256 → inUndo i.w t.lanes = false →
    ∃ r y, takeTrap s i t = { s with
        warps := (takeTrap s i t).warps, recs := s.recs ++ [r], recCt := s.recCt + 1
        ports := (match t.log with
          | none => s.ports
          | some (k, e) => (s.setPort k { s.port k with errlog := (s.port k).errlog ++ [e] }).ports) } ∧
      r.id = s.recCt ∧ r.ctx = i.w.ctx ∧ r.region = i.w.region ∧ r.tick = s.tick ∧ r.cause = t.cause ∧
      bitsOf (r.words.getD 0 0).toNat 9 1 = 0 ∧ bitsOf (r.words.getD 0 0).toNat 17 8 = i.w.ctx ∧
      bitsOf (r.words.getD 0 0).toNat 32 32 = regionId i.w.region ∧
      r.words.getD 3 0 = (if t.half then i.pcCur ||| 4 else i.pcCur) &&& 0x01FFFFFFFFFFFFFF ∧
      r.words.getD 5 0 = maskOf t.lanes ∧ r.words.getD 6 0 = t.addr ∧
      (takeTrap s i t).warp? i.w.key = some y ∧ y.stopped = i.w.stopped ++ [s.recCt] ∧ y.s = i.w.s ∧
      ∀ l, (y.thread l).v = (i.w.thread l).v ∧ (y.thread l).p = (i.w.thread l).p

/-- 03 R80, R81: `nop` does nothing, `yield` gives the warp's credit away, `wait` goes on once its limits hold. -/
def Sys2Proof.Claims.IssueOnly : Prop :=
  ∀ (s : State) (w : Warp) (f : Fields),
    (Issues s w (.nop f) f → exec (.nop f) s = .next (ends w (counted s w))) ∧
    (Issues s w (.yield f) f → exec (.yield f) s =
      .next (ends w ((counted s w).withWarp w.key fun x => { x with credit := 0, yielded := true }))) ∧
    (Issues s w (.wait f) f →
      let ok := ∀ p ∈ [(0, w.ld), (4, w.st), (8, w.cp), (12, w.tm)], bitsOf f.aux p.1 4 = 15 ∨ p.2 ≤ bitsOf f.aux p.1 4
      (ok → exec (.wait f) s = .next (ends w (counted s w))) ∧ (¬ ok → exec (.wait f) s = .next (held s w)))

/-- 03 R73, R83, 05 R110, 07 R204, R205: `rdsr`, `mkptr` and `ptrq` write D in each lane of B, or once on the scalar
unit; a read of `%fpflags` waits until the warp's queues are empty. -/
def Sys2Proof.Claims.ReadResults : Prop :=
  ∀ (s : State) (w : Warp) (i : Instr) (f : Fields) (wide : Bool) (v : Iss → Nat → Nat),
    readRule s i = some (f, wide, v) → Issues s w i f → Whole w (allScalar f) →
    (if i = .rdsr f ∧ f.im = 0x0F ∧ w.queue ≠ [] then exec i s = .next (held s w)
     else exec i s = .next (ends w ((counted s w).withWarp w.key fun x =>
      x.putAll (((issueOf w f).lanesFor (allScalar f)).flatMap fun l => destWrites f.d wide l (v (issueOf w f) l)))))

/-- 03 R74, R83, 04 R106, R110, R113: `wrsr` writes a special register of each thread of B: 5 bits of `%fpctl` or
`%fpflags`, `%rngs` with 1 for 0, or `%ustk`. -/
def Sys2Proof.Claims.SpecialWrites : Prop :=
  ∀ (s : State) (w : Warp) (f : Fields), Issues s w (.wrsr f) f → (f.im = 0x0F → w.queue = []) →
    let v (l : Nat) : Nat := readReg w f.a 0 (f.ty == 3) l
    exec (.wrsr f) s = .next (ends w ((counted s w).withWarp w.key fun x =>
      x.setLanes (issueOf w f).lanes fun l t =>
        if f.im = 0x0E then { t with fpctl := BitVec.ofNat 32 (v l % 32) }
        else if f.im = 0x0F then { t with fpflags := BitVec.ofNat 32 (v l % 32) }
        else if f.im = 0x10 then { t with rngs := if BitVec.ofNat 64 (v l) = 0 then 1 else BitVec.ofNat 64 (v l) }
        else { t with ustk := BitVec.ofNat 64 (v l) }))

/-- 06 R167: `pmov.set` writes p0 to p6 of each thread of B that its mask names from the bits of A. -/
def Sys2Proof.Claims.PredicateMoves : Prop :=
  ∀ (s : State) (w : Warp) (f : Fields), Issues s w (.pmovSet f) f →
    ∃ t y, exec (.pmovSet f) s = .next t ∧ t.warp? w.key = some y ∧ t = { s with warps := t.warps } ∧
      ∀ l, l < w.threads.length → ∀ j, j < 7 → (y.thread l).pred j =
        if l ∈ (issueOf w f).lanes ∧ bitsOf f.im j 1 = 1 then bitsOf (readReg w f.a f.im false l) j 1 == 1
        else (w.thread l).pred j

/-- 03 R85, R86, 02 R23, R55: a transfer whose targets pass their checks sends the lanes of B to them; `call` and
`callx` write the return PC; `brx` and `ret` through the link of `emu` leave the emulation routine. -/
def Sys2Proof.Claims.Transfers : Prop :=
  ∀ (s : State) (w : Warp) (i : Instr) (f : Fields) (link emu : Bool) (target : Iss → Nat → W64),
    transferRule i = some (f, link, emu, target) → Issues s w i f →
    let j := issueOf w f
    let ts := j.lanes.map fun l => (l, target j l)
    transferTrap (counted s w) w ts = none →
    exec i s = .next (endsAt w ((counted s w).withWarp w.key fun x =>
      let y := if link then x.putAll (j.lanes.flatMap fun l => destWrites f.d true l j.nxt.toNat) else x
      if emu && f.a.toNat + 2 == s.vregsOf w then y.setLanes j.lanes fun _ t => { t with inEmu := false } else y) ts)

/-- 02 R23, 03 R86: where a target fails a check, the transfer takes the first cause in the order of the checks, for
the lanes whose targets fail; where only the fetch of a target's line would fault, it takes that fault. -/
def Sys2Proof.Claims.TransferTraps : Prop :=
  ∀ (s : State) (w : Warp) (i : Instr) (f : Fields) (link emu : Bool) (target : Iss → Nat → W64) (t : Trap),
    transferRule i = some (f, link, emu, target) → Issues s w i f →
    transferTrap (counted s w) w ((issueOf w f).lanes.map fun l => (l, target (issueOf w f) l)) = some t →
    exec i s = .next (takeTrap s (issueOf w f) t) ∧ t.lanes ≠ [] ∧
    (∀ l ∈ t.lanes, l ∈ (issueOf w f).lanes ∧ targetFault (counted s w) w l (target (issueOf w f) l) ≠ none) ∧
    ((∃ l ∈ (issueOf w f).lanes, ∃ k x, k ≤ 3 ∧ targetFault (counted s w) w l (target (issueOf w f) l) = some (k, x)) →
      t.cause ∈ [0x00F, 0x010, 0x011] ∧ t.pages = none ∧
      ∀ l ∈ (issueOf w f).lanes, (∃ k x, k ≤ 3 ∧ targetFault (counted s w) w l (target (issueOf w f) l) = some (k, x)) → l ∈ t.lanes)

/-- 03 R87: `brs` compares two scalars once; taken, the lanes of B go to its target, else the bundle goes on. -/
def Sys2Proof.Claims.ScalarBranches : Prop :=
  ∀ (s : State) (w : Warp) (f : Fields), Issues s w (.brs f) f → Whole w true →
    let j := issueOf w f
    let n := if w64 f.ty then 64 else 32
    let v (x : BitVec 8) : Int := let a := readReg w x 0 (w64 f.ty) j.low
      if f.ty % 2 = 0 then signedOf n a else a
    let taken := match f.aux with
      | 0 => v f.a = v f.b
      | 1 => v f.a ≠ v f.b
      | 2 => v f.a < v f.b
      | 3 => v f.a ≤ v f.b
      | 4 => v f.b < v f.a
      | _ => v f.b ≤ v f.a
    let ts := j.lanes.map fun l => (l, lineOf j.pc + (f.imm.signExtend 64) * 4)
    (¬ taken → exec (.brs f) s = .next (ends w (counted s w))) ∧
    (taken → transferTrap (counted s w) w ts = none → exec (.brs f) s = .next (endsAt w (counted s w) ts))

/-- 03 R88, 08 R235: `wsync` parks the threads of B, and `xswap` has them wait, where they are. -/
def Sys2Proof.Claims.Parks : Prop :=
  ∀ (s : State) (w : Warp) (f : Fields),
    (Issues s w (.wsync f) f → exec (.wsync f) s = .next (parks w f (counted s w) fun t => { t with st := .parked })) ∧
    (Issues s w (.xswap f) f →
      exec (.xswap f) s = .next (parks w f (counted s w) fun t => { t with st := .waiting, wait := .xswap }))

/-- 02 R55: `emu` writes the return PC to the image's two highest vector registers and goes to the routine that the
kernel's table names; without a table entry it is absent. -/
def Sys2Proof.Claims.EmulationCalls : Prop :=
  ∀ (s : State) (w : Warp) (f : Fields) (r : Region), Issues s w (.emu f) f → s.regionOf? w.ctx w.region = some r →
    let j := issueOf w f
    (r.emu = false ∨ r.emuCnt ≤ f.aux → exec (.emu f) s = .next (takeTrap s j { cause := 0x001, lanes := j.lanes })) ∧
    (r.emu = true → f.aux < r.emuCnt → ∀ t, emuTarget (counted s w) w r f.aux = some t →
      transferTrap (counted s w) w (j.lanes.map fun l => (l, t)) = none →
      exec (.emu f) s = .next (endsAt w ((counted s w).withWarp w.key fun x =>
        (x.putAll (j.lanes.flatMap fun l => destWrites (BitVec.ofNat 8 (s.vregsOf w - 2)) true l j.nxt.toNat)).setLanes
          j.lanes fun _ t => { t with inEmu := true }) (j.lanes.map fun l => (l, t))))

/-- 17 R474, R475: `trap n` takes cause 0x170 + n with its operand in the record, `brk` 0x162 with its number, in legacy mode for
the first half-group (06 R179); where DEN is set the debugger takes a `brk`. -/
def Sys2Proof.Claims.SoftwareTraps : Prop :=
  ∀ (s : State) (w : Warp) (f : Fields),
    (∀ b r, groupsOf w (allScalar f) = b :: r → guarded w f.g b ≠ [] → Fresh w →
      let j := groupIss w w f b
      (Issues s w (.trap f) f → exec (.trap f) s = .next (takeTrap s j {
        cause := 0x170 + f.aux, lanes := j.lanes
        detail := BitVec.ofNat 64 (if f.a = 0xF1 then f.im else readReg w f.a 0 true j.low) })) ∧
      (Issues s w (.brk f) f → exec (.brk f) s = .next (takeTrap s j {
        cause := 0x162, lanes := j.lanes, detail := BitVec.ofNat 64 f.aux, debug := (s.context w.ctx).den })))

/-- 11 R313, R302, R303: `fence` holds while older loads or returning atomics of B are unfinished (acquire forms);
then, at a scope above warp, it appends a release marker (release forms) and joins what the loads of B read from matching
releases. -/
def Sys2Proof.Claims.Fences : Prop :=
  ∀ (s : State) (w : Warp) (f : Fields), Issues s w (.fence f) f →
    let j := issueOf w f
    let s1 := if f.ty ≠ 1 ∧ 2 ≤ f.aux then pushMarker w.key .marker j.lanes f.aux j.pc (counted s w) else counted s w
    let s2 := if f.ty ≠ 2 ∧ 2 ≤ f.aux then s1.withWarp w.key fun x => x.setLanes j.lanes fun _ t =>
      { t with covered := t.reads.foldl (fun c wid => union c (acquired s1.order w.core w.key f.aux wid)) t.covered } else s1
    exec (.fence f) s = .next (if f.ty ≠ 2 ∧ w.busyLanes j.lanes = true then held s w else ends w s2)

/-- 11 R302, 16 R453: a marker joins the end of its warp's FIFO with its scope and the covered sets of its threads; their later
writes continue the release of a fence, and not that of a TRIG; nothing reaches memory. -/
def Sys2Proof.Claims.Markers : Prop :=
  ∀ (s : State) (w : Warp) (k : FifoKind) (lanes : List Nat) (scope : Nat) (pc : W64), s.warp? w.key = some w →
    ∃ y e, (pushMarker w.key k lanes scope pc s).warp? w.key = some y ∧ y.fifo = w.fifo ++ [e] ∧ e.kind = k ∧
      e.wid = s.order.next ∧ e.release = true ∧ e.scope = scope ∧ e.pc = pc ∧ e.cells.map (·.1) = lanes ∧
      e.covered = w.coveredBy lanes ∧ (pushMarker w.key k lanes scope pc s).mem = s.mem ∧
      (pushMarker w.key k lanes scope pc s).order.next = s.order.next + 1 ∧
      (k = .marker → ∀ l ∈ lanes, l < w.threads.length → e.wid ∈ (y.thread l).markers) ∧ (k ≠ .marker → y.threads = w.threads) ∧
      ∀ l, l ∉ lanes → y.thread l = w.thread l

/-- 16 R453, 03 R82, R441, 11 R314: `trig` appends a TRIG marker of device scope; `ifence` empties the core's
instruction cache once the loads of its threads are done and the writes they know have reached their homes; `exit` of threads that are no tasks ends
them, behind their TRIG marker. -/
def Sys2Proof.Claims.TriggersAndExits : Prop :=
  ∀ (s : State) (w : Warp) (f : Fields),
    let j := issueOf w f
    let s1 := counted s w
    (Issues s w (.trig f) f → exec (.trig f) s = .next (ends w (pushMarker w.key .trig j.lanes 4 j.pc s1))) ∧
    (Issues s w (.ifence f) f →
      let ok := w.busyLanes j.lanes = false ∧ ∀ l ∈ j.lanes, ∀ wid ∈ (w.thread l).covered, atHome s1 wid = true
      (ok → exec (.ifence f) s = .next (ends w (s1.setCore w.core { s.core w.core with icache := [] }))) ∧
      (¬ ok → exec (.ifence f) s = .next (held s w))) ∧
    (Issues s w (.exit f) f → (∀ l ∈ j.lanes, (w.thread l).isTask = false ∧ (w.thread l).task.undoMode = false ∧ l < w.width ∧
        l < w.threads.length) →
      ∃ t y, exec (.exit f) s = .next t ∧ t.mem = s.mem ∧ t.warp? w.key = some y ∧
        (∀ l ∈ j.lanes, (y.thread l).st = .exited) ∧ (∃ e, y.fifo = w.fifo ++ [e] ∧ e.kind = .trig ∧ e.cells.map (·.1) = j.lanes) ∧
        y.s = w.s ∧ (∀ l, (y.thread l).v = (w.thread l).v ∧ (y.thread l).p = (w.thread l).p) ∧
        (y.live = [] → y.draining = true ∧ y.bundle = []))

/-- 02 R48 to R51: a prefix before an instruction that takes it, or before a slot that cannot be fetched yet, is kept, with its
own PC, for the next instruction. -/
def Sys2Proof.Claims.Prefixes : Prop :=
  ∀ (s : State) (w : Warp) (f : Fields) (n : Instr),
    let pc := (issueOf w f).pc
    (Issues s w (.imx f) f → peekSlot (counted s w) w (nextPc pc) = none ∨ (peekSlot (counted s w) w (nextPc pc) = some (.instr n) ∧ imxTarget n = true) →
      exec (.imx f) s = .next (ends w ((counted s w).withWarp w.key fun x => { x with pfx := some {
        isImx := true, hi := f.imm, pol := BitVec.ofNat 4 f.pol, scope := BitVec.ofNat 4 f.scope, ord := BitVec.ofNat 4 f.ord, pc := pc } }))) ∧
    (Issues s w (.pol f) f → peekSlot (counted s w) w (nextPc pc) = none ∨ (peekSlot (counted s w) w (nextPc pc) = some (.instr n) ∧ polTarget n = true) →
      exec (.pol f) s = .next (ends w ((counted s w).withWarp w.key fun x => { x with pfx := some {
        isImx := false, hi := f.imm, pol := BitVec.ofNat 4 f.pol, scope := BitVec.ofNat 4 f.scope, ord := BitVec.ofNat 4 f.ord, pc := pc } })))

/-- 02 R50: what stands behind a prefix and cannot take it is a fault at the prefix: PREFIX_IN_PAIR for a pair,
PREFIX_REPEAT for the same prefix, PREFIX_TARGET for anything else; where it comes in only later it is found as it issues. -/
def Sys2Proof.Claims.PrefixMisuse : Prop :=
  ∀ (s : State) (w : Warp) (f g : Fields) (n : Instr),
    let pc := (issueOf w f).pc
    let traps (x : Instr) (c : Nat) : Prop := exec x s = .next (takeTrap s (issueOf w f) { cause := c, lanes := (issueOf w f).lanes })
    (∀ p, w.pfx = some p → ∀ r line, fetchLine s w pc w.bundle = .line r line → w.entryCause line pc = none →
      ∀ c, prefixCause p.isImx (slotAt line pc) = some c →
        fetchNext s w = .done (takeTrap r { issOf w 7 w.bundle with pc := pc } { cause := c, lanes := w.bundle })) ∧
    (peekSlot (counted s w) w (nextPc pc) = some (.instr n) →
    (Issues s w (.imx f) f →
      ((∃ p q, n = .shortPair p q) → traps (.imx f) 0x00E) ∧ (n = .imx g → traps (.imx f) 0x00D) ∧
      (n = .pol g → traps (.imx f) 0x00C) ∧ ((fieldsOf n).isSome → (∀ h, n ≠ .imx h) → imxTarget n = false → traps (.imx f) 0x00C)) ∧
    (Issues s w (.pol f) f →
      ((∃ p q, n = .shortPair p q) → traps (.pol f) 0x00E) ∧ (n = .pol g → traps (.pol f) 0x00D) ∧
      (n = .imx g → traps (.pol f) 0x00C) ∧ ((fieldsOf n).isSome → (∀ h, n ≠ .pol h) → polTarget n = false → traps (.pol f) 0x00C)))

/-- 02 R39 to R43, 05 R130: a pair whose rules hold reads all its sources before it writes either result; both results
and their flags are written, or, with a conversion in it, wait in the conversion queue. -/
def Sys2Proof.Claims.ShortPairs : Prop :=
  ∀ (s : State) (w : Warp) (p q : ShortOp), s.warp? s.cur = some w → w.bundle ≠ [] →
    checkPair p q (s.vregsOf w) = none → stalled s w (.shortPair p q) = false →
    let lp := sopLanes w p w.bundle
    let lq := sopLanes w q w.bundle
    lp ≠ [] ∨ lq ≠ [] →
    let outs := sopOuts w p lp ++ sopOuts w q lq
    let fl := flagsOf lp false (sopOuts w p lp) ++ flagsOf lq false (sopOuts w q lq)
    fpTrap w lp false (flagsOf lp false (sopOuts w p lp)) = none → fpTrap w lq false (flagsOf lq false (sopOuts w q lq)) = none →
    (sopClassX p.sop.toNat = false → sopClassX q.sop.toNat = false →
      exec (.shortPair p q) s = .next (ends w ((counted s w).withWarp w.key fun x =>
        (x.putAll (outs.flatMap (·.writes))).raiseFlags fl))) ∧
    (∀ x, (sopClassX p.sop.toNat = true ∧ x = p ∨ sopClassX p.sop.toNat = false ∧ sopClassX q.sop.toNat = true ∧ x = q) →
      canTrap w (sopLanes w x w.bundle) (sopRaises x.sop.toNat) = false →
      exec (.shortPair p q) s = .next (ends w ((counted s w).withWarp w.key fun y => { y with queue := y.queue ++ [
        { queue := 1, writes := outs.flatMap (·.writes), flags := fl, trapMask := 0, trapCause := 0, bank := none
          pc := (issOf w 7 w.bundle).pc, lanes := [] }] })))

/-- 02 R43: a floating trap of either operation of a pair leaves both without effect; the first operation's comes
first, and the second's has bit 2 of the record's PC set. -/
def Sys2Proof.Claims.ShortPairTraps : Prop :=
  ∀ (s : State) (w : Warp) (p q : ShortOp) (t : Trap), s.warp? s.cur = some w → w.bundle ≠ [] →
    checkPair p q (s.vregsOf w) = none → stalled s w (.shortPair p q) = false →
    sopClassX p.sop.toNat = false → sopClassX q.sop.toNat = false →
    let lp := sopLanes w p w.bundle
    let lq := sopLanes w q w.bundle
    let tp := fpTrap w lp false (flagsOf lp false (sopOuts w p lp))
    let tq := fpTrap w lq false (flagsOf lq false (sopOuts w q lq))
    (tp = some t → exec (.shortPair p q) s = .next (takeTrap s (issOf w 7 w.bundle) t)) ∧
    (tp = none → tq = some t → exec (.shortPair p q) s = .next (takeTrap s (issOf w 7 w.bundle) { t with half := true }))

/-- 07 R192, R193, R195, R200, 08 R216, 12 R327: an access with a lane that fails a check takes the fault of the lanes
that meet the worst reason, with the kind of access in its cause; a prefix's order that it does not accept is
ILLEGAL_MOD; a lane that waits for a copy-on-write break holds it, and asks its port for the break. It has no effect then. -/
def Sys2Proof.Claims.AccessStops : Prop :=
  ∀ (s : State) (w : Warp) (i : Instr) (f : Fields) (spad : Bool) (kind : Nat) (ords : List Nat) (pol size : Nat),
    accessRule i = some (f, spad, kind, ords, pol, size) → Issues s w i f → Whole w (allScalar f) →
    let j := issueOf w f
    let cs := checksAt s w f spad kind pol size
    (modsBad j ords = true → exec i s = .next (takeTrap s j { cause := 0x007, lanes := j.lanes })) ∧
    (modsBad j ords = false → ∀ r ls a l, worstChk cs = some (r, ls, a, l) →
      exec i s = .next (takeTrap s j {
        cause := 0x080 + 16 * kind + r, lanes := ls, addr := a, level := l
        pages := if r = 0 && l.isNone then some (missingPages s w.ctx cs) else none })) ∧
    (modsBad j ords = false → worstChk cs = none → cs.any (·.cow) = true → exec i s = .next ((held s w).noteCow w.ctx cs))

/-- 07 R196, 03 R75, 11 R298: a load that nothing stops counts in LD and is pending for each of its lanes, with where
its bytes lie and none of them read; nothing is written but the AGE of leaves that its translations fill from. -/
def Sys2Proof.Claims.Loads : Prop :=
  ∀ (s : State) (w : Warp) (f : Fields),
    let one (i : Instr) (spad : Bool) : Prop := (
      let cs := checksAt s w f spad 0 f.pol (sizeBytes f.ty)
      let m := modsAt w f spad f.pol
      Accesses s w i f cs [0, 1, 2] →
      ∃ t y ld, exec i s = .next t ∧ t.warp? w.key = some y ∧ y.ld = w.ld + 1 ∧ y.loads = w.loads ++ [ld] ∧
        ld.id = s.order.next ∧ ld.dst = f.d ∧ ld.size = sizeBytes f.ty ∧ ld.acq = (m.ord == 2) ∧ ld.scope = m.scope ∧
        ld.lanes = (cs.map fun c => { lane := c.lane, loc := c.loc, va := c.addr, space := ptrSpace c.addr, got := List.replicate (sizeBytes f.ty) none }) ∧
        t.mem = (fillLanes (counted s w) w cs).mem ∧ y.fifo = w.fifo ∧ y.st = w.st ∧ SameRegs w y)
    one (.ld f) false ∧ one (.lds f) true

/-- 12 R323, R330: a TLB fill writes one byte of memory at most, that of AGE in the leaf its walk found. -/
def Sys2Proof.Claims.FillFrame : Prop :=
  ∀ (s : State) (core ctx va a : Nat), s.mem.wf = true →
    memGet (s.fill core ctx va).mem a = memGet s.mem a ∨
    ∃ level at_ e, s.walk ctx va = .leaf level at_ e ∧ a = at_ + 1 ∧
      memGet (s.fill core ctx va).mem a = memGet s.mem a &&& 0xF8

/-- 07 R191, R199, 03 R75: a store that nothing stops counts in ST and puts its lanes' bytes into the FIFO, in lane
order: a byte to an event where it is plain, 32 bits to an event of b128, else one event. Memory stays as it is. -/
def Sys2Proof.Claims.Stores : Prop :=
  ∀ (s : State) (w : Warp) (f : Fields),
    let one (i : Instr) (spad : Bool) : Prop := (
      let cs := checksAt s w f spad 1 f.pol (sizeBytes f.ty)
      let m := modsAt w f spad f.pol
      Accesses s w i f cs [0, 1, 3] →
      ∃ t y es, exec i s = .next t ∧ t.warp? w.key = some y ∧ y.st = w.st + 1 ∧ y.nextOp = w.nextOp + 1 ∧
        y.fifo = w.fifo ++ es ∧ es.flatMap (·.cells) = (cs.flatMap fun c => cellsAt c.loc (storeBytes w f c.lane)) ∧
        (∀ e ∈ es, e.kind = .store ∧ e.op = w.nextOp ∧ e.release = (m.ord == 3 || m.ord == 4) ∧ e.scope = m.scope ∧
          ∃ c ∈ cs, e.lane = c.lane ∧ e.va = c.addr ∧ e.space = ptrSpace c.addr) ∧
        (sizeBytes f.ty = 16 → ∀ e ∈ es, e.cells.length = 4) ∧
        (sizeBytes f.ty ≠ 16 → m.ord = 0 → ∀ e ∈ es, e.cells.length = 1) ∧
        (sizeBytes f.ty ≠ 16 → m.ord ≠ 0 → es.length = cs.length) ∧
        t.mem = (fillLanes (counted s w) w cs).mem ∧ y.loads = w.loads ∧ y.ld = w.ld ∧ SameRegs w y)
    one (.st f) false ∧ one (.sts f) true

/-- 16 R454: `post` is a release store of device scope of its operand to the RESULT word of the region's control
block. -/
def Sys2Proof.Claims.Posts : Prop :=
  ∀ (s : State) (w : Warp) (f : Fields),
    let one (i : Instr) (ends_ : Bool) : Prop := (
      Issues s w i f → Whole w (allScalar f) →
      let j := issueOf w f
      let c := checkLane s w 1 j.low (BitVec.ofNat 64 (regionId w.region * 256 + 136)) 0 1 8
      c.why = none → c.cow = false →
      ∃ t y e, exec i s = .next t ∧ t.warp? w.key = some y ∧ y.st = w.st + 1 ∧ y.fifo = w.fifo ++ [e] ∧
        e.kind = .post ends_ ∧ e.release = true ∧ e.scope = 4 ∧ e.lane = j.low ∧
        e.cells = cellsAt c.loc (bytesOf 8 (if f.a = 0xF1 then f.im else readReg w f.a 0 true j.low)) ∧
        t.mem = (fillLanes (counted s w) w [c]).mem ∧ SameRegs w y)
    one (.post f) false ∧ one (.postEnd f) true

/-- 07 R201: `pf` only asks for the lines of its lanes; a lane that would fault is dropped. -/
def Sys2Proof.Claims.Prefetches : Prop :=
  ∀ (s : State) (w : Warp) (f : Fields), Issues s w (.pf f) f → Whole w (allScalar f) →
    let cs := lanesChk s w f false 0 f.pol 1 ((issueOf w f).lanesFor (allScalar f))
    ∃ t, exec (.pf f) s = .next t ∧ t.mem = s.mem ∧ t.order = s.order ∧ t.recs = s.recs ∧
      t.warps = (ends w (counted s w)).warps ∧
      ((∀ c ∈ cs, c.why ≠ none ∨ ptrSpace c.addr ≠ 0) → t.ports = s.ports)

/-- 07 R202, R203: `cwb` and `cwb.sync` whose lanes pass the checks put one entry behind every older store of the warp,
with the granules of 256 bytes they name, each once; `cwb.sync` holds the warp at it. -/
def Sys2Proof.Claims.WriteBackRequests : Prop :=
  ∀ (s : State) (w : Warp) (f : Fields),
    let one (i : Instr) (sync : Bool) : Prop := (
      Issues s w i f → Whole w (allScalar f) →
      let j := issueOf w f
      let cs := (j.lanesFor (allScalar f)).map (granuleChk s w f)
      (∀ c ∈ cs, c.why = none ∧ c.cow = false) →
      ∃ t y e, exec i s = .next t ∧ t.warp? w.key = some y ∧ y.fifo = w.fifo ++ [e] ∧ y.st = w.st + 1 ∧
        y.nextOp = w.nextOp + 1 ∧ e.kind = .cwb sync ∧ e.op = w.nextOp ∧ (e.cells.map (·.1)).Nodup ∧
        (∀ g, g ∈ e.cells.map (·.1) ↔ ∃ c ∈ cs, (ptrSpace c.addr = 0 ∨ ptrSpace c.addr = 8) ∧ g = c.addr.toNat / 256 * 256) ∧
        (sync = true → y.hold = .cwbSync w.nextOp w.bundle ∧ ∀ l, (y.thread l).pc = (w.thread l).pc) ∧
        t.mem = s.mem ∧ t.order.flight = s.order.flight ∧ SameRegs w y)
    one (.cwb f) false ∧ one (.cwbSync f) true

/-- 08 R210 to R212, 03 R76: an atomic that nothing stops puts one entry for each lane into the FIFO in lane order and
takes a scoreboard slot where it returns a value, else a count of ST. Memory stays as it is. -/
def Sys2Proof.Claims.AtomicRequests : Prop :=
  ∀ (s : State) (w : Warp) (i : Instr) (f : Fields) (op : Nat) (ords : List Nat), accessRule i = some (f, false, 2, ords, 0, atomBytes f.pol) →
    fieldsOf i = some (op, f) →
    let cs := checksAt s w f false 2 0 (atomBytes f.pol)
    let m := modsAt w f false 0
    let ret := op == 0x80 || op == 0x81 || op == 0x83 || op == 0x85
    Accesses s w i f cs ords →
    ∃ t y es, exec i s = .next t ∧ t.warp? w.key = some y ∧ y.fifo = w.fifo ++ es ∧ y.nextOp = w.nextOp + 1 ∧
      (if ret then y.sb = w.sb ++ [(w.nextOp, f.d, atomBytes f.pol == 8)] ∧ y.st = w.st else y.sb = w.sb ∧ y.st = w.st + 1) ∧
      es.map (fun e => (e.lane, e.va, e.cells)) = cs.map (fun c => (c.lane, c.addr, cellsAt c.loc (List.replicate (atomBytes f.pol) 0))) ∧
      (∀ e ∈ es, e.op = w.nextOp ∧ e.scope = m.scope ∧ e.release = (m.ord == 3 || m.ord == 4) ∧
        e.kind = .atomic f.pol (16 * op + f.ty) (readReg w f.c 0 (atomBytes f.pol == 8) e.lane)
          (if op = 0x81 then readReg w f.d 0 (atomBytes f.pol == 8) e.lane else 0) ret f.d (m.ord == 2 || m.ord == 4)) ∧
      t.mem = (fillLanes (counted s w) w cs).mem ∧ SameRegs w y

/-- 11 R298, R299: FORWARD gives a pending lane the bytes that the newest older entry of its warp's FIFO writes, but
none that an older atomic of the FIFO writes; a byte that it has stays. An acquire takes none of a write behind a release that still
waits for older reads of its thread (R301, R303). -/
def Sys2Proof.Claims.Forwards : Prop :=
  ∀ (s : State) (x : Warp) (id lane : Nat) (ld : Load) (l : LoadLane), s.warp? x.key = some x →
    x.loadLane? id lane = some (ld, l) → l.done = false → l.why = none → x.loadReady ld l = true → l.got.length = ld.size →
    (ld.acq = true → ∀ e ∈ x.fifo, openRelease s x e = false) →
    ∃ t y ld' l', exec (.forward x.key id lane) s = .next t ∧ t.warp? x.key = some y ∧ y.loadLane? id lane = some (ld', l') ∧
      t.mem = s.mem ∧ y.fifo.map (fun e => (e.wid, e.cells)) = x.fifo.map (fun e => (e.wid, e.cells)) ∧ SameRegs x y ∧
      l'.got.length = ld.size ∧ l'.done = false ∧
      ∀ k, k < ld.size → let at_ (e : FifoEnt) : Option Byte := e.writesAt s id (s.homeLoc (l.loc + k))
        l'.got.getD k none = match l.got.getD k none with
          | some b => some b
          | none => if x.fifo.any (fun e => e.kind.isAtomic && (at_ e).isSome) then none else (x.fifo.filterMap at_).getLast?

/-- 11 R298, 07 R196, R197: READ finishes a lane of a load: its remaining bytes come from its core's view, the destination
receives them, little-endian and extended, and with the last lane the load ends and LD drops. Memory stays. A lane that RESUME
reissued leaves the registers alone that a younger instruction has written. -/
def Sys2Proof.Claims.Reads : Prop :=
  ∀ (s : State) (x : Warp) (id lane : Nat) (ld : Load) (l : LoadLane), s.warp? x.key = some x →
    x.loadLane? id lane = some (ld, l) → l.done = false → readEnabled s x ld l = true → (∀ o ∈ ld.lanes, o.why = none) →
    (l.space = 8 → s.unreachable l.loc = false) →
    (l.space = 0 → ∀ k, k < ld.size → s.damaged (s.homeLoc (l.loc + k)) = false) →
    (∀ k, k < ld.size → s.softWords.contains (s.homeLoc (l.loc + k) / 4) = false) →
    let bytes := (List.range ld.size).map fun k =>
      (l.got.getD k none).getD (viewByte s.order s.mem x.core (s.homeLoc (l.loc + k)))
    let writes := (loadWrites ld.dst ld.signed lane bytes).filter fun r => !l.again || !x.overs.contains (id, r.ref)
    ∃ t y, exec (.read x.key id lane) s = .next t ∧ t.warp? x.key = some y ∧ t.mem = s.mem ∧ t.recs = s.recs ∧
      y.s = (x.putAll writes).s ∧ (∀ k, (y.thread k).v = ((x.putAll writes).thread k).v) ∧
      (ld.lanes = [l] → y.ld = x.ld - 1 ∧ ∀ o ∈ y.loads, o.id ≠ id)

/-- 11 R296, R298, R302, R309, 07 R191: DRAIN takes the head write of a FIFO to its home once its order allows: all its bytes
enter memory and the coherence order in one step, in the view of its core alone. A write through a window joins a fabric
port's queue, and nothing reaches memory. -/
def Sys2Proof.Claims.Drains : Prop :=
  ∀ (s : State) (x : Warp) (e : FifoEnt) (r : List FifoEnt), s.warp? x.key = some x → x.fifo = e :: r →
    (e.kind = .store ∨ ∃ b, e.kind = .post b) → mayLeave s x e = true → x.blocked.contains e.op = false →
    homeStatus s x e (opLocs s x e.op) false = .accepted →
    (e.space = 8 → ∃ t y p, exec (.drain x.key) s = .next t ∧ t.warp? x.key = some y ∧ y.fifo = r ∧ t.mem = s.mem ∧ SameRegs x y ∧
      (t.fport p).queue = (s.fport p).queue ++ [{ warp := x.key, core := x.core, ent := e }] ∧ ∀ q, q ≠ p → t.fport q = s.fport q) ∧
    (e.space ≠ 8 → (e.space = 0 → s.needsFill (s.blockOf x.ctx (ptrOff e.va) (((e.cells.map fun c => (s.homeLoc c.1, c.2)).headD (0, 0)).1)) = false) →
    ∃ t y, exec (.drain x.key) s = .next t ∧ t.warp? x.key = some y ∧ y.fifo = r ∧
      t.mem = memPutAll s.mem (e.cells.map fun c => (s.homeLoc c.1, c.2)) ∧
      ((∃ c ∈ e.cells, isGlobal (s.homeLoc c.1) = true) →
        ∃ w, t.order.flight = w :: s.order.flight ∧ w.wid = e.wid ∧ w.views = [x.core]) ∧ SameRegs x y)

/-- 11 R302, R299: what the order does not let leave a FIFO stays: nothing changes. -/
def Sys2Proof.Claims.DrainWaits : Prop :=
  ∀ (s : State) (x : Warp) (e : FifoEnt) (r : List FifoEnt), s.warp? x.key = some x → x.fifo = e :: r →
    ((∃ ld ∈ x.loads, ld.id < e.wid ∧ ∃ l ∈ ld.lanes, e.ofLane l.lane = true ∧ l.done = false) ∨
      (e.release = true ∧ ∃ wid ∈ e.covered, ∃ v ∈ scopeViews e.scope x.core, reachedViews s wid [v] = false)) →
    exec (.drain x.key) s = .next s ∧ exec (.homeRmw x.key) s = .next s

/-- 11 R297: PROPAGATE takes a write to one more view and changes no byte of memory. -/
def Sys2Proof.Claims.Propagates : Prop :=
  ∀ (s : State) (wid view : Nat), (s.order.flight.map (·.wid)).Nodup →
    ∃ t, exec (.propagate wid view) s = .next t ∧ t = { s with order := { s.order with flight := t.order.flight } } ∧
      (∀ w ∈ t.order.flight, w.wid = wid → view ∈ w.views) ∧
      (∀ w ∈ s.order.flight, w.wid ≠ wid → ∃ v ∈ t.order.flight, v.wid = w.wid ∧ v.views = w.views) ∧
      (∀ w ∈ s.order.flight, w.wid = wid → (∃ v, v < 326 ∧ v ∉ w.views ∧ v ≠ view) → ∃ v ∈ t.order.flight, v.wid = wid)

/-- 08 R210, R211, R213 to R216, 11 R298: HOME_RMW reads and writes the bytes of the head atomic in one step at their home;
the old value returns to the destination; a `cas` that fails writes nothing. The lanes of an instruction that name one location
perform together, in lane order, each on what the one before it left. -/
def Sys2Proof.Claims.Atomics : Prop :=
  ∀ (s : State) (x : Warp) (e : FifoEnt) (r : List FifoEnt) (ty op operand cmp a : Nat) (ret acq : Bool) (dst : BitVec 8),
    s.warp? x.key = some x → x.fifo = e :: r → (x.fifo.map (·.wid)).Nodup → e.kind = .atomic ty op operand cmp ret dst acq →
    e.cells = cellsAt a (List.replicate (atomBytes ty) 0) → (∀ q ∈ runOf x e, mayLeave s x q = true) → x.blocked.contains e.op = false →
    homeStatus s x e [] true = .accepted →
    ((∀ q ∈ runOf x e, q.kind.isAtomic = true) → ∃ t y, exec (.homeRmw x.key) s = .next t ∧ t.warp? x.key = some y ∧
      y.fifo.map (·.wid) = (x.fifo.filter fun q => !(q.op == e.op && q.cells == e.cells)).map (·.wid)) ∧
    (runOf x e = [e] →
    let n := atomBytes ty
    let old := natOfBytes ((List.range n).map fun k => memGet s.mem (s.homeLoc (a + k)))
    let sgn := ty == 1 || ty == 3
    let new := if op / 16 = 0x80 ∨ op / 16 = 0x82 then some (atomVal (op % 16) sgn (8 * n) old operand)
      else if op / 16 = 0x83 ∨ op / 16 = 0x84 then some (fatomVal (op % 16) ty old operand)
      else if op / 16 = 0x81 then (if old = cmp then some operand else none) else some operand
    ∃ t y, exec (.homeRmw x.key) s = .next t ∧ t.warp? x.key = some y ∧ y.fifo.map (fun q => (q.wid, q.cells)) = r.map (fun q => (q.wid, q.cells)) ∧
      t.mem = (match new with
        | some v => memPutAll s.mem ((cellsAt a (bytesOf n v)).map fun c => (s.homeLoc c.1, c.2))
        | none => s.mem) ∧
      (if ret then y.s = (x.putAll (destWrites dst (n == 8) e.lane old)).s ∧
          ∀ l, (y.thread l).v = ((x.putAll (destWrites dst (n == 8) e.lane old)).thread l).v
        else SameRegs x y)) ∧
    (e.space ≠ 0 → e.space ≠ 8 → (∀ q ∈ runOf x e, ∃ o c d, q.kind = .atomic ty op o c ret d acq) → op / 16 = 0x82 → s.mem.wf = true →
      s.paging.moves = [] → ∃ t, exec (.homeRmw x.key) s = .next t ∧ memNat t.mem a (atomBytes ty) = (runOf x e).foldl (fun v q => match q.kind with
        | .atomic _ _ o _ _ _ _ => atomVal (op % 16) (ty == 1 || ty == 3) (8 * atomBytes ty) v o % 2 ^ (8 * atomBytes ty)
        | _ => v) (memNat s.mem a (atomBytes ty)))

/-- 05 R109, R132, R134: QUEUE_OP_COMPLETE writes the results and flags of a warp's oldest operation in a queue, or
takes its trap, whose threads write nothing; a warp held at it goes on. -/
def Sys2Proof.Claims.QueueCompletions : Prop :=
  ∀ (s : State) (x : Warp) (q : Nat) (op : QueueOp) (rest : List QueueOp), s.warp? x.key = some x →
    takeFirst q x.queue = some (op, rest) →
    rest = x.queue.erase op ∧
    (op.trapMask = 0 → ∃ t y, exec (.queueOpComplete x.key q) s = .next t ∧ t.warp? x.key = some y ∧ y.queue = rest ∧
      t.mem = s.mem ∧ t.recs = s.recs ∧ y.s = (x.putAll op.writes).s ∧
      (∀ l, (y.thread l).v = ((x.putAll op.writes).thread l).v ∧
        (y.thread l).fpflags = (((x.putAll op.writes).raiseFlags op.flags).thread l).fpflags) ∧
      (op.lanes ≠ [] → y.hold = .free)) ∧
    (op.trapMask ≠ 0 → ∃ t y r, exec (.queueOpComplete x.key q) s = .next t ∧ t.warp? x.key = some y ∧ y.queue = rest ∧
      t.recs = s.recs ++ [r] ∧ y.stopped = x.stopped ++ [s.recCt] ∧ SameRegs x y)

/-- 08 R222, R534: a barrier update whose object passes its checks holds its warp until its bank has performed it; one
that names no object takes the fault of an atomic. -/
def Sys2Proof.Claims.BarrierIssues : Prop :=
  ∀ (s : State) (w : Warp) (f : Fields), Whole w (allScalar f) →
    let j := issueOf w f
    let n (l : Nat) : Nat := if f.b = 0xF0 then f.aux else readReg w f.b 0 false l
    let one (i : Instr) (op : BarOp) : Prop := (Issues s w i f →
    (∀ t, objChk j s f = .error t → exec i s = .next (takeTrap s j t)) ∧
    (∀ loc, objChk j s f = .ok loc →
      (op = .init 0 → exec i s = .next (takeTrap s j { cause := 0x065, lanes := j.lanes })) ∧
      (op ≠ .init 0 → exec i s = .next ((counted s w).withWarp w.key fun x =>
        { x with hold := .barrier w.bundle, barOps := [{ loc := loc, op := op, lanes := j.lanes }] }))))
    one (.binit f) (.init (n j.low % 65536)) ∧ one (.barrive f) (.arrive ((j.lanes.map fun l => n l % 65536).sum)) ∧
    one (.bexpect f) (.expect (n j.low) false) ∧ one (.bexpectArrive f) (.expect (n j.low) true)

/-- A barrier object whose phase ends where nothing is pending any more (08 R219). -/
def Sys2Proof.Claims.ended (c : BarObj) : BarObj :=
  if c.pend = 0 ∧ c.txb = 0 then { c with phase := (c.phase + 1) % 16, pend := c.expect, txa := false } else c

/-- 08 R218, R219, R223 to R225, R534: `binit`, `barrive`, `bexpect` and `bexpect.arrive` complete: the instruction goes to its bank, and
BARRIER_UPDATE performs it there, for a releasing form behind its gate; the object is as the rule has it and the bundle is behind the
instruction. -/
def Sys2Proof.Claims.BarrierCompletions : Prop :=
  ∀ (s : State) (w : Warp) (f : Fields) (loc : Nat), Whole w (allScalar f) → objChk (issueOf w f) s f = .ok loc → objReady w loc = true → s.mem.wf = true →
    (∀ l ∈ w.bundle, (w.thread l).st = .ready ∧ l < w.threads.length) →
    let j := issueOf w f
    let b := s.bar loc
    let n (l : Nat) : Nat := if f.b = 0xF0 then f.aux else readReg w f.b 0 false l
    let sum := (j.lanes.map fun l => n l % 65536).sum
    let open_ := w.busyLanes j.lanes = false ∧ gateOpen (counted s w) w.core 3 (w.coveredBy j.lanes) = true
    let completes (i : Instr) (c : BarObj) : Prop := ∃ t u y, exec i s = .next t ∧ exec (.barrierUpdate w.key) t = .next u ∧ u.bar loc = c ∧
      u.warp? w.key = some y ∧ y.hold = .free ∧ y.barOps = [] ∧ ∀ l ∈ w.bundle, (y.thread l).pc = nextPc (w.thread l).pc
    (Issues s w (.binit f) f → n j.low % 65536 ≠ 0 → completes (.binit f) { pend := n j.low % 65536, expect := n j.low % 65536, phase := 0, err := false, txa := false, txb := 0, ovr := 0, owner := coreLocal (locCore loc) % 32, mark := 0xB5 }) ∧
    (Issues s w (.barrive f) f → b.mark = 0xB5 → 0 < sum → sum ≤ b.pend → open_ →
      completes (.barrive f) (Sys2Proof.Claims.ended { b with pend := b.pend - sum })) ∧
    (Issues s w (.bexpect f) f → b.mark = 0xB5 → b.txb + n j.low < 2 ^ 24 →
      completes (.bexpect f) (Sys2Proof.Claims.ended { b with txb := b.txb + n j.low, txa := true })) ∧
    (Issues s w (.bexpectArrive f) f → b.mark = 0xB5 → b.txb + n j.low < 2 ^ 24 → 0 < b.pend → open_ →
      completes (.bexpectArrive f) (Sys2Proof.Claims.ended { b with txb := b.txb + n j.low, txa := true, pend := b.pend - 1 }))

/-- 08 R218, R219, R223 to R226: an arrival counts down PEND, an expectation counts up the bytes; at zero of both the
phase ends: PHASE goes up modulo 16, PEND is EXPECT again, and the threads that wait on the phase go on with p = 1.
`binit` makes a fresh object. -/
def Sys2Proof.Claims.BarrierUpdates : Prop :=
  ∀ (s : State) (x : Warp) (p : BarPend), AtBank s x p →
    let b := s.bar p.loc
    (∀ n, p.op = .init n → n < 65536 → ∃ t, exec (.barrierUpdate x.key) s = .next t ∧
      t.bar p.loc = { pend := n, expect := n, phase := 0, err := false, txa := false, txb := 0, ovr := 0, owner := coreLocal (locCore p.loc) % 32, mark := 0xB5 }) ∧
    (∀ n, p.op = .arrive n → b.mark = 0xB5 → 0 < n → n ≤ b.pend → ∃ t, exec (.barrierUpdate x.key) s = .next t ∧
      t.bar p.loc = Sys2Proof.Claims.ended { b with pend := b.pend - n } ∧
      (b.pend = n → b.txb = 0 → ∀ k y l o ph dl sp pr, k ≠ x.key → s.warp? k = some y → l < y.threads.length →
        (y.thread l).st = .waiting → (y.thread l).wait = .bwait o ph dl sp pr → o = p.loc → ph % 16 = b.phase →
        ∃ z, t.warp? k = some z ∧ (z.thread l).st = .ready ∧ (z.thread l).pc = nextPc (y.thread l).pc)) ∧
    (∀ m a, p.op = .expect m a → b.mark = 0xB5 → b.txb + m < 2 ^ 24 → (a = true → 0 < b.pend) → ∃ t, exec (.barrierUpdate x.key) s = .next t ∧
      t.bar p.loc = Sys2Proof.Claims.ended { b with txb := b.txb + m, txa := true, pend := b.pend - bitOf a })

/-- 08 R221, R224, R225: an update that the object cannot take is refused: ERR is set, OVR counts, and the instruction
takes 0x060; without the mark of an object it takes 0x062, and the object stays. -/
def Sys2Proof.Claims.BarrierRefusals : Prop :=
  ∀ (s : State) (x : Warp) (p : BarPend), AtBank s x p →
    let b := s.bar p.loc
    (∀ n, p.op = .arrive n ∨ (∃ a, p.op = .expect n a) → b.mark ≠ 0xB5 →
      ∃ t r, exec (.barrierUpdate x.key) s = .next t ∧ t.mem = s.mem ∧ t.recs = s.recs ++ [r] ∧ (inUndo x p.lanes = false → r.cause = 0x062)) ∧
    (b.mark = 0xB5 → (∃ n, p.op = .arrive n ∧ b.pend < n) ∨ (∃ m a, p.op = .expect m a ∧ (2 ^ 24 ≤ b.txb + m ∨ a = true ∧ b.pend = 0)) →
      ∃ t r, exec (.barrierUpdate x.key) s = .next t ∧ t.bar p.loc = { b with err := true, ovr := min (b.ovr + 1) 0xFFFF } ∧
        t.recs = s.recs ++ [r] ∧ (inUndo x p.lanes = false → r.cause = 0x060))

/-- 08 R226: a thread of `bwait` whose phase is the object's waits at it until the phase ends or its time is over, or,
with a time of 0, goes on with p = 0; one whose phase has ended goes on with p = 1; a phase too far behind faults. -/
def Sys2Proof.Claims.BarrierWaits : Prop :=
  ∀ (s : State) (w : Warp) (f : Fields) (loc : Nat), Issues s w (.bwait f) f →
    let j := issueOf w f
    let d (l : Nat) : Nat := ((s.bar loc).phase + 16 - readReg w f.b 0 false l % 16) % 16
    let time := min (readReg w f.c 0 false j.low) (2 ^ 20)
    let k := f.d.toNat - 0xC0
    objChk j s f = .ok loc → objReady w loc = true →
    ((s.bar loc).mark = 0xB5 → (∀ l ∈ j.lanes, d l < 8) → ∃ t y, exec (.bwait f) s = .next t ∧ t.warp? w.key = some y ∧ t.mem = s.mem ∧
      ∀ l ∈ j.lanes, l < w.threads.length →
        (d l = 0 → time ≠ 0 → (y.thread l).st = .waiting ∧ (y.thread l).pc = j.pc ∧
          (y.thread l).wait = .bwait loc (readReg w f.b 0 false l % 16) (s.cyclesOf w.core + time) time f.d) ∧
        (d l ≠ 0 ∨ time = 0 → (y.thread l).st = (w.thread l).st ∧ (y.thread l).pc = j.nxt ∧
          (k ≠ 7 → (y.thread l).pred k = decide (d l ≠ 0)))) ∧
    ((s.bar loc).mark ≠ 0xB5 → exec (.bwait f) s = .next (takeTrap s j { cause := 0x062, lanes := j.lanes })) ∧
    ((s.bar loc).mark = 0xB5 → (∃ l ∈ j.lanes, 8 ≤ d l) →
      exec (.bwait f) s = .next (takeTrap s j { cause := 0x061, lanes := j.lanes.filter fun l => decide (8 ≤ d l) }))

/-- 08 R226, R227: a wait of `bwait` whose cycles have passed goes on with p = 0; `btest` reads eight bytes of the object, and
its clearing form clears ERR and OVR. -/
def Sys2Proof.Claims.BarrierTests : Prop :=
  ∀ (s : State),
    (∀ (x : Warp) (lane o ph dl sp : Nat) (pr : BitVec 8), s.warp? x.key = some x → lane < x.threads.length →
      (x.thread lane).st = .waiting → (x.thread lane).wait = .bwait o ph dl sp pr → dl ≤ s.cyclesOf x.core →
      ∃ t y, exec (.bwaitTimeout x.key lane) s = .next t ∧ t.warp? x.key = some y ∧ (y.thread lane).st = .ready ∧
        (y.thread lane).pc = nextPc (x.thread lane).pc ∧ (pr.toNat - 0xC0 < 7 → (y.thread lane).pred (pr.toNat - 0xC0) = false)) ∧
    (∀ (w : Warp) (f : Fields) (loc : Nat), Issues s w (.btest f) f → Whole w (allScalar f) → objChk (issueOf w f) s f = .ok loc → objReady w loc = true →
      let j := issueOf w f
      let put (x : Warp) : Warp := x.putAll ((if isScal f.d then [j.low] else j.lanes).flatMap fun l =>
        destWrites f.d true l (memNat s.mem (if f.ty = 0 then loc else loc + 8) 8))
      (f.ty ≠ 2 → exec (.btest f) s = .next (ends w ((counted s w).withWarp w.key put))) ∧
      (f.ty = 2 → s.mem.wf = true → 0 < (s.bar loc).pend → ∃ t y, exec (.btest f) s = .next t ∧ t.warp? w.key = some y ∧
        t.bar loc = { s.bar loc with err := false, ovr := 0 } ∧ y.s = (put w).s ∧ ∀ l, (y.thread l).v = ((put w).thread l).v))

/-- 08 R229, the whole bundle together: threads of `nbar` count towards the number given, once the release of what they know has passed its gate; the last
releases the threads that wait there, which acquire what all released; others of `nbar.sync` wait where they are, those of `nbar.arrive` go on. -/
def Sys2Proof.Claims.NamedBarriers : Prop :=
  ∀ (s : State) (w : Warp) (f : Fields) (core k : Nat),
    let one (i : Instr) (sync : Bool) : Prop := (
      Issues s w i f → Whole w (allScalar f) →
      nbarOf s w (f.aux % 16) = some (core, k) →
      let j := issueOf w f
      let b := s.nbar core k
      let n := if f.a = 0xF0 then f.im else readReg w f.a 0 false j.low
      let bad := n = 0 ∨ 3072 < n ∨ (b.count = 0 ∧ n < j.lanes.length) ∨ (b.count ≠ 0 ∧ (n ≠ b.count ∨ b.count < b.arrived + j.lanes.length))
      (bad → exec i s = .next (takeTrap s j { cause := 0x064, lanes := j.lanes })) ∧
      (¬ bad → w.busyLanes j.lanes = true ∨ gateOpen (counted s w) w.core 2 (w.coveredBy j.lanes) = false → exec i s = .next (held s w)) ∧
      (¬ bad → w.busyLanes j.lanes = false → gateOpen (counted s w) w.core 2 (w.coveredBy j.lanes) = true → ∃ t, exec i s = .next t ∧ t.mem = s.mem ∧
        (b.arrived + j.lanes.length ≠ n → t.nbar core k = { b with
            count := n, arrived := b.arrived + j.lanes.length, covered := union b.covered (w.coveredBy j.lanes) } ∧
          (sync = true → ∃ y, t.warp? w.key = some y ∧ ∀ l ∈ j.lanes, l < w.threads.length →
            (y.thread l).st = .waiting ∧ (y.thread l).wait = .nbar k b.phase ∧ (y.thread l).pc = j.pc)) ∧
        (sync = false ∨ b.arrived + j.lanes.length = n → (∀ l ∈ w.bundle, (w.thread l).st = .ready ∧ l < w.threads.length) →
          ∃ y, t.warp? w.key = some y ∧ ∀ l ∈ j.lanes, (y.thread l).st = .ready ∧ (y.thread l).pc = j.nxt) ∧
        (b.arrived + j.lanes.length = n → t.nbar core k = { phase := !b.phase } ∧
          ∀ q y l ph, q ≠ w.key → s.warp? q = some y → y.core = core → y.block = w.block → l < y.threads.length →
            (y.thread l).st = .waiting → (y.thread l).wait = .nbar k ph →
            ∃ z, t.warp? q = some z ∧ (z.thread l).st = .ready ∧ (z.thread l).pc = nextPc (y.thread l).pc)))
    one (.nbarSync f) true ∧ one (.nbarArrive f) false

/-- 08 R231, R232: `qinit` with a legal shape gives the queue a fresh descriptor: empty, valid, with its ring and its
allowance; an illegal one is 0x06A, a selector that names no queue of the block 0x068. -/
def Sys2Proof.Claims.QueueInits : Prop :=
  ∀ (s : State) (w : Warp) (f : Fields), Issues s w (.qinit f) f → Whole w (allScalar f) →
    let j := issueOf w f
    let logn := f.im % 16
    let allow := bitsOf f.im 16 9
    let base := readReg w f.a 0 false j.low
    let bad := 8 < logn ∨ 2 ^ logn < allow ∨ base % 4 ≠ 0 ∨ ((s.block? w.block).map (·.spad)).getD 0 < base + 4 * 2 ^ logn
    (queueOf s w f.aux = none → exec (.qinit f) s = .next (takeTrap s j { cause := 0x068, lanes := j.lanes })) ∧
    (∀ c k a, queueOf s w f.aux = some (c, k, a) →
      (bad → exec (.qinit f) s = .next (takeTrap s j { cause := 0x06A, lanes := j.lanes })) ∧
      (¬ bad → ∃ t, exec (.qinit f) s = .next t ∧ t.mem = s.mem ∧ t.queue c k = {
        base := BitVec.ofNat 32 base, logn := logn, valid := true, allow := allow, head := 0, tail := 0, covs := [] }))

/-- 08 R233: a push or pop that its queue can take takes place as it issues, whatever waits: the values
go to the slots behind TAIL, or come from those at HEAD, in lane order, and TAIL or HEAD moves. -/
def Sys2Proof.Claims.QueueSteps : Prop :=
  ∀ (s : State) (w : Warp) (f : Fields) (c k : Nat) (a : Allot), queueOf s w f.aux = some (c, k, a) →
    let j := issueOf w f
    let q := s.queue c k
    q.valid = true → s.mem.wf = true →
    (Issues s w (.qpush f) f → Whole w (!isVec f.a) → w.busyLanes j.lanes = false → gateOpen (counted s w) w.core 3 (w.coveredBy j.lanes) = true →
      let one (l : Nat) : Nat := (if f.a = 0xF1 then f.im else readReg w f.a 0 false l)
      let vals := if isVec f.a then j.lanes.map one else [one j.low]
      vals.length ≤ 2 ^ q.logn → vals.length ≤ q.allow →
      ∃ t, exec (.qpush f) s = .next t ∧ (t.queue c k).tail = q.tail + BitVec.ofNat 16 vals.length ∧
        (t.queue c k).head = q.head ∧ (t.queue c k).allow = q.allow - vals.length ∧ t.qwaits = s.qwaits ∧
        ∀ n, n < vals.length → memNat t.mem (q.slot c a.sBase (q.tail.toNat + n)) 4 = vals.getD n 0 % 2 ^ 32) ∧
    (Issues s w (.qpop f) f → Whole w (isScal f.d) →
      let ls := if isScal f.d then [j.low] else j.lanes
      ls.length ≤ 2 ^ q.logn → ls.length ≤ q.held →
      ∃ t y, exec (.qpop f) s = .next t ∧ t.warp? w.key = some y ∧ t.mem = s.mem ∧
        (t.queue c k).head = q.head + BitVec.ofNat 16 ls.length ∧ (t.queue c k).tail = q.tail ∧
        (t.queue c k).allow = q.allow + ls.length ∧ t.qwaits = s.qwaits ∧
        let put := w.putAll (((List.range ls.length).map fun n =>
          destWrites f.d false (ls.getD n 0) (memNat s.mem (q.slot c a.sBase (q.head.toNat + n)) 4)).flatten)
        y.s = put.s ∧ ∀ l, (y.thread l).v = (put.thread l).v)

/-- 08 R233: where the queue cannot take it, the threads wait at their instruction, after what waits already; its
timed form with a time of 0 goes on with p = 0. -/
def Sys2Proof.Claims.QueueWaits : Prop :=
  ∀ (s : State) (w : Warp) (i : Instr) (f : Fields) (push : Bool) (c k : Nat) (a : Allot), queueOf s w f.aux = some (c, k, a) →
    (i = .qpush f ∧ push = true ∧ Whole w (!isVec f.a) ∨ i = .qpop f ∧ push = false ∧ Whole w (isScal f.d)) → Issues s w i f →
    let j := issueOf w f
    let q := s.queue c k
    let n := if push then (if isVec f.a then j.lanes.length else 1) else if isScal f.d then 1 else j.lanes.length
    let time := min (readReg w f.c 0 false j.low) (2 ^ 20)
    q.valid = true → n ≤ 2 ^ q.logn → (push = true → w.busyLanes j.lanes = false ∧ gateOpen (counted s w) w.core 3 (w.coveredBy j.lanes) = true) →
    q.ready push n = false →
    ∃ t y, exec i s = .next t ∧ t.warp? w.key = some y ∧ t.mem = s.mem ∧ t.queue c k = q ∧
      (f.ty = 1 ∧ time = 0 → t.qwaits = s.qwaits ∧ ∀ l ∈ j.lanes, l < w.threads.length → (y.thread l).pc = j.nxt ∧
        (f.b.toNat - 0xC0 < 7 → (y.thread l).pred (f.b.toNat - 0xC0) = false)) ∧
      (¬ (f.ty = 1 ∧ time = 0) → (∃ x, t.qwaits = s.qwaits ++ [x] ∧ x.owner = c ∧ x.id = k ∧ x.warp = w.key ∧ x.lanes = j.lanes ∧
          x.push = push ∧ (f.ty = 1 → x.deadline = some (s.cyclesOf w.core + time))) ∧
        ∀ l ∈ j.lanes, l < w.threads.length → (y.thread l).st = .waiting ∧ (y.thread l).pc = j.pc)

/-- 08 R233: QUEUE_STEP takes the first waiting push that its queue can take, else the first such pop; a timed wait whose cycles
had passed before ends there without its step, as QUEUE_TIMEOUT ends one whose cycles have passed; the threads go on. -/
def Sys2Proof.Claims.QueueReleases : Prop :=
  ∀ (s : State) (x : QWait) (w : Warp), s.warp? x.warp = some w → x ∈ s.qwaits →
    let woken (t : State) : Prop := (∀ y ∈ t.qwaits, ¬ (y.warp = x.warp ∧ y.lanes = x.lanes)) ∧
      ∃ y, t.warp? x.warp = some y ∧ ∀ l ∈ x.lanes, l < w.threads.length → x.lanes.count l = 1 →
        (y.thread l).st = .ready ∧ (y.thread l).pc = nextPc (w.thread l).pc
    (((s.qwaits.filter fun y => y.owner == x.owner && y.id == x.id).find? fun y => y.push == x.push && (s.queue x.owner x.id).ready x.push y.count) =
        some x → (∀ y ∈ s.qwaits, s.late y = false) →
      (x.push = false → ∀ y ∈ s.qwaits, y.owner = x.owner → y.id = x.id → y.push = true → (s.queue x.owner x.id).ready true y.count = false) →
      ∃ t, exec (.queueStep x.owner x.id) s = .next t ∧ woken t ∧
        (x.push = true → (t.queue x.owner x.id).tail = (s.queue x.owner x.id).tail + BitVec.ofNat 16 x.vals.length) ∧
        (x.push = false → (t.queue x.owner x.id).head = (s.queue x.owner x.id).head + BitVec.ofNat 16 x.count)) ∧
    ((s.qwaits.filter fun y => y.owner == x.owner && y.id == x.id).find? s.late = some x → ∃ t, exec (.queueStep x.owner x.id) s = .next t ∧ woken t ∧
      t.mem = s.mem ∧ t.queue x.owner x.id = s.queue x.owner x.id) ∧
    (∀ l d, (s.qwaits.find? fun y => y.warp == x.warp && y.lanes.contains l) = some x → x.deadline = some d →
      d ≤ s.cyclesOf w.core → ∃ t, exec (.queueTimeout x.warp l) s = .next t ∧ woken t ∧ t.mem = s.mem ∧
        t.queue x.owner x.id = s.queue x.owner x.id)

/-- 08 R235, R236: SWAP exchanges the shadow banks of a block once every live thread of it waits in `xswap`, its writes
to the banks have been accepted, and its gates are open; all go on. -/
def Sys2Proof.Claims.Swaps : Prop :=
  ∀ (s : State) (b : Block), s.block? b.id = some b → swapReady s b.id = true →
    ∃ t, exec (.swap b.id) s = .next t ∧ t.mem = s.mem ∧
      (∀ k y l, s.warp? k = some y → y.block = b.id → l ∈ y.live → l < y.threads.length →
        ∃ z, t.warp? k = some z ∧ (z.thread l).st = .ready ∧ (z.thread l).pc = nextPc (y.thread l).pc) ∧
      ((b.allots.map (·.core)).Nodup → ∀ c, coreIsL c = false → (t.core c).readable =
        if b.shadow ∧ c ∈ b.allots.map (·.core) then 1 - (s.core c).readable else (s.core c).readable)

/-- 09 R242 to R245, R266: `tdef` with legal words that lie in their buffer takes the lowest free entry of the block's
table: EMPTY, with those words, and D is its handle, generation and number; without a free entry it is 0x06B, or p = 0. -/
def Sys2Proof.Claims.TileDefinitions : Prop :=
  ∀ (s : State) (w : Warp) (f : Fields) (core : Nat) (b : Block) (a : Allot), Issues s w (.tdef f) f → Whole w (allScalar f) →
    tileHome s w = some (core, b, a) →
    let j := issueOf w f
    let w0 := readReg w f.a 0 true j.low
    let w1 := readReg w f.b 0 true j.low
    let t : Tile := { w0 := BitVec.ofNat 64 w0, w1 := BitVec.ofNat 64 w1 }
    let pred (v : Nat) : List RegWrite := if f.ty = 1 then j.lanes.flatMap fun l => destWrites f.c false l v else []
    let free (n : Nat) : Bool := !(s.tile core (a.tBase + n)).inUse
    (descBad w0 w1 = true → exec (.tdef f) s = .next (takeTrap s j { cause := 0x06F, lanes := j.lanes })) ∧
    (descBad w0 w1 = false → (bufRange b a t.buf).2.2 < t.off + t.bytes →
      exec (.tdef f) s = .next (takeTrap s j { cause := 0x06D, lanes := j.lanes })) ∧
    (descBad w0 w1 = false → t.off + t.bytes ≤ (bufRange b a t.buf).2.2 →
      (∀ n, n < b.tiles → free n = true → (∀ m, m < n → free m = false) →
        let g := (s.tile core (a.tBase + n)).gen
        exec (.tdef f) s = .next (ends w (((counted s w).setTile core (a.tBase + n) { t with inUse := true, gen := g, state := .empty, users := 0, relPending := false }).withWarp
          w.key fun x => x.putAll (destWrites f.d true j.low (g * 256 + (a.tBase + n)) ++ pred 1)))) ∧
      ((∀ n, n < b.tiles → free n = false) → (f.ty = 0 → exec (.tdef f) s = .next (takeTrap s j { cause := 0x06B, lanes := j.lanes })) ∧
        (f.ty = 1 → exec (.tdef f) s = .next (ends w ((counted s w).withWarp w.key fun x =>
          x.putAll (destWrites f.d true j.low 0 ++ pred 0))))))

/-- 09 R242, R245, R267, R268: `tstat` reads word 0 with the state in bits 11 to 8 and bit 12 set, or word 1; 0 where the
handle is not current. `trel` frees the entry, whose generation goes up, or leaves that to its last user; a handle that
is not current is 0x06C. -/
def Sys2Proof.Claims.TileQueries : Prop :=
  ∀ (s : State) (w : Warp) (f : Fields) (core : Nat) (b : Block) (a : Allot), tileHome s w = some (core, b, a) →
    let j := issueOf w f
    let h := readReg w f.a 0 false j.low % 65536
    (Issues s w (.tstat f) f → Whole w (allScalar f) →
      let v := match s.current core b a h with
        | none => 0
        | some k => if f.ty = 1 then (s.tile core k).w1.toNat else (s.tile core k).w0.toNat + (s.tile core k).state.code * 2 ^ 8 + 2 ^ 12
      exec (.tstat f) s = .next (ends w ((counted s w).withWarp w.key fun x =>
        x.putAll ((if isScal f.d then [j.low] else j.lanes).flatMap fun l => destWrites f.d true l v)))) ∧
    (Issues s w (.trel f) f → Whole w (allScalar f) →
      (s.current core b a h = none → exec (.trel f) s = .next (takeTrap s j { cause := 0x06C, lanes := j.lanes })) ∧
      (∀ k, s.current core b a h = some k → ∃ t, exec (.trel f) s = .next t ∧ t.mem = s.mem ∧ t.tile core k =
        (if (s.tile core k).users = 0 then { gen := (s.tile core k).gen % 255 + 1 }
         else { s.tile core k with relPending := true, state := .draining })))

/-- 09 R240, R246, R269: `tld` and `tstr` of a READY tile, whose words lie in it, count in TM and use the tile until
TILE_OP_COMPLETE; a word beyond it is 0x06D; a tile that is not READY holds the warp; a block placed on an L-core has no
tiles, which is 0x06E. -/
def Sys2Proof.Claims.TileAccesses : Prop :=
  ∀ (s : State) (w : Warp) (f : Fields),
    let one (i : Instr) (store : Bool) : Prop := (
      Issues s w i f → Whole w (allScalar f) →
      let j := issueOf w f
      let n := if f.ty = 3 then 8 else 4
      let ls := j.lanesFor (allScalar f)
      let word (l : Nat) : Nat := (readReg w f.b 0 false l + f.im) % 2 ^ 32
      (tileHome s w = none → exec i s = .next (takeTrap s j { cause := 0x06E, lanes := j.lanes })) ∧
      (∀ core b a k, tileHome s w = some (core, b, a) → s.current core b a (readReg w f.a 0 false j.low % 65536) = some k →
        let t := s.tile core k
        (t.state ≠ .ready → exec i s = .next (held s w)) ∧
        (t.state = .ready → (∃ l ∈ ls, t.bytes / 4 < word l + n / 4 ∨ n = 8 ∧ word l % 2 = 1) →
          exec i s = .next (takeTrap s j { cause := 0x06D, lanes := j.lanes })) ∧
        (t.state = .ready → (∀ l ∈ ls, word l + n / 4 ≤ t.bytes / 4 ∧ (n = 8 → word l % 2 = 0)) →
          ∃ u y op, exec i s = .next u ∧ u.warp? w.key = some y ∧ u.mem = s.mem ∧ y.tm = w.tm + 1 ∧ y.tileOps = w.tileOps ++ [op] ∧
            op.tile = k ∧ op.core = core ∧ op.store = store ∧ (u.tile core k).users = t.users + 1 ∧
            op.writes = (if store then [] else ls.map fun l => (l, f.d, t.loc core b a + 4 * word l, n)) ∧
            op.data = (if store then ls.flatMap fun l => cellsAt (t.loc core b a + 4 * word l) (bytesOf n (readReg w f.c 0 (n == 8) l)) else []) ∧
            SameRegs w y)))
    one (.tld f) false ∧ one (.tstr f) true

/-- 09 R245, R246, R269: TILE_OP_COMPLETE finishes a warp's oldest tile access: its registers receive the tile's words,
or its words enter the tile, TM drops, and the tile has one user less. -/
def Sys2Proof.Claims.TileCompletions : Prop :=
  ∀ (s : State) (x : Warp) (op : TileOp) (r : List TileOp), s.warp? x.key = some x → x.tileOps = op :: r →
    ∃ t y, exec (.tileOpComplete x.key) s = .next t ∧ t.warp? x.key = some y ∧ y.tileOps = r ∧ y.tm = x.tm - 1 ∧
      t.mem = (if op.store then memPutAll s.mem op.data else s.mem) ∧
      (let put := x.putAll (op.writes.flatMap fun p => destWrites p.2.1 (p.2.2.2 == 8) p.1 (memNat s.mem p.2.2.1 p.2.2.2))
       y.s = put.s ∧ ∀ l, (y.thread l).v = (put.thread l).v) ∧
      t.tile op.core op.tile = (let e := s.tile op.core op.tile
        if e.users ≤ 1 ∧ e.relPending then { gen := e.gen % 255 + 1 } else { e with users := e.users - 1 })

/-- 05 R137, R164: `atab` checks its table's place and holds the warp; BANK_FLIP copies the table into the bank that is
not current and makes it current, once no `act` bound to it is in flight; a table that is not valid faults, as does one for an
L-core, which has no banks. -/
def Sys2Proof.Claims.ActivationTables : Prop :=
  ∀ (s : State) (w : Warp),
    (∀ (f : Fields) (b : Block), Issues s w (.atab f) f → Whole w (allScalar f) → s.block? w.block = some b →
      let j := issueOf w f
      let c := s.core w.homeCore
      let o := (readReg w f.a 0 false j.low + f.im) % 2 ^ 32
      (o % 16 ≠ 0 → exec (.atab f) s = .next (takeTrap s j { cause := 0x087, lanes := j.lanes, addr := BitVec.ofNat 64 (2 ^ 60 + o) })) ∧
      (o % 16 = 0 → b.spad < o + 3088 →
        exec (.atab f) s = .next (takeTrap s j { cause := 0x086, lanes := j.lanes, addr := BitVec.ofNat 64 (2 ^ 60 + o) })) ∧
      (o % 16 = 0 → o + 3088 ≤ b.spad → coreIsL w.homeCore = true → exec (.atab f) s = .next (takeTrap s j { cause := 0x045, lanes := j.lanes })) ∧
      (o % 16 = 0 → o + 3088 ≤ b.spad → coreIsL w.homeCore = false → c.atab ≠ none → exec (.atab f) s = .next (held s w)) ∧
      (o % 16 = 0 → o + 3088 ≤ b.spad → coreIsL w.homeCore = false → c.atab = none → ∃ t y, exec (.atab f) s = .next t ∧ t.warp? w.key = some y ∧
        y.hold = .atab w.bundle ∧
        (t.core w.homeCore).atab = some (w.key, locChip 1 w.homeCore (((b.allotOn w.homeCore).map (·.sBase)).getD 0 + o), j.lanes) ∧
        (t.core w.homeCore).actCur = c.actCur)) ∧
    (∀ (core loc : Nat) (lanes : List Nat) (t : List Byte), (s.core core).atab = some (w.key, loc, lanes) → s.warp? w.key = some w →
      let c := s.core core
      let x := if c.actCur then 0 else 1
      actBusy s core x = false → threadBytes s w loc 3088 = some t →
      (actValid t = true → ∃ u y, exec (.bankFlip core) s = .next u ∧ (u.core core).actCur = !c.actCur ∧
        (u.core core).actBank = { valid := true, bytes := t } ∧ (u.core core).atab = none ∧ u.warp? w.key = some y ∧ y.hold = .free) ∧
      (actValid t = false → ∃ u y, exec (.bankFlip core) s = .next u ∧ (u.core core).actCur = c.actCur ∧
        u.warp? w.key = some y ∧ y.stopped = w.stopped ++ [s.recCt]))

/-- 09 R252, R265: `kick` of records that lie in the block's scratchpad counts in CP and waits for its gate, with the
warp's covered writes to on-chip spaces that have not left their FIFO; another space is 5, a count out of range 0x111, a place
outside 6, a misaligned one 7, in this order. It waits while older loads of its lanes are pending (R253, R301) and while 32
kicks have records that have not started. -/
def Sys2Proof.Claims.Kicks : Prop :=
  ∀ (s : State) (w : Warp) (f : Fields) (core : Nat) (b : Block) (a : Allot) (r : Option Nat) (p : W64), Issues s w (.kick f) f →
    Whole w (allScalar f) → tileHome s w = some (core, b, a) →
    let j := issueOf w f
    let n := if f.b = 0xF0 then f.aux else readReg w f.b 0 false j.low
    let c := s.core core
    let full := 32 ≤ (c.kicks.filter c.kickPending).length
    effective (BitVec.ofNat 64 (readReg w f.a 0 true j.low)) (signedOf 32 f.im) 0 = (r, p) →
    (ptrSpace p ≠ 1 → exec (.kick f) s = .next (takeTrap s j { cause := 0x0C5, lanes := j.lanes, addr := p })) ∧
    (ptrSpace p = 1 → n = 0 ∨ 256 < n → exec (.kick f) s = .next (takeTrap s j { cause := 0x111, lanes := j.lanes })) ∧
    (ptrSpace p = 1 → 1 ≤ n → n ≤ 256 → r ≠ none ∨ b.spad < ptrOff p + 64 * n →
      exec (.kick f) s = .next (takeTrap s j { cause := 0x0C6, lanes := j.lanes, addr := p })) ∧
    (ptrSpace p = 1 → 1 ≤ n → n ≤ 256 → r = none → ptrOff p + 64 * n ≤ b.spad → ptrOff p % 64 ≠ 0 →
      exec (.kick f) s = .next (takeTrap s j { cause := 0x0C7, lanes := j.lanes, addr := p })) ∧
    (ptrSpace p = 1 → 1 ≤ n → n ≤ 256 → r = none → ptrOff p + 64 * n ≤ b.spad → ptrOff p % 64 = 0 →
      w.busyLanes j.lanes = true ∨ full → exec (.kick f) s = .next (held s w)) ∧
    (ptrSpace p = 1 → 1 ≤ n → n ≤ 256 → r = none → ptrOff p + 64 * n ≤ b.spad → ptrOff p % 64 = 0 →
      w.busyLanes j.lanes = false → ¬ full → ∃ t y k, exec (.kick f) s = .next t ∧ t.warp? w.key = some y ∧ y.cp = w.cp + 1 ∧ (t.core core).kicks = c.kicks ++ [k] ∧
        k.warp = w.key ∧ k.block = b.id ∧ k.off = ptrOff p ∧ k.n = n ∧ k.left = n ∧ k.gated = false ∧
        (∀ wid ∈ k.gate, wid ∈ w.coveredBy j.lanes) ∧ t.mem = s.mem ∧ SameRegs w y)

/-- 09 R252, R253: KICK_GATE lets the first kick through once the writes it covers have reached their homes: its records
come, in order, behind those of the core. -/
def Sys2Proof.Claims.KickGates : Prop :=
  ∀ (s : State) (core : Nat) (k : Kick), (s.core core).kicks.find? (fun k => !k.gated) = some k →
    (∀ wid ∈ k.gate, inFifo s wid = false ∧ atHome s wid = true) →
    ∃ t rs, exec (.kickGate core) s = .next t ∧ t.mem = s.mem ∧ t.warps = s.warps ∧ (t.core core).recs = (s.core core).recs ++ rs ∧
      rs.map (fun r => (r.kick, r.head, r.place, r.off, r.st)) = (List.range k.n).map (fun j => (k.id, j, 1, k.off + 64 * j, RecSt.new)) ∧
      ∀ x ∈ (t.core core).kicks, x.id = k.id → x.gated = true

/-- 09 R254 to R258: COPY_RECORD_START reads the record's 64 bytes; a record that breaks R249 or R250 is refused with
0x110, one past the 65,536th of its chain with 0x114 unless a resolution has let it go on; one whose tiles are ready runs, its destination tile FILLING, its
source tile and its table tile DRAINING; one that a pre-emption stopped goes on. -/
def Sys2Proof.Claims.CopyStarts : Prop :=
  ∀ (s : State) (core : Nat) (r : CopyRec) (k : Kick) (b : Block) (a : Allot), nextRec s core = some r →
    (s.core core).rec? r.id = some r → copyHome s core r = some (k, b, a) →
    let read := (List.range 8).map fun j => BitVec.ofNat 64 (memNat s.mem (locChip 1 core (a.sBase + r.off + 8 * j)) 8)
    let q := if r.words.isEmpty then { r with words := read } else r
    k.tag.undo = false →
    let refused (c : Nat) : Prop := ∃ t x y, exec (.copyRecordStart core) s = .next t ∧ (t.core core).rec? r.id = some x ∧
      x.st = .refused ∧ t.recs = s.recs ++ [y] ∧ y.cause = c ∧ y.ctx = k.tag.ctx
    (r.st = .restored → exec (.copyRecordStart core) s = .next (s.setCopy core { q with st := .running })) ∧
    let far := 65536 < r.place ∧ r.passed = false
    (r.st ≠ .restored → (far → refused 0x114) ∧ (¬ far → q.bad b.spad = true → refused 0x110) ∧
    (¬ far → q.bad b.spad = false → ∀ c, tilesAt s core b a q = .bad c → c < 512 → refused c) ∧
    (¬ far → q.bad b.spad = false → tilesAt s core b a q = .ok → ∃ t x, exec (.copyRecordStart core) s = .next t ∧
      (t.core core).rec? r.id = some x ∧ x.st = .running ∧ x.words = q.words ∧ t.mem = s.mem ∧ t.recs = s.recs ∧
      (q.expands = false → q.dstKind = 2 → (s.tile core (q.tile % 256)).relPending = false → (t.tile core (q.tile % 256)).state = .filling) ∧
      (q.expands = false → q.srcKind = 2 → (t.tile core (q.tile % 256)).state = .draining) ∧
      (q.expands = true → (t.tile core (q.ttab % 256)).state = .draining)))

/-- 09 R258, R308: ENGINE_READ of a copy piece keeps the converted bytes of its source, read at their homes, once the blocks
that hold them are in their caches; ENGINE_WRITE writes some of a piece's bytes, any of those that are left, and the piece is
written when all are. Neither moves a byte it does not name. -/
def Sys2Proof.Claims.CopyPieces : Prop :=
  ∀ (s : State) (core i n : Nat) (r : CopyRec) (p : Piece) (k : Kick) (b : Block) (a : Allot) (w : Warp),
    (s.core core).rec? i = some r → r.pieces[n]? = some p → copyHome s core r = some (k, b, a) → s.warp? k.warp = some w →
    r.st = .running → p.missing = false → p.failed = false → p.written = false →
    (∀ ds, r.stopped = false → p.data = none →
      let us := p.units.map fun n => (n, sideBytes s w core b a r false n)
      let cs := us.flatMap fun u => u.2.flatten
      let h := (fillLanes s { w with core := core } cs).holdSide w.ctx cs
      readSide s w.ctx cs = .ok →
      (us.mapM fun u => convUnit h core b a k r u.1 (u.2.map fun run => run.map fun c => memGet h.mem (h.homeLoc c.loc))) = some ds →
      ∃ t x, exec (.engineRead core 0 i n) s = .next t ∧ t.mem = h.mem ∧ (t.core core).rec? i = some x ∧
        x.pieces[n]? = some { p with data := some ds.flatten } ∧ ((∀ c ∈ cs, ptrSpace c.addr ≠ 0) → t.mem = s.mem)) ∧
    (∀ bs, p.data = some bs →
      let cs := (p.units.flatMap fun n => sideBytes s w core b a r true n).flatten
      let now := putNow s w.ctx cs p.put
      writeSide s w.ctx cs = .ok → (∀ c ∈ cs, ptrSpace c.addr ≠ 0) →
      ∃ t x q, exec (.engineWrite core 0 i n) s = .next t ∧ (t.core core).rec? i = some x ∧ x.pieces[n]? = some q ∧
        q.put = union p.put now ∧ q.wids.length = p.wids.length + now.length ∧
        (q.written = true ↔ ∀ m, m < cs.length → m ∈ p.put ∨ m ∈ now) ∧ (q.written = false → q.data = some bs) ∧
        t.mem = memPutAll s.mem (now.filterMap fun m => (cs[m]?).map fun c => (s.homeLoc c.loc, bs.getD m 0)))

/-- 09 R259, R260, 08 R219: BYTE_ARRIVE counts a written piece whose bytes have reached the cluster: the record's barrier
object expects so many bytes less; a piece that is not the last of its chunk changes nothing else of memory. -/
def Sys2Proof.Claims.ByteArrivals : Prop :=
  ∀ (s : State) (core i n : Nat) (r : CopyRec) (p : Piece) (k : Kick) (b : Block) (a : Allot),
    (s.core core).rec? i = some r → r.pieces[n]? = some p → copyHome s core r = some (k, b, a) → r.st = .running →
    p.written = true → p.counted = false → gateOpen s core 3 p.wids = true → (r.setPiece n { p with counted := true }).pieces.all (·.counted) = false →
    ∃ t x, exec (.byteArrive core i n) s = .next t ∧ (t.core core).rec? i = some x ∧ x.counted = r.counted + p.bytes ∧
      x.pieces[n]? = some { p with counted := true } ∧ (r.nocount = true → t.mem = s.mem) ∧
      (let loc := locChip 1 core (a.sBase + r.barOff)
       let o := s.bar loc
       r.nocount = false → s.mem.wf = true → o.txa = true → p.bytes ≤ o.txb → 0 < o.pend →
        t.bar loc = { o with txb := o.txb - p.bytes } ∧
        ∀ x, x < loc ∨ loc + 12 ≤ x → memGet t.mem x = memGet s.mem x)

/-- 10 R274, R288 to R290, R292: `mres` takes a free engine, or waits for it (p = 0 in its testing form); `mrel` of the
holder with no operation queued passes it to the block that has waited longest; `mfence` and `mwait` go on once the
stores and the operations of the warp allow. -/
def Sys2Proof.Claims.MatrixReservations : Prop :=
  ∀ (s : State) (w : Warp) (f : Fields) (core : Nat) (b : Block) (a : Allot), Whole w (allScalar f) → tileHome s w = some (core, b, a) →
    let j := issueOf w f
    let c := s.core core
    let pred (v : Nat) : List RegWrite := if f.ty = 1 then j.lanes.flatMap fun l => destWrites f.d false l v else []
    let mine := c.meHolder = some b.id ∧ c.meRelease = false
    (Issues s w (.mres f) f →
      (mine → exec (.mres f) s = .next (ends w ((counted s w).withWarp w.key fun x => x.putAll (pred 1)))) ∧
      (c.meHolder = none → exec (.mres f) s = .next (ends w (((counted s w).setCore core { c with meHolder := some b.id }).withWarp
        w.key fun x => x.putAll (pred 1)))) ∧
      (¬ mine → c.meHolder ≠ none → f.ty = 1 → exec (.mres f) s = .next (ends w ((counted s w).withWarp w.key fun x => x.putAll (pred 0)))) ∧
      (¬ mine → c.meHolder ≠ none → f.ty = 0 → exec (.mres f) s = .next (parks w f
        ((counted s w).setCore core { c with meReqs := union c.meReqs [b.id] }) fun t => { t with st := .waiting, wait := .mres }))) ∧
    (Issues s w (.mrel f) f →
      (¬ mine → exec (.mrel f) s = .next (takeTrap s j { cause := 0x103, lanes := j.lanes })) ∧
      (mine → ∃ t, exec (.mrel f) s = .next t ∧ t.mem = s.mem ∧
        (c.meQueue ≠ [] → (t.core core).meHolder = some b.id ∧ (t.core core).meRelease = true) ∧
        (c.meQueue = [] → (t.core core).meRelease = false ∧ (t.core core).meHolder = c.meReqs.head? ∧
          (t.core core).meReqs = c.meReqs.drop 1))) ∧
    (Issues s w (.mfence f) f →
      let busy := (∃ e ∈ w.fifo, e.space = 1 ∨ e.space = 4 ∨ e.space = 5 ∨ e.space = 6) ∨ ∃ o ∈ w.tileOps, o.store = true
      exec (.mfence f) s = .next (if busy then held s w else ends w (counted s w))) ∧
    (Issues s w (.mwait f) f → exec (.mwait f) s = .next (if f.aux < w.mgos then held s w else ends w (counted s w)))

/-- 10 R275 to R277, R291: `mgo` of the holder, with a legal parameter block and READY tiles of the shapes it needs,
queues its operation with those parameters: TM and each tile's users count it. -/
def Sys2Proof.Claims.MatrixOperations : Prop :=
  ∀ (s : State) (w : Warp) (f : Fields) (core : Nat) (b : Block) (a : Allot) (p : W64) (bs : List Byte), Issues s w (.mgo f) f →
    Whole w (allScalar f) → tileHome s w = some (core, b, a) →
    effective (BitVec.ofNat 64 (readReg w f.a 0 true (issueOf w f).low)) (signedOf 32 f.im) 0 = (none, p) → ptrSpace p = 1 →
    ptrOff p % 64 = 0 → ptrOff p + 64 ≤ b.spad →
    let j := issueOf w f
    let c := s.core core
    let ws := (List.range 8).map fun n => BitVec.ofNat 64 (natOfBytes ((bs.drop (8 * n)).take 8))
    (c.holds b.id = false → exec (.mgo f) s = .next (takeTrap s j { cause := 0x100, lanes := j.lanes })) ∧
    (c.holds b.id = true → threadBytes (counted s w) w (locChip 1 core (a.sBase + ptrOff p)) 64 = some bs →
      (paramBad ws = true → exec (.mgo f) s = .next (takeTrap s j { cause := 0x101, lanes := j.lanes })) ∧
      (∀ ka kb kc, paramBad ws = false → s.current core b a (paramTA ws) = some ka → s.current core b a (paramTB ws) = some kb →
        s.current core b a (paramTC ws) = some kc →
        (shapeBad ws (s.tile core ka) (s.tile core kb) (s.tile core kc) = true →
          exec (.mgo f) s = .next (takeTrap s j { cause := 0x102, lanes := j.lanes })) ∧
        (shapeBad ws (s.tile core ka) (s.tile core kb) (s.tile core kc) = false → (∀ k ∈ [ka, kb, kc], (s.tile core k).state = .ready) →
          c.meQueue.length < 8 → ∃ t y op, exec (.mgo f) s = .next t ∧ t.warp? w.key = some y ∧ y.tm = w.tm + 1 ∧ y.mgos = w.mgos + 1 ∧
            (t.core core).meQueue = c.meQueue ++ [op] ∧ op.words = ws ∧ op.block = b.id ∧ op.warp = w.key ∧ op.started = false ∧
            t.mem = s.mem ∧ (ka ≠ kb → ka ≠ kc → (t.tile core ka).users = (s.tile core ka).users + 1) ∧ SameRegs w y)))

/-- 10 R273, R275, R282 to R284: the head operation of an engine starts; ENGINE_READ keeps the bytes of its tiles that its
next step reads and has not read word by word before, ENGINE_WRITE puts the results of the step into TC, and the operation has written all with its last step;
MATRIX_OP_FINISH takes it away: TM drops and its tiles have a user less. -/
def Sys2Proof.Claims.MatrixSteps : Prop :=
  ∀ (s : State) (core : Nat) (op : MOp) (q : List MOp), (s.core core).meQueue = op :: q →
    (∃ t, exec (.matrixOpStart core) s = .next t ∧ (t.core core).meQueue = { op with started := true } :: q ∧ t.mem = s.mem) ∧
    (∀ ta tb tc, opTiles s core op = some (ta, tb, tc) → op.started = true → op.data = none → op.written = false →
      let (la, lb, lc) := stepReads op.words ta tb tc (matrixStep op.words ta.1 tb.1 op.step)
      let byte (l : Nat) : Byte := ((op.part.find? fun c => c.1 == l).map (·.2)).getD (memGet s.mem l)
      ∃ t x, exec (.engineRead core 1 0 0) s = .next t ∧ (t.core core).meQueue = x :: q ∧ t.mem = s.mem ∧
        x.data = some ((la ++ lb ++ lc).map fun l => (l, byte l)) ∧ x.step = op.step ∧
        ((∀ l ∈ la ++ lb ++ lc, l / 4 ∉ s.softWords) → t.recs = s.recs ∧ ∀ n, n ∈ x.bad → n ∈ op.bad)) ∧
    (∀ ta tb tc d, opTiles s core op = some (ta, tb, tc) → op.data = some d → op.written = false → op.bad = [] →
      let x := matrixStep op.words ta.1 tb.1 op.step
      let bs := d.map (·.2)
      let na := x.nb * (4 * (1 + ta.1.planes))
      let nb := x.nb * (4 * (1 + tb.1.planes))
      let words := stepWords op.words tc.1 x
      let no (_ : Nat) : Bool := false
      let out := stepResult op.words ta.1 tb.1 x (fun i => (bs.drop (i * na)).take na) (fun j => (bs.drop (x.m * na + j * nb)).take nb)
        (tcWord (bs.drop (x.m * na + x.n * nb))) no no no fun k => op.nans.contains (words.getD k 0)
      ∃ t y, exec (.engineWrite core 1 0 0) s = .next t ∧ (t.core core).meQueue = y :: q ∧ y.data = none ∧ y.step = op.step + 1 ∧
        y.written = decide (matrixSteps op.words ta.1 tb.1 ≤ op.step + 1) ∧
        t.mem = memPutAll s.mem ((words.zip out).flatMap fun z => cellsAt (tc.2 + 4 * z.1) (bytesOf 4 z.2.1))) ∧
    (∀ w, op.written = true → s.warp? op.warp = some w → ∃ t, exec (.matrixOpFinish core) s = .next t ∧ t.mem = s.mem ∧
      (t.core core).meQueue = q ∧ ((s.core core).meRelease = false → ∃ y, t.warp? op.warp = some y ∧ y.tm = w.tm - 1 ∧ y.mgos = w.mgos - 1))

/-- 12 R343: `pgq` writes the word of the leaf that maps each lane's address in the context's window, or 0; nothing is
filled and no AGE changes. -/
def Sys2Proof.Claims.PageQueries : Prop :=
  ∀ (s : State) (w : Warp) (f : Fields), Issues s w (.pgq f) f → Whole w (isScal f.a) →
    let j := issueOf w f
    let word (l : Nat) : Nat :=
      let p : W64 := BitVec.ofNat 64 (readReg w f.a 0 true (if isScal f.a then j.low else l)) + f.imm.signExtend 64
      match (if ptrSpace p = 0 then s.leafAt w.ctx (ptrOff p) else none) with
      | none => 0
      | some x => 1 + (if leafTier x.e = 0 then 2 else 0) + leafTier x.e * 2 ^ 2 + bitsOf x.e 4 1 * 2 ^ 4 + bitsOf x.e 5 1 * 2 ^ 5 +
          bitsOf x.e 6 1 * 2 ^ 6 + bitsOf x.e 7 1 * 2 ^ 7 + leafAge x.e * 2 ^ 8 + bitsOf x.e 11 1 * 2 ^ 11 + leafBind x.e * 2 ^ 12 +
          (3 - x.level) * 2 ^ 20 + bitsOf x.e 26 1 * 2 ^ 22 + s.frt (leafLoc x.level x.e (ptrOff p)) * 2 ^ 24
    exec (.pgq f) s = .next (ends w ((counted s w).withWarp w.key fun x =>
      x.putAll ((if isScal f.d then [j.low] else j.lanes).flatMap fun l => destWrites f.d true l (word l))))

/-- 12 R344: `pgadv` names the mapped pages of its range that do not move: `.warm` hands those below T0 to the memory
service as one batch, `.cold` and `.hot` write AGE in the T0 leaves and no other byte. -/
def Sys2Proof.Claims.PageAdvice : Prop :=
  ∀ (s : State) (w : Warp) (f : Fields), Issues s w (.pgadv f) f → Whole w (allScalar f) →
    let n := if f.b = 0xF0 then f.aux else min 256 (readReg w f.b 0 false (issueOf w f).low)
    let p : W64 := BitVec.ofNat 64 (readReg w f.a 0 true (issueOf w f).low) + f.imm.signExtend 64
    let named (l : LeafAt) : Prop := ptrSpace p = 0 ∧ leafMig l.e = false ∧
      ∃ k, k < n ∧ ptrOff p / 131072 * 131072 + 131072 * k < 2 ^ 57 ∧ s.leafAt w.ctx (ptrOff p / 131072 * 131072 + 131072 * k) = some l
    ∃ t, exec (.pgadv f) s = .next (ends w t) ∧
      (f.ty = 0 → t.mem = s.mem ∧ t.warps = (counted s w).warps ∧
        ((∀ l, named l → leafTier l.e = 0) → t.paging = s.paging) ∧
        ((∃ l, named l ∧ leafTier l.e ≠ 0) → ∃ b, t.paging.batches = s.paging.batches ++ [b] ∧ b.ctx = w.ctx ∧ b.recId = none ∧
          b.pages.Nodup ∧ ∀ v, v ∈ b.pages ↔ ∃ l, named l ∧ leafTier l.e ≠ 0 ∧ v = l.va)) ∧
      (f.ty ≠ 0 → s.mem.wf = true → t = { counted s w with mem := t.mem } ∧
        (∀ a, (∀ l, named l → leafTier l.e = 0 → a ≠ l.slot + 1) → memGet t.mem a = memGet s.mem a) ∧
        ∀ l, named l → leafTier l.e = 0 → memGet t.mem (l.slot + 1) = (memGet s.mem (l.slot + 1) &&& 0xF8) ||| (if f.ty = 1 then 7 else 0))

/-- 15 R399, R424: `ctload` of threads of a region with BOOST that are no tasks is 0x146, of a task that holds a grant 0x148; its
warp holds at it, and new requests wait with it, while the context has a grant; then a table image that passes its checks is in force, one that fails is 0x14A and leaves the earlier table. -/
def Sys2Proof.Claims.TableLoads : Prop :=
  ∀ (s : State) (w : Warp) (f : Fields) (p : W64), Issues s w (.ctload f) f → Whole w (allScalar f) →
    let j := issueOf w f
    let base : W64 := BitVec.ofNat 64 (readReg w f.a 0 true j.low)
    let ended := j.lanes.filter fun l => s.boostRegion w && !(w.thread l).isTask
    (ended ≠ [] → exec (.ctload f) s = .next (takeTrap s j { cause := 0x146, lanes := ended })) ∧
    (ended = [] → effective base (signedOf 32 f.im) 0 = (none, p) → ptrSpace p = 0 → ptrOff p % 64 = 0 →
    let busy := j.lanes.filter fun l => (w.thread l).isTask && s.holdsGrant w.ctx (w.thread l).task.seq
    let granted := ∃ q ∈ s.ports, ∃ g ∈ q.2.grants, g.ctx = w.ctx
    (busy ≠ [] → exec (.ctload f) s = .next (takeTrap s j { cause := 0x148, lanes := busy })) ∧
    (busy = [] → granted → exec (.ctload f) s =
      .next ((((counted s w).setWarp w).setContext w.ctx { s.context w.ctx with ctBusy := true }).withWarp w.key fun x => { x with hold := .again })) ∧
    (∀ s1 cs1, ¬ granted → readRegion j (counted s w) base (signedOf 32 f.im) 64 = .bytes s1 cs1 →
      let k := natOfBytes ((regionBytes s1 w.core cs1).1.take 2)
      let rest := natOfBytes ((regionBytes s1 w.core cs1).1.drop 2)
      (k = 0 ∨ 1024 < k ∨ rest ≠ 0 → ∃ t r, exec (.ctload f) s = .next t ∧ t.recs = s.recs ++ [r] ∧ (inUndo w j.lanes = false → r.cause = 0x14A) ∧
        (t.context w.ctx).ctable = (s.context w.ctx).ctable) ∧
      (∀ s2 cs, 1 ≤ k → k ≤ 1024 → rest = 0 → readRegion j s1 base (signedOf 32 f.im) (64 + 32 * k + (2 * k * k + 511) / 512 * 64) = .bytes s2 cs →
        let bs := (regionBytes s2 w.core cs).1
        (tableBad bs k ≠ none → ∃ t r, exec (.ctload f) s = .next t ∧ t.recs = s.recs ++ [r] ∧ (inUndo w j.lanes = false → r.cause = 0x14A) ∧
          (t.context w.ctx).ctable = (s.context w.ctx).ctable) ∧
        (tableBad bs k = none → ∃ t y, exec (.ctload f) s = .next t ∧ (t.context w.ctx).ctable = some (tableOf bs k) ∧
          (t.context w.ctx).ctBusy = false ∧ t.mem = s2.mem ∧ t.warp? w.key = some y ∧ SameRegs w y))))

/-- 13 R356, R377, R378: `cbind` of slot 0 or above 255 is 0x119; it waits for the warp's older stores; a record that
passes its checks is installed in the slot, the cached lines as they are where it leaves the place of the plain bytes as it was (R373),
one that fails is 0x118 with the offset of the
first word that does. -/
def Sys2Proof.Claims.CodecBindings : Prop :=
  ∀ (s : State) (w : Warp) (f : Fields) (p : W64), Issues s w (.cbind f) f → Whole w (allScalar f) →
    let j := issueOf w f
    let base : W64 := BitVec.ofNat 64 (readReg w f.a 0 true j.low)
    let idx := if f.b = 0xF0 then f.aux % 256 else readReg w f.b 0 false j.low
    effective base (signedOf 32 f.im) 0 = (none, p) → ptrSpace p = 0 → ptrOff p % 64 = 0 →
    (idx = 0 ∨ 255 < idx → exec (.cbind f) s = .next (takeTrap s j { cause := 0x119, lanes := j.lanes })) ∧
    (1 ≤ idx → idx ≤ 255 → w.st ≠ 0 → exec (.cbind f) s = .next (held s w)) ∧
    (∀ s1 cs1 s2 cs2, 1 ≤ idx → idx ≤ 255 → w.st = 0 → readRegion j (counted s w) base (signedOf 32 f.im) 576 = .bytes s1 cs1 →
      (if bitsOf (natOfBytes ((regionBytes s1 w.core cs1).1.take 4)) 5 1 = 1 then readRegion j s1 base (signedOf 32 f.im) 4672 = .bytes s2 cs2
        else s2 = s1 ∧ cs2 = cs1) →
      let bs := (regionBytes s2 w.core cs2).1
      (∀ k, bindBad bs = some k → exec (.cbind f) s = .next (takeTrap s j { cause := 0x118, lanes := j.lanes, detail := BitVec.ofNat 64 k })) ∧
      (bindBad bs = none → s2.paging.moves = [] → ∃ t y, exec (.cbind f) s = .next t ∧ t.binding? w.ctx idx = some (bindingOf bs) ∧
        (∀ k, k ≠ idx → t.binding? w.ctx k = s2.binding? w.ctx k) ∧
        ((match s2.binding? w.ctx idx with
          | some o => o.packed = (bindingOf bs).packed ∧ ((bindingOf bs).packed = true → o.group = (bindingOf bs).group)
          | none => (bindingOf bs).packed = false) → t.mem = s2.mem ∧ t.ports = s2.ports) ∧
        t.warp? w.key = some y ∧ SameRegs w y))

/-- 13 R369, R379: `cbuild` of no bytes, or of more than 2^20, is 0x11A, of an absent slot 0x119; else the lengths that
the region's byte counts give take the places of bytes 0 to 255 of the slot's table, which is built. -/
def Sys2Proof.Claims.CodecBuilds : Prop :=
  ∀ (s : State) (w : Warp) (f : Fields), Issues s w (.cbuild f) f → Whole w (allScalar f) →
    let j := issueOf w f
    let n := readReg w f.b 0 true j.low
    let idx := f.aux % 256
    (n = 0 ∨ 2 ^ 20 < n → exec (.cbuild f) s = .next (takeTrap s j { cause := 0x11A, lanes := j.lanes })) ∧
    (1 ≤ n → n ≤ 2 ^ 20 → s.binding? w.ctx idx = none → exec (.cbuild f) s = .next (takeTrap s j { cause := 0x119, lanes := j.lanes })) ∧
    (∀ s1 cs b, 1 ≤ n → n ≤ 2 ^ 20 → s.binding? w.ctx idx ≠ none → s1.binding? w.ctx idx = some b →
      readRegion j (counted s w) (BitVec.ofNat 64 (readReg w f.a 0 true j.low)) (signedOf 32 f.im) n = .bytes s1 cs →
      ∃ t y, exec (.cbuild f) s = .next t ∧ t.mem = s1.mem ∧ t.warp? w.key = some y ∧ SameRegs w y ∧ t.binding? w.ctx idx = some { b with
        built := true, table := ((huffLens 32 (byteCounts (regionBytes s1 w.core cs).1)).map fun x => BitVec.ofNat 8 x) ++ b.table.drop 256 })

/-- 12 R316, R324, R326, R360: PAGE_MAP writes a leaf where none stands and counts it in each frame it covers; a map past
0xFFFE leaves of a frame is refused, as is one that may not map its frames, and a change of BIND, or of the window of a shared
frame, over one frame. PAGE_UNMAP clears a leaf that does not move and issues an invalidation, which frees those of its frames that no
leaf is left of. -/
def Sys2Proof.Claims.PageChanges : Prop :=
  ∀ (s : State) (ctx va level : Nat),
    (∀ e slot t0, level ∈ [1, 2, 3] → va < 2 ^ 57 → e < 2 ^ 64 → leafV e = true → leafLeaf e = true → malformed level e = false →
      entrySlot va level (leafLoc level e 0) (2 ^ pageBits level) 4 (s.context ctx).root 0 s = some (slot, t0) →
      let l : LeafAt := ⟨pageOf level va, level, slot, e⟩
      let old := memNat t0.mem slot 8
      (leafV old = true → malformed level old = false → leafLoc level old 0 = l.base →
        leafBind old ≠ leafBind e ∨ s.sharedElse slot l = true →
        exec (.pageMap ctx va level e) s = .next s) ∧
      (leafV old = false → (∃ i, i < l.frames ∧ 0xFFFE ≤ s.frt (l.base + 131072 * i)) ∨ s.mapRefused ctx slot l = true →
        exec (.pageMap ctx va level e) s = .next s) ∧
      (leafV old = false → leafCow e = false → (∀ i, i < l.frames → s.frt (l.base + 131072 * i) < 0xFFFE) → s.mapRefused ctx slot l = false →
        ∃ t, exec (.pageMap ctx va level e) s = .next t ∧ t.mem = memPutAll t0.mem (cellsAt slot (bytesOf 8 e)) ∧
          t.paging.invals = t0.paging.invals ∧
          ∀ i, i < l.frames → t.frtRaw (l.base + 131072 * i) = t0.frt (l.base + 131072 * i) + 1)) ∧
    (∀ slot e, s.walk ctx va = .leaf level slot e →
      let l : LeafAt := ⟨pageOf level va, level, slot, e⟩
      (s.leafWaits l = true → exec (.pageUnmap ctx va) s = .next s) ∧
      (s.leafWaits l = false → s.heldIn l = false →
        ∃ t x, exec (.pageUnmap ctx va) s = .next t ∧ t.mem = memPutAll s.mem (cellsAt slot (bytesOf 8 0)) ∧
          t.paging.invals = s.paging.invals ++ [x] ∧ x.ctx = ctx ∧ x.page = pageOf level va ∧ x.level = level ∧ x.frame = some l.base ∧
          let last (i : Nat) : Prop := s.frt (l.base + 131072 * i) ≤ 1
          ((∀ i, i < l.frames → last i) → x.frees = some l.base ∧ x.also = []) ∧
          ((∃ i, i < l.frames ∧ ¬ last i) → x.frees = none ∧
            ∀ p, p ∈ x.also ↔ ∃ i, i < l.frames ∧ last i ∧ p = (l.base + 131072 * i, 131072))))

/-- 12 R324: TLB_INVALIDATION completes once every access of its page has been accepted: no TLB holds an entry of the page
then, the other entries stay, and memory stays. It frees the places of which a leaf was the last, unless an invalidation that has
not completed still holds one, which then frees it too. -/
def Sys2Proof.Claims.Invalidations : Prop :=
  ∀ (s : State) (n : Nat) (v : Inval), s.paging.invals[n]? = some v →
    (s.usesPage v.ctx v.page v.level = true → exec (.tlbInvalidation n) s = .next s) ∧
    (s.usesPage v.ctx v.page v.level = false → ∃ t, exec (.tlbInvalidation n) s = .next t ∧ t.mem = s.mem ∧
      let rest := s.paging.invals.eraseIdx n
      let u : State := { s with paging := { s.paging with invals := rest } }
      let places := (v.frees.map fun f => (f, v.size)).toList ++ v.also
      (places = [] → t.paging.invals = rest ∧ t.paging.frt = s.paging.frt) ∧
      (∀ p, places = [p] → u.invalHolds p.1 p.2 = true → t.paging.invals = passFrees p.1 p.2 rest ∧ t.paging.frt = s.paging.frt) ∧
      ((∀ p ∈ places, u.invalHolds p.1 p.2 = false) → t.paging.invals = rest ∧ ∀ p ∈ places, t.linesIn p.1 p.2 = [] ∧
        ∀ k, k < p.2 / 131072 → t.frt (p.1 + 131072 * k) = 0 ∨ t.frt (p.1 + 131072 * k) = 0xFFFF) ∧
      let stale (x : TlbEnt) : Prop := x.asn = s.asnOf v.ctx ∧ meets (x.page * 2 ^ pageBits x.level) (2 ^ pageBits x.level) v.page (2 ^ pageBits v.level) = true
      (∀ k x, x ∈ (t.core k).tlb ↔ x ∈ (s.core k).tlb ∧ ¬ stale x) ∧ ∀ k x, x ∈ (t.cluster k).tlb ↔ x ∈ (s.cluster k).tlb ∧ ¬ stale x)

/-- 12 R327, R328, R336: COW_BREAK begins the break of a leaf at which a write waits by reading the count of its frame; a break
that read 1 then clears COW; one that read more copies the 128 KiB into a frame of the pool, which the leaf then names without
COW, or, without such a frame, is over. -/
def Sys2Proof.Claims.CowBreaks : Prop :=
  ∀ (s : State) (ctx va level slot e : Nat), s.walk ctx va = .leaf level slot e → leafCow e = true → leafW e = true → leafTier e = 0 →
    let l : LeafAt := ⟨pageOf level va, level, slot, e⟩
    let c := s.tenant ctx
    let begun := s.paging.breaks.find? fun b => b.ctx == ctx && b.page == l.va
    let past (t : State) : Prop := (∀ b ∈ t.paging.breaks, ¬ (b.ctx = ctx ∧ b.page = l.va)) ∧ (ctx, l.va) ∉ t.paging.cowWaits
    (s.leafWaits l = true → exec (.cowBreak ctx va) s = .next s) ∧
    (s.leafWaits l = false → begun = none → (ctx, l.va) ∉ s.paging.cowWaits → exec (.cowBreak ctx va) s = .next s) ∧
    (s.leafWaits l = false → begun = none → (ctx, l.va) ∈ s.paging.cowWaits → exec (.cowBreak ctx va) s =
      .next { s with paging := { s.paging with breaks := s.paging.breaks ++ [{ ctx := ctx, page := l.va, e := putBits e 8 3 0, n := s.frt l.base }] } }) ∧
    (∀ b, s.leafWaits l = false → begun = some b → b.e = putBits e 8 3 0 →
      (b.n = 1 → ∃ t, exec (.cowBreak ctx va) s = .next t ∧ past t ∧
        t.mem = memPutAll s.mem (cellsAt slot (bytesOf 8 (putBits (memNat s.mem slot 8) 7 1 0))) ∧
        t.paging.invals = s.paging.invals ++ [{ ctx := ctx, page := l.va, level := level, frees := none, size := 2 ^ pageBits level, brk := true }]) ∧
      (b.n ≠ 1 → c.autoCow = false ∨ c.poolFrames = [] → ∃ t, exec (.cowBreak ctx va) s = .next t ∧ past t ∧ t.mem = s.mem ∧
        t.paging.invals = s.paging.invals) ∧
      (∀ g r, b.n ≠ 1 → c.autoCow = true → c.poolFrames = g :: r → s.mem.wf = true → slot + 8 ≤ g ∨ g + 131072 ≤ slot →
        ∃ t, exec (.cowBreak ctx va) s = .next t ∧ past t ∧ (∀ k, k < 131072 → memGet t.mem (g + k) = memGet s.mem (l.base + k)) ∧
          memNat t.mem slot 8 = putBits (putBits (memNat s.mem slot 8) 28 36 (g / 8192)) 7 1 0 ∧ (t.tenant ctx).poolFrames = r ∧
          (g / 131072 ≠ l.base / 131072 → t.frtRaw g = 1 ∧ t.frtRaw l.base = s.frt l.base - 1) ∧
          ∃ x, t.paging.invals = s.paging.invals ++ [x] ∧ x.ctx = ctx ∧ x.page = l.va ∧ x.frame = some l.base ∧ x.brk = true))

/-- 12 R330: AGING_SWEEP writes no byte of memory but the AGE of the tenant's T0 leaves, and invalidates exactly those
whose AGE was 0. -/
def Sys2Proof.Claims.AgingSweeps : Prop :=
  ∀ (s : State) (ctx : Nat), s.mem.wf = true → ∃ t, exec (.agingSweep ctx) s = .next t ∧
    t = { s with mem := t.mem, paging := { s.paging with invals := t.paging.invals } } ∧
    (∀ a, (∀ p ∈ s.tenantLeaves ctx, leafTier p.2.e = 0 → a ≠ p.2.slot + 1) → memGet t.mem a = memGet s.mem a) ∧
    (∀ p ∈ s.tenantLeaves ctx, leafTier p.2.e = 0 → memGet t.mem (p.2.slot + 1) &&& 7 = BitVec.ofNat 8 (min 7 (leafAge p.2.e + 1))) ∧
    t.paging.invals = s.paging.invals ++ (((s.tenantLeaves ctx).filter fun p => leafTier p.2.e == 0 && leafAge p.2.e == 0).map fun p =>
      ({ ctx := p.1, page := p.2.va, level := p.2.level, frees := none, size := 2 ^ pageBits p.2.level } : Inval))

/-- 12 R331, R332, R337: from HIGH down to LOW, or for what waits to come in, DEMOTION begins to move the victim: of the
candidates that the tier below has room for or can free it, that of the highest score, of the lowest address among equals; its
leaves carry MIG. At LOW it ends. -/
def Sys2Proof.Claims.Demotions : Prop :=
  ∀ (s : State) (ctx tier target : Nat),
    let q := kvGet (s.tenant ctx).quotas tier {}
    let n := s.tierCount ctx tier
    let forced := (s.demotes ctx tier).1
    let own := (s.demotes ctx tier).2
    let chosen (l : LeafAt) : Prop := leafTier l.e = tier ∧ s.candidate l = true ∧
      (s.quotaRoom ctx (tier + 1) l.frames = true ∨ s.canFree ctx (2 - tier) (tier + 1) l.frames = true)
    (∀ l, s.victim ctx tier = some l → (∃ c, (c, l) ∈ s.tenantLeaves ctx) ∧ chosen l ∧ ∀ p ∈ s.tenantLeaves ctx, chosen p.2 →
      s.leafScore p.2 ≤ s.leafScore l ∧ (s.leafScore p.2 = s.leafScore l → l.base ≤ p.2.base)) ∧
    (3 ≤ tier ∨ forced = false ∧ own = false → exec (.demotion ctx tier target) s = .next s) ∧
    (tier < 3 → forced = false → own = true → n ≤ q.low → ∃ t, exec (.demotion ctx tier target) s = .next t ∧ t.mem = s.mem ∧
      t.paging.moves = s.paging.moves ∧ (kvHas (s.tenant ctx).quotas tier = true → kvGet (t.tenant ctx).quotas tier {} = { q with demoting := false })) ∧
    (∀ l, tier < 3 → forced = true ∨ own = true ∧ q.low < n → s.victim ctx tier = some l →
      let size := 2 ^ pageBits l.level
      (if tier = 2 then 2 ^ 64 ≤ target ∧ (target - 2 ^ 64) % 2 ^ 27 = 0 else target % size = 0 ∧ inTier (tier + 1) target size = true) →
      s.linkUp target = true → s.linkUp l.base = true → s.isFree target size = true → s.quotaRoom ctx (tier + 1) l.frames = true →
      s.engineFull tier = false →
      ∃ t, exec (.demotion ctx tier target) s = .next t ∧
        t.paging.moves = s.paging.moves ++ [{ src := l.base, dst := target, tier := tier + 1, level := l.level }] ∧
        (kvHas (s.tenant ctx).quotas tier = true → (kvGet (t.tenant ctx).quotas tier {}).demoting = (own && decide (q.low < n))) ∧
        (s.mem.wf = true → ∀ p ∈ s.leavesIn l.base size, bitsOf (memNat t.mem p.2.slot 8) 26 1 = 1))

/-- 12 R333, R335: CHUNK_OPEN of a chunk with no dirty line opens it; CHUNK_COMMIT carries its 4,096 bytes to the new
frame; without the link to either place the move is undone: each committed chunk opens at the new frame and returns. -/
def Sys2Proof.Claims.FrameMoves : Prop :=
  ∀ (s : State) (frame chunk : Nat) (m : Move), (s.paging.moves.find? fun x => x.src == frame) = some m →
    let up := s.linkUp m.src = true ∧ s.linkUp m.dst = true
    let carried (t : State) (a b : Nat) : Prop := (∀ k, k < 4096 → memGet t.mem (b + 4096 * chunk + k) = memGet s.mem (a + 4096 * chunk + k)) ∧
      ∀ x, x < b + 4096 * chunk ∨ b + 4096 * (chunk + 1) ≤ x → memGet t.mem x = memGet s.mem x
    let left (t : State) : Option Move := t.paging.moves.find? fun x => x.src == frame
    (m.undo = false → chunk < m.chunks → chunk ∉ m.opened → up → s.linesIn (m.src + 4096 * chunk) 4096 = [] →
      ∃ t, exec (.chunkOpen frame chunk) s = .next t ∧ t.mem = s.mem ∧ left t = some { m with opened := chunk :: m.opened }) ∧
    (m.undo = false → chunk < m.chunks → chunk ∉ m.opened → ¬ up → m.moved = false → ∃ t, exec (.chunkOpen frame chunk) s = .next t ∧
      (m.committed = [] → ∀ x ∈ t.paging.moves, x.src ≠ frame) ∧
      (m.committed ≠ [] → t.mem = s.mem ∧ left t = some { m with undo := true, opened := m.committed })) ∧
    (m.undo = true → chunk ∈ m.committed → chunk ∉ m.back → up → s.linesIn (m.dst + 4096 * chunk) 4096 = [] →
      ∃ t, exec (.chunkOpen frame chunk) s = .next t ∧ t.mem = s.mem ∧ left t = some { m with back := chunk :: m.back }) ∧
    (m.undo = false → chunk ∈ m.opened → chunk ∉ m.committed → up → m.committed.length + 1 ≠ m.chunks → s.mem.wf = true →
      ∃ t, exec (.chunkCommit frame chunk) s = .next t ∧ carried t m.src m.dst ∧ left t = some { m with committed := chunk :: m.committed }) ∧
    (m.undo = false → chunk ∈ m.opened → chunk ∉ m.committed → up → m.committed.length + 1 = m.chunks →
      ∃ t x, exec (.chunkCommit frame chunk) s = .next t ∧ left t = some x ∧ x.moved = true) ∧
    (m.undo = true → chunk ∈ m.back → up →
      let others := m.committed.filter fun c => c != chunk
      (others ≠ [] → s.mem.wf = true → ∃ t x, exec (.chunkCommit frame chunk) s = .next t ∧ carried t m.dst m.src ∧ left t = some x ∧
        x.committed = others ∧ chunk ∉ x.back) ∧
      (others = [] → ∃ t, exec (.chunkCommit frame chunk) s = .next t ∧ ∀ x ∈ t.paging.moves, x.src ≠ frame)) ∧
    (m.undo = true → ¬ up → exec (.chunkOpen frame chunk) s = .next s ∧ exec (.chunkCommit frame chunk) s = .next s)

/-- 12 R332, R340, R341: a batch whose pages lie in T0 is done, and with it the record that stopped its warp; one with a page
that cannot be made resident goes to the region's fault domain, with detail 1 where it is not mapped, 2 where T0 has no room and
no frame can leave it. -/
def Sys2Proof.Claims.BatchPromotions : Prop :=
  ∀ (s : State) (b : Batch) (r : Rec) (drop : Nat),
    let here (p : Nat) : Prop := ∃ l, s.leafAt b.ctx p = some l ∧ leafTier l.e = 0 ∧ leafTier (s.largest l).e = 0
    (s.paging.batches.find? fun x => x.id == b.id) = some b → b.recId = some r.id → s.rec? r.id = some r →
    ((∀ p ∈ b.pages, here p) →
      ∃ t, exec (.batchPromotion b.id drop) s = .next t ∧ t.mem = s.mem ∧ (∀ x ∈ t.recs, x.id ≠ r.id) ∧ (∀ x ∈ t.paging.batches, x.id ≠ b.id) ∧
        ∀ k w, s.warp? k = some w → ∃ y, t.warp? k = some y ∧ y.stopped = w.stopped.filter fun x => x != r.id) ∧
    (∀ p d, p ∈ b.pages → d = 1 ∧ s.leafAt b.ctx p = none ∨ d = 2 ∧ s.pageState b.ctx p = .stuck →
      (∀ q ∈ b.pages, q ≠ p → here q) →
      (∀ w m x, r.acts = .replay w m → s.warp? w = some x → inUndo x (lanesOf m) = false) →
      ∃ t y, exec (.batchPromotion b.id drop) s = .next t ∧ t.mem = s.mem ∧ t.rec? r.id = some y ∧ y.toService = false ∧ y.written = false ∧
        y.words = r.words.take 7 ++ [BitVec.ofNat 64 d] ∧ t.warps = s.warps)

/-- 12 R338 to R340: SNARE_CHECKPOINT saves the warp once its loads, scoreboard and queues are drained, and its threads run
ahead; SNARE_BATCH restores what was saved in the threads that still may issue, stops the warp and hands the batch to the memory
service. -/
def Sys2Proof.Claims.SnareModes : Prop :=
  ∀ (s : State) (x : Warp) (n : Snare), s.warp? x.key = some x → x.snare = some n →
    (n.running = false → n.isFetch = false → x.ld = 0 → x.sb = [] → x.queue = [] → x.stopped = [] →
      ∃ t y k, exec (.snareCheckpoint x.key) s = .next t ∧ t.mem = s.mem ∧ t.warp? x.key = some y ∧ y.snare = some k ∧ k.running = true ∧
        k.saveThreads = x.threads ∧ k.saveBundle = x.bundle ∧ k.saveS = x.s ∧ k.mask = n.mask ∧ k.pages = n.pages ∧ SameRegs x y) ∧
    (n.isFetch = true ∨ n.running = true ∧ n.ended = true → n.cause < 512 →
      ∃ t y r b, exec (.snareBatch x.key) s = .next t ∧ t.mem = s.mem ∧ t.warp? x.key = some y ∧ y.snare = none ∧
        y.stopped = x.stopped ++ [s.recCt] ∧ t.recs = s.recs ++ [r] ∧ r.toService = true ∧ r.cause = n.cause ∧ r.acts = .replay x.key n.mask ∧
        t.paging.batches = s.paging.batches ++ [b] ∧ b.pages = n.pages ∧ b.recId = some s.recCt ∧ b.ctx = x.ctx ∧
        (n.running = true → y.bundle = (n.saveBundle.filter fun l => (x.thread l).mayIssue) ∧ y.s = n.saveS ∧ y.loads = [] ∧ y.queue = [] ∧
          ∀ l o, l ∈ n.saveBundle → l < x.threads.length → n.saveThreads[l]? = some o → (x.thread l).st = .ready → (x.thread l).wait = .nothing →
            let z := y.thread l
            (z.pc, z.v, z.p, z.fpctl, z.fpflags, z.rngs, z.age, z.st) = (o.pc, o.v, o.p, o.fpctl, o.fpflags, o.rngs, o.age, TState.ready)) ∧
        (n.running = false → y.threads = x.threads ∧ y.bundle = x.bundle ∧ y.s = x.s))

/-- 13 R360: REBIND of a page whose blocks decode and are written back writes BIND in its leaves and invalidates them; one
of whose blocks does not decode changes no byte, one of whose blocks cannot be written back no stored byte. -/
def Sys2Proof.Claims.Rebinds : Prop :=
  ∀ (s : State) (ctx va bind : Nat) (l : LeafAt), s.leafAt ctx va = some l → leafMig l.e = false → leafTier l.e = 0 → bind < 256 →
    let n := 2 ^ pageBits l.level
    let size (b : Nat) : Nat := match s.binding? ctx b with
      | some x => 16 * 2 ^ x.bsize
      | none => 128
    (∀ b ∈ [leafBind l.e, bind], (s.binding? ctx b).any (·.packed) = false) →
    (∀ m ∈ s.paging.moves, meets m.src m.size l.base n = false ∧ meets m.dst m.size l.base n = false) → s.linesIn l.base n = [] →
    s.linkUp l.base = true →
    (∀ e, s.fillAll (blocksOf ctx l.va l.base (leafBind l.e) (size (leafBind l.e)) n) = .error e →
      ∃ t, exec (.rebind ctx va bind) s = .next t ∧ t.mem = s.mem ∧ t.dram = s.dram) ∧
    (∀ t, s.fillAll (blocksOf ctx l.va l.base (leafBind l.e) (size (leafBind l.e)) n) = .ok t →
      let t' : State := { t with metab := t.metab.filter fun p => !(decide (l.base / 64 ≤ p.1) && decide (p.1 < (l.base + n) / 64)) }
      let lines := (blocksOf ctx l.va l.base bind (size bind) n).map fun k =>
        ({ pa := k.base, bytes := k.size, ctx := ctx, va := k.va, bind := bind, units := unitsOf k.size } : Line)
      (∀ f u, t'.storeAll lines = .error (f, u) → ∃ v, exec (.rebind ctx va bind) s = .next v ∧ v.dram = s.dram ∧
        v.mem = memPutAll s.mem (cellsAt f.line.pa (memBytes t.mem f.line.pa f.line.bytes))) ∧
      (∀ u, t'.storeAll lines = .ok u → u.mem.wf = true →
        ∃ v, exec (.rebind ctx va bind) s = .next v ∧ (∀ p ∈ u.leavesOf l.base, leafBind (memNat v.mem p.2.slot 8) = bind) ∧
          v.paging.invals = u.paging.invals ++ ((u.leavesOf l.base).map fun p =>
            ({ ctx := p.1, page := p.2.va, level := p.2.level, frees := none, size := 2 ^ pageBits p.2.level } : Inval))))

/-- 13 R345, R346, R349: BURST_REPLY ends a packet, and the port sends what it held; the eight words of each burst of a read
that could not be corrected read back with error status, and no other word comes to. -/
def Sys2Proof.Claims.BurstReplies : Prop :=
  ∀ (s : State) (port tag status : Nat),
    ((∀ x ∈ (s.port port).packets, x.tag ≠ tag) → exec (.burstReply port tag status) s = .next s) ∧
    ∀ x, ((s.port port).packets.find? fun y => y.tag == tag) = some x →
      ∃ t, exec (.burstReply port tag status) s = .next t ∧ t.mem = s.mem ∧ t.dram = s.dram ∧
        (let p := ({ s.port port with packets := (s.port port).packets.filter fun y => y.tag != tag } : Port).sendHeld
         (t.port port).packets = p.packets ∧ (t.port port).waiting = p.waiting ∧ ((s.port port).pfs = [] → t.port port = p)) ∧
        ((s.port port).waiting = [] → ∀ y ∈ (t.port port).packets, y.tag ≠ tag) ∧
        ∀ n, n ∈ t.badWords ↔ n ∈ s.badWords ∨ x.kind = .read ∧ ∃ k, k < x.count ∧ status.testBit k = true ∧ n / 8 = x.burst + k

/-- 13 R198, R345, R352, R370, R374: CODEC_FILL asks for the stored bytes of a block that no READ has asked for; it puts the plain bytes of a block that its binding decodes into the cache, where its sets
have room; the failure of a block that does not decode stands in the port's error log and is charged to the oldest access that
waits, once; an uncorrectable burst is met by all of them. -/
def Sys2Proof.Claims.CodecFills : Prop :=
  ∀ (s : State) (ctx va : Nat) (k : Blk), s.blockAt ctx va = some k → s.needsFill k = true → k.busy s = false →
    (s.room k = false → exec (.codecFill ctx va) s = .next s) ∧
    (s.room k = true → s.unread k = true → exec (.codecFill ctx va) s = .next (s.requestBlk k)) ∧
    (∀ bs, s.room k = true → s.unread k = false → s.fillBlock k = .ok bs → ∃ t l, exec (.codecFill ctx va) s = .next t ∧
      t.mem = memPutAll s.mem ((cellsAt k.base bs).filter fun c => (s.lineAt c.1).isNone) ∧
      t.dram = s.dram ∧ (t.port (homePort k.base)).lines.head? = some l ∧ l.pa = k.base ∧ l.bytes = k.size ∧ l.bind = k.bind ∧
      (s.linesIn k.base k.size = [] → l.dirty = false ∧ l.held = none)) ∧
    (∀ r n m, s.room k = true → s.unread k = false → s.fillBlock k = .error (r, n, m) →
      let logged := (s.forget k).logError k.base { decoder := true, index := n, imm := m, reason := r, tag := none }
      (r = 8 → exec (.codecFill ctx va) s = .next ((waiters s k).foldl (failWaiter k 8 0) (s.forget k))) ∧
      (r ≠ 8 → s.charged k = true → exec (.codecFill ctx va) s = .next s) ∧
      (r ≠ 8 → s.charged k = false → waiters logged.2 k = [] → ∃ t, exec (.codecFill ctx va) s = .next t ∧ t.mem = s.mem ∧
        t.dram = s.dram ∧ t.recs = s.recs ∧ (t.port (homePort k.base)).errlog = (s.port (homePort k.base)).errlog ++
          [{ decoder := true, index := n, imm := m, reason := r, tag := none }]) ∧
      (∀ x q, r ≠ 8 → s.charged k = false → waiters logged.2 k = x :: q →
        exec (.codecFill ctx va) s = .next (failWaiter k r ((s.port (homePort k.base)).errlog.length + 1) logged.2 x)))

/-- 13 R352, R354, R372, R375: WRITE_BACK drops a clean 128-byte line, leaves a held one, and one that is not its sets' turn, and
stores the plain bytes of the dirty units of one of an unbound page before it drops it; CACHE_SOFT_ERROR drops a clean 128-byte line
and holds a dirty one with its damaged bytes, or stores it at once where it would be the ninth. -/
def Sys2Proof.Claims.CacheLines : Prop :=
  ∀ (s : State) (ctx va loc : Nat) (l : Line), s.ctxLoc ctx va = some loc → s.lineAt loc = some l → l ∈ s.besides l →
    let gone (t : State) : Prop := t.mem = s.mem ∧ ∀ x ∈ (t.port (homePort l.pa)).lines, x.pa ≠ l.pa
    let clean := ∀ x ∈ s.besides l, x.dirty = false
    (s.lineHeld l = true ∨ s.mayEvict l = false → exec (.writeBack ctx va) s = .next s) ∧
    (s.lineHeld l = false → s.mayEvict l = true → clean → ∃ t, exec (.writeBack ctx va) s = .next t ∧ gone t ∧ t.dram = s.dram) ∧
    (s.besides l = [l] → l.held = none → s.mayEvict l = true → l.dirty = true → l.soft = [] → s.binding? l.ctx l.bind = none → l.bytes = 128 →
      s.dram.wf = true →
      ∃ t, exec (.writeBack ctx va) s = .next t ∧ gone t ∧ ∀ k, memGet t.dram (l.pa + k) =
        if k < l.bytes ∧ k / 16 ∈ l.units then memGet s.mem (l.pa + k) else memGet s.dram (l.pa + k)) ∧
    (clean → ∃ t, exec (.cacheSoftError ctx va) s = .next t ∧ gone t ∧ t.recs = s.recs) ∧
    (¬ clean → s.ninth l = false → ∃ t x, exec (.cacheSoftError ctx va) s = .next t ∧ t.mem = s.mem ∧
      t.dram = s.dram ∧ x ∈ (t.port (homePort l.pa)).lines ∧ x.pa = l.pa ∧ x.held.isSome = true ∧ ∀ k, k < 8 → loc / 8 * 8 + k ∈ x.soft) ∧
    (¬ clean → s.ninth l = true → ∃ t, exec (.cacheSoftError ctx va) s = .next t ∧ t.mem = s.mem ∧ loc / 8 ∈ t.badWords ∧
      ∀ x ∈ (t.port (homePort l.pa)).lines, x.pa = l.pa → x.held = none)

/-- 13 R359: PACK of a group with one page that fits puts its coded form into the frame; the page keeps its bytes, and its
leaf names the frame and the packed binding. A page that does not fit, or of which a block fails, stays as it is. -/
def Sys2Proof.Claims.PagePacks : Prop :=
  ∀ (s t : State) (ctx va bind frame : Nat) (b : Binding) (l : LeafAt),
    s.binding? ctx bind = some b → b.packed = true → b.group = 0 → bind < 256 → s.leafAt ctx (va / 131072 * 131072) = some l →
    l.level = 3 → leafTier l.e = 0 → leafMig l.e = false → s.packedSlot ctx l.e l.va = none → s.linesIn l.base 131072 = [] →
    s.paging.moves = [] → frame % 131072 = 0 → frame < 2 ^ 49 → inTier 0 frame 131072 = true → s.isFree frame 131072 = true →
    t.mem.wf = true → l.slot + 8 ≤ 2 ^ 60 →
    (match s.binding? ctx (leafBind l.e) with
      | some x => s.fillAll (blocksOf ctx l.va l.base (leafBind l.e) (16 * 2 ^ x.bsize) 131072)
      | none => s.fillAll (blocksOf ctx l.va l.base (leafBind l.e) 128 131072)) = .ok t →
    let data := 32 + 4 * (131072 / (16 * 2 ^ b.bsize) + 1)
    (∀ e, packPage t b l.base data = .error e → ∃ u, exec (.packCommand ctx va bind frame) s = .next u ∧ u.mem = s.mem ∧ u.dram = s.dram) ∧
    (∀ es bs xs, packPage t b l.base data = .ok (es, bs, xs) → 131072 < data + bs.length → exec (.packCommand ctx va bind frame) s = .next s) ∧
    (∀ es bs xs, packPage t b l.base data = .ok (es, bs, xs) → data + bs.length ≤ 131072 → ∃ u, exec (.packCommand ctx va bind frame) s = .next u ∧
      (∀ k, k < 131072 → memGet u.mem (locPacked 0 frame + k) = memGet t.mem (l.base + k)) ∧
      leafFrame (memNat u.mem l.slot 8) = frame / 8192 ∧ leafBind (memNat u.mem l.slot 8) = bind ∧
      ∃ x, u.paging.invals = t.paging.invals ++ [x] ∧ x.ctx = ctx ∧ x.page = l.va)

/-- 13 R350, R351: LAYER_ALERT sets ALERT and ALAYER; MAPOUT is ignored while ALERT is 0 or 12 layers are left, else the memory
service empties the top 4 GiB, and once they are empty it begins; MAPOUT_COMPLETE takes a layer and 4 GiB away and reports them. -/
def Sys2Proof.Claims.LayerMapouts : Prop :=
  ∀ (s : State) (n layer : Nat),
    let k := s.stack n
    (∃ t, exec (.layerAlert n layer) s = .next t ∧ t.mem = s.mem ∧ t.stack n = { k with alert := true, alayer := layer }) ∧
    (k.alert = false ∨ k.nlayer ≤ 12 → exec (.mapout n) s = .next s) ∧
    (let lo := n * 2 ^ 36 + (k.nlayer - 1) * 2 ^ 32
     k.alert = true → 12 < k.nlayer → k.mapout = false → exec (.mapout n) s =
      .next (if s.rangeEmpty lo (2 ^ 32) then s.setStack n { k with mapout := true } else s.evacuate lo (2 ^ 32))) ∧
    (k.mapout = true → ∃ t, exec (.mapoutComplete n) s = .next t ∧ t.mem = s.mem ∧ (t.stack n).nlayer = k.nlayer - 1 ∧
      (t.stack n).cap = k.cap - 4 ∧ (t.stack n).mapout = false ∧ (t.stack n).live = k.live &&& ~~~BitVec.ofNat 16 (2 ^ k.alayer) ∧
      t.dev.hotRemoved = s.dev.hotRemoved ++ [(n, k.alayer, n * 2 ^ 36 + (k.nlayer - 1) * 2 ^ 32, 2 ^ 32)])

/-- 15 R408, R422: `bop` whose threads pass the checks has them wait at it, each with a request, its object and arguments,
at the object's arbiter; a thread with an abort pending enters undo mode instead. The earliest check that fails is the
cause, of the lanes that fail it. -/
def Sys2Proof.Claims.BoostRequests : Prop :=
  ∀ (s : State) (w : Warp) (f : Fields), Issues s w (.bop f) f →
    let j := issueOf w f
    let chk (l : Nat) : Option (Nat × Nat × W64) := bopCheck s w f (s.boostRegion w) l
    (∀ l x, l ∈ j.lanes → chk l = some x → (∀ k ∈ j.lanes, ∀ y, chk k = some y → x.1 ≤ y.1) → ∃ r, (exec (.bop f) s = .next r) ∧
      ∃ m a, r = takeTrap s j { cause := m, lanes := j.lanes.filter fun k => (chk k).any fun y => y.1 == x.1, addr := a }) ∧
    ((∀ l ∈ j.lanes, chk l = none) → ∃ t y, exec (.bop f) s = .next t ∧ t.warp? w.key = some y ∧ t.mem = s.mem ∧ SameRegs w y ∧
      ∀ l ∈ j.lanes, l < w.threads.length → (w.thread l).task.pendingAbort = true →
        (y.thread l).task.undoMode = true ∧ (y.thread l).st = .ready ∧ (y.thread l).wait = .undo ∧ (y.thread l).pc = j.pc) ∧
    ((∀ l ∈ j.lanes, chk l = none) → (∀ l ∈ j.lanes, (w.thread l).task.pendingAbort = false) →
      let obj (l : Nat) : W64 := (effective (BitVec.ofNat 64 (readReg w f.a 0 true l)) (signedOf 32 f.im) 0).2
      let req (l : Nat) : BoostReq := {
        warp := w.key, lane := l, seq := (w.thread l).task.seq, ctx := w.ctx, obj := obj l, kind := bitsOf f.aux 0 10, pc := j.pcCur
        ep := w.ep, since := w.since, run := w.issues
        args := (List.range (bitsOf f.aux 10 3)).map fun k => BitVec.ofNat 32 (readReg w (f.b + BitVec.ofNat 8 k) 0 false l) }
      ∃ t y, exec (.bop f) s = .next t ∧ t.warp? w.key = some y ∧ t.mem = s.mem ∧ SameRegs w y ∧
        (∀ l ∈ j.lanes, l < w.threads.length → (y.thread l).st = .waiting ∧ (y.thread l).wait = .boost ∧ (y.thread l).pc = j.pc) ∧
        ∀ q, (t.port q).breqs = (s.port q).breqs ++ ((j.lanes.filter fun l => ptrOff (obj l) / 4096 % 48 == q).map req))

/-- 15 R411, R414, R421, R423: the task instructions. Outside a task they are 0x146, in undo mode 0x143; `tspawn` adds to
the pending spawns, `tabort` enters undo mode, `tcommit` without grants, spawns and aborts ends the task, and does not issue while
the release of its grants has to wait; `uret` has its thread take the next record of its undo before it issues again. -/
def Sys2Proof.Claims.TaskInstructions : Prop :=
  ∀ (s : State) (w : Warp) (f : Fields),
    let j := issueOf w f
    let task (l : Nat) : Prop := s.boostRegion w = true ∧ (w.thread l).isTask = true
    let traps (i : Instr) (c : Nat) (ls : List Nat) : Prop := exec i s = .next (takeTrap s j { cause := c, lanes := ls })
    (∀ i ∈ [Instr.tspawn f, .tabort f, .tcommit f], Issues s w i f → (∃ l ∈ j.lanes, ¬ task l) →
      traps i 0x146 (j.lanes.filter fun l => !(s.boostRegion w && (w.thread l).isTask))) ∧
    (∀ i ∈ [Instr.tspawn f, .tabort f, .tcommit f], Issues s w i f → (∀ l ∈ j.lanes, task l) → (∃ l ∈ j.lanes, (w.thread l).task.undoMode = true) →
      traps i 0x143 (j.lanes.filter fun l => (w.thread l).task.undoMode)) ∧
    (Issues s w (.tspawn f) f → (∀ l ∈ j.lanes, task l ∧ (w.thread l).task.undoMode = false ∧ (w.thread l).task.spawns.length < 8) →
      exec (.tspawn f) s = .next (ends w ((counted s w).withWarp w.key fun x => x.setLanes j.lanes fun l t =>
        { t with task := { t.task with spawns := t.task.spawns ++ [BitVec.ofNat 64 (readReg w f.a 0 true l)] } }))) ∧
    (Issues s w (.tspawn f) f → (∀ l ∈ j.lanes, task l ∧ (w.thread l).task.undoMode = false) →
      (∃ l ∈ j.lanes, (w.thread l).task.spawns.length = 8) → traps (.tspawn f) 0x142 (j.lanes.filter fun l => (w.thread l).task.spawns.length == 8)) ∧
    (Issues s w (.tabort f) f → (∀ l ∈ j.lanes, task l ∧ (w.thread l).task.undoMode = false ∧ l < w.threads.length) → j.lanes.Nodup →
      ∃ t y, exec (.tabort f) s = .next t ∧ t.warp? w.key = some y ∧ t.mem = s.mem ∧ ∀ l ∈ j.lanes,
        (y.thread l).st = .ready ∧ (y.thread l).wait = .undo ∧ (y.thread l).task.undoMode = true ∧ (y.thread l).task.spawns = [] ∧ (y.thread l).pc = j.pc) ∧
    (Issues s w (.tcommit f) f → (∀ l ∈ j.lanes, task l ∧ (w.thread l).task.undoMode = false) →
      (∃ l ∈ j.lanes, (w.thread l).task.pendingAbort = false ∧ s.holdsGrant w.ctx (w.thread l).task.seq = true ∧
        (w.busyLanes [l] = true ∨ gateOpen (counted s w) w.core 4 (w.thread l).covered = false)) → exec (.tcommit f) s = .next (held s w)) ∧
    (Issues s w (.tcommit f) f → (∀ l ∈ j.lanes, task l ∧ (w.thread l).task.undoMode = false ∧ (w.thread l).task.pendingAbort = false ∧
        (w.thread l).task.spawns = [] ∧ s.holdsGrant w.ctx (w.thread l).task.seq = false ∧ l < w.threads.length) → j.lanes.Nodup →
      ∃ t y, exec (.tcommit f) s = .next t ∧ t.warp? w.key = some y ∧ t.mem = s.mem ∧ SameRegs w y ∧ ∀ l ∈ j.lanes,
        (y.thread l).isTask = false ∧ (y.thread l).task.depth = 0 ∧ (y.thread l).pc = j.nxt ∧
        (y.thread l).ustk = if (w.thread l).task.pushed then (w.thread l).task.ubase else (w.thread l).ustk) ∧
    (Issues s w (.uret f) f → s.boostRegion w = false → traps (.uret f) 0x146 j.lanes) ∧
    (Issues s w (.uret f) f → s.boostRegion w = true → (∃ l ∈ j.lanes, ¬ ((w.thread l).task.undoMode = true ∧ (w.thread l).task.inverse = true)) →
      traps (.uret f) 0x149 (j.lanes.filter fun l => !((w.thread l).task.undoMode && (w.thread l).task.inverse))) ∧
    (Issues s w (.uret f) f → s.boostRegion w = true → (∀ l ∈ j.lanes, (w.thread l).task.undoMode = true ∧ (w.thread l).task.inverse = true) →
      exec (.uret f) s = .next (parks w f (counted s w) fun t => { t with wait := .undo, task := { t.task with inverse := false } }))

/-- 15 R404, R408, R409, R410, 23 R513: an arbiter judges the requests of one `bop` one after another in lane order, and no other
between them; that of a task with an abort pending it ends. It grants a request that conflicts with no other task's grant while it has room; where
an older task holds a conflicting grant the requester enters undo mode; where only younger ones do, it asks for their
aborts and stays. -/
def Sys2Proof.Claims.BoostGrants : Prop :=
  (∀ (s : State) (q n : Nat), s.mayJudge q n = false → exec (.boostGrant q n) s = .next s) ∧
  (∀ (s : State) (q n m : Nat) (r x : BoostReq), s.mayJudge q n = true → (s.port q).breqs[n]? = some r → m < n → (s.port q).breqs[m]? = some x →
    x.warp = r.warp → x.run = r.run → r.judged = false → x.judged = true) ∧
  (∀ (s : State) (q n : Nat) (r : BoostReq) (k : Nat × Nat), s.mayJudge q n = true → (s.port q).breqs[n]? = some r → s.inRun q = some k →
    (r.warp, r.run) = k) ∧
  ∀ (s : State) (q n : Nat) (r : BoostReq) (w : Warp) (ct : CTable) (k : Kind), (s.port q).breqs[n]? = some r → s.warp? r.warp = some w →
    w.ctx = r.ctx → (s.context r.ctx).ctable = some ct → ct.kinds[r.kind]? = some k → s.mayJudge q n = true →
    (w.thread r.lane).task.owed = false → (w.thread r.lane).task.seq = r.seq → r.lane < w.threads.length →
    let other (g : Grant) : Prop := g ∈ (s.port q).grants ∧ g.ctx = r.ctx ∧ g.obj = ptrOff r.obj ∧ g.seq ≠ r.seq
    let against (g : Grant) : Prop := other g ∧ (ct.judge r.kind (r.args.headD 0) g.kind g.arg0).1 = true
    ((w.thread r.lane).task.pendingAbort = true → exec (.boostGrant q n) s = .next (s.enterUndo r.warp r.lane false)) ∧
    ((w.thread r.lane).task.pendingAbort = false →
    ((∀ g, ¬ against g) → ((s.port q).grants.filter fun g => !g.kept).length < 4080 → k.noundo = true →
      ∃ t y g, exec (.boostGrant q n) s = .next t ∧ t.warp? r.warp = some y ∧ (y.thread r.lane).st = .ready ∧
        (y.thread r.lane).pc = nextPc (w.thread r.lane).pc ∧ (t.port q).breqs = (s.port q).breqs.eraseIdx n ∧
        (t.port q).grants = (s.port q).grants ++ [g] ∧ g.seq = r.seq ∧ g.ctx = r.ctx ∧ g.obj = ptrOff r.obj ∧ g.kind = r.kind ∧ g.undo = false ∧
        (0 < k.argc → g.arg0 = r.args.headD 0) ∧ t.mem = s.mem) ∧
    (∀ g, against g → g.seq < r.seq → ∃ t y, exec (.boostGrant q n) s = .next t ∧ t.warp? r.warp = some y ∧
      (y.thread r.lane).task.undoMode = true ∧ (y.thread r.lane).st = .ready ∧ (y.thread r.lane).wait = .undo ∧ t.mem = s.mem ∧
      ∀ x ∈ (t.port q).breqs, ¬ (x.warp = r.warp ∧ x.lane = r.lane)) ∧
    ((∃ g, against g) → (∀ g, against g → ¬ g.seq < r.seq) → (s.warps.map fun (y : Warp) => y.key).Nodup → ∃ t, exec (.boostGrant q n) s = .next t ∧ t.mem = s.mem ∧
      ∀ g x l, against g → x ∈ s.warps → x.ctx = r.ctx → s.warp? x.key = some x → (∀ u ∈ x.threads, u.wait ≠ .boost) → l < x.threads.length →
        (x.thread l).task.live = true → (x.thread l).task.seq = g.seq → (x.thread l).task.undoMode = false →
        (∀ y ∈ s.warps, y.ctx = r.ctx → ∀ u ∈ y.threads, u.task.live = true → u.task.seq = g.seq → u.wait ≠ .boost) →
        ∃ y, t.warp? x.key = some y ∧ (y.thread l).task.pendingAbort = true))

/-- 15 R400, R410 to R415: the moves of a task. A pending abort takes a task that waits in a `bop`; an undo with no record
left releases its grants and backs off; a task whose backoff is over starts at its entry with its argument; one that
waits with spawns passes them to its region's queue, with fresh numbers, and goes on. -/
def Sys2Proof.Claims.TaskMoves : Prop :=
  ∀ (s : State) (x : Warp) (lane : Nat), s.warp? x.key = some x → lane < x.threads.length → x.stopped = [] → x.snare = none → x.suspended = false →
    let th := x.thread lane
    let at_ (t : State) (p : Thread → Prop) : Prop := ∃ y, t.warp? x.key = some y ∧ p (y.thread lane)
    (th.wait = .boost → th.task.pendingAbort = true → x.hold.atEp = none → ∃ t, exec (.abortSignal x.key lane) s = .next t ∧ t.mem = s.mem ∧
      at_ t fun u => u.task.undoMode = true ∧ u.st = .ready ∧ u.wait = .undo ∧ u.task.pendingAbort = false ∧ u.pc = th.pc) ∧
    let x1 := x.setThread lane fun t => { t with task := { t.task with unwinding := true } }
    let s1 := s.setWarp x1
    (th.st ≠ .exited → th.wait = .undo → th.task.unwinding = false → s.youngerUndo x.ctx th.task.seq = true →
      exec (.undoReplay x.key lane) s = .next s) ∧
    (th.st ≠ .exited → th.wait = .undo → th.task.unwinding = true ∨ s.youngerUndo x.ctx th.task.seq = false → th.task.depth = 0 →
      releaseShut s1 x1 lane = true → exec (.undoReplay x.key lane) s = .next s1) ∧
    (th.st ≠ .exited → th.wait = .undo → th.task.unwinding = true ∨ s.youngerUndo x.ctx th.task.seq = false → th.task.depth = 0 →
      th.task.killed = false → releaseShut s1 x1 lane = false → ∃ t, exec (.undoReplay x.key lane) s = .next t ∧ t.mem = s.mem ∧
        (∀ q, ∀ g ∈ (t.port q).grants, ¬ (g.ctx = x.ctx ∧ g.seq = th.task.seq)) ∧ at_ t fun u => u.task.undoMode = false ∧
          u.wait = .backoff (s.cyclesOf x.core + 64 * 2 ^ min (th.task.aborts.toNat - 1) 10) ∧ u.pc = th.pc) ∧
    (∀ c r, th.st = .waiting → th.wait = .backoff c → c ≤ s.cyclesOf x.core → s.regionOf? x.ctx x.region = some r →
      let entry : W64 := BitVec.ofNat 64 (r.entry x.onL)
      (∀ q, transferTrap s x [(lane, entry)] = some q → q.ofFetch = true) → ∃ t, exec (.taskRestart x.key lane) s = .next t ∧ t.mem = s.mem ∧
        at_ t fun u => u.pc = entry ∧ u.st = .ready ∧ u.p = 0 ∧ u.fpflags = 0 ∧ u.task = th.task ∧
          u.unchecked = (transferTrap s x [(lane, entry)]).isSome ∧
          (2 ≤ th.v.length → u.v.getD 0 0 = th.task.arg.truncate 32 ∧ u.v.getD 1 0 = (th.task.arg >>> 32).truncate 32)) ∧
    (∀ r, th.st = .waiting → th.wait = .spawns → th.isTask = true → th.task.leaving = false → s.holdsGrant x.ctx th.task.seq = false →
      s.regionOf? x.ctx x.region = some r → r.spawnq.length + th.task.spawns.length ≤ 65536 → th.task.spawns ≠ [] →
      ∃ t r', exec (.spawnEnqueue x.key lane) s = .next t ∧ t.regionOf? x.ctx x.region = some r' ∧
        r'.spawnq.map (fun e => (e.arg, e.seq)) = r.spawnq.map (fun e => (e.arg, e.seq)) ++ (List.range th.task.spawns.length).map (fun n =>
          (th.task.spawns.getD n 0, (s.context x.ctx).taskCt + BitVec.ofNat 64 n)) ∧
        (t.context x.ctx).taskCt = (s.context x.ctx).taskCt + BitVec.ofNat 64 th.task.spawns.length ∧
        at_ t fun u => u.st = .ready ∧ u.pc = nextPc th.pc ∧ u.isTask = false ∧ u.task.spawns = [])

/-- 03 R62, R64: a re-sort chooses the READY threads at the lowest PC, or, where one has reached age 256, those at the PC
of the oldest; a warp that holds for its instruction or is stopped keeps its bundle. -/
def Sys2Proof.Claims.WarpResorts : Prop :=
  ∀ (s : State) (x : Warp), s.warp? x.key = some x →
    let ready (l : Nat) : Prop := l < x.width ∧ (x.thread l).st = .ready ∧ mayRun x l = true
    (x.pfx = none → x.hold = .free → x.stopped = [] → (x.snare.any fun n => !n.running) = false → ∃ t y, exec (.warpResort x.key) s = .next t ∧ t.mem = s.mem ∧
      t.warp? x.key = some y ∧ y.threads = x.threads ∧ y.s = x.s ∧ y.sorted = 0 ∧
      ∀ l, l ∈ y.bundle ↔ ready l ∧
        ((∀ k, ready k → (x.thread k).age < 256) → ∀ k, ready k → (x.thread l).pc.toNat ≤ (x.thread k).pc.toNat) ∧
        ((∃ k, ready k ∧ 256 ≤ (x.thread k).age) → ∃ k, ready k ∧ (x.thread k).pc = (x.thread l).pc ∧
          ∀ q, ready q → (x.thread q).age < (x.thread k).age ∨ ((x.thread q).age = (x.thread k).age ∧ k ≤ q))) ∧
    (x.pfx.isSome = true ∨ x.hold ≠ .free ∨ x.stopped ≠ [] → exec (.warpResort x.key) s = .next (s.setWarp x))

/-- 03 R90: once every live thread is PARKED those at the lowest PC among them are READY at the instruction behind their
`wsync`, and are the bundle; those at a higher PC stay parked. -/
def Sys2Proof.Claims.WsyncReleases : Prop :=
  ∀ (s : State) (x : Warp), s.warp? x.key = some x →
    ((∀ l ∈ x.live, (x.thread l).st = .parked) → x.width ≤ x.threads.length → x.live ≠ [] →
      ∃ t y, exec (.wsyncRelease x.key) s = .next t ∧ t.mem = s.mem ∧ t.warp? x.key = some y ∧ (∀ l ∈ y.bundle, l ∈ x.live) ∧ ∀ l ∈ x.live,
        if ∀ k ∈ x.live, (x.thread l).pc.toNat ≤ (x.thread k).pc.toNat then
          l ∈ y.bundle ∧ (y.thread l).st = .ready ∧ (y.thread l).pc = nextPc (x.thread l).pc
        else l ∉ y.bundle ∧ y.thread l = x.thread l) ∧
    ((∃ l ∈ x.live, (x.thread l).st ≠ .parked) → exec (.wsyncRelease x.key) s = .next (s.setWarp x))

/-- 03 R92: WARP_FREE frees a draining warp that has nothing left to finish, and no other warp; while an operation of it is
left it stays. -/
def Sys2Proof.Claims.WarpFrees : Prop :=
  ∀ (s : State) (x : Warp), s.warp? x.key = some x →
    (x.draining = false ∨ x.st ≠ 0 ∨ x.ld ≠ 0 ∨ x.cp ≠ 0 ∨ x.tm ≠ 0 ∨ x.fifo ≠ [] ∨ x.queue ≠ [] → exec (.warpFree x.key) s = .next s) ∧
    (x.draining = true → x.ld = 0 → x.st = 0 → x.cp = 0 → x.tm = 0 → x.sb = [] → x.fifo = [] → x.failed = [] → x.loads = [] → x.queue = [] →
      x.tileOps = [] → x.barOps = [] → x.stopped = [] → s.holdsWarp x.key = false →
      ∃ t, exec (.warpFree x.key) s = .next t ∧ t.warp? x.key = none ∧ (∀ k, k ≠ x.key → (t.warp? k).isSome = (s.warp? k).isSome) ∧
        ((∃ y ∈ s.warps, y.key ≠ x.key ∧ y.block = x.block) →
          t.blocks.map (fun b => { b with trigd := 0, swapCov := [] }) = s.blocks.map (fun b => { b with trigd := 0, swapCov := [] }) ∧
          (∀ b ∈ t.blocks, b.id ≠ x.block → b ∈ s.blocks) ∧ t.mem = s.mem ∧ ∀ k, k ≠ x.key → t.warp? k = s.warp? k) ∧
        ((∀ y ∈ s.warps, y.key ≠ x.key → y.block ≠ x.block) → ∀ b ∈ t.blocks, b.id ≠ x.block ∨ s.block? x.block = none))

/-- 16 R441, R453: TRIG_STEP triggers the threads of a TRIG marker whose gate is open, each once; the region has so many
untriggered threads less. -/
def Sys2Proof.Claims.TriggerSteps : Prop :=
  ∀ (s : State) (x : Warp) (e : FifoEnt) (rest : List FifoEnt) (r : Region), s.warp? x.key = some x → x.fifo = e :: rest → e.kind = .trig →
    mayLeave s x e = true → s.regionOf? x.ctx x.region = some r → (s.block? x.block).any (·.spawned) = false →
    let ls := (e.cells.map (·.1)).filter fun l => !(x.thread l).triggered
    ∃ t y r', exec (.trigStep x.key) s = .next t ∧ t.mem = s.mem ∧ t.warp? x.key = some y ∧ y.fifo = rest ∧ SameRegs x y ∧
      (∀ l ∈ e.cells.map (·.1), l < x.threads.length → (y.thread l).triggered = true) ∧
      t.regionOf? x.ctx x.region = some r' ∧ r'.untrig = r.untrig - ls.length

/-- 14 R390, R394: `ep` of a point the kernel does not have is 0x122; else it sets the warp's point and its count to 0, and
goes on where no migration is asked for; where one is, the warp is held at it and the request is formed. `mig.l` and `mig.d`
besides need an image of that class (0x121); on a core of it they go on, else their threads wait, unless AEN is clear, which
declines. -/
def Sys2Proof.Claims.MigrationPoints : Prop :=
  ∀ (s : State) (w : Warp) (f : Fields) (r : Region), s.regionOf? w.ctx w.region = some r →
    let j := issueOf w f
    let id := f.aux % 256
    let passed := (counted s w).withWarp w.key fun x => { x with ep := BitVec.ofNat 32 id, since := 0 }
    let cl := coreCluster w.core
    (∀ i ∈ [Instr.ep f, .migL f, .migD f], Issues s w i f → Whole w (allScalar f) → r.epcnt ≤ id → exec i s = .next (takeTrap s j { cause := 0x122, lanes := j.lanes })) ∧
    (Issues s w (.ep f) f → Whole w (allScalar f) → id < r.epcnt → (s.cluster cl).pen = false → exec (.ep f) s = .next (ends w passed)) ∧
    (∀ v, Issues s w (.ep f) f → Whole w (allScalar f) → id < r.epcnt → passed.warp? w.key = some v → j.lanes = v.live → epPolicy passed v = true →
      exec (.ep f) s = .next ((passed.withWarp w.key fun x => { x with hold := .ep id (!v.onL) }).formRequest w.key id (!v.onL))) ∧
    (let one (i : Instr) (toL : Bool) : Prop := (Issues s w i f → id < r.epcnt →
      let has := if toL then r.hasL else r.hasD
      (has = false → exec i s = .next (takeTrap s j { cause := 0x121, lanes := j.lanes })) ∧
      (has = true → w.onL = toL → exec i s = .next (ends w passed)) ∧
      (has = true → w.onL ≠ toL → (s.cluster cl).aen = true → exec i s =
        .next (parks w f passed fun t => { t with st := .waiting, wait := .mig id toL })) ∧
      (has = true → w.onL ≠ toL → (s.cluster cl).aen = false → ∃ t, exec i s = .next (ends w t) ∧ t.warps = passed.warps ∧ t.mem = s.mem ∧
        (t.cluster cl).decl = if (s.cluster cl).decl = 0xFFFFFFFF then 0xFFFFFFFF else (s.cluster cl).decl + 1))
     one (.migL f) true ∧ one (.migD f) false)

/-- 14 R388 to R390: a warp whose live threads all wait at one `mig` becomes a request of its cluster; where none is READY and some
wait at a `mig` and some elsewhere, those at it go on; the oldest request of a core that has room is granted its place; one that
waits 4,096 cycles is declined, and its threads go on. -/
def Sys2Proof.Claims.MigrationRequests : Prop :=
  ∀ (s : State) (x : Warp), s.warp? x.key = some x →
    let cl := coreCluster x.core
    let c := s.cluster cl
    (∀ id toL pc, x.live ≠ [] → (∀ l ∈ x.live, (x.thread l).atMig = some (id, toL, pc) ∧ (x.thread l).task.undoMode = false ∧ (x.thread l).inEmu = false) →
      s.migReq? x = none → x.saved = false → x.stopped = [] → x.hold.atEp = none → (c.migq.filter fun m => !m.granted).length < 32 →
      ∃ t m, exec (.migrationRequest x.key) s = .next t ∧ t.warps = s.warps ∧ t.mem = s.mem ∧ (t.cluster cl).migq = c.migq ++ [m] ∧
        m.warp = x.key ∧ m.ep = id ∧ m.toL = toL ∧ m.granted = false ∧ m.time = c.cycles.toNat ∧ (toL = false → m.core = x.homeCore)) ∧
    ((∀ l ∈ x.live, (x.thread l).st ≠ .ready) → (∃ l ∈ x.live, (x.thread l).atMig ≠ none) → (∃ l ∈ x.live, (x.thread l).atMig = none) →
      s.migReq? x = none → x.saved = false → x.stopped = [] → x.hold.atEp = none →
      exec (.migrationRequest x.key) s = .next ((s.setWarp x.migDecline).countDecline cl)) ∧
    (∀ m p, (c.migq.find? fun n => n.warp == x.key) = some m → m.granted = false → c.cycles.toNat < m.time + 4096 →
      (∀ n ∈ c.migq.takeWhile fun n => n.warp != x.key, n.granted = true ∨ n.core ≠ m.core) →
      placeOne s.uses m.core x.width (useOf s x m.core 0 0).vregs (useOf s x m.core 0 0).priv = some p →
      ∃ t y, exec (.migrationGrant cl x.key) s = .next t ∧ t.mem = s.mem ∧ t.warp? x.key = some y ∧ y.migrating = true ∧ SameRegs x y ∧
        ((t.cluster cl).migq.find? fun n => n.warp == x.key) = some { m with granted := true, slot := p.slot, quarter := p.quarter }) ∧
    (∀ m, (c.migq.find? fun n => n.warp == x.key) = some m → m.granted = false →
      (c.cycles.toNat < m.time + 4096 → exec (.decline cl x.key) s = .next s) ∧
      (m.time + 4096 ≤ c.cycles.toNat → exec (.migrationGrant cl x.key) s = exec (.decline cl x.key) s ∧ ∃ t y, exec (.decline cl x.key) s = .next t ∧ t.mem = s.mem ∧ t.warp? x.key = some y ∧ y.migrating = false ∧
        SameRegs x y ∧ (t.cluster cl).decl.toNat = min 0xFFFFFFFF (c.decl.toNat + 1) ∧
        (∀ n ∈ (t.cluster cl).migq, n.warp ≠ x.key) ∧
        (x.hold.atEp ≠ none → y.hold = .free ∧ ∀ l ∈ x.live, l < x.threads.length → (y.thread l).pc = nextPc (x.thread l).pc) ∧
        (x.hold.atEp = none → ∀ l, l < x.threads.length → ∀ q, (x.thread l).atMig = some q →
          (y.thread l).st = .ready ∧ (y.thread l).pc = nextPc (x.thread l).pc)))

/-- 14 R386, R391: MIGRATION_SEQUENCE takes a granted warp that has nothing in flight to its new core, its bundle at the
instruction behind the target's point, ages 0; an entry that is not valid is 0x123, and the warp stays. A warp with a thread in undo
mode or in an emulation routine is declined (R392). -/
def Sys2Proof.Claims.MigrationSequences : Prop :=
  ∀ (s : State) (x : Warp) (r : Region) (m : MigReq) (e : Nat) (es : List Nat), s.warp? x.key = some x → s.regionOf? x.ctx x.region = some r →
    s.migReq? x = some m → m.granted = true → x.fifo = [] → x.failed = [] → x.loads = [] → x.ld = 0 → x.st = 0 → x.sb = [] → x.queue = [] → x.tileOps = [] →
    x.barOps = [] → (∀ u ∈ x.threads, gateOpen s x.core 3 u.covered = true) → x.stopped = [] → x.width ≤ x.threads.length →
    s.epRecord r m.ep = some (e, es) →
    let stays (l : Nat) : Prop := (x.thread l).task.undoMode = true ∨ (x.thread l).inEmu = true
    ((∃ l ∈ x.live, stays l) → exec (.migrationSequence x.key) s = .next (s.decline x.key)) ∧
    ((∀ l ∈ x.live, ¬ stays l) → (es.all (entryOk r) = true → ∃ t y, exec (.migrationSequence x.key) s = .next t ∧ t.warp? x.key = some y ∧ y.core = m.core ∧ y.slot = m.slot ∧
      y.onL = m.toL ∧ y.bundle = x.live ∧ y.issues = 0 ∧ y.ep = x.ep ∧ (∀ n ∈ (t.cluster (coreCluster x.core)).migq, n.warp ≠ x.key) ∧ ∀ l ∈ x.live,
        (y.thread l).st = .ready ∧ (y.thread l).age = 0 ∧
        (y.thread l).pc = nextPc (BitVec.ofNat 64 (r.imageBase m.toL + bitsOf e (if m.toL then 32 else 0) 32))) ∧
    (es.all (entryOk r) = false → ∃ t y q, exec (.migrationSequence x.key) s = .next t ∧ t.warp? x.key = some y ∧ y.core = x.core ∧
      t.recs = s.recs ++ [q] ∧ q.cause = 0x123 ∧ y.stopped = [s.recCt] ∧ y.s = x.s ∧ t.mem = s.mem))

/-- 17 R469, R476: `fres` waits for the gate of its release; a slot without a matching record of its context, or one of its own
warp, gives p = 0; else the record is resolved, its threads acquire what the release covers, and p = 1: RESUME lets the warp
replay, KILL ends the record's threads. -/
def Sys2Proof.Claims.Resolutions : Prop :=
  ∀ (s : State) (w : Warp) (f : Fields),
    let one (i : Instr) (mode : Nat) : Prop := (
      Issues s w i f → Whole w (allScalar f) →
      let j := issueOf w f
      let a : W64 := BitVec.ofNat 64 (readReg w f.a 0 true j.low) + f.imm.signExtend 64
      let put (ok : Bool) (x : Warp) : Warp := x.putAll (j.lanes.flatMap fun l => destWrites f.d false l (bitOf ok))
      let s1 := counted s w
      let open_ := w.busyLanes j.lanes = false ∧ gateOpen s1 w.core 4 (w.coveredBy j.lanes) = true
      (¬ open_ → exec i s = .next (held s w)) ∧
      (open_ →
        (s1.resolvable w.ctx a mode = none → exec i s = .next (ends w (s1.withWarp w.key (put false)))) ∧
        (∀ r, s1.resolvable w.ctx a mode = some r →
          (r.names w = true → exec i s = .next (ends w (s1.withWarp w.key (put false)))) ∧
          (r.names w = false →
            exec i s = .next (ends w (((s1.acquireFrom r (w.coveredBy j.lanes)).resolve r mode).withWarp w.key (put true)))) ∧
          (r.names w = false → r.acts = .nothing → s.isSaved r = false → ∃ t x, exec i s = .next t ∧ t.rec? r.id = some x ∧ x.resolved = true) ∧
          (∀ k m, r.names w = false → r.acts = .replay k m → s.isSaved r = false → mode ≠ 1 → s.rec? r.id = some r →
            ∃ t x, exec i s = .next t ∧ t.rec? r.id = some x ∧ x.resolved = true ∧
              ∀ y, s.warp? k = some y → ∃ z, t.warp? k = some z ∧ z.stopped = (y.stopped.filter fun n => n != r.id) ∧ SameRegs y z))))
    one (.fresResume f) 0 ∧ one (.fresKill f) 1 ∧ one (.fresRebind f) 2

/-- 17 R465, R466, R475: FAULT_RECORD writes the next record of a ring that has room: its 64 bytes stand in the slot at the
producer index, which goes up by 1; a record of the memory service or of the debugger goes to it instead. A full ring
keeps it waiting. -/
def Sys2Proof.Claims.FaultRecords : Prop :=
  ∀ (s : State) (r : Rec), s.rec? r.id = some r → r.written = false →
    (∀ k w, r.acts.warp? = some k → s.warp? k = some w → w.queue = []) →
    (r.toService = true → ∃ t, exec (.faultRecord r.id) s = .next t ∧ t.rec? r.id = some { r with written := true } ∧ t.mem = s.mem ∧ t.warps = s.warps) ∧
    (r.toService = false → r.toDebug = true → ∃ t x, exec (.faultRecord r.id) s = .next t ∧ t.rec? r.id = some x ∧ x.written = true ∧
      (t.context r.ctx).halted = true) ∧
    (∀ d n, r.toService = false → r.toDebug = false → s.domainOf r = some d → s.isNext r = true → s.agentRead d.ctx (d.rcb + 112) 8 = some n →
      let slot := d.ring.toNat + 64 * (n % 2 ^ 32 % 2 ^ d.rlog)
      (2 ^ d.rlog ≤ (n % 2 ^ 32 + 2 ^ 32 - n / 2 ^ 32 % 2 ^ 32) % 2 ^ 32 → exec (.faultRecord r.id) s = .next s) ∧
      (∀ cs ks t0, s.ringStops d r.needRes = false → agentChks s d.ctx slot 64 = some cs → agentChks s d.ctx (d.rcb + 112) 4 = some ks →
        let s1 := s.makeRoom (s.blockOf d.ctx slot (s.homeLoc ((cs.headD { lane := 0, addr := 0 }).loc)))
        let p := writeBytes s1 d.ctx hostView (agentTag s1 d.ctx) cs (r.words.flatMap fun x => bytesOf 8 x.toNat)
        (reachAll p.2 p.1).agentPut d.ctx (d.rcb + 112) hostView (bytesOf 4 ((n % 2 ^ 32 + 1) % 2 ^ 32)) = some t0 →
        ∃ t x, exec (.faultRecord r.id) s = .next t ∧ t.rec? r.id = some x ∧ x.written = true ∧ x.slot = some (BitVec.ofNat 64 slot) ∧
          (d.msien = true → (d.ctx, d.vector) ∈ t.dev.msix)))

/-- 17 R471, R472, R475, R477: the host's moves. FRESGO resolves the record its slot names, or FRESOK is 0; KILLGO ends a
region that has not ended, with one record 0x168; a function reset ends every region of the context; RUN ends the
debugger's halt; a region's tocsin at its limit stops it, or kills it where its record would wait as for a full ring. -/
def Sys2Proof.Claims.HostMoves : Prop :=
  ∀ (s : State) (ctx : Nat),
    let c := s.context ctx
    let moded (mode : Nat) : State := s.setContext ctx { c with fresMode := mode }
    (let one (i : Instr) (mode : Nat) : Prop :=
      (s.resolvable ctx c.fresAddr mode = none → exec i s = .next (s.setContext ctx { c with fresMode := mode, fresOk := false })) ∧
      (∀ r, s.resolvable ctx c.fresAddr mode = some r → ∃ t,
        exec i s = .next (t.setContext ctx { t.context ctx with fresOk := true }) ∧ t = (moded mode).resolve r mode ∧
        (r.acts = .nothing → s.isSaved r = false → ∃ x, t.rec? r.id = some x ∧ x.resolved = true))
     one (.hostFresResume ctx) 0 ∧ one (.hostFresKill ctx) 1 ∧ one (.hostFresRebind ctx) 2) ∧
    ((∀ r, s.regionOf? ctx c.killAddr.toNat = some r → r.alive = false) →
      exec (.hostKill ctx) s = .next (s.setContext ctx { c with killOk := false })) ∧
    (∀ r, s.regionOf? ctx c.killAddr.toNat = some r → r.alive = true → ∃ t, exec (.hostKill ctx) s = .next t ∧ (t.context ctx).killOk = true ∧
      (∀ x ∈ t.regions, x.ctx = ctx → x.rcb = r.rcb → x.state = .killed) ∧
      ∃ q, t.recs.getLast? = some q ∧ q.cause = 0x168 ∧ q.ctx = ctx ∧ q.region = r.rcb) ∧
    (∃ t, exec (.functionReset ctx) s = .next t ∧ ∀ r ∈ s.regions, r.ctx = ctx → r.parent = 0 → ∀ y ∈ s.subtree ctx r.rcb, y.alive = true →
      ∀ x ∈ t.regions, x.ctx = ctx → x.rcb = y.rcb → x.state = .killed) ∧
    (∃ t, exec (.cdbgctlRun ctx) s = .next t ∧ (t.context ctx).halted = false) ∧
    (∀ r, s.keyed? (r.ctx * 2 ^ 40 + r.rcb) = some r → r.tocsin ≠ 0 → r.tocsin ≤ r.count → r.tocStop = false → r.alive = true →
      let u := (s.setRegion { r with tocStop := true }).settle r.ctx
      ((∃ d, u.regionOf? r.ctx r.faultRegion = some d ∧ u.ringStops d true = true) → ∃ t, exec (.tocsin (r.ctx * 2 ^ 40 + r.rcb)) s = .next t ∧
        ∀ x ∈ t.regions, x.ctx = r.ctx → x.rcb = r.rcb → x.state = .killed) ∧
      ((∀ d, u.regionOf? r.ctx r.faultRegion = some d → u.ringStops d true = false) →
      ∃ t q, exec (.tocsin (r.ctx * 2 ^ 40 + r.rcb)) s = .next t ∧ t.recs.getLast? = some q ∧ q.cause = 0x160 ∧ q.ctx = r.ctx ∧ q.region = r.rcb ∧
        ∃ x, t.regionOf? r.ctx r.rcb = some x ∧ x.tocStop = true))

/-- 16 R428, R432: a doorbell sets QTAIL; QERR_CLEAR clears QERR; an invalid command sets QERR and ERRIDX and raises 0x166,
whatever its start. -/
def Sys2Proof.Claims.QueueControls : Prop :=
  ∀ (s : State) (ctx q : Nat),
    let x := s.cqueue ctx q
    (∀ v, s.answers = false → exec (.queueDoorbell ctx q v) s = .next s) ∧
    (∀ v, q < 16 → s.answers = true → ∃ t, exec (.queueDoorbell ctx q v) s = .next t ∧ t.cqueue ctx q = { x with tail := BitVec.ofNat 32 v } ∧ t.mem = s.mem) ∧
    (x.err = false → exec (.qerrClear ctx q) s = .next s) ∧
    (x.err = true → ∃ t, exec (.qerrClear ctx q) s = .next t ∧ (t.cqueue ctx q).err = false ∧ (t.cqueue ctx q).tail = x.tail ∧
      ∀ c ∈ (t.cqueue ctx q).cmds, c.opc = 0 → c.done = true) ∧
    ∀ i ∈ [Instr.launch ctx q, .graph ctx q, .waitCommand ctx q, .signal ctx q, .copy ctx q],
      (x.en = false ∨ x.err = true ∨ x.next = x.tail ∨ s.dev.stage ≠ 11 → exec i s = .next s) ∧
      (∀ ws, s.readyCmd ctx q = some ws → s.served ctx q = true → cmdBad ws = true →
        ∃ t r, exec i s = .next t ∧ (t.cqueue ctx q).err = true ∧ (t.cqueue ctx q).erridx = x.next ∧ t.recs = s.recs ++ [r] ∧ r.cause = 0x166 ∧
          r.ctx = ctx ∧ t.mem = s.mem)

/-- 16 R429 to R433: the queue that the command processor serves starts its next command: a WAIT, GRAPH or COPY stands in the
queue then; a SIGNAL whose gate is open stores its value and completes; a LAUNCH does what its region comes to. -/
def Sys2Proof.Claims.CommandStarts : Prop :=
  ∀ (s : State) (ctx q opc : Nat) (ws : List Nat), s.readyCmd ctx q = some ws → s.served ctx q = true → cmdBad ws = false → ws.headD 0 % 256 = opc →
    let x := s.cqueue ctx q
    let c := (x.take ws opc).2
    let t0 := (s.setCqueue ctx q (x.take ws opc).1).setPartition ctx { s.partition ctx with lastQ := 16 * (ctx % 8) + q }
    (opc = 3 → ∃ t d, exec (.waitCommand ctx q) s = .next t ∧ t.mem = s.mem ∧ (t.cqueue ctx q).cmds = x.cmds ++ [d] ∧ d.opc = 3 ∧ d.done = false ∧
      d.index = x.next.toNat ∧ (t.cqueue ctx q).next = x.next + 1) ∧
    (opc = 2 → ∃ t d, exec (.graph ctx q) s = .next t ∧ t.mem = s.mem ∧ (t.cqueue ctx q).cmds.getLast? = some d ∧ d.opc = 2 ∧ d.done = false ∧
      d.node = BitVec.ofNat 64 (ws.getD 1 0) ∧ (t.cqueue ctx q).next = x.next + 1) ∧
    (opc = 5 → ∃ t d, exec (.copy ctx q) s = .next t ∧ t.mem = s.mem ∧ (t.cqueue ctx q).cmds.getLast? = some d ∧ d.opc = 5 ∧ d.done = false ∧
      d.unit = min (BitVec.ofNat 64 (ws.getD 3 0)).toNat 65536 ∧ (t.cqueue ctx q).next = x.next + 1) ∧
    (opc = 4 → (gateOpen s 0 5 c.covered = false → exec (.signal ctx q) s = .next s) ∧
      (∀ n u, gateOpen s 0 5 c.covered = true → t0.agentPut ctx (c.word 1) cpView (bytesOf 8 (c.word 2)) = some (n, u) →
        ∃ t, exec (.signal ctx q) s = .next t ∧ t.mem = u.mem ∧ (t.cqueue ctx q).next = x.next + 1 ∧
          (x.cmds = [] → (t.cqueue ctx q).cmds = [] ∧ (t.cqueue ctx q).head = x.head + 1))) ∧
    (opc = 1 → (∀ u, launchRegion t0 ctx q c.index (c.word 1) (c.word 2) c.covered = .started u → exec (.launch ctx q) s = .next u) ∧
      ∀ u, launchRegion t0 ctx q c.index (c.word 1) (c.word 2) c.covered = .refused u → exec (.launch ctx q) s = .next (u.finishCmd ctx q c.index []))

/-- 16 R434 to R437: a LAUNCH of a misplaced control block, or of one with a field out of range, is refused with 0x163; a
legal group region without a parent is there then, running, at depth 0, with the fields its block gives. -/
def Sys2Proof.Claims.RegionLaunches : Prop :=
  ∀ (s : State) (ctx q k rcb : Nat) (cov : List Nat),
    (∀ prod, rcb % 256 ≠ 0 ∨ 2 ^ 40 ≤ rcb → ∃ t r, launchRegion s ctx q k rcb prod cov = .refused t ∧ t.recs = s.recs ++ [r] ∧ r.cause = 0x163 ∧
      t.regions = s.regions) ∧
    (∀ x prod, rcb % 256 = 0 → rcb < 2 ^ 40 → s.agentRead ctx rcb 256 = some x → (s.regionOf? ctx rcb).any Region.alive = false →
      rcbBad x = true → ∃ t r, launchRegion s ctx q k rcb prod cov = .refused t ∧ t.recs.getLast? = some r ∧ r.cause = 0x163 ∧ t.regions = s.regions) ∧
    (∀ x, rcb % 256 = 0 → rcb < 2 ^ 40 → s.agentRead ctx rcb 256 = some x → (s.regionOf? ctx rcb).any Region.alive = false →
      rcbBad x = false → rcbField x 8 0 64 = 0 → rcbField x 0 0 2 = 2 → (∀ q ∈ s.recs, q.ctx = ctx → q.outstanding = false) →
      ∃ t r, launchRegion s ctx q k rcb 0 cov = .started t ∧ t.regionOf? ctx rcb = some r ∧ r.group = true ∧ r.state = .running ∧ r.parent = 0 ∧
        r.depth = 0 ∧ r.prio = rcbField x 0 6 2 ∧ r.maxd = rcbField x 64 32 9 ∧ r.maxl = rcbField x 64 41 6 ∧ r.faultRegion = rcb ∧
        r.policy = rcbField x 96 0 2 ∧ r.quantum = rcbField x 64 0 32 ∧ r.deadline = rcbField x 128 0 32)

/-- 16 R429, R431: WAIT_SATISFIED completes the first WAIT whose value has come, unsigned, and passes the completed commands
in front of the queue. -/
def Sys2Proof.Claims.CommandWaits : Prop :=
  ∀ (s : State) (ctx q : Nat) (c : Cmd) (r : List Cmd) (v : Nat), (s.cqueue ctx q).cmds = c :: r → c.opc = 3 → c.done = false →
    s.agentRead ctx (c.words.getD 1 0).toNat 8 = some v →
    ((c.words.getD 2 0).toNat ≤ v → ∃ t, exec (.waitSatisfied ctx q) s = .next t ∧ t.mem = s.mem ∧
      (t.cqueue ctx q).head = (s.cqueue ctx q).head + BitVec.ofNat 32 (1 + (r.takeWhile fun d => d.done || d.index == c.index).length)) ∧
    (v < (c.words.getD 2 0).toNat → r = [] → ∃ t, exec (.waitSatisfied ctx q) s = .next t ∧ t.mem = s.mem ∧ t.cqueue ctx q = s.cqueue ctx q)

/-- 16 R443, R444: GRAPH_NODE of a walk at node 0 completes the command; past its limit of steps the walk fails with 0x165;
behind a node that has run it goes to the successor of the lowest range that holds RESULT, else to DEFAULT. -/
def Sys2Proof.Claims.GraphWalks : Prop :=
  ∀ (s : State) (ctx q : Nat) (c : Cmd), ((s.cqueue ctx q).cmds.find? fun c => c.opc == 2 && !c.done && !c.run) = some c →
    (c.stopped = false → c.node = 0 → ∃ t, exec (.graphNode ctx q) s = .next t ∧ t.mem = s.mem ∧ t.recs = s.recs ∧
      ∀ d ∈ (t.cqueue ctx q).cmds, d.index = c.index → d.done = true) ∧
    (c.stopped = false → c.node ≠ 0 → c.word 2 ≠ 0 → c.steps = c.word 2 ∨ c.node.toNat % 64 ≠ 0 → ∃ t r, exec (.graphNode ctx q) s = .next t ∧
      t.mem = s.mem ∧ t.recs = s.recs ++ [r] ∧ r.cause = 0x165 ∧ ∀ d ∈ (t.cqueue ctx q).cmds, d.index = c.index → d.done = true) ∧
    (∀ v, c.stopped = true → s.agentRead ctx (c.word 9 + 136) 8 = some v → ∃ t d, exec (.graphNode ctx q) s = .next t ∧ t.mem = s.mem ∧
      d ∈ (t.cqueue ctx q).cmds ∧ d.index = c.index ∧ d.stopped = false ∧ d.steps = c.steps + 1 ∧
      let n := bitsOf (c.word 8) 0 3
      let hit (k : Nat) : Prop := c.word (11 + 3 * k) ≤ v ∧ v ≤ c.word (12 + 3 * k)
      (∀ k, k < n → hit k → (∀ m, m < k → ¬ hit m) → d.node = BitVec.ofNat 64 (c.word (13 + 3 * k))) ∧
      ((∀ k, k < n → ¬ hit k) → d.node = BitVec.ofNat 64 (c.word 10)))

/-- 16 R438, R439, R445, R446: BLOCK_DISPATCH places the next block of the region whose turn it is on the cluster with the most
free warp slots, its allotments where they fit; a region that has no place for it asks for room; DEPENDENT_LAUNCH_START starts a region whose producer has triggered. -/
def Sys2Proof.Claims.BlockDispatches : Prop :=
  ∀ (s : State) (r : Region), s.keyed? r.key = some r →
    (∀ cl plan k, s.placement r = some (cl, plan) → r.nextBlock = some (k, false) → s.blockReady r = true → s.isTurn r = true →
      ∃ t b, exec (.blockDispatch r.key) s = .next t ∧ t.blocks = s.blocks ++ [b] ∧ b.id = s.blockCt ∧ b.index = k ∧ b.cluster = cl ∧
        b.region = r.rcb ∧ b.allots = plan.map (·.2) ∧ b.threads = r.bthreads ∧ t.blockCt = s.blockCt + 1 ∧
        (∀ w ∈ s.warps, w.key < s.warpCt → ∃ y ∈ t.warps, y = w) ∧ (∀ w ∈ t.warps, w ∈ s.warps ∨ w.block = b.id)) ∧
    (∀ cl plan, s.placement r = some (cl, plan) → cl ∈ s.clustersOf r.ctx ∧ s.foreign r.ctx cl = false ∧ fitCluster s.uses s.blocks r cl = some plan ∧
      ∀ c2 p2, c2 ∈ s.clustersOf r.ctx → s.foreign r.ctx c2 = false → (∀ p ∈ r.preempt, p.1 ≠ c2) → fitCluster s.uses s.blocks r c2 = some p2 →
        s.within r (p2.map (·.2.core)) = true →
          let free (c : Nat) : Nat := s.slotsFree ((List.range 18).map (coreOfLocal c))
          free c2 ≤ free cl ∧ (free c2 = free cl → cl ≤ c2)) ∧
    ((s.placement r).isSome = true → s.isTurn r = false → exec (.blockDispatch r.key) s = .next s) ∧
    (r.nextBlock.isSome = true → s.placement r = none → r.group = false → r.state = .running → exec (.blockDispatch r.key) s = .next (s.askRoom r)) ∧
    (r.state = .pending → r.group = true ∨ (s.placement r).isSome = true → (∀ q ∈ s.recs, q.ctx = r.ctx → q.outstanding = false) →
      (∀ a ∈ s.regions, a.ctx = r.ctx → a.tocStop = false) → (∀ p, s.regionOf? r.ctx r.producer = some p → p.alive = true → p.untrig = 0) →
      ∃ t x, exec (.dependentLaunchStart r.key) s = .next t ∧ t.regionOf? r.ctx r.rcb = some x ∧ x.state = .running) ∧
    (∀ p, s.regionOf? r.ctx r.producer = some p → p.alive = true → p.untrig ≠ 0 → exec (.dependentLaunchStart r.key) s = .next s)

/-- 16 R440, R442: END_REQUEST passes a request to end; REGION_COMPLETE waits for the last block and for the gate of its
release, then STATE is complete. -/
def Sys2Proof.Claims.RegionEnds : Prop :=
  ∀ (s : State) (r : Region), s.keyed? r.key = some r →
    (r.endReq = true → r.endSent = false → ∃ t x, exec (.endRequest r.key) s = .next t ∧ t.mem = s.mem ∧ t.regionOf? r.ctx r.rcb = some x ∧
      x = { r with endSent := true }) ∧
    (r.endReq = false ∨ r.endSent = true → exec (.endRequest r.key) s = .next s) ∧
    (r.state = .running ∨ r.state = .suspended → s.finished r = none → exec (.regionComplete r.key) s = .next s) ∧
    (∀ cov, r.state = .running ∨ r.state = .suspended → s.finished r = some cov →
      (gateOpen s 0 5 cov = false → exec (.regionComplete r.key) s = .next s) ∧
      (gateOpen s 0 5 cov = true → s.below r.ctx (r.rcb + 144) = false → ∃ t x, exec (.regionComplete r.key) s = .next t ∧
        t.regionOf? r.ctx r.rcb = some x ∧ x.state = .complete ∧ x.spawnq = [] ∧ x.covered = cov)) ∧
    (r.group = false → s.blocksOfRegions [r] ≠ [] → s.finished r = none)

/-- 16 R446 to R450: pre-emption. A time slice ends where another context of the partition has work, whose turn it is then; a
region that has used its quantum on a cluster is asked off it where another waits; a choice within the deadline that is
drain, save or discard is kept, and none is 0x161. -/
def Sys2Proof.Claims.Preemptions : Prop :=
  ∀ (s : State) (r : Region) (cl : Nat), s.keyed? r.key = some r →
    (∀ part next, kvHas s.parts part = true → let old := 8 * part + (s.partition (8 * part)).slice
      let new := 8 * part + next % 8
      (new = old ∨ s.hasWork new = false → exec (.timeSliceEnd part next) s = .next s) ∧
      (new ≠ old → s.hasWork new = true → (∀ y ∈ s.recs, y.later = none) → ∃ t, exec (.timeSliceEnd part next) s = .next t ∧ (t.partition new).slice = next % 8 ∧ t.mem = s.mem ∧
        t.warps = s.warps ∧ t.blocks = s.blocks)) ∧
    (r.quantum = 0 ∨ kvGet r.used cl 0 < r.quantum → exec (.quantumExpiry r.key cl) s = .next s) ∧
    (∀ o, r.quantum ≠ 0 → r.quantum ≤ kvGet r.used cl 0 → o ∈ s.regions → o.ctx = r.ctx → o.rcb ≠ r.rcb → o.group = false → r.prio ≤ o.prio →
      o.state = .running → o.nextBlock.isSome = true → s.placement o = none → ∃ t x, exec (.quantumExpiry r.key cl) s = .next t ∧
        t.regionOf? r.ctx r.rcb = some x ∧ (∃ p ∈ x.preempt, p.1 = cl) ∧ t.mem = s.mem) ∧
    (s.blocksOn r cl = [] → ((∀ p ∈ r.preempt, p.1 ≠ cl) → exec (.preemption r.key cl) s = .next s) ∧
      ((∃ p ∈ r.preempt, p.1 = cl) → ∃ t x, exec (.preemption r.key cl) s = .next t ∧ t.regionOf? r.ctx r.rcb = some x ∧ ∀ p ∈ x.preempt, p.1 ≠ cl)) ∧
    (s.blocksOn r cl ≠ [] → (∀ p ∈ r.preempt, p.1 = cl → p.2 = 0) → choose s r cl = some 1 → ∃ t x, exec (.preemption r.key cl) s = .next t ∧
      t.regionOf? r.ctx r.rcb = some x ∧ (cl, 1) ∈ x.preempt ∧ t.warps = s.warps ∧ t.mem = s.mem) ∧
    (s.blocksOn r cl ≠ [] → (∀ p ∈ r.preempt, p.1 = cl → p.2 = 0) → choose s r cl = some 2 → ∃ t x, exec (.preemption r.key cl) s = .next t ∧
      t.regionOf? r.ctx r.rcb = some x ∧ (cl, 2) ∈ x.preempt ∧
      ∀ b w, b ∈ s.blocksOn r cl → w ∈ s.unfinished b → s.warp? w.key = some w → ∃ y, t.warp? w.key = some y ∧ y.saved = true) ∧
    (s.blocksOn r cl ≠ [] → (∀ p ∈ r.preempt, p.1 = cl → p.2 = 0) → choose s r cl = none → ∃ t q, exec (.preemption r.key cl) s = .next t ∧
      t.recs.getLast? = some q ∧ q.cause = 0x161 ∧ q.ctx = r.ctx ∧ q.region = r.rcb)

/-- 16 R448 to R450: PREEMPT_SAVE saves a block whose warps have come to rest, with its warps, and frees its place; RESTORE
puts a saved block back where its warps and allotments fit, its warps no longer saved. -/
def Sys2Proof.Claims.SavesAndRestores : Prop :=
  ∀ (s : State) (r : Region) (cl : Nat), s.keyed? r.key = some r →
    (s.blocksOn r cl = [] → (∃ p ∈ r.preempt, p.1 = cl) → ∃ t x, exec (.preemptSave r.key cl) s = .next t ∧
      t.regionOf? r.ctx r.rcb = some x ∧ ∀ p ∈ x.preempt, p.1 ≠ cl) ∧
    (∀ b, (cl, 2) ∈ r.preempt → ((s.blocksOn r cl).find? fun b => (s.warpsOf b.id).all fun w => !w.draining && w.saved && atRest s w) = some b →
      ∃ t x, exec (.preemptSave r.key cl) s = .next t ∧ t.saves = s.saves ++ [x] ∧ x.block.id = b.id ∧ x.warps = s.warpsOf b.id ∧
        (∀ w ∈ t.warps, w.block ≠ b.id) ∧ (∀ y ∈ t.blocks, y.id ≠ b.id)) ∧
    (∀ n x q, s.saves[n]? = some x → s.regionOf? x.block.ctx x.block.region = some q →
      (restorePlace s q x = none → exec (.restore n) s = .next s) ∧
      (∀ c us as, restorePlace s q x = some (c, us, as) → us.length = x.warps.length → (∀ y ∈ s.recs, y.later = none) →
        ∃ t b, exec (.restore n) s = .next t ∧ t.saves = s.saves.eraseIdx n ∧ b ∈ t.blocks ∧ b.id = x.block.id ∧ b.cluster = c ∧ b.allots = as ∧
          ∀ w ∈ x.warps, ∃ y ∈ t.warps, y.key = w.key ∧ y.saved = false))

/-- 16 R451, 18 R486 to R488: the rail's current is divided by demand, the queued `mgo` at their weight, within ILIM; an
island at TJMAX is granted only enough for FMIN. From stage 10 of bring-up an island steps by 100 MHz towards the highest
frequency in its limits that its grant allows, the supply first on the way up and last on the way down; its supply is the table's value
with the guardband, 560 to 760 mV; the daily update lowers FMAX to FLIMIT and moves the supply with the guardband. -/
def Sys2Proof.Claims.Islands : Prop :=
  ∀ (s : State) (cl : Nat), cl < 18 →
    let c := s.cluster cl
    let top := c.topFreq cl
    (∀ inow demands temps, ∃ t, exec (.currentArbitration inow demands temps) s = .next t ∧ t.mem = s.mem ∧
      let ds := (List.range 18).map fun k => demands.getD k 0 + s.mgoWeight k
      t.dev.inow = inow % 4096 ∧ ((List.range 18).map fun k => (t.cluster k).grant).sum ≤ s.dev.ilim ∧ (t.cluster cl).temp = temps.getD cl c.temp ∧
      ((t.cluster cl).hot = false → (t.cluster cl).grant = s.railAmps * ds.getD cl 0 / ds.sum) ∧
      ((t.cluster cl).hot = true → (t.cluster cl).grant = min (s.railAmps * ds.getD cl 0 / ds.sum) (Config.islandAmps cl c.fmin)) ∧
      (s.dev.tjmax ≤ temps.getD cl c.temp → (t.cluster cl).hot = true) ∧ (temps.getD cl c.temp + 5 ≤ s.dev.tjmax → (t.cluster cl).hot = false) ∧
      (t.cluster cl).fnow = c.fnow) ∧
    (c.hot = true → top = c.fmin) ∧
    (c.hot = false → (top = c.fmin ∨ (top ≤ c.fmax ∧ top ≤ c.flimit ∧ Config.islandAmps cl top ≤ c.grant)) ∧
      ∀ f, c.fmin ≤ f → f ≤ c.fmax → f ≤ c.flimit → Config.islandAmps cl f ≤ c.grant → f ≤ top) ∧
    (∀ f, 560 ≤ c.voltsAt f ∧ c.voltsAt f ≤ 760 ∧
      ∀ p ∈ [(20, 560), (30, 610), (40, 675), (44, 760)], f = p.1 → c.voltsAt f = min 760 (p.2 + c.guardband)) ∧
    (∀ f, let moved (x : Cluster) : Prop := exec (.islandStep cl f) s = .next (s.setCluster cl x)
      (s.dev.stage < 10 → exec (.islandStep cl f) s = .next s) ∧
      (10 ≤ s.dev.stage → f = c.fnow → moved { c with vnow := c.voltsAt f }) ∧
      (10 ≤ s.dev.stage → f = c.fnow + 1 → f ≤ top → c.vnow < c.voltsAt f → moved { c with vnow := c.voltsAt f }) ∧
      (10 ≤ s.dev.stage → f = c.fnow + 1 → f ≤ top → c.voltsAt f ≤ c.vnow → moved { c with fnow := f }) ∧
      (10 ≤ s.dev.stage → f + 1 = c.fnow → top ≤ f → moved { c with fnow := f }) ∧
      (f ≠ c.fnow → ¬ (f = c.fnow + 1 ∧ f ≤ top) → ¬ (f + 1 = c.fnow ∧ top ≤ f) → exec (.islandStep cl f) s = .next s)) ∧
    (∀ g f e, g ≤ 100 → f < 64 → e < 65536 → ∃ t, exec (.cageUpdate cl g f e) s = .next t ∧ t.mem = s.mem ∧
      (let x := { c with guardband := g, flimit := f, eoldays := e, fmax := min c.fmax f }
       t.cluster cl = { x with vnow := x.voltsAt x.fnow }) ∧
      (e < 365 → 365 ≤ c.eoldays → cl ∈ t.dev.health))

/-- The registers of 12 R316, R329, 13 R350, 14 R396, 15 R426, 16 R427, R428, R451, 17 R471, R472, R475, 18 R479, R480, R482, R486: a
write sets the register's writable fields, and one outside their ranges is ignored; a PCIe function reaches the context that it owns,
and no other; in recovery no write has an effect (18 R492). -/
def Sys2Proof.Claims.RegisterWrites : Prop :=
  ∀ (s : State) (v cl ctx q : Nat),
    let wrote (r : RegName) (t : State) : Prop := exec (.registerWrite r v) s = .next t
    let c := s.cluster cl
    let x := s.context ctx
    let y := s.cqueue ctx q
    (∀ r, s.answers = false → wrote r s) ∧
    (s.answers = true →
    wrote (.cmigctl cl) (s.setCluster cl { c with
      pen := v.testBit 0, aen := v.testBit 1, dthr := BitVec.ofNat 8 (v / 4), lcthr := BitVec.ofNat 5 (v / 1024) }) ∧
    wrote (.cmigstat cl) (s.setCluster cl { c with decl := BitVec.ofNat 32 v, migDone := BitVec.ofNat 32 (v / 2 ^ 32) }) ∧
    (let lo := v % 64
     let hi := v / 64 % 64
     wrote (.cisland cl) (if 20 ≤ lo ∧ lo ≤ hi ∧ hi ≤ 44 then s.setCluster cl { c with fmin := lo, fmax := min hi c.flimit } else s)) ∧
    (let i := v % 4096
     let p := v / 2 ^ 12 % 4096
     let j := v / 2 ^ 24 % 256
     wrote .pcurlim (if 500 ≤ i ∧ i ≤ 3300 ∧ 1000 ≤ p ∧ p ≤ 3400 ∧ 85 ≤ j ∧ j ≤ 110 then { s with dev := { s.dev with ilim := i, pcap := p, tjmax := j } } else s)) ∧
    wrote (.cboostStat ctx) (s.setContext ctx { x with unk := BitVec.ofNat 32 v, aborts := BitVec.ofNat 32 (v / 2 ^ 32) }) ∧
    wrote (.cdbgctlDen ctx) (s.setContext ctx { x with den := v.testBit 0 }) ∧
    wrote (.stkcapAlert cl) (if v.testBit 28 then s.setStack cl { s.stack cl with alert := false } else s) ∧
    wrote (.qbase ctx q) (if y.en ∨ 16 ≤ q then s else s.setCqueue ctx q { y with base := BitVec.ofNat 64 v }) ∧
    (q < 16 → v.testBit 7 = false → wrote (.qctl ctx q) (s.setCqueue ctx q { y with
      qlog := if y.en ∨ 12 < v % 16 then y.qlog else v % 16, prio := v / 16 % 4, en := v.testBit 6 })) ∧
    (q < 16 → y.err = true → v.testBit 7 = true → ∃ t, wrote (.qctl ctx q) t ∧ (t.cqueue ctx q).err = false ∧ (t.cqueue ctx q).en = v.testBit 6) ∧
    wrote (.fresAddr ctx) (s.setContext ctx { x with fresAddr := BitVec.ofNat 64 v }) ∧
    wrote (.fresMode ctx) (if v % 4 = 3 then s else s.setContext ctx { x with fresMode := v % 4 }) ∧
    wrote (.killAddr ctx) (s.setContext ctx { x with killAddr := BitVec.ofNat 64 v }) ∧
    wrote .pto (if 1000 ≤ v ∧ v ≤ 1000000000 then { s with links := { s.links with pto := v } } else s) ∧
    wrote (.route cl) ({ s with links := { s.links with routes := kvSet s.links.routes cl ((List.range 96).filter v.testBit) } }) ∧
    (18 ≤ q ∨ 4096 ≤ cl → ∀ k, wrote (.window q cl k) s) ∧
    (q < 18 → cl < 4096 → ∃ t, wrote (.window q cl 0) t ∧ let f := kvGet t.links.windows (q * 4096 + cl) {}
      f.valid = v.testBit 0 ∧ f.rd = v.testBit 1 ∧ f.wr = v.testBit 2 ∧ f.at_ = v.testBit 3 ∧ f.dev = v / 2 ^ 16 % 2 ^ 16 ∧ f.rctx = v / 2 ^ 32 % 256) ∧
    (q < 18 → cl < 4096 → ∃ t, wrote (.window q cl 1) t ∧ (kvGet t.links.windows (q * 4096 + cl) {}).rbase = v % 2 ^ 57 / 131072 * 131072) ∧
    (q < 18 → cl < 4096 → ∃ t, wrote (.window q cl 2) t ∧ (kvGet t.links.windows (q * 4096 + cl) {}).size = v % 2 ^ 46) ∧
    wrote (.ctxRoot ctx) (s.setContext ctx { x with root := v }) ∧ wrote (.ctxWin ctx) (s.setContext ctx { x with win := v % 64 }) ∧
    wrote (.ctxAsn ctx) (s.setContext ctx { x with asn := BitVec.ofNat 8 v }) ∧
    wrote (.autoCow ctx) (s.setTenant ctx { s.tenant ctx with autoCow := v.testBit 0 }) ∧
    (∀ tier item, item < 4 → let k := kvGet (s.tenant ctx).quotas tier {}
      let n : Quota := { k with quota := if item = 0 then v else k.quota, high := if item = 1 then v else k.high
                                low := if item = 2 then v else k.low, pool := if item = 3 then v else k.pool }
      (n.low ≤ n.high → n.high ≤ n.quota → ∃ t, wrote (.quota ctx tier item) t ∧ kvGet (t.tenant ctx).quotas tier {} = n) ∧
      (n.high < n.low ∨ n.quota < n.high → wrote (.quota ctx tier item) s)) ∧
    (cl < 18 → v < 18 → v ≠ cl → s.regions = [] → s.blocks = [] → s.saves = [] → ∃ t, wrote (.partition cl) t ∧ t = { s with parts := t.parts } ∧
      t.partOf cl = t.partOf v ∧ ∀ c, c < 18 → ∃ p ∈ t.parts, c ∈ p.2.clusters ∧ ∀ b ∈ p.2.clusters, p.1 ≤ b) ∧
    (64 < q ∨ 144 ≤ v ∨ (∃ p ∈ s.links.funcs, p.1 ≠ q ∧ p.2 = v) → wrote (.fnContext q) s) ∧
    (q ≤ 64 → v < 144 → (∀ p ∈ s.links.funcs, p.1 ≠ q → p.2 ≠ v) → ∃ t, wrote (.fnContext q) t ∧ t.ownedBy q = some v) ∧
    (∀ off, s.ownedBy cl = none → wrote (.fnWindow cl off) s) ∧
    (s.ownedBy cl = some ctx → (∀ k, k < 16 → exec (.registerWrite (.fnWindow cl (0x1000 + 32 * k + 16)) v) s = exec (.queueDoorbell ctx k v) s) ∧
      wrote (.fnWindow cl 0x800) (s.setContext ctx { x with fresAddr := BitVec.ofNat 64 v }) ∧
      ∀ off, off ≠ 0x808 → off ≠ 0x818 → ∃ t, wrote (.fnWindow cl off) t ∧ ∀ k, k ≠ ctx → t.context k = s.context k))

/-- 18 R489 to R492, 02 R52: the lifetime counters and histograms are saved; an expansion table whose signature is right,
whose key is not revoked and whose version is not too low takes effect on a cluster without blocks, another is refused and counted; a
report has the next signature and the measurements of the images; bring-up goes stage by stage, a stage whose images are not accepted
fails, a link that does not train is left out, and a recovery image that is signed starts bring-up again. -/
def Sys2Proof.Claims.DeviceMoves : Prop :=
  ∀ (s : State),
    (∃ t, exec .lifetimeSave s = .next t ∧ t = { s with dev := { s.dev with saved := s.dev.counters, savedHists := s.clusters.map fun c => (c.1, c.2.tempHist, c.2.voltHist) } }) ∧
    (∀ cl dxt, ∀ g : ImageSig, g.valid = true → g.key ∉ s.dev.revoked → s.dev.minVer ≤ g.version → s.answers = true → ∃ t, exec (.dxtLoad cl dxt g) s = .next t ∧ t.mem = s.mem ∧
      ((∀ b ∈ s.blocks, b.cluster ≠ cl) → (t.cluster cl).dxt = dxt) ∧
      ((∃ b ∈ s.blocks, b.cluster = cl) → (t.cluster cl).dxt = (s.cluster cl).dxt ∧ (t.cluster cl).dxtNext = some dxt)) ∧
    (∀ cl dxt, ∀ g : ImageSig, (g.valid = false ∨ g.key ∈ s.dev.revoked ∨ g.version < s.dev.minVer) → s.answers = true → ∃ t, exec (.dxtLoad cl dxt g) s = .next t ∧ t.clusters = s.clusters ∧ t.dev.refused = s.dev.refused + 1) ∧
    (∀ nonce, s.dev.attKey = true → s.dev.attCt < 1024 → ∃ t r, exec (.attestationReport nonce) s = .next t ∧ t.dev.reports = s.dev.reports ++ [r] ∧
      r.nonce = nonce ∧ r.sig = s.dev.attCt ∧ r.counters = s.dev.counters ∧ r.images = s.dev.images ∧ r.fuses = (s.dev.revoked, s.dev.minVer) ∧ t.dev.attCt = s.dev.attCt + 1) ∧
    (∀ nonce, s.dev.attKey = true → s.dev.attCt = 1024 → s.dev.idLeaf < 2 ^ 20 → ∃ t r, exec (.attestationReport nonce) s = .next t ∧
      t.dev.reports = s.dev.reports ++ [r] ∧ r.sig = 0 ∧ t.dev.attCt = 1 ∧ t.dev.idLeaf = s.dev.idLeaf + 1 ∧ r.leaf = s.dev.idLeaf) ∧
    (∀ nonce, s.dev.attKey = false → exec (.attestationReport nonce) s = .next s) ∧
    (∀ x : StageLoad, s.dev.stage < 11 → s.dev.fail = false →
      let stage := s.dev.stage + 1
      let signed := ∀ g ∈ x.images, g.valid = true ∧ g.key ∉ s.dev.revoked ∧ s.dev.minVer ≤ g.version
      (((stage = 2 ∨ stage = 5) → signed) → (stage = 2 → x.images ≠ []) → ((stage = 8 ∨ stage = 9) → x.lost = []) →
        ∃ t, exec (.bringUp true x) s = .next t ∧ t.dev.stage = stage ∧ t.dev.fail = false ∧
          ((stage = 2 ∨ stage = 5) → t.dev.images = s.dev.images ++ x.images.map (·.digest)) ∧
          (stage = 4 → ∀ cl, cl < 18 → (t.cluster cl).fnow = 20 ∧ (t.cluster cl).vnow = (s.cluster cl).voltsAt 20) ∧
          (stage = 7 → t.links.hostUp = true) ∧ (stage = 9 → ∀ p, p < 96 → (t.fport p).up = true) ∧
          (stage = 10 → t.dev.attCt = 0 ∨ 2 ^ 20 ≤ s.dev.idLeaf ∧ t.dev.attKey = false)) ∧
      ((stage = 2 ∨ stage = 5) → ¬ signed → ∃ t, exec (.bringUp true x) s = .next t ∧ t.dev.stage = stage ∧ t.dev.fail = true ∧
        t.dev.refused = s.dev.refused + (x.images.filter fun g => !s.accepts g).length) ∧
      ((stage = 8 ∨ stage = 9) → x.lost ≠ [] → ∃ t, exec (.bringUp true x) s = .next t ∧ t.dev.stage = stage ∧ t.dev.fail = true ∧
        t.dev.code = x.code % 65536 ∧ (stage = 9 → ∀ p, p < 96 → p ∉ x.lost → (t.fport p).up = true)) ∧
      ∃ t, exec (.bringUp false x) s = .next t ∧ t.dev.stage = stage ∧ t.dev.fail = true ∧ t.dev.code = x.code % 65536) ∧
    (∀ ok x, s.dev.stage = 11 → ∃ t, exec (.bringUp ok x) s = .next t ∧ t.dev.stage = 1 ∧ t.mem = [] ∧ t.warps = [] ∧ t.dev.counters = s.dev.saved ∧
      t.dev.idLeaf = s.dev.idLeaf) ∧
    (∀ g : ImageSig, s.dev.fail = true → s.dev.stage ≤ 6 →
      (g.valid = true → g.key ∉ s.dev.revoked → s.dev.minVer ≤ g.version →
        ∃ t, exec (.recoveryImage g) s = .next t ∧ t.dev.stage = 0 ∧ t.dev.fail = false ∧ t.warps = [] ∧ t.dev.revoked = s.dev.revoked) ∧
      ((g.valid = false ∨ g.key ∈ s.dev.revoked ∨ g.version < s.dev.minVer) → ∃ t, exec (.recoveryImage g) s = .next t ∧ t.dev.stage = s.dev.stage ∧ t.dev.refused = s.dev.refused + 1)) ∧
    (s.dev.fail = false → ∀ g, exec (.recoveryImage g) s = .next s)

/-- 18 R479, R482, R483, R485: a port's eighth resend in a row retrains it, and 10 ms of training take it down; a class that is
paused for longer than PTO does; what a port that goes down had accepted stays to be taken elsewhere; CXL links come and go. -/
def Sys2Proof.Claims.LinkMoves : Prop :=
  ∀ (s : State) (p cls : Nat),
    let f := s.fport p
    let down (i : Instr) : Prop := ∃ t, exec i s = .next t ∧ (t.fport p).up = false ∧ (t.fport p).queue = f.queue ∧ t.mem = s.mem
    (f.up = true → f.resends < 7 → ∃ t, exec (.flitResend p) s = .next t ∧ t.fport p = { f with resends := f.resends + 1 }) ∧
    (f.up = true → 7 ≤ f.resends → ∃ t, exec (.flitResend p) s = .next t ∧ t.fport p = { f with resends := 0, training := some s.tick }) ∧
    (f.up = false → exec (.flitResend p) s = .next s) ∧
    (∀ k, f.training = some k → (s.tick.toNat < k.toNat + 10000000 → exec (.retrainTimeout p) s = .next s) ∧
      (k.toNat + 10000000 ≤ s.tick.toNat → down (.retrainTimeout p))) ∧
    down (.portDown p) ∧
    (f.up = true → cls < 3 → (∀ c ∈ f.paused, c.1 ≠ cls) → ∃ t, exec (.pauseFlit p cls) s = .next t ∧
      t.fport p = { f with training := none, resends := 0, paused := f.paused ++ [(cls, s.tick)] }) ∧
    (f.up = true → ∃ t, exec (.resumeFlit p cls) s = .next t ∧
      t.fport p = { f with training := none, resends := 0, paused := f.paused.filter fun c => c.1 != cls }) ∧
    (∀ c, (f.paused.find? fun c => c.1 == cls) = some c →
      (s.tick.toNat ≤ c.2.toNat + s.links.pto → exec (.pauseTimeout p cls) s = .next s) ∧
      (c.2.toNat + s.links.pto < s.tick.toNat → down (.pauseTimeout p cls))) ∧
    (∃ t, exec (.cxlLinkLoss p) s = .next t ∧ p ∉ t.links.cxlUp) ∧
    (p < 3 → ∃ t, exec (.cxlLinkReturn p) s = .next t ∧ p ∈ t.links.cxlUp ∧ t.mem = s.mem)

/-- 18 R481, R484, 11 R300: a load from outside answers with the bytes of its agent's view; a store is performed at its home
and answers; a failed check answers the reason, and through the fabric 0xF. It waits for a READ of its blocks (13 R345). Without its
link, or while the replies of every port are paused (R482), nothing happens. -/
def Sys2Proof.Claims.OutsideRequests : Prop :=
  ∀ (s : State) (q : RemoteReq),
    let one (i : Instr) (view : Nat) (linked : Prop) : Prop := (
      (¬ linked → exec i s = .next s) ∧
      (∀ r, linked → outsideAt s q = .refused r → ∃ t, exec i s = .next t ∧ t.mem = s.mem ∧
        t.links.reply = some (if view = remoteView then 15 else r, 0)) ∧
      (∀ cs u, linked → outsideAt s q = .ok cs → s.bringIn q.ctx cs = (none, u) → exec i s = .next u) ∧
      (∀ cs u r, linked → outsideAt s q = .ok cs → s.bringIn q.ctx cs = (some (some r), u) → exec i s = .next (u.answer (if view = remoteView then 15 else r) 0)) ∧
      (∀ cs, linked → outsideAt s q = .ok cs → s.bringIn q.ctx cs = (some none, s) → (∀ c ∈ cs, s.damaged (s.homeLoc c.loc) = false) →
        (q.write = false → q.atomic = false → ∃ t, exec i s = .next t ∧ t.mem = s.mem ∧
          t.links.reply = some (16, natOfBytes (cs.map fun c => viewByte s.order s.mem view (s.homeLoc c.loc)))) ∧
        (∀ n u, q.write = true → q.atomic = false → s.agentPut q.ctx q.addr view (bytesOf q.size q.data) = some (n, u) →
          ∃ t, exec i s = .next t ∧ t.mem = u.mem ∧ t.links.reply = some (16, 0)) ∧
        (q.atomic = true → ∃ t, exec i s = .next t ∧ t.links.reply = some (16, natOfBytes (cs.map fun c => memGet s.mem (s.homeLoc c.loc))))))
    one (.remoteAccess q) remoteView (∃ p, p < 96 ∧ (s.fport p).up = true ∧ ∀ c ∈ (s.fport p).paused, c.1 ≠ 1) ∧
    one (.hostMemoryAccess q) hostView (s.links.hostUp = true)

/-- A transducer lane that goes on: its program has not ended, and it has not used its bound (13 R365). -/
def Sys2Proof.Claims.Going (l : Lane) : Prop := l.ended = none ∧ l.steps ≠ l.bound

/-- The lane after a step that ends at an instruction index: past the program it has failed (13 R363). -/
def Sys2Proof.Claims.stepTo (l l' : Lane) (k : Nat) : Lane :=
  { l' with steps := l.steps + 1, index := k, ended := if k < l.prog.length then none else some (0xC, k, some 0) }

/-- The lane with a register written (13 R361). -/
def Sys2Proof.Claims.setX (l : Lane) (d : BitVec 3) (v : W64) : Lane := { l with x := listAt l.x d.toNat (fun _ => v) }

/-- The state with its lane at a next instruction. -/
def Sys2Proof.Claims.onLane (s : State) (l' : Lane) (k : Nat) : State := s.setLane (Sys2Proof.Claims.stepTo s.lane l' k)

/-- 13 R363, R365: the arithmetic of a transducer writes one register, goes to the next instruction and counts one step. -/
def Sys2Proof.Claims.TransducerValues : Prop :=
  ∀ (s : State) (d a b : BitVec 3) (n : BitVec 12) (k : BitVec 24), Sys2Proof.Claims.Going s.lane →
    let x (r : BitVec 3) : W64 := s.lane.x.getD r.toNat 0
    let m : W64 := n.zeroExtend 64
    let writes (i : Instr) (v : W64) : Prop :=
      exec i s = .next (Sys2Proof.Claims.onLane s (Sys2Proof.Claims.setX s.lane d v) (s.lane.index + 1))
    writes (.txLi d k) (k.zeroExtend 64) ∧ writes (.txMov d a) (x a) ∧
    writes (.txAddImm d a n) (x a + m) ∧ writes (.txAddReg d a b) (x a + x b) ∧ writes (.txSubImm d a n) (x a - m) ∧ writes (.txSubReg d a b) (x a - x b) ∧
    writes (.txXorImm d a n) (x a ^^^ m) ∧ writes (.txXorReg d a b) (x a ^^^ x b) ∧ writes (.txAndImm d a n) (x a &&& m) ∧ writes (.txAndReg d a b) (x a &&& x b) ∧
    writes (.txOrImm d a n) (x a ||| m) ∧ writes (.txOrReg d a b) (x a ||| x b) ∧
    writes (.txShlImm d a n) (x a <<< (n.toNat % 64)) ∧ writes (.txShlReg d a b) (x a <<< ((x b).toNat % 64)) ∧
    writes (.txShrImm d a n) (x a >>> (n.toNat % 64)) ∧ writes (.txShrReg d a b) (x a >>> ((x b).toNat % 64)) ∧
    writes (.txSarImm d a n) ((x a).sshiftRight (n.toNat % 64)) ∧ writes (.txSarReg d a b) ((x a).sshiftRight ((x b).toNat % 64)) ∧
    writes (.txEob d) (if s.lane.input.length ≤ s.lane.inCur then 1 else 0) ∧
    (let sext (i : Instr) (c : Nat) : Prop := ∃ v, writes i v ∧ ∀ p, p < 64 → v.getLsbD p = (x a).getLsbD (if p < c then p else c - 1)
     (1 ≤ n.toNat → n.toNat ≤ 64 → sext (.txSextImm d a n) n.toNat) ∧ sext (.txSextReg d a b) (max 1 (min (x b).toNat 64))) ∧
    (1 ≤ n.toNat → n.toNat ≤ 64 → ∃ v, writes (.txZze d a n) v ∧
      let z := signedOf n.toNat (x a).toNat
      (v.toNat : Int) = if 0 ≤ z then 2 * z else -2 * z - 1) ∧
    (1 ≤ n.toNat → n.toNat ≤ 64 → ∃ v, writes (.txZzd d a n) v ∧ v.toNat < 2 ^ n.toNat ∧
      let u := (x a).toNat % 2 ^ n.toNat
      signedOf n.toNat v.toNat = if u % 2 = 0 then (u / 2 : Int) else -((u : Int) + 1) / 2) ∧
    (let tbl (i : Instr) (o : Nat) : Prop := ∃ v, writes i v ∧ v.toNat < 2 ^ 32 ∧
       (4 * (o % 1024) + 4 ≤ s.lane.table.length → ∀ p, p < 4 → BitVec.ofNat 8 (v.toNat / 256 ^ p) = s.lane.table.getD (4 * (o % 1024) + p) 0)
     tbl (.txTbl d a) (x a).toNat ∧ tbl (.txTblImm d a n) (x a + m).toNat)

/-- 13 R363, R365, R368: the streams and the control of a transducer: what it reads past its input, writes past its block or
spends past its bound ends the program with its reason; `bfw`, `rep` and `endr` choose the next instruction; `penc` of
a symbol with a codeword appends it. -/
def Sys2Proof.Claims.TransducerControl : Prop :=
  ∀ (s : State) (d a b c : BitVec 3) (n : BitVec 12) (k : BitVec 6), let l := s.lane
    let x (r : BitVec 3) : W64 := l.x.getD r.toNat 0
    let ends (i : Instr) (r : Nat) (m : Option Nat) : Prop := exec i s = .next (s.setLane { l with steps := l.steps + 1, ended := some (r, l.index, m) })
    let goes (i : Instr) (l' : Lane) (q : Nat) : Prop := exec i s = .next (Sys2Proof.Claims.onLane s l' q)
    (l.ended ≠ none → ∀ i ∈ [Instr.txDone, .txEndr, .txMov d a, .txPutImm a n], exec i s = .next s) ∧
    (l.ended = none → l.steps = l.bound → ∀ i ∈ [Instr.txDone, .txEndr, .txMov d a, .txPutImm a n],
      exec i s = .next (s.setLane { l with ended := some (if l.outMax = none then 0xA else 9, l.index, none) })) ∧
    (Sys2Proof.Claims.Going l →
      (let reads (i : Instr) (z : Nat) (move : Bool) : Prop := z ≤ 64 →
        (l.input.length < l.inCur + z → ends i 0xD none) ∧
        (l.inCur + z ≤ l.input.length → ∃ v, goes i { Sys2Proof.Claims.setX l d v with inCur := if move then l.inCur + z else l.inCur } (l.index + 1) ∧
          ∀ p, p < 64 → v.getLsbD p = (decide (p < z) && l.input.getD (l.inCur + p) false))
       reads (.txGetImm d n) n.toNat true ∧ reads (.txPeekImm d n) n.toNat false ∧ reads (.txGetReg d b) (min (x b).toNat 64) true ∧
       reads (.txPeekReg d b) (min (x b).toNat 64) false) ∧
      (let puts (i : Instr) (z : Nat) : Prop :=
        let o := l.out ++ (List.range z).map fun p => (x a).getLsbD p
        ((∀ m, l.outMax = some m → o.length ≤ m) → goes i { l with out := o } (l.index + 1)) ∧
        (∀ m, l.outMax = some m → m < o.length →
          exec i s = .next (s.setLane { l with steps := l.steps + 1, out := o, ended := some (0xD, l.index, none) }))
       puts (.txPutImm a n) n.toNat ∧ puts (.txPutReg a b) (min (x b).toNat 64)) ∧
      (let taken : Prop := match c.toNat with
        | 0 => True
        | 1 => x a = x b
        | 2 => x a ≠ x b
        | 3 => (x a).toNat < (x b).toNat
        | 4 => (x b).toNat ≤ (x a).toNat
        | 5 => (x a).toInt < (x b).toInt
        | _ => (x b).toInt ≤ (x a).toInt
       (taken → goes (.txBfw c a b k) l (l.index + k.toNat)) ∧ (¬ taken → goes (.txBfw c a b k) l (l.index + 1))) ∧
      (let reps (i : Instr) (z : Nat) : Prop := z ≤ 255 →
        (z ≠ 0 → goes i { l with loop := z, loopAt := l.index + 1 } (l.index + 1)) ∧
        (z = 0 → ∀ e, e < l.prog.length → (l.prog.getD e 0).toNat / 2 ^ 27 = 0x15 → (∀ p, p < e → (l.prog.getD p 0).toNat / 2 ^ 27 ≠ 0x15) →
          goes i { l with loop := 0, loopAt := l.index + 1 } (e + 1))
       reps (.txRepImm n) n.toNat ∧ reps (.txRepReg a) (min (x a).toNat 255)) ∧
      (1 < l.loop → l.loop < 256 → goes .txEndr { l with loop := l.loop - 1 } l.loopAt) ∧ (l.loop = 1 → goes .txEndr { l with loop := 0 } (l.index + 1)) ∧
      ends .txDone 0 none ∧ ends (.txFail n) 0xC (some n.toNat) ∧
      (l.built = false → ends (.txPdec d) 0xE none ∧ ends (.txPenc a) 0xE none) ∧
      (l.built = true → codeOf l.table (x a).toNat = none → ends (.txPenc a) 0xC none) ∧
      (∀ len code, l.built = true → codeOf l.table (x a).toNat = some (len, code) → l.outMax = none →
        goes (.txPenc a) { l with out := l.out ++ (List.range len).map fun p => code.testBit (len - 1 - p) } (l.index + 1)))

/-- 13 R366 to R368: with a table whose lengths are valid, `pdec` at the codeword of a symbol reads exactly that symbol. -/
def Sys2Proof.Claims.PrefixCodes : Prop :=
  ∀ (s : State) (d : BitVec 3) (sym len code : Nat), Sys2Proof.Claims.Going s.lane → s.lane.built = true → lensOk s.lane.table = true →
    codeOf s.lane.table sym = some (len, code) →
    (∀ p, p < len → s.lane.input[s.lane.inCur + p]? = some (code.testBit (len - 1 - p))) →
    exec (.txPdec d) s = .next (Sys2Proof.Claims.onLane s
      { Sys2Proof.Claims.setX s.lane d (BitVec.ofNat 64 sym) with inCur := s.lane.inCur + len } (s.lane.index + 1))

/-- 13 R367: the codewords are canonical over the symbols with a nonzero length in the order of (LEN, s): the first is 0,
and each next is one more than the one before it, moved left by the lengths' difference. -/
def Sys2Proof.Claims.CanonicalCodes : Prop :=
  ∀ (t : List Byte) (sym len code : Nat), lensOk t = true → codeOf t sym = some (len, code) →
    let has (a : Nat) : Prop := a < 256 ∧ codeLen t a ≠ 0
    let before (a b : Nat) : Prop := codeLen t a < codeLen t b ∨ (codeLen t a = codeLen t b ∧ a < b)
    has sym ∧ len = codeLen t sym ∧ (∀ a, has a → ∃ c, codeOf t a = some (codeLen t a, c)) ∧
    ((∀ a, has a → ¬ before a sym) → code = 0) ∧
    (∀ p lp cp, codeOf t p = some (lp, cp) → before p sym → (∀ a, has a → ¬ (before p a ∧ before a sym)) →
      code = (cp + 1) * 2 ^ (len - lp))

/-- 02 R26, R32, 06 R165: what a field reads and where a result goes; field 0xF0 reads 0 and discards, p7 reads true and
discards; the lanes of B are those whose guard bit differs from G's bit 3. -/
def Sys2Proof.Claims.Operands : Prop :=
  ∀ (w : Warp) (l imm v : Nat) (wide : Bool),
    (∀ k, k < 128 → readReg w (BitVec.ofNat 8 k) imm false l = ((w.thread l).v.getD k 0).toNat ∧
      readReg w (BitVec.ofNat 8 k) imm true l = ((w.thread l).v.getD k 0).toNat + 2 ^ 32 * ((w.thread l).v.getD (k + 1) 0).toNat) ∧
    (∀ k, k < 64 → readReg w (BitVec.ofNat 8 (0x80 + k)) imm true l = (w.s.getD k 0).toNat) ∧
    readReg w 0xF0 imm wide l = 0 ∧ destWrites 0xF0 wide l v = [] ∧ readReg w 0xF1 imm true l = imm ∧
    (w.thread l).pred 7 = true ∧ w.putAll (destWrites 0xC7 wide l v) = w ∧
    (∀ k, k < 7 → ∀ n, l < w.threads.length → ((w.putAll (destWrites (BitVec.ofNat 8 (0xC0 + k)) wide l v)).thread l).pred n =
      if n = k then v % 2 == 1 else (w.thread l).pred n) ∧
    (∀ k, k < 128 → k < (w.thread l).v.length → l < w.threads.length → ∀ n m,
      (((w.putAll (destWrites (BitVec.ofNat 8 k) false l v)).thread m).v.getD n 0) =
        if n = k ∧ m = l then BitVec.ofNat 32 v else (w.thread m).v.getD n 0) ∧
    (∀ g ls k, k ∈ guarded w g ls ↔ k ∈ ls ∧ ((w.thread k).pred (g &&& 7).toNat ≠ g.getLsbD 3)) ∧
    (∀ ls, guarded w 7 ls = ls ∧ guarded w 15 ls = [])

/-- 02 R18, R25 to R31, R38, R46, 13 R362: the decoder reads from the words of a well-formed instruction that instruction,
every field at every value it can have. -/
def Sys2Proof.Claims.Encodings : Prop :=
  ∀ (i : Instr) (n w : Nat), wellFormed i = true → encode i = some (n, w) →
    w < 2 ^ n ∧ (∀ p q, i = .shortPair p q → n = 96 ∧ decodeSlot true w = .ok i) ∧
    ((∀ p q, i ≠ .shortPair p q) → decodeTableWord n w = some i)

/-- 02 R18, R25 to R31, R38, R46, 13 R362: an instruction that the decoder reads from a word has that word as its encoding:
no bit of it is dropped. -/
def Sys2Proof.Claims.Decodings : Prop :=
  (∀ (pair : Bool) (w : Nat) (i : Instr), w < 2 ^ 96 → decodeSlot pair w = .ok i → encode i = some (96, w)) ∧
  ∀ (w : Nat) (i : Instr), decodeTx w = .ok i → encode i = some (32, w)

/-- Fields as the spec's examples print them: 0xF0 in every operand field but those given. -/
def Sys2Proof.Claims.fields (g sub d a b c mid imm : Nat) : Fields :=
  { g := BitVec.ofNat 4 g, sub := BitVec.ofNat 4 sub, d := BitVec.ofNat 8 d, a := BitVec.ofNat 8 a, b := BitVec.ofNat 8 b
    c := BitVec.ofNat 8 c, mid := BitVec.ofNat 16 mid, imm := BitVec.ofNat 32 imm }

/-- Words that the spec prints beside their assembly decode to those instructions (02 R25 to R38, 03 R81, 05 R149, 06 R174,
07 R196, 08 R225, 09 R266, 11 R313, 13 R378, 15 R422, 13 R363); a word of an opcode that R46 leaves out decodes to none. -/
def Sys2Proof.Claims.PrintedWords : Prop :=
  let d (w : Nat) (i : Instr) : Prop := decodeSlot false w = .ok i
  let f := Sys2Proof.Claims.fields
  d 0x4028_0405_06F0_0000_0000_0000 (.fadd (f 2 8 4 5 6 0xF0 0 0)) ∧
  d 0x0070_F0F0_F0F0_0000_0000_0000 (.nop (f 7 0 0xF0 0xF0 0xF0 0xF0 0 0)) ∧
  d 0x0170_F0F0_F0F0_FFF0_0000_0000 (.wait (f 7 0 0xF0 0xF0 0xF0 0xF0 0xFFF0 0)) ∧
  d 0x1070_F0F0_F0F0_0000_FFFF_FFE2 (.bra (f 7 0 0xF0 0xF0 0xF0 0xF0 0 0xFFFFFFE2)) ∧
  d 0x3973_0203_04F0_0000_0000_0000 (.idiv (f 7 3 2 3 4 0xF0 0 0)) ∧
  d 0x6270_85C1_F0F0_0000_0000_0000 (.ballot (f 7 0 0x85 0xC1 0xF0 0xF0 0 0)) ∧
  d 0x7072_0882_03F0_0422_0000_0040 (.ld (f 7 2 8 0x82 3 0xF0 0x0422 0x40)) ∧
  d 0x7570_F086_02F0_1004_0000_0000 (.cwbSync (f 7 0 0xF0 0x86 2 0xF0 0x1004 0)) ∧
  d 0x8170_0C84_F00D_0440_0000_0020 (.cas (f 7 0 12 0x84 0xF0 13 0x0440 0x20)) ∧
  d 0x9371_F082_F0F0_1000_0000_0100 (.bexpectArrive (f 7 1 0xF0 0x82 0xF0 0xF0 0x1000 0x100)) ∧
  d 0xA171_8A86_87C2_0000_0000_0000 (.tdef (f 7 1 0x8A 0x86 0x87 0xC2 0 0)) ∧
  d 0xB320_F082_F0F0_0000_0000_0300 (.mgo (f 2 0 0xF0 0x82 0xF0 0xF0 0 0x300)) ∧
  d 0x0572_F0F0_F0F0_0003_0000_0000 (.fence (f 7 2 0xF0 0xF0 0xF0 0xF0 3 0)) ∧
  d 0xC870_F084_F0F0_0003_0000_0000 (.cbind (f 7 0 0xF0 0x84 0xF0 0xF0 3 0)) ∧
  d 0xC270_F085_08F0_0802_0000_0000 (.bop (f 7 0 0xF0 0x85 8 0xF0 0x0802 0)) ∧
  d 0x0E71_F0F0_F0F0_0002_0000_0000 (.migD (f 7 1 0xF0 0xF0 0xF0 0xF0 2 0)) ∧
  d 0x0B71_F0F1_F0F0_0000_0000_0003 (.postEnd (f 7 1 0xF0 0xF1 0xF0 0xF0 0 3)) ∧
  decodeSlot true 0x4384_0A18_0200_0389_142C_0000 = .ok (.shortPair
    { sop := 0x10, pred := 7, d := 4, a := 5, b := 6, c := 0, type := 2, zero := 0 }
    { sop := 0, pred := 7, d := 9, a := 10, b := 11, c := 0, type := 0, zero := 0 }) ∧
  decodeTx 0xA002_0002 = .ok (.txRepImm 2) ∧ decodeTx 0x0002_0040 = .ok (.txGetImm 0 64) ∧ decodeTx 0x1002_0040 = .ok (.txPutImm 0 64) ∧
  decodeTx 0xA800_0000 = .ok .txEndr ∧ decodeTx 0xB800_0000 = .ok .txDone ∧
  decodeSlot false 0x1770_F0F0_F0F0_0000_0000_0000 = .error (.opcode 0x17) ∧ decodeTx 0xC800_0000 = .error (.transducer 0xC800_0000)

/-- 02 R18 to R22, 03 R65, R71, R72, 11 R314, 12 R330, 13 R361: a step whose move is a warp's issue executes, where the warp may issue
and its turn has come, exactly the instruction that the slot of its bundle's PC decodes to, from the core's instruction
cache, or from memory, which fills the cache and the TLBs; one whose move is a transducer lane's executes the word at its
index; one whose move is an event, the event. -/
def Sys2Proof.Claims.StepRuns : Prop :=
  ∀ (s : State) (rest : List Agenda) (i : Instr), let u : State := { s with agenda := rest }
    (∀ (w line : Nat) (x y : Warp) (v : State), s.agenda = .issue w :: rest → let u0 := u.withWarp w Warp.sortDue
      u0.warp? w = some x →
      (eligible x = false → step s = .next u0) ∧
      let r := reloadCredits exec u0 x
      let pc := (y.thread (y.bundle.headD 0)).pc
      let a := (lineOf pc).toNat
      let hit := (v.core y.core).icache.find? fun e => e.1 == y.ctx && e.2.1 == a && parityOk (natOfBytes e.2.2)
      (eligible x = true → r.warp? w = some y → takeTurn exec r y = none → step s = .next r) ∧
      (eligible x = true → r.warp? w = some y → takeTurn exec r y = some v → y.snare = none → fetchGate v y = none →
        slotOf pc ≤ 4 → pc &&& 7 = 0 → parityOk line = true → bitsOf (lineWordOf line) 16 16 = 0 →
        decodeSlot (bitsOf (lineWordOf line) (5 + slotOf pc) 1 == 1) (slotBits line (slotOf pc)) = .ok i →
        y.entryCause line pc = none → y.unitCause (.instr i) = none →
        (∀ e, hit = some e → natOfBytes e.2.2 = line → step s = exec i { v with cur := w }) ∧
        (hit = none →
          let c := checkLane v y 3 (y.bundle.headD 0) (lineOf pc &&& 0x01FFFFFFFFFFFFFF) 0 0 1
          let bytes := memBytes v.mem (v.homeLoc (c.loc - c.loc % 64)) 64
          let t := v.fill y.core y.ctx a
          let rest := (t.core y.core).icache.filter fun e => !(e.1 == y.ctx && e.2.1 == a)
          c.why = none → natOfBytes bytes = line →
          step s = exec i { t.setCore y.core { t.core y.core with icache := ((y.ctx, a, bytes) :: rest).take (icacheLines y.core) } with cur := w }))) ∧
    (∀ k wd, s.agenda = .transduce k :: rest → let v : State := { u with txCur := k }
      v.lane.prog[v.lane.index]? = some wd → decodeTx wd.toNat = .ok i → step s = exec i v) ∧
    (s.agenda = .event i :: rest → step s = exec i u)

/-- 00 R4, 02 R19, 03 R73, 11 R309, 12 R323, R326, 16 R434, 17 R477, 18 R483: ticks move the clock, each island's cycles and the counts
of the regions that run, and nothing of the warps, nor of memory where no region has a block whose quantum SHARE shows; a line or a
translation can leave its cache; parity that fails again is a fault; a write leaves a fabric port's queue for its remote home, or, where
the port is down, for another port of its route; a free frame found faulty is retired. -/
def Sys2Proof.Claims.OtherMoves : Prop :=
  ∀ (s : State) (rest : List Agenda), let u : State := { s with agenda := rest }
    (∀ n, s.agenda = .clock n :: rest → ∃ t, step s = .next t ∧ t.tick = s.tick + BitVec.ofNat 64 n ∧ t.warps = s.warps ∧
      ((∀ r ∈ s.regions, s.clustersHeld r = []) → t.mem = s.mem) ∧
      (∀ cl, cl < 18 → (t.cluster cl).cycles = (s.cluster cl).cycles + BitVec.ofNat 64 ((n * (s.cluster cl).fnow + (s.cluster cl).cycRem) / 10)) ∧
      ∀ r ∈ s.regions, ∃ q ∈ t.regions, q.rcb = r.rcb ∧ q.ctx = r.ctx ∧ q.state = r.state ∧
        q.count = if s.regionCounts r then r.count + BitVec.ofNat 64 n else r.count) ∧
    (∀ c, s.agenda = .evictLine c :: rest → ∃ t, step s = .next t ∧ (t.core c).icache = (s.core c).icache.dropLast ∧ t.mem = s.mem) ∧
    (∀ c, s.agenda = .evictTlb c :: rest → ∃ t, step s = .next t ∧ (t.core c).tlb = (s.core c).tlb.dropLast ∧
      (t.cluster (coreCluster c)).tlb = (s.cluster (coreCluster c)).tlb.dropLast ∧ t.mem = s.mem) ∧
    (∀ w x, s.agenda = .parityFail w :: rest → u.warp? w = some x → eligible x = true →
      let a := (lineOf (x.thread (x.bundle.headD 0)).pc).toNat
      let c := u.core x.core
      let v := u.setCore x.core { c with icache := c.icache.filter fun e => !(e.1 == x.ctx && e.2.1 == a) }
      step s = .next (takeTrap v (issOf x 7 x.bundle) { cause := 0x013, lanes := x.bundle })) ∧
    (∀ p q qs, s.agenda = .fabricWrite p :: rest → (s.fport p).queue = q :: qs → (∀ x, s.warp? q.warp = some x → x.failed = []) →
      let loc := (q.ent.cells.headD (remoteBase, 0)).1
      let t := u.setFport p { s.fport p with queue := qs }
      ((s.fport p).up = true → (∀ c ∈ (s.fport p).paused, c.1 ≠ 0) → s.farAt loc = 0 →
        step s = .next (settleOp (enterOrder (t.flitOk p) q.ent.wid q.ent.cells q.core) q.warp q.ent)) ∧
      ∀ p2, (s.fport p).up = false → ((s.routeOf loc).find? fun k => k != p && (s.fport k).up) = some p2 →
        step s = .next (t.setFport p2 { t.fport p2 with queue := (t.fport p2).queue ++ [q] })) ∧
    (∀ pa, s.agenda = .retireFrame pa :: rest → s.isFree (pa / 131072 * 131072) 131072 = true →
      step s = .next (u.setFrt (pa / 131072 * 131072) 0xFFFF)) ∧
    (∀ l, s.agenda = .softWord l :: rest → chipBase ≤ l → l < remoteBase → ∃ t, step s = .next t ∧ l / 4 ∈ t.softWords ∧ t.mem = s.mem)

/-- 05 R137, 13 R348, R350, 14 R396, 15 R426, 16 R428, R451, 17 R471, R472, R475, 18 R486, R488, R492: the registers hold their
reset values after reset, and no warp, block, region, record or translation is there. -/
def Sys2Proof.Claims.ResetValues : Prop :=
  let s := State.reset
  s.warps = [] ∧ s.blocks = [] ∧ s.regions = [] ∧ s.recs = [] ∧ s.saves = [] ∧ s.dev.stage = 0 ∧ s.dev.fail = false ∧ s.dev.code = 0 ∧
  s.dev.ilim = 3300 ∧ s.dev.pcap = 3400 ∧ s.dev.tjmax = 105 ∧ s.dev.inow = 0 ∧ s.links.pto = 1000000 ∧
  (∀ k, let c := s.core k
    c.act0.valid = false ∧ c.act1.valid = false ∧ c.actCur = false ∧ c.icache = [] ∧ c.tlb = [] ∧ c.kicks = [] ∧ c.recs = [] ∧ c.meHolder = none) ∧
  (∀ cl, let c := s.cluster cl
    c.pen = true ∧ c.aen = true ∧ c.dthr = 0x80 ∧ c.lcthr = 14 ∧ c.decl = 0 ∧ c.migDone = 0 ∧ c.fmin = 20 ∧ c.fmax = 40 ∧ c.fnow = 40 ∧ c.vnow = 675 ∧
    c.guardband = 0 ∧ c.flimit = 44 ∧ c.eoldays = 0xFFFF ∧ c.cycles = 0) ∧
  (∀ k, s.stack k = { live := 0xFFFF, nlayer := 16, alayer := 0, alert := false, mapout := false, cap := 64 }) ∧
  (∀ x, let c := s.context x
    c.unk = 0 ∧ c.aborts = 0 ∧ c.den = false ∧ c.halted = false ∧ c.fresAddr = 0 ∧ c.fresMode = 0 ∧ c.fresOk = false ∧ c.killAddr = 0 ∧ c.killOk = false ∧
    c.binds = [] ∧ ∀ q, (s.cqueue x q).en = false ∧ (s.cqueue x q).err = false ∧ (s.cqueue x q).head = 0 ∧ (s.cqueue x q).tail = 0) ∧
  (∀ a, s.metaBits a = 0)

/-- A state whose memories are in their one canonical form: locations rise strictly and no byte is listed that reads as 0. -/
def Sys2Proof.Claims.Canonical (s : State) : Prop := s.mem.wf = true ∧ s.dram.wf = true

/-- 01 R10, R11 and the model's own form of memory (log 6): every step of the machine keeps the canonical form, so that equal
memories stay equal data. -/
def Sys2Proof.Claims.CanonicalSteps : Prop :=
  ∀ s t : State, Sys2Proof.Claims.Canonical s → step s = .next t → Sys2Proof.Claims.Canonical t

/-- The machine after reset is in canonical form (log 6). -/
def Sys2Proof.Claims.CanonicalReset : Prop := Sys2Proof.Claims.Canonical State.reset

/-- 03 R71 to R92, 08 R229, 09 R266 to R268, 10 R288, R289, 15 R414, R423, 17 R456: an instruction that steers its warp or takes a fault
changes no byte of memory when it issues. -/
def Sys2Proof.Claims.SteeringLeavesMemory : Prop :=
  ∀ (s t : State) (f : Fields), ∀ i ∈ [Instr.nop f, .wait f, .yield f, .trap f, .brk f, .fence f, .ifence f, .rdsr f, .wrsr f, .exit f, .trig f, .ep f,
      .migL f, .migD f, .emu f, .bra f, .brx f, .call f, .callx f, .ret f, .brs f, .wsync f, .nbarSync f, .nbarArrive f, .tdef f, .tstat f, .trel f,
      .mres f, .mrel f, .tspawn f, .tcommit f, .tabort f, .uret f],
    exec i s = .next t → ∀ a, memGet t.mem a = memGet s.mem a

/-! ### The obligations -/

/-- Instructions that write a value complete with exactly their result. The model's own choices and readings in it: log 22, 23. It says
that these complete, under conditions on the state and the operands alone: `add`, `sub`, `mul`, `mulhi`, `mad`, `min`, `max`, `abs`,
`and`, `or`, `xor`, `andn`, `shl`, `shr`, `sar`, `rot`, `clamp`, `addsh`, `mov`, `sel`, `movi`, `cmp`, `popc`, `clz`, `brev`, `bfe`,
`bfi`, `perm`, `plog`, `pmovGet`. -/
def Obligations.ValueResults : Prop :=
  Sys2Proof.Claims.ValueResults

/-- Floating results, sticky flags and floating traps. The model's own choices and readings in it: log 23. It says that these complete,
under conditions on the state and the operands alone: `fadd`, `fsub`, `fmul`, `fma`, `fscl`, `fmin`, `fmax`, `famax`, `frnd`, `fclass`,
`fsgn`, `fdot4`, `fcmp`, `rng`. -/
def Obligations.FloatingResults : Prop :=
  Sys2Proof.Claims.FloatResults ∧ Sys2Proof.Claims.FloatTraps

/-- Cross-lane instructions, and the groups of legacy mode. The model's own choices and readings in it: log 22. It says that these
complete, under conditions on the state and the operands alone: `shfl`, `vote`, `ballot`, `wred`, `scan`, `matchl`, `elect`, `rdlane`,
`wrlane`. -/
def Obligations.CrossLaneResults : Prop :=
  Sys2Proof.Claims.LaneResults ∧ Sys2Proof.Claims.Matches ∧ Sys2Proof.Claims.HalfGroups

/-- Instructions of the special-function and conversion queues. The model's own choices and readings in it: log 3, 23. It says that these
complete, under conditions on the state and the operands alone: `idiv`, `cvt`, `pack`, `unpack`, `rcp`, `rsq`, `sqrt`, `exp2`, `log2`,
`sin`, `cos`, `tanh`, `act`. -/
def Obligations.QueueEntries : Prop :=
  Sys2Proof.Claims.QueueResults

/-- Entries of the queues complete in program order. It says that these complete, under conditions on the state and the operands alone:
`queueOpComplete`. -/
def Obligations.QueueEntryCompletions : Prop :=
  Sys2Proof.Claims.QueueCompletions

/-- What an instruction that only writes registers leaves unchanged. -/
def Obligations.RegisterOnlyFrames : Prop :=
  Sys2Proof.Claims.RegisterFrames

/-- False guards, decode checks, absent instructions and stalls. The model's own choices and readings in it: log 22. -/
def Obligations.IssueChecks : Prop :=
  Sys2Proof.Claims.FalseGuards ∧ Sys2Proof.Claims.DecodeTraps ∧ Sys2Proof.Claims.AbsentInstructions ∧ Sys2Proof.Claims.Stalls

/-- Taking a fault raises one record and stops the warp. The model's own choices and readings in it: log 21. -/
def Obligations.FaultEntry : Prop :=
  Sys2Proof.Claims.TakesFault

/-- nop, yield, wait, and the reads and writes of special registers, pointers and predicates. The model's own choices and readings in it:
log 5, 22, 54. It says that these complete, under conditions on the state and the operands alone: `nop`, `yield`, `wait`, `rdsr`, `mkptr`,
`ptrq`, `wrsr`, `pmovSet`. -/
def Obligations.SpecialRegisters : Prop :=
  Sys2Proof.Claims.IssueOnly ∧ Sys2Proof.Claims.ReadResults ∧ Sys2Proof.Claims.SpecialWrites ∧ Sys2Proof.Claims.PredicateMoves

/-- Branches, calls and returns. The model's own choices and readings in it: log 51. It says that these complete, under conditions on the
state and the operands alone: `bra`, `call`, `callx`, `brx`, `ret`, `brs`. -/
def Obligations.ControlTransfers : Prop :=
  Sys2Proof.Claims.Transfers ∧ Sys2Proof.Claims.TransferTraps ∧ Sys2Proof.Claims.ScalarBranches

/-- The threads that wsync parks go on as one bundle. It says that these complete, under conditions on the state and the operands alone:
`wsyncRelease`. -/
def Obligations.WarpReconvergence : Prop :=
  Sys2Proof.Claims.WsyncReleases

/-- wsync parks, a re-sort chooses the bundle, and a drained warp is freed. The model's own choices and readings in it: log 38, 43. It
says that these complete, under conditions on the state and the operands alone: `wsync`, `xswap`, `warpResort`, `warpFree`. -/
def Obligations.ParkingAndFreeing : Prop :=
  Sys2Proof.Claims.Parks ∧ Sys2Proof.Claims.WarpResorts ∧ Sys2Proof.Claims.WarpFrees

/-- emu, trap and brk. The model's own choices and readings in it: log 21. It says that these complete, under conditions on the state and
the operands alone: `emu`, `trap`, `brk`. -/
def Obligations.EmulationAndTraps : Prop :=
  Sys2Proof.Claims.EmulationCalls ∧ Sys2Proof.Claims.SoftwareTraps

/-- Fences, release markers, trig and exit. The model's own choices and readings in it: log 47. It says that these complete, under
conditions on the state and the operands alone: `fence`, `trig`, `ifence`, `exit`, `trigStep`. -/
def Obligations.FencesAndTriggers : Prop :=
  Sys2Proof.Claims.Fences ∧ Sys2Proof.Claims.Markers ∧ Sys2Proof.Claims.TriggersAndExits ∧ Sys2Proof.Claims.TriggerSteps

/-- imx and pol supply the next instruction, and their misuse. The model's own choices and readings in it: log 22. It says that these
complete, under conditions on the state and the operands alone: `imx`, `pol`. -/
def Obligations.PrefixUnits : Prop :=
  Sys2Proof.Claims.Prefixes ∧ Sys2Proof.Claims.PrefixMisuse

/-- Short pairs. The model's own choices and readings in it: log 22, 23. It says that these complete, under conditions on the state and
the operands alone: `shortPair`. -/
def Obligations.PairResults : Prop :=
  Sys2Proof.Claims.ShortPairs ∧ Sys2Proof.Claims.ShortPairTraps

/-- A memory instruction whose access fails its checks has no effect but its fault. The model's own choices and readings in it: log 21. -/
def Obligations.AccessFaults : Prop :=
  Sys2Proof.Claims.AccessStops

/-- Loads, and what a TLB fill changes. The model's own choices and readings in it: log 47. It says that these complete, under conditions
on the state and the operands alone: `ld`, `lds`. -/
def Obligations.LoadIssues : Prop :=
  Sys2Proof.Claims.Loads ∧ Sys2Proof.Claims.FillFrame

/-- Stores and posts enter the store FIFO. The model's own choices and readings in it: log 47. It says that these complete, under
conditions on the state and the operands alone: `st`, `sts`, `post`, `postEnd`. -/
def Obligations.StoreIssues : Prop :=
  Sys2Proof.Claims.Stores ∧ Sys2Proof.Claims.Posts

/-- pf, cwb and cwb.sync. The model's own choices and readings in it: log 24, 47. It says that these complete, under conditions on the
state and the operands alone: `pf`, `cwb`, `cwbSync`. -/
def Obligations.HintsAndWriteBacks : Prop :=
  Sys2Proof.Claims.Prefetches ∧ Sys2Proof.Claims.WriteBackRequests

/-- Atomics are requested at issue and performed at their home. The model's own choices and readings in it: log 23, 47. It says that these
complete, under conditions on the state and the operands alone: `atom`, `cas`, `redm`, `fatom`, `fredm`, `amxr`, `homeRmw`. -/
def Obligations.AtomicsAtHome : Prop :=
  Sys2Proof.Claims.AtomicRequests ∧ Sys2Proof.Claims.Atomics

/-- What a load reads: its own newest older store, or its view. The model's own choices and readings in it: log 47. It says that these
complete, under conditions on the state and the operands alone: `forward`, `read`. -/
def Obligations.LoadValues : Prop :=
  Sys2Proof.Claims.Forwards ∧ Sys2Proof.Claims.Reads

/-- The store FIFO drains its head into coherence order. The model's own choices and readings in it: log 24, 47. It says that these
complete, under conditions on the state and the operands alone: `drain`. -/
def Obligations.StoreDrains : Prop :=
  Sys2Proof.Claims.Drains ∧ Sys2Proof.Claims.DrainWaits

/-- Writes reach views in coherence order. The model's own choices and readings in it: log 47. It says that these complete, under
conditions on the state and the operands alone: `propagate`. -/
def Obligations.Propagation : Prop :=
  Sys2Proof.Claims.Propagates

/-- Barrier instructions and the units of a barrier update. The model's own choices and readings in it: log 27. It says that these
complete, under conditions on the state and the operands alone: `binit`, `barrive`, `bexpect`, `bexpectArrive`, `barrierUpdate`. -/
def Obligations.BarrierObjects : Prop :=
  Sys2Proof.Claims.BarrierIssues ∧ Sys2Proof.Claims.BarrierCompletions ∧ Sys2Proof.Claims.BarrierUpdates ∧ Sys2Proof.Claims.BarrierRefusals

/-- bwait and btest. The model's own choices and readings in it: log 27. It says that these complete, under conditions on the state and
the operands alone: `bwait`, `bwaitTimeout`, `btest`. -/
def Obligations.BarrierWaiters : Prop :=
  Sys2Proof.Claims.BarrierWaits ∧ Sys2Proof.Claims.BarrierTests

/-- Named barriers. The model's own choices and readings in it: log 27. It says that these complete, under conditions on the state and the
operands alone: `nbarSync`, `nbarArrive`. -/
def Obligations.NamedBarriers : Prop :=
  Sys2Proof.Claims.NamedBarriers

/-- qinit, qpush, qpop and the steps of a queue. The model's own choices and readings in it: log 27. It says that these complete, under
conditions on the state and the operands alone: `qinit`, `qpush`, `qpop`. -/
def Obligations.QueueOperations : Prop :=
  Sys2Proof.Claims.QueueInits ∧ Sys2Proof.Claims.QueueSteps

/-- Waiting at queues, timeouts, and xswap. The model's own choices and readings in it: log 7, 27. It says that these complete, under
conditions on the state and the operands alone: `queueStep`, `queueTimeout`, `swap`. -/
def Obligations.QueueWaiting : Prop :=
  Sys2Proof.Claims.QueueWaits ∧ Sys2Proof.Claims.QueueReleases ∧ Sys2Proof.Claims.Swaps

/-- tdef, tstat and trel. The model's own choices and readings in it: log 8. It says that these complete, under conditions on the state
and the operands alone: `tdef`, `tstat`, `trel`. -/
def Obligations.TileTable : Prop :=
  Sys2Proof.Claims.TileDefinitions ∧ Sys2Proof.Claims.TileQueries

/-- tld, tstr and atab. The model's own choices and readings in it: log 9, 30, 31. It says that these complete, under conditions on the
state and the operands alone: `tld`, `tstr`, `tileOpComplete`, `atab`, `bankFlip`. -/
def Obligations.TileWords : Prop :=
  Sys2Proof.Claims.TileAccesses ∧ Sys2Proof.Claims.TileCompletions ∧ Sys2Proof.Claims.ActivationTables

/-- Kicks and the steps of the copy engine. The model's own choices and readings in it: log 33. It says that these complete, under
conditions on the state and the operands alone: `kick`, `kickGate`, `copyRecordStart`, `engineRead`, `engineWrite`, `byteArrive`. -/
def Obligations.CopyEngine : Prop :=
  Sys2Proof.Claims.Kicks ∧ Sys2Proof.Claims.KickGates ∧ Sys2Proof.Claims.CopyStarts ∧ Sys2Proof.Claims.CopyPieces ∧ Sys2Proof.Claims.ByteArrivals

/-- mres, mrel, mfence, mgo and mwait. The model's own choices and readings in it: log 30. It says that these complete, under conditions
on the state and the operands alone: `mres`, `mrel`, `mfence`, `mwait`. -/
def Obligations.MatrixHolders : Prop :=
  Sys2Proof.Claims.MatrixReservations

/-- Matrix operations. The model's own choices and readings in it: log 30. It says that these complete, under conditions on the state and
the operands alone: `mgo`, `matrixOpStart`, `matrixOpFinish`. -/
def Obligations.MatrixResults : Prop :=
  Sys2Proof.Claims.MatrixOperations ∧ Sys2Proof.Claims.MatrixSteps

/-- pgq and pgadv. The model's own choices and readings in it: log 29. It says that these complete, under conditions on the state and the
operands alone: `pgq`, `pgadv`. -/
def Obligations.PageHints : Prop :=
  Sys2Proof.Claims.PageQueries ∧ Sys2Proof.Claims.PageAdvice

/-- ctload, cbind and cbuild. The model's own choices and readings in it: log 25. It says that these complete, under conditions on the
state and the operands alone: `ctload`, `cbind`, `cbuild`. -/
def Obligations.CodecTables : Prop :=
  Sys2Proof.Claims.TableLoads ∧ Sys2Proof.Claims.CodecBindings ∧ Sys2Proof.Claims.CodecBuilds

/-- Maps, unmaps, invalidations, copy-on-write breaks and aging sweeps. The model's own choices and readings in it: log 11, 25, 29, 52. It
says that these complete, under conditions on the state and the operands alone: `pageMap`, `pageUnmap`, `tlbInvalidation`, `cowBreak`,
`agingSweep`. -/
def Obligations.PageTables : Prop :=
  Sys2Proof.Claims.PageChanges ∧ Sys2Proof.Claims.Invalidations ∧ Sys2Proof.Claims.CowBreaks ∧ Sys2Proof.Claims.AgingSweeps

/-- Frames move between tiers. The model's own choices and readings in it: log 11, 25, 29, 52. It says that these complete, under
conditions on the state and the operands alone: `demotion`, `chunkOpen`, `chunkCommit`, `batchPromotion`, `rebind`. -/
def Obligations.FrameMoving : Prop :=
  Sys2Proof.Claims.Demotions ∧ Sys2Proof.Claims.FrameMoves ∧ Sys2Proof.Claims.BatchPromotions ∧ Sys2Proof.Claims.Rebinds

/-- Snare checkpoints and batches. The model's own choices and readings in it: log 32. It says that these complete, under conditions on
the state and the operands alone: `snareCheckpoint`, `snareBatch`. -/
def Obligations.SnareMode : Prop :=
  Sys2Proof.Claims.SnareModes

/-- Bursts, codec fills, cached lines, packed pages and layer map-outs. The model's own choices and readings in it: log 20, 24, 25, 53. It
says that these complete, under conditions on the state and the operands alone: `burstReply`, `codecFill`, `writeBack`, `cacheSoftError`,
`packCommand`, `layerAlert`, `mapout`, `mapoutComplete`. -/
def Obligations.CodecCaches : Prop :=
  Sys2Proof.Claims.BurstReplies ∧ Sys2Proof.Claims.CodecFills ∧ Sys2Proof.Claims.CacheLines ∧ Sys2Proof.Claims.PagePacks ∧ Sys2Proof.Claims.LayerMapouts

/-- bop, tspawn, tcommit, tabort and uret. The model's own choices and readings in it: log 10, 34, 45. It says that these complete, under
conditions on the state and the operands alone: `bop`, `tspawn`, `tcommit`, `tabort`, `uret`. -/
def Obligations.TaskRequests : Prop :=
  Sys2Proof.Claims.BoostRequests ∧ Sys2Proof.Claims.TaskInstructions

/-- Grants, aborts, undo replays, restarts and spawns. The model's own choices and readings in it: log 34, 45, 51. It says that these
complete, under conditions on the state and the operands alone: `boostGrant`, `abortSignal`, `undoReplay`, `taskRestart`, `spawnEnqueue`.
-/
def Obligations.TaskOutcomes : Prop :=
  Sys2Proof.Claims.BoostGrants ∧ Sys2Proof.Claims.TaskMoves

/-- ep, mig and the migration of a warp. The model's own choices and readings in it: log 46. It says that these complete, under conditions
on the state and the operands alone: `ep`, `migL`, `migD`, `migrationRequest`, `migrationGrant`, `decline`, `migrationSequence`. -/
def Obligations.Migration : Prop :=
  Sys2Proof.Claims.MigrationPoints ∧ Sys2Proof.Claims.MigrationRequests ∧ Sys2Proof.Claims.MigrationSequences

/-- Fault records and their resolution. The model's own choices and readings in it: log 21, 35. It says that these complete, under
conditions on the state and the operands alone: `fresResume`, `fresKill`, `fresRebind`, `faultRecord`, `hostFresResume`, `hostFresKill`,
`hostFresRebind`, `hostKill`, `functionReset`, `cdbgctlRun`, `tocsin`. -/
def Obligations.FaultResolution : Prop :=
  Sys2Proof.Claims.Resolutions ∧ Sys2Proof.Claims.FaultRecords ∧ Sys2Proof.Claims.HostMoves

/-- Command queues, launches, waits, signals, copies and graphs. The model's own choices and readings in it: log 36, 37, 55. It says that
these complete, under conditions on the state and the operands alone: `queueDoorbell`, `qerrClear`, `launch`, `graph`, `graphNode`,
`waitCommand`, `waitSatisfied`, `signal`, `copy`. -/
def Obligations.CommandQueues : Prop :=
  Sys2Proof.Claims.QueueControls ∧ Sys2Proof.Claims.CommandStarts ∧ Sys2Proof.Claims.CommandWaits ∧ Sys2Proof.Claims.GraphWalks ∧ Sys2Proof.Claims.RegionLaunches

/-- Dispatch of blocks and the ends of regions. The model's own choices and readings in it: log 4, 38, 51. It says that these complete,
under conditions on the state and the operands alone: `blockDispatch`, `dependentLaunchStart`, `endRequest`, `regionComplete`. -/
def Obligations.BlockPlacement : Prop :=
  Sys2Proof.Claims.BlockDispatches ∧ Sys2Proof.Claims.RegionEnds

/-- Pre-emption, saving and restoring. The model's own choices and readings in it: log 38, 39. It says that these complete, under
conditions on the state and the operands alone: `timeSliceEnd`, `quantumExpiry`, `preemption`, `preemptSave`, `restore`. -/
def Obligations.PreemptionSaves : Prop :=
  Sys2Proof.Claims.Preemptions ∧ Sys2Proof.Claims.SavesAndRestores

/-- Islands, the device, the clock and the caches. The model's own choices and readings in it: log 13, 16, 20, 40, 41. It says that these
complete, under conditions on the state and the operands alone: `currentArbitration`, `islandStep`, `cageUpdate`, `lifetimeSave`,
`dxtLoad`, `attestationReport`, `bringUp`, `recoveryImage`. -/
def Obligations.IslandsAndClock : Prop :=
  Sys2Proof.Claims.Islands ∧ Sys2Proof.Claims.DeviceMoves ∧ Sys2Proof.Claims.OtherMoves

/-- Writes of the registers of the hypervisor complex and the host. The model's own choices and readings in it: log 11, 12, 52. It says
that these complete, under conditions on the state and the operands alone: `registerWrite`. -/
def Obligations.RegisterWrites : Prop :=
  Sys2Proof.Claims.RegisterWrites

/-- Fabric and CXL links, and accesses from outside. The model's own choices and readings in it: log 15, 26, 42. It says that these
complete, under conditions on the state and the operands alone: `flitResend`, `retrainTimeout`, `portDown`, `pauseFlit`, `resumeFlit`,
`pauseTimeout`, `cxlLinkLoss`, `cxlLinkReturn`, `remoteAccess`, `hostMemoryAccess`. -/
def Obligations.LinksAndOutside : Prop :=
  Sys2Proof.Claims.LinkMoves ∧ Sys2Proof.Claims.OutsideRequests

/-- Transducer instructions. The model's own choices and readings in it: log 28. It says that these complete, under conditions on the
state and the operands alone: `txGetImm`, `txGetReg`, `txPeekImm`, `txPeekReg`, `txPutImm`, `txPutReg`, `txLi`, `txMov`, `txAddImm`,
`txAddReg`, `txSubImm`, `txSubReg`, `txXorImm`, `txXorReg`, `txAndImm`, `txAndReg`, `txOrImm`, `txOrReg`, `txShlImm`, `txShlReg`,
`txShrImm`, `txShrReg`, `txSarImm`, `txSarReg`, `txSextImm`, `txSextReg`, `txZze`, `txZzd`, `txTbl`, `txTblImm`, `txPenc`, `txBfw`,
`txRepImm`, `txRepReg`, `txEndr`, `txEob`, `txDone`, `txFail`. -/
def Obligations.TransducerSteps : Prop :=
  Sys2Proof.Claims.TransducerValues ∧ Sys2Proof.Claims.TransducerControl

/-- Codewords are canonical, and pdec reads the symbol of one. It says that these complete, under conditions on the state and the operands
alone: `txPdec`. -/
def Obligations.PrefixCodes : Prop :=
  Sys2Proof.Claims.CanonicalCodes ∧ Sys2Proof.Claims.PrefixCodes

/-- Operand fields, hard-wired operands and guards. -/
def Obligations.OperandReads : Prop :=
  Sys2Proof.Claims.Operands

/-- Decoding the encoding of a well-formed instruction gives it back. -/
def Obligations.DecodeOfEncode : Prop :=
  Sys2Proof.Claims.Encodings

/-- Encoding a decoded instruction gives its word back. -/
def Obligations.EncodeOfDecode : Prop :=
  Sys2Proof.Claims.Decodings

/-- Words printed in the spec decode to their instructions. -/
def Obligations.PrintedWords : Prop :=
  Sys2Proof.Claims.PrintedWords

/-- A step runs the decoded instruction. The model's own choices and readings in it: log 1, 18, 20, 43, 51. -/
def Obligations.StepRunsDecoded : Prop :=
  Sys2Proof.Claims.StepRuns

/-- What reset leaves. The model's own choices and readings in it: log 6, 12. -/
def Obligations.ResetState : Prop :=
  Sys2Proof.Claims.ResetValues ∧ Sys2Proof.Claims.CanonicalReset

/-- Every step keeps the canonical form of memory. The model's own choices and readings in it: log 6. -/
def Obligations.MemoryStaysCanonical : Prop :=
  Sys2Proof.Claims.CanonicalSteps

/-- Instructions that steer a warp change no byte of memory. -/
def Obligations.SteeringLeavesMemory : Prop :=
  Sys2Proof.Claims.SteeringLeavesMemory
end

