-- ==== Sys2Proof/Laws/Access.lean ====
section
/-!
SUPPORT. When a TLB fill changes nothing, and what the read of a region answers.
-/
namespace Sys2Proof.Machine
open Sys2Proof

/-- A fill of an address that the core's TLB translates changes nothing. -/
theorem State.fill_hit {s : State} {core ctx va : Nat} (h : (tlbFind (s.core core).tlb (s.asnOf ctx) va).isSome = true) :
    s.fill core ctx va = s := by
  unfold State.fill
  exact if_pos h

theorem fillLanes_hit {s : State} {w : Warp} {cs : List LaneChk}
    (h : ∀ c ∈ cs, (tlbFind (s.core w.core).tlb (s.asnOf w.ctx) (ptrOff c.addr)).isSome = true) : fillLanes s w cs = s := by
  unfold fillLanes
  induction cs with
  | nil => rfl
  | cons c r ih =>
    rw [List.foldl_cons, State.fill_hit (h c (List.mem_cons_self ..)), ite_self]
    exact ih fun d hd => h d (List.mem_cons_of_mem _ hd)

theorem foldl_fixed {α β : Type} {g : α → β → α} {a : α} {l : List β} (h : ∀ b ∈ l, g a b = a) : l.foldl g a = a := by
  induction l with
  | nil => rfl
  | cons b r ih =>
    rw [List.foldl_cons, h b (List.mem_cons_self ..)]
    exact ih fun c hc => h c (List.mem_cons_of_mem _ hc)

/-- Updates that change the ports alone change the ports alone, however many. -/
theorem foldl_ports {β : Type} {g : State → β → State} (h : ∀ s b, g s b = { s with ports := (g s b).ports }) (l : List β) (s : State) :
    l.foldl g s = { s with ports := (l.foldl g s).ports } := by
  induction l generalizing s with
  | nil => rfl
  | cons b r ih =>
    rw [List.foldl_cons]
    refine (ih (g s b)).trans ?_
    generalize (r.foldl g (g s b)).ports = x
    rw [h s b]

theorem State.allocate_eq (s : State) (l : Line) : s.allocate l = { s with ports := (s.allocate l).ports } := by
  unfold State.allocate
  dsimp only
  split
  · rfl
  · rw [foldl_ports (fun s n => by split <;> rfl)]
    rfl

/-- What the blocks of a read change is their ports' caches (13 R352). -/
theorem State.hold_eq (s : State) (k : Blk) : s.hold k = { s with ports := (s.hold k).ports } := by
  unfold State.hold
  split
  · rfl
  · exact State.allocate_eq ..

/-- A request that leaves through a fabric port tells on that port alone (18 R479). -/
theorem State.crossed_eq (s : State) (loc : Nat) : s.crossed loc = { s with links := (s.crossed loc).links } := by
  unfold State.crossed
  split <;> rfl

/-- A read changes its ports' caches and the fabric ports that its requests cross. -/
theorem State.holdSide_eq (s : State) (ctx : Nat) (cs : List LaneChk) :
    s.holdSide ctx cs = { s with ports := (s.holdSide ctx cs).ports, links := (s.holdSide ctx cs).links } := by
  unfold State.holdSide
  induction cs generalizing s with
  | nil => rfl
  | cons c r ih =>
    rw [List.foldl_cons]
    refine (ih _).trans ?_
    split
    · rw [State.hold_eq s]
    · rw [State.crossed_eq s]

/-- A read in the global space changes the ports' caches alone. -/
theorem State.holdSide_local (s : State) (ctx : Nat) (cs : List LaneChk) (h : ∀ c ∈ cs, ptrSpace c.addr = 0) :
    s.holdSide ctx cs = { s with ports := (s.holdSide ctx cs).ports } := by
  unfold State.holdSide
  induction cs generalizing s with
  | nil => rfl
  | cons c r ih =>
    rw [List.foldl_cons, if_pos (h c (List.mem_cons_self ..))]
    refine (ih _ fun d hd => h d (List.mem_cons_of_mem _ hd)).trans ?_
    rw [State.hold_eq s]

/-- The lanes by which the bytes of a region are checked. -/
def regionChks (i : Iss) (s : State) (base : W64) (off : Int) (n : Nat) : List LaneChk :=
  ((List.range n).map fun (j : Nat) => checkLane s i.w 0 i.low base (off + (j : Int)) 0 1).map fun c => { c with lane := i.low }

/-- A region that passes its checks and is ready and in reach, with no block to fill or to wait for and no damaged byte, is read. -/
theorem readRegion_bytes {i : Iss} {s : State} {base : W64} {off : Int} {n : Nat}
    (hw : worstChk (regionChks i s base off n) = none) (hy : regionReady i s (regionChks i s base off n) = true)
    (hu : ((regionChks i s base off n).find? fun c => ptrSpace c.addr == 8 && s.unreachable c.loc) = none)
    (hb : ∀ va ∈ union [] (((regionChks i s base off n).filter fun c => ptrSpace c.addr == 0).map fun c => ptrOff c.addr / 16 * 16),
      ∀ k, s.blockAt i.w.ctx va = some k → s.needsFill k = false)
    (hf : ((regionChks i s base off n).any fun c => ptrSpace c.addr == 0 &&
      (!s.room (c.blk s i.w.ctx) || (!s.cached (c.blk s i.w.ctx) && (c.blk s i.w.ctx).busy s))) = false)
    (hd : ((regionChks i s base off n).find? fun c => ptrSpace c.addr == 0 && s.damaged (s.homeLoc c.loc)) = none) :
    readRegion i s base off n =
      .bytes ((fillLanes s i.w (regionChks i s base off n)).holdSide i.w.ctx (regionChks i s base off n)) (regionChks i s base off n) := by
  unfold readRegion
  have he : ((List.range n).map fun (j : Nat) => checkLane s i.w 0 i.low base (off + (j : Int)) 0 1).map
      (fun c => ({ c with lane := i.low } : LaneChk)) = regionChks i s base off n := rfl
  dsimp only
  rw [he]
  simp only [hw, hy, hu, hf, Bool.not_true, Bool.false_eq_true, if_false]
  rw [foldl_fixed (a := (Except.ok s : Except (Nat × Blk × Nat × Nat × Option Nat) State))]
  · simp only [hd]
  · intro va hva
    cases hk : s.blockAt i.w.ctx va with
    | none => simp only [hk]
    | some k => simp only [hk, hb va hva k hk, Bool.not_false, if_true]

end Sys2Proof.Machine
end

