-- ==== Sys2Proof/Laws/State.lean ====
section
/-!
SUPPORT. What each update of the state, of a warp and of a thread leaves alone: one lemma for each field, true by `rfl`.
-/
namespace Sys2Proof.Machine
open Sys2Proof

/-! ### `State.setCore` -/
@[simp] theorem State.setCore_agenda (s : State) (k : Nat) (c : Core) : (s.setCore k c).agenda = s.agenda := rfl
@[simp] theorem State.setCore_cur (s : State) (k : Nat) (c : Core) : (s.setCore k c).cur = s.cur := rfl
@[simp] theorem State.setCore_free (s : State) (k : Nat) (c : Core) : (s.setCore k c).free = s.free := rfl
@[simp] theorem State.setCore_tick (s : State) (k : Nat) (c : Core) : (s.setCore k c).tick = s.tick := rfl
@[simp] theorem State.setCore_mem (s : State) (k : Nat) (c : Core) : (s.setCore k c).mem = s.mem := rfl
@[simp] theorem State.setCore_dram (s : State) (k : Nat) (c : Core) : (s.setCore k c).dram = s.dram := rfl
@[simp] theorem State.setCore_metab (s : State) (k : Nat) (c : Core) : (s.setCore k c).metab = s.metab := rfl
@[simp] theorem State.setCore_softWords (s : State) (k : Nat) (c : Core) : (s.setCore k c).softWords = s.softWords := rfl
@[simp] theorem State.setCore_badWords (s : State) (k : Nat) (c : Core) : (s.setCore k c).badWords = s.badWords := rfl
@[simp] theorem State.setCore_order (s : State) (k : Nat) (c : Core) : (s.setCore k c).order = s.order := rfl
@[simp] theorem State.setCore_warps (s : State) (k : Nat) (c : Core) : (s.setCore k c).warps = s.warps := rfl
@[simp] theorem State.setCore_blocks (s : State) (k : Nat) (c : Core) : (s.setCore k c).blocks = s.blocks := rfl
@[simp] theorem State.setCore_blockCt (s : State) (k : Nat) (c : Core) : (s.setCore k c).blockCt = s.blockCt := rfl
@[simp] theorem State.setCore_warpCt (s : State) (k : Nat) (c : Core) : (s.setCore k c).warpCt = s.warpCt := rfl
@[simp] theorem State.setCore_qwaits (s : State) (k : Nat) (c : Core) : (s.setCore k c).qwaits = s.qwaits := rfl
@[simp] theorem State.setCore_cores (s : State) (k : Nat) (c : Core) : (s.setCore k c).cores = kvSet s.cores k c := rfl
@[simp] theorem State.setCore_clusters (s : State) (k : Nat) (c : Core) : (s.setCore k c).clusters = s.clusters := rfl
@[simp] theorem State.setCore_ports (s : State) (k : Nat) (c : Core) : (s.setCore k c).ports = s.ports := rfl
@[simp] theorem State.setCore_hbm (s : State) (k : Nat) (c : Core) : (s.setCore k c).hbm = s.hbm := rfl
@[simp] theorem State.setCore_parts (s : State) (k : Nat) (c : Core) : (s.setCore k c).parts = s.parts := rfl
@[simp] theorem State.setCore_ctxs (s : State) (k : Nat) (c : Core) : (s.setCore k c).ctxs = s.ctxs := rfl
@[simp] theorem State.setCore_regions (s : State) (k : Nat) (c : Core) : (s.setCore k c).regions = s.regions := rfl
@[simp] theorem State.setCore_paging (s : State) (k : Nat) (c : Core) : (s.setCore k c).paging = s.paging := rfl
@[simp] theorem State.setCore_recs (s : State) (k : Nat) (c : Core) : (s.setCore k c).recs = s.recs := rfl
@[simp] theorem State.setCore_recCt (s : State) (k : Nat) (c : Core) : (s.setCore k c).recCt = s.recCt := rfl
@[simp] theorem State.setCore_saves (s : State) (k : Nat) (c : Core) : (s.setCore k c).saves = s.saves := rfl
@[simp] theorem State.setCore_lanes (s : State) (k : Nat) (c : Core) : (s.setCore k c).lanes = s.lanes := rfl
@[simp] theorem State.setCore_txCur (s : State) (k : Nat) (c : Core) : (s.setCore k c).txCur = s.txCur := rfl
@[simp] theorem State.setCore_lane (s : State) (k : Nat) (c : Core) : (s.setCore k c).lane = s.lane := rfl
@[simp] theorem State.setCore_links (s : State) (k : Nat) (c : Core) : (s.setCore k c).links = s.links := rfl
@[simp] theorem State.setCore_dev (s : State) (k : Nat) (c : Core) : (s.setCore k c).dev = s.dev := rfl

/-! ### `State.setCluster` -/
@[simp] theorem State.setCluster_agenda (s : State) (k : Nat) (c : Cluster) : (s.setCluster k c).agenda = s.agenda := rfl
@[simp] theorem State.setCluster_cur (s : State) (k : Nat) (c : Cluster) : (s.setCluster k c).cur = s.cur := rfl
@[simp] theorem State.setCluster_free (s : State) (k : Nat) (c : Cluster) : (s.setCluster k c).free = s.free := rfl
@[simp] theorem State.setCluster_tick (s : State) (k : Nat) (c : Cluster) : (s.setCluster k c).tick = s.tick := rfl
@[simp] theorem State.setCluster_mem (s : State) (k : Nat) (c : Cluster) : (s.setCluster k c).mem = s.mem := rfl
@[simp] theorem State.setCluster_dram (s : State) (k : Nat) (c : Cluster) : (s.setCluster k c).dram = s.dram := rfl
@[simp] theorem State.setCluster_metab (s : State) (k : Nat) (c : Cluster) : (s.setCluster k c).metab = s.metab := rfl
@[simp] theorem State.setCluster_softWords (s : State) (k : Nat) (c : Cluster) : (s.setCluster k c).softWords = s.softWords := rfl
@[simp] theorem State.setCluster_badWords (s : State) (k : Nat) (c : Cluster) : (s.setCluster k c).badWords = s.badWords := rfl
@[simp] theorem State.setCluster_order (s : State) (k : Nat) (c : Cluster) : (s.setCluster k c).order = s.order := rfl
@[simp] theorem State.setCluster_warps (s : State) (k : Nat) (c : Cluster) : (s.setCluster k c).warps = s.warps := rfl
@[simp] theorem State.setCluster_blocks (s : State) (k : Nat) (c : Cluster) : (s.setCluster k c).blocks = s.blocks := rfl
@[simp] theorem State.setCluster_blockCt (s : State) (k : Nat) (c : Cluster) : (s.setCluster k c).blockCt = s.blockCt := rfl
@[simp] theorem State.setCluster_warpCt (s : State) (k : Nat) (c : Cluster) : (s.setCluster k c).warpCt = s.warpCt := rfl
@[simp] theorem State.setCluster_qwaits (s : State) (k : Nat) (c : Cluster) : (s.setCluster k c).qwaits = s.qwaits := rfl
@[simp] theorem State.setCluster_cores (s : State) (k : Nat) (c : Cluster) : (s.setCluster k c).cores = s.cores := rfl
@[simp] theorem State.setCluster_clusters (s : State) (k : Nat) (c : Cluster) : (s.setCluster k c).clusters = kvSet s.clusters k c := rfl
@[simp] theorem State.setCluster_ports (s : State) (k : Nat) (c : Cluster) : (s.setCluster k c).ports = s.ports := rfl
@[simp] theorem State.setCluster_hbm (s : State) (k : Nat) (c : Cluster) : (s.setCluster k c).hbm = s.hbm := rfl
@[simp] theorem State.setCluster_parts (s : State) (k : Nat) (c : Cluster) : (s.setCluster k c).parts = s.parts := rfl
@[simp] theorem State.setCluster_ctxs (s : State) (k : Nat) (c : Cluster) : (s.setCluster k c).ctxs = s.ctxs := rfl
@[simp] theorem State.setCluster_regions (s : State) (k : Nat) (c : Cluster) : (s.setCluster k c).regions = s.regions := rfl
@[simp] theorem State.setCluster_paging (s : State) (k : Nat) (c : Cluster) : (s.setCluster k c).paging = s.paging := rfl
@[simp] theorem State.setCluster_recs (s : State) (k : Nat) (c : Cluster) : (s.setCluster k c).recs = s.recs := rfl
@[simp] theorem State.setCluster_recCt (s : State) (k : Nat) (c : Cluster) : (s.setCluster k c).recCt = s.recCt := rfl
@[simp] theorem State.setCluster_saves (s : State) (k : Nat) (c : Cluster) : (s.setCluster k c).saves = s.saves := rfl
@[simp] theorem State.setCluster_lanes (s : State) (k : Nat) (c : Cluster) : (s.setCluster k c).lanes = s.lanes := rfl
@[simp] theorem State.setCluster_txCur (s : State) (k : Nat) (c : Cluster) : (s.setCluster k c).txCur = s.txCur := rfl
@[simp] theorem State.setCluster_lane (s : State) (k : Nat) (c : Cluster) : (s.setCluster k c).lane = s.lane := rfl
@[simp] theorem State.setCluster_links (s : State) (k : Nat) (c : Cluster) : (s.setCluster k c).links = s.links := rfl
@[simp] theorem State.setCluster_dev (s : State) (k : Nat) (c : Cluster) : (s.setCluster k c).dev = s.dev := rfl

/-! ### `State.setPort` -/
@[simp] theorem State.setPort_agenda (s : State) (k : Nat) (p : Port) : (s.setPort k p).agenda = s.agenda := rfl
@[simp] theorem State.setPort_cur (s : State) (k : Nat) (p : Port) : (s.setPort k p).cur = s.cur := rfl
@[simp] theorem State.setPort_free (s : State) (k : Nat) (p : Port) : (s.setPort k p).free = s.free := rfl
@[simp] theorem State.setPort_tick (s : State) (k : Nat) (p : Port) : (s.setPort k p).tick = s.tick := rfl
@[simp] theorem State.setPort_mem (s : State) (k : Nat) (p : Port) : (s.setPort k p).mem = s.mem := rfl
@[simp] theorem State.setPort_dram (s : State) (k : Nat) (p : Port) : (s.setPort k p).dram = s.dram := rfl
@[simp] theorem State.setPort_metab (s : State) (k : Nat) (p : Port) : (s.setPort k p).metab = s.metab := rfl
@[simp] theorem State.setPort_softWords (s : State) (k : Nat) (p : Port) : (s.setPort k p).softWords = s.softWords := rfl
@[simp] theorem State.setPort_badWords (s : State) (k : Nat) (p : Port) : (s.setPort k p).badWords = s.badWords := rfl
@[simp] theorem State.setPort_order (s : State) (k : Nat) (p : Port) : (s.setPort k p).order = s.order := rfl
@[simp] theorem State.setPort_warps (s : State) (k : Nat) (p : Port) : (s.setPort k p).warps = s.warps := rfl
@[simp] theorem State.setPort_blocks (s : State) (k : Nat) (p : Port) : (s.setPort k p).blocks = s.blocks := rfl
@[simp] theorem State.setPort_blockCt (s : State) (k : Nat) (p : Port) : (s.setPort k p).blockCt = s.blockCt := rfl
@[simp] theorem State.setPort_warpCt (s : State) (k : Nat) (p : Port) : (s.setPort k p).warpCt = s.warpCt := rfl
@[simp] theorem State.setPort_qwaits (s : State) (k : Nat) (p : Port) : (s.setPort k p).qwaits = s.qwaits := rfl
@[simp] theorem State.setPort_cores (s : State) (k : Nat) (p : Port) : (s.setPort k p).cores = s.cores := rfl
@[simp] theorem State.setPort_clusters (s : State) (k : Nat) (p : Port) : (s.setPort k p).clusters = s.clusters := rfl
@[simp] theorem State.setPort_ports (s : State) (k : Nat) (p : Port) : (s.setPort k p).ports = kvSet s.ports k p := rfl
@[simp] theorem State.setPort_hbm (s : State) (k : Nat) (p : Port) : (s.setPort k p).hbm = s.hbm := rfl
@[simp] theorem State.setPort_parts (s : State) (k : Nat) (p : Port) : (s.setPort k p).parts = s.parts := rfl
@[simp] theorem State.setPort_ctxs (s : State) (k : Nat) (p : Port) : (s.setPort k p).ctxs = s.ctxs := rfl
@[simp] theorem State.setPort_regions (s : State) (k : Nat) (p : Port) : (s.setPort k p).regions = s.regions := rfl
@[simp] theorem State.setPort_paging (s : State) (k : Nat) (p : Port) : (s.setPort k p).paging = s.paging := rfl
@[simp] theorem State.setPort_recs (s : State) (k : Nat) (p : Port) : (s.setPort k p).recs = s.recs := rfl
@[simp] theorem State.setPort_recCt (s : State) (k : Nat) (p : Port) : (s.setPort k p).recCt = s.recCt := rfl
@[simp] theorem State.setPort_saves (s : State) (k : Nat) (p : Port) : (s.setPort k p).saves = s.saves := rfl
@[simp] theorem State.setPort_lanes (s : State) (k : Nat) (p : Port) : (s.setPort k p).lanes = s.lanes := rfl
@[simp] theorem State.setPort_txCur (s : State) (k : Nat) (p : Port) : (s.setPort k p).txCur = s.txCur := rfl
@[simp] theorem State.setPort_lane (s : State) (k : Nat) (p : Port) : (s.setPort k p).lane = s.lane := rfl
@[simp] theorem State.setPort_links (s : State) (k : Nat) (p : Port) : (s.setPort k p).links = s.links := rfl
@[simp] theorem State.setPort_dev (s : State) (k : Nat) (p : Port) : (s.setPort k p).dev = s.dev := rfl

/-! ### `State.setStack` -/
@[simp] theorem State.setStack_agenda (s : State) (k : Nat) (p : Stack) : (s.setStack k p).agenda = s.agenda := rfl
@[simp] theorem State.setStack_cur (s : State) (k : Nat) (p : Stack) : (s.setStack k p).cur = s.cur := rfl
@[simp] theorem State.setStack_free (s : State) (k : Nat) (p : Stack) : (s.setStack k p).free = s.free := rfl
@[simp] theorem State.setStack_tick (s : State) (k : Nat) (p : Stack) : (s.setStack k p).tick = s.tick := rfl
@[simp] theorem State.setStack_mem (s : State) (k : Nat) (p : Stack) : (s.setStack k p).mem = s.mem := rfl
@[simp] theorem State.setStack_dram (s : State) (k : Nat) (p : Stack) : (s.setStack k p).dram = s.dram := rfl
@[simp] theorem State.setStack_metab (s : State) (k : Nat) (p : Stack) : (s.setStack k p).metab = s.metab := rfl
@[simp] theorem State.setStack_softWords (s : State) (k : Nat) (p : Stack) : (s.setStack k p).softWords = s.softWords := rfl
@[simp] theorem State.setStack_badWords (s : State) (k : Nat) (p : Stack) : (s.setStack k p).badWords = s.badWords := rfl
@[simp] theorem State.setStack_order (s : State) (k : Nat) (p : Stack) : (s.setStack k p).order = s.order := rfl
@[simp] theorem State.setStack_warps (s : State) (k : Nat) (p : Stack) : (s.setStack k p).warps = s.warps := rfl
@[simp] theorem State.setStack_blocks (s : State) (k : Nat) (p : Stack) : (s.setStack k p).blocks = s.blocks := rfl
@[simp] theorem State.setStack_blockCt (s : State) (k : Nat) (p : Stack) : (s.setStack k p).blockCt = s.blockCt := rfl
@[simp] theorem State.setStack_warpCt (s : State) (k : Nat) (p : Stack) : (s.setStack k p).warpCt = s.warpCt := rfl
@[simp] theorem State.setStack_qwaits (s : State) (k : Nat) (p : Stack) : (s.setStack k p).qwaits = s.qwaits := rfl
@[simp] theorem State.setStack_cores (s : State) (k : Nat) (p : Stack) : (s.setStack k p).cores = s.cores := rfl
@[simp] theorem State.setStack_clusters (s : State) (k : Nat) (p : Stack) : (s.setStack k p).clusters = s.clusters := rfl
@[simp] theorem State.setStack_ports (s : State) (k : Nat) (p : Stack) : (s.setStack k p).ports = s.ports := rfl
@[simp] theorem State.setStack_hbm (s : State) (k : Nat) (p : Stack) : (s.setStack k p).hbm = kvSet s.hbm k p := rfl
@[simp] theorem State.setStack_parts (s : State) (k : Nat) (p : Stack) : (s.setStack k p).parts = s.parts := rfl
@[simp] theorem State.setStack_ctxs (s : State) (k : Nat) (p : Stack) : (s.setStack k p).ctxs = s.ctxs := rfl
@[simp] theorem State.setStack_regions (s : State) (k : Nat) (p : Stack) : (s.setStack k p).regions = s.regions := rfl
@[simp] theorem State.setStack_paging (s : State) (k : Nat) (p : Stack) : (s.setStack k p).paging = s.paging := rfl
@[simp] theorem State.setStack_recs (s : State) (k : Nat) (p : Stack) : (s.setStack k p).recs = s.recs := rfl
@[simp] theorem State.setStack_recCt (s : State) (k : Nat) (p : Stack) : (s.setStack k p).recCt = s.recCt := rfl
@[simp] theorem State.setStack_saves (s : State) (k : Nat) (p : Stack) : (s.setStack k p).saves = s.saves := rfl
@[simp] theorem State.setStack_lanes (s : State) (k : Nat) (p : Stack) : (s.setStack k p).lanes = s.lanes := rfl
@[simp] theorem State.setStack_txCur (s : State) (k : Nat) (p : Stack) : (s.setStack k p).txCur = s.txCur := rfl
@[simp] theorem State.setStack_lane (s : State) (k : Nat) (p : Stack) : (s.setStack k p).lane = s.lane := rfl
@[simp] theorem State.setStack_links (s : State) (k : Nat) (p : Stack) : (s.setStack k p).links = s.links := rfl
@[simp] theorem State.setStack_dev (s : State) (k : Nat) (p : Stack) : (s.setStack k p).dev = s.dev := rfl

/-! ### `State.setContext` -/
@[simp] theorem State.setContext_agenda (s : State) (k : Nat) (c : Context) : (s.setContext k c).agenda = s.agenda := rfl
@[simp] theorem State.setContext_cur (s : State) (k : Nat) (c : Context) : (s.setContext k c).cur = s.cur := rfl
@[simp] theorem State.setContext_free (s : State) (k : Nat) (c : Context) : (s.setContext k c).free = s.free := rfl
@[simp] theorem State.setContext_tick (s : State) (k : Nat) (c : Context) : (s.setContext k c).tick = s.tick := rfl
@[simp] theorem State.setContext_mem (s : State) (k : Nat) (c : Context) : (s.setContext k c).mem = s.mem := rfl
@[simp] theorem State.setContext_dram (s : State) (k : Nat) (c : Context) : (s.setContext k c).dram = s.dram := rfl
@[simp] theorem State.setContext_metab (s : State) (k : Nat) (c : Context) : (s.setContext k c).metab = s.metab := rfl
@[simp] theorem State.setContext_softWords (s : State) (k : Nat) (c : Context) : (s.setContext k c).softWords = s.softWords := rfl
@[simp] theorem State.setContext_badWords (s : State) (k : Nat) (c : Context) : (s.setContext k c).badWords = s.badWords := rfl
@[simp] theorem State.setContext_order (s : State) (k : Nat) (c : Context) : (s.setContext k c).order = s.order := rfl
@[simp] theorem State.setContext_warps (s : State) (k : Nat) (c : Context) : (s.setContext k c).warps = s.warps := rfl
@[simp] theorem State.setContext_blocks (s : State) (k : Nat) (c : Context) : (s.setContext k c).blocks = s.blocks := rfl
@[simp] theorem State.setContext_blockCt (s : State) (k : Nat) (c : Context) : (s.setContext k c).blockCt = s.blockCt := rfl
@[simp] theorem State.setContext_warpCt (s : State) (k : Nat) (c : Context) : (s.setContext k c).warpCt = s.warpCt := rfl
@[simp] theorem State.setContext_qwaits (s : State) (k : Nat) (c : Context) : (s.setContext k c).qwaits = s.qwaits := rfl
@[simp] theorem State.setContext_cores (s : State) (k : Nat) (c : Context) : (s.setContext k c).cores = s.cores := rfl
@[simp] theorem State.setContext_clusters (s : State) (k : Nat) (c : Context) : (s.setContext k c).clusters = s.clusters := rfl
@[simp] theorem State.setContext_ports (s : State) (k : Nat) (c : Context) : (s.setContext k c).ports = s.ports := rfl
@[simp] theorem State.setContext_hbm (s : State) (k : Nat) (c : Context) : (s.setContext k c).hbm = s.hbm := rfl
@[simp] theorem State.setContext_parts (s : State) (k : Nat) (c : Context) : (s.setContext k c).parts = s.parts := rfl
@[simp] theorem State.setContext_ctxs (s : State) (k : Nat) (c : Context) : (s.setContext k c).ctxs = kvSet s.ctxs k c := rfl
@[simp] theorem State.setContext_regions (s : State) (k : Nat) (c : Context) : (s.setContext k c).regions = s.regions := rfl
@[simp] theorem State.setContext_paging (s : State) (k : Nat) (c : Context) : (s.setContext k c).paging = s.paging := rfl
@[simp] theorem State.setContext_recs (s : State) (k : Nat) (c : Context) : (s.setContext k c).recs = s.recs := rfl
@[simp] theorem State.setContext_recCt (s : State) (k : Nat) (c : Context) : (s.setContext k c).recCt = s.recCt := rfl
@[simp] theorem State.setContext_saves (s : State) (k : Nat) (c : Context) : (s.setContext k c).saves = s.saves := rfl
@[simp] theorem State.setContext_lanes (s : State) (k : Nat) (c : Context) : (s.setContext k c).lanes = s.lanes := rfl
@[simp] theorem State.setContext_txCur (s : State) (k : Nat) (c : Context) : (s.setContext k c).txCur = s.txCur := rfl
@[simp] theorem State.setContext_lane (s : State) (k : Nat) (c : Context) : (s.setContext k c).lane = s.lane := rfl
@[simp] theorem State.setContext_links (s : State) (k : Nat) (c : Context) : (s.setContext k c).links = s.links := rfl
@[simp] theorem State.setContext_dev (s : State) (k : Nat) (c : Context) : (s.setContext k c).dev = s.dev := rfl

/-! ### `State.setFport` -/
@[simp] theorem State.setFport_agenda (s : State) (k : Nat) (p : FPort) : (s.setFport k p).agenda = s.agenda := rfl
@[simp] theorem State.setFport_cur (s : State) (k : Nat) (p : FPort) : (s.setFport k p).cur = s.cur := rfl
@[simp] theorem State.setFport_free (s : State) (k : Nat) (p : FPort) : (s.setFport k p).free = s.free := rfl
@[simp] theorem State.setFport_tick (s : State) (k : Nat) (p : FPort) : (s.setFport k p).tick = s.tick := rfl
@[simp] theorem State.setFport_mem (s : State) (k : Nat) (p : FPort) : (s.setFport k p).mem = s.mem := rfl
@[simp] theorem State.setFport_dram (s : State) (k : Nat) (p : FPort) : (s.setFport k p).dram = s.dram := rfl
@[simp] theorem State.setFport_metab (s : State) (k : Nat) (p : FPort) : (s.setFport k p).metab = s.metab := rfl
@[simp] theorem State.setFport_softWords (s : State) (k : Nat) (p : FPort) : (s.setFport k p).softWords = s.softWords := rfl
@[simp] theorem State.setFport_badWords (s : State) (k : Nat) (p : FPort) : (s.setFport k p).badWords = s.badWords := rfl
@[simp] theorem State.setFport_order (s : State) (k : Nat) (p : FPort) : (s.setFport k p).order = s.order := rfl
@[simp] theorem State.setFport_warps (s : State) (k : Nat) (p : FPort) : (s.setFport k p).warps = s.warps := rfl
@[simp] theorem State.setFport_blocks (s : State) (k : Nat) (p : FPort) : (s.setFport k p).blocks = s.blocks := rfl
@[simp] theorem State.setFport_blockCt (s : State) (k : Nat) (p : FPort) : (s.setFport k p).blockCt = s.blockCt := rfl
@[simp] theorem State.setFport_warpCt (s : State) (k : Nat) (p : FPort) : (s.setFport k p).warpCt = s.warpCt := rfl
@[simp] theorem State.setFport_qwaits (s : State) (k : Nat) (p : FPort) : (s.setFport k p).qwaits = s.qwaits := rfl
@[simp] theorem State.setFport_cores (s : State) (k : Nat) (p : FPort) : (s.setFport k p).cores = s.cores := rfl
@[simp] theorem State.setFport_clusters (s : State) (k : Nat) (p : FPort) : (s.setFport k p).clusters = s.clusters := rfl
@[simp] theorem State.setFport_ports (s : State) (k : Nat) (p : FPort) : (s.setFport k p).ports = s.ports := rfl
@[simp] theorem State.setFport_hbm (s : State) (k : Nat) (p : FPort) : (s.setFport k p).hbm = s.hbm := rfl
@[simp] theorem State.setFport_parts (s : State) (k : Nat) (p : FPort) : (s.setFport k p).parts = s.parts := rfl
@[simp] theorem State.setFport_ctxs (s : State) (k : Nat) (p : FPort) : (s.setFport k p).ctxs = s.ctxs := rfl
@[simp] theorem State.setFport_regions (s : State) (k : Nat) (p : FPort) : (s.setFport k p).regions = s.regions := rfl
@[simp] theorem State.setFport_paging (s : State) (k : Nat) (p : FPort) : (s.setFport k p).paging = s.paging := rfl
@[simp] theorem State.setFport_recs (s : State) (k : Nat) (p : FPort) : (s.setFport k p).recs = s.recs := rfl
@[simp] theorem State.setFport_recCt (s : State) (k : Nat) (p : FPort) : (s.setFport k p).recCt = s.recCt := rfl
@[simp] theorem State.setFport_saves (s : State) (k : Nat) (p : FPort) : (s.setFport k p).saves = s.saves := rfl
@[simp] theorem State.setFport_lanes (s : State) (k : Nat) (p : FPort) : (s.setFport k p).lanes = s.lanes := rfl
@[simp] theorem State.setFport_txCur (s : State) (k : Nat) (p : FPort) : (s.setFport k p).txCur = s.txCur := rfl
@[simp] theorem State.setFport_lane (s : State) (k : Nat) (p : FPort) : (s.setFport k p).lane = s.lane := rfl
@[simp] theorem State.setFport_dev (s : State) (k : Nat) (p : FPort) : (s.setFport k p).dev = s.dev := rfl

/-! ### `State.setWarp` -/
@[simp] theorem State.setWarp_agenda (s : State) (w : Warp) : (s.setWarp w).agenda = s.agenda := rfl
@[simp] theorem State.setWarp_cur (s : State) (w : Warp) : (s.setWarp w).cur = s.cur := rfl
@[simp] theorem State.setWarp_free (s : State) (w : Warp) : (s.setWarp w).free = s.free := rfl
@[simp] theorem State.setWarp_tick (s : State) (w : Warp) : (s.setWarp w).tick = s.tick := rfl
@[simp] theorem State.setWarp_mem (s : State) (w : Warp) : (s.setWarp w).mem = s.mem := rfl
@[simp] theorem State.setWarp_dram (s : State) (w : Warp) : (s.setWarp w).dram = s.dram := rfl
@[simp] theorem State.setWarp_metab (s : State) (w : Warp) : (s.setWarp w).metab = s.metab := rfl
@[simp] theorem State.setWarp_softWords (s : State) (w : Warp) : (s.setWarp w).softWords = s.softWords := rfl
@[simp] theorem State.setWarp_badWords (s : State) (w : Warp) : (s.setWarp w).badWords = s.badWords := rfl
@[simp] theorem State.setWarp_order (s : State) (w : Warp) : (s.setWarp w).order = s.order := rfl
@[simp] theorem State.setWarp_warps (s : State) (w : Warp) : (s.setWarp w).warps = s.warps.map fun x => if x.key == w.key then w else x := rfl
@[simp] theorem State.setWarp_blocks (s : State) (w : Warp) : (s.setWarp w).blocks = s.blocks := rfl
@[simp] theorem State.setWarp_blockCt (s : State) (w : Warp) : (s.setWarp w).blockCt = s.blockCt := rfl
@[simp] theorem State.setWarp_warpCt (s : State) (w : Warp) : (s.setWarp w).warpCt = s.warpCt := rfl
@[simp] theorem State.setWarp_qwaits (s : State) (w : Warp) : (s.setWarp w).qwaits = s.qwaits := rfl
@[simp] theorem State.setWarp_cores (s : State) (w : Warp) : (s.setWarp w).cores = s.cores := rfl
@[simp] theorem State.setWarp_clusters (s : State) (w : Warp) : (s.setWarp w).clusters = s.clusters := rfl
@[simp] theorem State.setWarp_ports (s : State) (w : Warp) : (s.setWarp w).ports = s.ports := rfl
@[simp] theorem State.setWarp_hbm (s : State) (w : Warp) : (s.setWarp w).hbm = s.hbm := rfl
@[simp] theorem State.setWarp_parts (s : State) (w : Warp) : (s.setWarp w).parts = s.parts := rfl
@[simp] theorem State.setWarp_ctxs (s : State) (w : Warp) : (s.setWarp w).ctxs = s.ctxs := rfl
@[simp] theorem State.setWarp_regions (s : State) (w : Warp) : (s.setWarp w).regions = s.regions := rfl
@[simp] theorem State.setWarp_paging (s : State) (w : Warp) : (s.setWarp w).paging = s.paging := rfl
@[simp] theorem State.setWarp_recs (s : State) (w : Warp) : (s.setWarp w).recs = s.recs := rfl
@[simp] theorem State.setWarp_recCt (s : State) (w : Warp) : (s.setWarp w).recCt = s.recCt := rfl
@[simp] theorem State.setWarp_saves (s : State) (w : Warp) : (s.setWarp w).saves = s.saves := rfl
@[simp] theorem State.setWarp_lanes (s : State) (w : Warp) : (s.setWarp w).lanes = s.lanes := rfl
@[simp] theorem State.setWarp_txCur (s : State) (w : Warp) : (s.setWarp w).txCur = s.txCur := rfl
@[simp] theorem State.setWarp_lane (s : State) (w : Warp) : (s.setWarp w).lane = s.lane := rfl
@[simp] theorem State.setWarp_links (s : State) (w : Warp) : (s.setWarp w).links = s.links := rfl
@[simp] theorem State.setWarp_dev (s : State) (w : Warp) : (s.setWarp w).dev = s.dev := rfl

/-! ### `State.setRegion` -/
@[simp] theorem State.setRegion_agenda (s : State) (r : Region) : (s.setRegion r).agenda = s.agenda := rfl
@[simp] theorem State.setRegion_cur (s : State) (r : Region) : (s.setRegion r).cur = s.cur := rfl
@[simp] theorem State.setRegion_free (s : State) (r : Region) : (s.setRegion r).free = s.free := rfl
@[simp] theorem State.setRegion_tick (s : State) (r : Region) : (s.setRegion r).tick = s.tick := rfl
@[simp] theorem State.setRegion_mem (s : State) (r : Region) : (s.setRegion r).mem = s.mem := rfl
@[simp] theorem State.setRegion_dram (s : State) (r : Region) : (s.setRegion r).dram = s.dram := rfl
@[simp] theorem State.setRegion_metab (s : State) (r : Region) : (s.setRegion r).metab = s.metab := rfl
@[simp] theorem State.setRegion_softWords (s : State) (r : Region) : (s.setRegion r).softWords = s.softWords := rfl
@[simp] theorem State.setRegion_badWords (s : State) (r : Region) : (s.setRegion r).badWords = s.badWords := rfl
@[simp] theorem State.setRegion_order (s : State) (r : Region) : (s.setRegion r).order = s.order := rfl
@[simp] theorem State.setRegion_warps (s : State) (r : Region) : (s.setRegion r).warps = s.warps := rfl
@[simp] theorem State.setRegion_blocks (s : State) (r : Region) : (s.setRegion r).blocks = s.blocks := rfl
@[simp] theorem State.setRegion_blockCt (s : State) (r : Region) : (s.setRegion r).blockCt = s.blockCt := rfl
@[simp] theorem State.setRegion_warpCt (s : State) (r : Region) : (s.setRegion r).warpCt = s.warpCt := rfl
@[simp] theorem State.setRegion_qwaits (s : State) (r : Region) : (s.setRegion r).qwaits = s.qwaits := rfl
@[simp] theorem State.setRegion_cores (s : State) (r : Region) : (s.setRegion r).cores = s.cores := rfl
@[simp] theorem State.setRegion_clusters (s : State) (r : Region) : (s.setRegion r).clusters = s.clusters := rfl
@[simp] theorem State.setRegion_ports (s : State) (r : Region) : (s.setRegion r).ports = s.ports := rfl
@[simp] theorem State.setRegion_hbm (s : State) (r : Region) : (s.setRegion r).hbm = s.hbm := rfl
@[simp] theorem State.setRegion_parts (s : State) (r : Region) : (s.setRegion r).parts = s.parts := rfl
@[simp] theorem State.setRegion_ctxs (s : State) (r : Region) : (s.setRegion r).ctxs = s.ctxs := rfl
@[simp] theorem State.setRegion_regions (s : State) (r : Region) : (s.setRegion r).regions = s.regions.map fun x => if x.rcb == r.rcb && x.ctx == r.ctx then r else x := rfl
@[simp] theorem State.setRegion_paging (s : State) (r : Region) : (s.setRegion r).paging = s.paging := rfl
@[simp] theorem State.setRegion_recs (s : State) (r : Region) : (s.setRegion r).recs = s.recs := rfl
@[simp] theorem State.setRegion_recCt (s : State) (r : Region) : (s.setRegion r).recCt = s.recCt := rfl
@[simp] theorem State.setRegion_saves (s : State) (r : Region) : (s.setRegion r).saves = s.saves := rfl
@[simp] theorem State.setRegion_lanes (s : State) (r : Region) : (s.setRegion r).lanes = s.lanes := rfl
@[simp] theorem State.setRegion_txCur (s : State) (r : Region) : (s.setRegion r).txCur = s.txCur := rfl
@[simp] theorem State.setRegion_lane (s : State) (r : Region) : (s.setRegion r).lane = s.lane := rfl
@[simp] theorem State.setRegion_links (s : State) (r : Region) : (s.setRegion r).links = s.links := rfl
@[simp] theorem State.setRegion_dev (s : State) (r : Region) : (s.setRegion r).dev = s.dev := rfl

/-! ### `State.setRec` -/
@[simp] theorem State.setRec_agenda (s : State) (r : Rec) : (s.setRec r).agenda = s.agenda := rfl
@[simp] theorem State.setRec_cur (s : State) (r : Rec) : (s.setRec r).cur = s.cur := rfl
@[simp] theorem State.setRec_free (s : State) (r : Rec) : (s.setRec r).free = s.free := rfl
@[simp] theorem State.setRec_tick (s : State) (r : Rec) : (s.setRec r).tick = s.tick := rfl
@[simp] theorem State.setRec_mem (s : State) (r : Rec) : (s.setRec r).mem = s.mem := rfl
@[simp] theorem State.setRec_dram (s : State) (r : Rec) : (s.setRec r).dram = s.dram := rfl
@[simp] theorem State.setRec_metab (s : State) (r : Rec) : (s.setRec r).metab = s.metab := rfl
@[simp] theorem State.setRec_softWords (s : State) (r : Rec) : (s.setRec r).softWords = s.softWords := rfl
@[simp] theorem State.setRec_badWords (s : State) (r : Rec) : (s.setRec r).badWords = s.badWords := rfl
@[simp] theorem State.setRec_order (s : State) (r : Rec) : (s.setRec r).order = s.order := rfl
@[simp] theorem State.setRec_warps (s : State) (r : Rec) : (s.setRec r).warps = s.warps := rfl
@[simp] theorem State.setRec_blocks (s : State) (r : Rec) : (s.setRec r).blocks = s.blocks := rfl
@[simp] theorem State.setRec_blockCt (s : State) (r : Rec) : (s.setRec r).blockCt = s.blockCt := rfl
@[simp] theorem State.setRec_warpCt (s : State) (r : Rec) : (s.setRec r).warpCt = s.warpCt := rfl
@[simp] theorem State.setRec_qwaits (s : State) (r : Rec) : (s.setRec r).qwaits = s.qwaits := rfl
@[simp] theorem State.setRec_cores (s : State) (r : Rec) : (s.setRec r).cores = s.cores := rfl
@[simp] theorem State.setRec_clusters (s : State) (r : Rec) : (s.setRec r).clusters = s.clusters := rfl
@[simp] theorem State.setRec_ports (s : State) (r : Rec) : (s.setRec r).ports = s.ports := rfl
@[simp] theorem State.setRec_hbm (s : State) (r : Rec) : (s.setRec r).hbm = s.hbm := rfl
@[simp] theorem State.setRec_parts (s : State) (r : Rec) : (s.setRec r).parts = s.parts := rfl
@[simp] theorem State.setRec_ctxs (s : State) (r : Rec) : (s.setRec r).ctxs = s.ctxs := rfl
@[simp] theorem State.setRec_regions (s : State) (r : Rec) : (s.setRec r).regions = s.regions := rfl
@[simp] theorem State.setRec_paging (s : State) (r : Rec) : (s.setRec r).paging = s.paging := rfl
@[simp] theorem State.setRec_recs (s : State) (r : Rec) : (s.setRec r).recs = s.recs.map fun x => if x.id == r.id then r else x := rfl
@[simp] theorem State.setRec_recCt (s : State) (r : Rec) : (s.setRec r).recCt = s.recCt := rfl
@[simp] theorem State.setRec_saves (s : State) (r : Rec) : (s.setRec r).saves = s.saves := rfl
@[simp] theorem State.setRec_lanes (s : State) (r : Rec) : (s.setRec r).lanes = s.lanes := rfl
@[simp] theorem State.setRec_txCur (s : State) (r : Rec) : (s.setRec r).txCur = s.txCur := rfl
@[simp] theorem State.setRec_lane (s : State) (r : Rec) : (s.setRec r).lane = s.lane := rfl
@[simp] theorem State.setRec_links (s : State) (r : Rec) : (s.setRec r).links = s.links := rfl
@[simp] theorem State.setRec_dev (s : State) (r : Rec) : (s.setRec r).dev = s.dev := rfl

/-! ### `State.tally` -/
@[simp] theorem State.tally_agenda (s : State) (k i : Nat) : (s.tally k i).agenda = s.agenda := rfl
@[simp] theorem State.tally_cur (s : State) (k i : Nat) : (s.tally k i).cur = s.cur := rfl
@[simp] theorem State.tally_free (s : State) (k i : Nat) : (s.tally k i).free = s.free := rfl
@[simp] theorem State.tally_tick (s : State) (k i : Nat) : (s.tally k i).tick = s.tick := rfl
@[simp] theorem State.tally_mem (s : State) (k i : Nat) : (s.tally k i).mem = s.mem := rfl
@[simp] theorem State.tally_dram (s : State) (k i : Nat) : (s.tally k i).dram = s.dram := rfl
@[simp] theorem State.tally_metab (s : State) (k i : Nat) : (s.tally k i).metab = s.metab := rfl
@[simp] theorem State.tally_softWords (s : State) (k i : Nat) : (s.tally k i).softWords = s.softWords := rfl
@[simp] theorem State.tally_badWords (s : State) (k i : Nat) : (s.tally k i).badWords = s.badWords := rfl
@[simp] theorem State.tally_order (s : State) (k i : Nat) : (s.tally k i).order = s.order := rfl
@[simp] theorem State.tally_warps (s : State) (k i : Nat) : (s.tally k i).warps = s.warps := rfl
@[simp] theorem State.tally_blocks (s : State) (k i : Nat) : (s.tally k i).blocks = s.blocks := rfl
@[simp] theorem State.tally_blockCt (s : State) (k i : Nat) : (s.tally k i).blockCt = s.blockCt := rfl
@[simp] theorem State.tally_warpCt (s : State) (k i : Nat) : (s.tally k i).warpCt = s.warpCt := rfl
@[simp] theorem State.tally_qwaits (s : State) (k i : Nat) : (s.tally k i).qwaits = s.qwaits := rfl
@[simp] theorem State.tally_cores (s : State) (k i : Nat) : (s.tally k i).cores = s.cores := rfl
@[simp] theorem State.tally_clusters (s : State) (k i : Nat) : (s.tally k i).clusters = s.clusters := rfl
@[simp] theorem State.tally_ports (s : State) (k i : Nat) : (s.tally k i).ports = s.ports := rfl
@[simp] theorem State.tally_hbm (s : State) (k i : Nat) : (s.tally k i).hbm = s.hbm := rfl
@[simp] theorem State.tally_parts (s : State) (k i : Nat) : (s.tally k i).parts = s.parts := rfl
@[simp] theorem State.tally_ctxs (s : State) (k i : Nat) : (s.tally k i).ctxs = s.ctxs := rfl
@[simp] theorem State.tally_regions (s : State) (k i : Nat) : (s.tally k i).regions = s.regions := rfl
@[simp] theorem State.tally_paging (s : State) (k i : Nat) : (s.tally k i).paging = s.paging := rfl
@[simp] theorem State.tally_recs (s : State) (k i : Nat) : (s.tally k i).recs = s.recs := rfl
@[simp] theorem State.tally_recCt (s : State) (k i : Nat) : (s.tally k i).recCt = s.recCt := rfl
@[simp] theorem State.tally_saves (s : State) (k i : Nat) : (s.tally k i).saves = s.saves := rfl
@[simp] theorem State.tally_lanes (s : State) (k i : Nat) : (s.tally k i).lanes = s.lanes := rfl
@[simp] theorem State.tally_txCur (s : State) (k i : Nat) : (s.tally k i).txCur = s.txCur := rfl
@[simp] theorem State.tally_lane (s : State) (k i : Nat) : (s.tally k i).lane = s.lane := rfl
@[simp] theorem State.tally_links (s : State) (k i : Nat) : (s.tally k i).links = s.links := rfl


/-! ### `State.raise` -/
@[simp] theorem State.raise_agenda (s : State) (c r : Nat) (ws : List W64) (a : Resolves) (x y : Bool) (o : Option Nat) : (s.raise c r ws a x y o).agenda = s.agenda := rfl
@[simp] theorem State.raise_cur (s : State) (c r : Nat) (ws : List W64) (a : Resolves) (x y : Bool) (o : Option Nat) : (s.raise c r ws a x y o).cur = s.cur := rfl
@[simp] theorem State.raise_free (s : State) (c r : Nat) (ws : List W64) (a : Resolves) (x y : Bool) (o : Option Nat) : (s.raise c r ws a x y o).free = s.free := rfl
@[simp] theorem State.raise_tick (s : State) (c r : Nat) (ws : List W64) (a : Resolves) (x y : Bool) (o : Option Nat) : (s.raise c r ws a x y o).tick = s.tick := rfl
@[simp] theorem State.raise_mem (s : State) (c r : Nat) (ws : List W64) (a : Resolves) (x y : Bool) (o : Option Nat) : (s.raise c r ws a x y o).mem = s.mem := rfl
@[simp] theorem State.raise_dram (s : State) (c r : Nat) (ws : List W64) (a : Resolves) (x y : Bool) (o : Option Nat) : (s.raise c r ws a x y o).dram = s.dram := rfl
@[simp] theorem State.raise_metab (s : State) (c r : Nat) (ws : List W64) (a : Resolves) (x y : Bool) (o : Option Nat) : (s.raise c r ws a x y o).metab = s.metab := rfl
@[simp] theorem State.raise_softWords (s : State) (c r : Nat) (ws : List W64) (a : Resolves) (x y : Bool) (o : Option Nat) : (s.raise c r ws a x y o).softWords = s.softWords := rfl
@[simp] theorem State.raise_badWords (s : State) (c r : Nat) (ws : List W64) (a : Resolves) (x y : Bool) (o : Option Nat) : (s.raise c r ws a x y o).badWords = s.badWords := rfl
@[simp] theorem State.raise_order (s : State) (c r : Nat) (ws : List W64) (a : Resolves) (x y : Bool) (o : Option Nat) : (s.raise c r ws a x y o).order = s.order := rfl
@[simp] theorem State.raise_warps (s : State) (c r : Nat) (ws : List W64) (a : Resolves) (x y : Bool) (o : Option Nat) : (s.raise c r ws a x y o).warps = s.warps := rfl
@[simp] theorem State.raise_blocks (s : State) (c r : Nat) (ws : List W64) (a : Resolves) (x y : Bool) (o : Option Nat) : (s.raise c r ws a x y o).blocks = s.blocks := rfl
@[simp] theorem State.raise_blockCt (s : State) (c r : Nat) (ws : List W64) (a : Resolves) (x y : Bool) (o : Option Nat) : (s.raise c r ws a x y o).blockCt = s.blockCt := rfl
@[simp] theorem State.raise_warpCt (s : State) (c r : Nat) (ws : List W64) (a : Resolves) (x y : Bool) (o : Option Nat) : (s.raise c r ws a x y o).warpCt = s.warpCt := rfl
@[simp] theorem State.raise_qwaits (s : State) (c r : Nat) (ws : List W64) (a : Resolves) (x y : Bool) (o : Option Nat) : (s.raise c r ws a x y o).qwaits = s.qwaits := rfl
@[simp] theorem State.raise_cores (s : State) (c r : Nat) (ws : List W64) (a : Resolves) (x y : Bool) (o : Option Nat) : (s.raise c r ws a x y o).cores = s.cores := rfl
@[simp] theorem State.raise_clusters (s : State) (c r : Nat) (ws : List W64) (a : Resolves) (x y : Bool) (o : Option Nat) : (s.raise c r ws a x y o).clusters = s.clusters := rfl
@[simp] theorem State.raise_ports (s : State) (c r : Nat) (ws : List W64) (a : Resolves) (x y : Bool) (o : Option Nat) : (s.raise c r ws a x y o).ports = s.ports := rfl
@[simp] theorem State.raise_hbm (s : State) (c r : Nat) (ws : List W64) (a : Resolves) (x y : Bool) (o : Option Nat) : (s.raise c r ws a x y o).hbm = s.hbm := rfl
@[simp] theorem State.raise_parts (s : State) (c r : Nat) (ws : List W64) (a : Resolves) (x y : Bool) (o : Option Nat) : (s.raise c r ws a x y o).parts = s.parts := rfl
@[simp] theorem State.raise_ctxs (s : State) (c r : Nat) (ws : List W64) (a : Resolves) (x y : Bool) (o : Option Nat) : (s.raise c r ws a x y o).ctxs = s.ctxs := rfl
@[simp] theorem State.raise_regions (s : State) (c r : Nat) (ws : List W64) (a : Resolves) (x y : Bool) (o : Option Nat) : (s.raise c r ws a x y o).regions = s.regions := rfl
@[simp] theorem State.raise_paging (s : State) (c r : Nat) (ws : List W64) (a : Resolves) (x y : Bool) (o : Option Nat) : (s.raise c r ws a x y o).paging = s.paging := rfl
@[simp] theorem State.raise_saves (s : State) (c r : Nat) (ws : List W64) (a : Resolves) (x y : Bool) (o : Option Nat) : (s.raise c r ws a x y o).saves = s.saves := rfl
@[simp] theorem State.raise_lanes (s : State) (c r : Nat) (ws : List W64) (a : Resolves) (x y : Bool) (o : Option Nat) : (s.raise c r ws a x y o).lanes = s.lanes := rfl
@[simp] theorem State.raise_txCur (s : State) (c r : Nat) (ws : List W64) (a : Resolves) (x y : Bool) (o : Option Nat) : (s.raise c r ws a x y o).txCur = s.txCur := rfl
@[simp] theorem State.raise_lane (s : State) (c r : Nat) (ws : List W64) (a : Resolves) (x y : Bool) (o : Option Nat) : (s.raise c r ws a x y o).lane = s.lane := rfl
@[simp] theorem State.raise_links (s : State) (c r : Nat) (ws : List W64) (a : Resolves) (x y : Bool) (o : Option Nat) : (s.raise c r ws a x y o).links = s.links := rfl
@[simp] theorem State.raise_dev (s : State) (c r : Nat) (ws : List W64) (a : Resolves) (x y : Bool) (o : Option Nat) : (s.raise c r ws a x y o).dev = s.dev := rfl
@[simp] theorem State.raise_recCt (s : State) (c r : Nat) (ws : List W64) (a : Resolves) (x y : Bool) (o : Option Nat) : (s.raise c r ws a x y o).recCt = s.recCt + 1 := rfl

/-! ### `State.withWarp` -/
@[simp] theorem State.withWarp_agenda (s : State) (k : Nat) (g : Warp → Warp) : (s.withWarp k g).agenda = s.agenda := by unfold State.withWarp; split <;> rfl
@[simp] theorem State.withWarp_cur (s : State) (k : Nat) (g : Warp → Warp) : (s.withWarp k g).cur = s.cur := by unfold State.withWarp; split <;> rfl
@[simp] theorem State.withWarp_free (s : State) (k : Nat) (g : Warp → Warp) : (s.withWarp k g).free = s.free := by unfold State.withWarp; split <;> rfl
@[simp] theorem State.withWarp_tick (s : State) (k : Nat) (g : Warp → Warp) : (s.withWarp k g).tick = s.tick := by unfold State.withWarp; split <;> rfl
@[simp] theorem State.withWarp_mem (s : State) (k : Nat) (g : Warp → Warp) : (s.withWarp k g).mem = s.mem := by unfold State.withWarp; split <;> rfl
@[simp] theorem State.withWarp_dram (s : State) (k : Nat) (g : Warp → Warp) : (s.withWarp k g).dram = s.dram := by unfold State.withWarp; split <;> rfl
@[simp] theorem State.withWarp_metab (s : State) (k : Nat) (g : Warp → Warp) : (s.withWarp k g).metab = s.metab := by unfold State.withWarp; split <;> rfl
@[simp] theorem State.withWarp_softWords (s : State) (k : Nat) (g : Warp → Warp) : (s.withWarp k g).softWords = s.softWords := by unfold State.withWarp; split <;> rfl
@[simp] theorem State.withWarp_badWords (s : State) (k : Nat) (g : Warp → Warp) : (s.withWarp k g).badWords = s.badWords := by unfold State.withWarp; split <;> rfl
@[simp] theorem State.withWarp_order (s : State) (k : Nat) (g : Warp → Warp) : (s.withWarp k g).order = s.order := by unfold State.withWarp; split <;> rfl
@[simp] theorem State.withWarp_blocks (s : State) (k : Nat) (g : Warp → Warp) : (s.withWarp k g).blocks = s.blocks := by unfold State.withWarp; split <;> rfl
@[simp] theorem State.withWarp_blockCt (s : State) (k : Nat) (g : Warp → Warp) : (s.withWarp k g).blockCt = s.blockCt := by unfold State.withWarp; split <;> rfl
@[simp] theorem State.withWarp_warpCt (s : State) (k : Nat) (g : Warp → Warp) : (s.withWarp k g).warpCt = s.warpCt := by unfold State.withWarp; split <;> rfl
@[simp] theorem State.withWarp_qwaits (s : State) (k : Nat) (g : Warp → Warp) : (s.withWarp k g).qwaits = s.qwaits := by unfold State.withWarp; split <;> rfl
@[simp] theorem State.withWarp_cores (s : State) (k : Nat) (g : Warp → Warp) : (s.withWarp k g).cores = s.cores := by unfold State.withWarp; split <;> rfl
@[simp] theorem State.withWarp_clusters (s : State) (k : Nat) (g : Warp → Warp) : (s.withWarp k g).clusters = s.clusters := by unfold State.withWarp; split <;> rfl
@[simp] theorem State.withWarp_ports (s : State) (k : Nat) (g : Warp → Warp) : (s.withWarp k g).ports = s.ports := by unfold State.withWarp; split <;> rfl
@[simp] theorem State.withWarp_hbm (s : State) (k : Nat) (g : Warp → Warp) : (s.withWarp k g).hbm = s.hbm := by unfold State.withWarp; split <;> rfl
@[simp] theorem State.withWarp_parts (s : State) (k : Nat) (g : Warp → Warp) : (s.withWarp k g).parts = s.parts := by unfold State.withWarp; split <;> rfl
@[simp] theorem State.withWarp_ctxs (s : State) (k : Nat) (g : Warp → Warp) : (s.withWarp k g).ctxs = s.ctxs := by unfold State.withWarp; split <;> rfl
@[simp] theorem State.withWarp_regions (s : State) (k : Nat) (g : Warp → Warp) : (s.withWarp k g).regions = s.regions := by unfold State.withWarp; split <;> rfl
@[simp] theorem State.withWarp_paging (s : State) (k : Nat) (g : Warp → Warp) : (s.withWarp k g).paging = s.paging := by unfold State.withWarp; split <;> rfl
@[simp] theorem State.withWarp_recs (s : State) (k : Nat) (g : Warp → Warp) : (s.withWarp k g).recs = s.recs := by unfold State.withWarp; split <;> rfl
@[simp] theorem State.withWarp_recCt (s : State) (k : Nat) (g : Warp → Warp) : (s.withWarp k g).recCt = s.recCt := by unfold State.withWarp; split <;> rfl
@[simp] theorem State.withWarp_saves (s : State) (k : Nat) (g : Warp → Warp) : (s.withWarp k g).saves = s.saves := by unfold State.withWarp; split <;> rfl
@[simp] theorem State.withWarp_lanes (s : State) (k : Nat) (g : Warp → Warp) : (s.withWarp k g).lanes = s.lanes := by unfold State.withWarp; split <;> rfl
@[simp] theorem State.withWarp_txCur (s : State) (k : Nat) (g : Warp → Warp) : (s.withWarp k g).txCur = s.txCur := by unfold State.withWarp; split <;> rfl
@[simp] theorem State.withWarp_lane (s : State) (k : Nat) (g : Warp → Warp) : (s.withWarp k g).lane = s.lane := by unfold State.withWarp; split <;> rfl
@[simp] theorem State.withWarp_links (s : State) (k : Nat) (g : Warp → Warp) : (s.withWarp k g).links = s.links := by unfold State.withWarp; split <;> rfl
@[simp] theorem State.withWarp_dev (s : State) (k : Nat) (g : Warp → Warp) : (s.withWarp k g).dev = s.dev := by unfold State.withWarp; split <;> rfl

/-! ### `Warp.setThread` and `Warp.countIssue` -/
@[simp] theorem Warp.setThread_key (w : Warp) (l : Nat) (g : Thread → Thread) : (w.setThread l g).key = w.key := rfl
@[simp] theorem Warp.setThread_ctx (w : Warp) (l : Nat) (g : Thread → Thread) : (w.setThread l g).ctx = w.ctx := rfl
@[simp] theorem Warp.setThread_region (w : Warp) (l : Nat) (g : Thread → Thread) : (w.setThread l g).region = w.region := rfl
@[simp] theorem Warp.setThread_block (w : Warp) (l : Nat) (g : Thread → Thread) : (w.setThread l g).block = w.block := rfl
@[simp] theorem Warp.setThread_wnum (w : Warp) (l : Nat) (g : Thread → Thread) : (w.setThread l g).wnum = w.wnum := rfl
@[simp] theorem Warp.setThread_onL (w : Warp) (l : Nat) (g : Thread → Thread) : (w.setThread l g).onL = w.onL := rfl
@[simp] theorem Warp.setThread_core (w : Warp) (l : Nat) (g : Thread → Thread) : (w.setThread l g).core = w.core := rfl
@[simp] theorem Warp.setThread_slot (w : Warp) (l : Nat) (g : Thread → Thread) : (w.setThread l g).slot = w.slot := rfl
@[simp] theorem Warp.setThread_quarter (w : Warp) (l : Nat) (g : Thread → Thread) : (w.setThread l g).quarter = w.quarter := rfl
@[simp] theorem Warp.setThread_home (w : Warp) (l : Nat) (g : Thread → Thread) : (w.setThread l g).home = w.home := rfl
@[simp] theorem Warp.setThread_width (w : Warp) (l : Nat) (g : Thread → Thread) : (w.setThread l g).width = w.width := rfl
@[simp] theorem Warp.setThread_lw (w : Warp) (l : Nat) (g : Thread → Thread) : (w.setThread l g).lw = w.lw := rfl
@[simp] theorem Warp.setThread_bundle (w : Warp) (l : Nat) (g : Thread → Thread) : (w.setThread l g).bundle = w.bundle := rfl
@[simp] theorem Warp.setThread_s (w : Warp) (l : Nat) (g : Thread → Thread) : (w.setThread l g).s = w.s := rfl
@[simp] theorem Warp.setThread_ld (w : Warp) (l : Nat) (g : Thread → Thread) : (w.setThread l g).ld = w.ld := rfl
@[simp] theorem Warp.setThread_st (w : Warp) (l : Nat) (g : Thread → Thread) : (w.setThread l g).st = w.st := rfl
@[simp] theorem Warp.setThread_cp (w : Warp) (l : Nat) (g : Thread → Thread) : (w.setThread l g).cp = w.cp := rfl
@[simp] theorem Warp.setThread_tm (w : Warp) (l : Nat) (g : Thread → Thread) : (w.setThread l g).tm = w.tm := rfl
@[simp] theorem Warp.setThread_sb (w : Warp) (l : Nat) (g : Thread → Thread) : (w.setThread l g).sb = w.sb := rfl
@[simp] theorem Warp.setThread_fifo (w : Warp) (l : Nat) (g : Thread → Thread) : (w.setThread l g).fifo = w.fifo := rfl
@[simp] theorem Warp.setThread_loads (w : Warp) (l : Nat) (g : Thread → Thread) : (w.setThread l g).loads = w.loads := rfl
@[simp] theorem Warp.setThread_overs (w : Warp) (l : Nat) (g : Thread → Thread) : (w.setThread l g).overs = w.overs := rfl
@[simp] theorem Warp.setThread_queue (w : Warp) (l : Nat) (g : Thread → Thread) : (w.setThread l g).queue = w.queue := rfl
@[simp] theorem Warp.setThread_tileOps (w : Warp) (l : Nat) (g : Thread → Thread) : (w.setThread l g).tileOps = w.tileOps := rfl
@[simp] theorem Warp.setThread_barOps (w : Warp) (l : Nat) (g : Thread → Thread) : (w.setThread l g).barOps = w.barOps := rfl
@[simp] theorem Warp.setThread_ep (w : Warp) (l : Nat) (g : Thread → Thread) : (w.setThread l g).ep = w.ep := rfl
@[simp] theorem Warp.setThread_since (w : Warp) (l : Nat) (g : Thread → Thread) : (w.setThread l g).since = w.since := rfl
@[simp] theorem Warp.setThread_issues (w : Warp) (l : Nat) (g : Thread → Thread) : (w.setThread l g).issues = w.issues := rfl
@[simp] theorem Warp.setThread_sorted (w : Warp) (l : Nat) (g : Thread → Thread) : (w.setThread l g).sorted = w.sorted := rfl
@[simp] theorem Warp.setThread_sizes (w : Warp) (l : Nat) (g : Thread → Thread) : (w.setThread l g).sizes = w.sizes := rfl
@[simp] theorem Warp.setThread_credit (w : Warp) (l : Nat) (g : Thread → Thread) : (w.setThread l g).credit = w.credit := rfl
@[simp] theorem Warp.setThread_yielded (w : Warp) (l : Nat) (g : Thread → Thread) : (w.setThread l g).yielded = w.yielded := rfl
@[simp] theorem Warp.setThread_pfx (w : Warp) (l : Nat) (g : Thread → Thread) : (w.setThread l g).pfx = w.pfx := rfl
@[simp] theorem Warp.setThread_hold (w : Warp) (l : Nat) (g : Thread → Thread) : (w.setThread l g).hold = w.hold := rfl
@[simp] theorem Warp.setThread_snare (w : Warp) (l : Nat) (g : Thread → Thread) : (w.setThread l g).snare = w.snare := rfl
@[simp] theorem Warp.setThread_stopped (w : Warp) (l : Nat) (g : Thread → Thread) : (w.setThread l g).stopped = w.stopped := rfl
@[simp] theorem Warp.setThread_suspended (w : Warp) (l : Nat) (g : Thread → Thread) : (w.setThread l g).suspended = w.suspended := rfl
@[simp] theorem Warp.setThread_draining (w : Warp) (l : Nat) (g : Thread → Thread) : (w.setThread l g).draining = w.draining := rfl
@[simp] theorem Warp.setThread_saved (w : Warp) (l : Nat) (g : Thread → Thread) : (w.setThread l g).saved = w.saved := rfl
@[simp] theorem Warp.setThread_migrating (w : Warp) (l : Nat) (g : Thread → Thread) : (w.setThread l g).migrating = w.migrating := rfl
@[simp] theorem Warp.setThread_mgos (w : Warp) (l : Nat) (g : Thread → Thread) : (w.setThread l g).mgos = w.mgos := rfl
@[simp] theorem Warp.setThread_nextOp (w : Warp) (l : Nat) (g : Thread → Thread) : (w.setThread l g).nextOp = w.nextOp := rfl
@[simp] theorem Warp.setThread_trapsOff (w : Warp) (l : Nat) (g : Thread → Thread) : (w.setThread l g).trapsOff = w.trapsOff := rfl
@[simp] theorem Warp.setThread_failed (w : Warp) (l : Nat) (g : Thread → Thread) : (w.setThread l g).failed = w.failed := rfl
@[simp] theorem Warp.setThread_blocked (w : Warp) (l : Nat) (g : Thread → Thread) : (w.setThread l g).blocked = w.blocked := rfl

@[simp] theorem Warp.countIssue_key (w : Warp) (b : List Nat) : (w.countIssue b).key = w.key := rfl
@[simp] theorem Warp.countIssue_ctx (w : Warp) (b : List Nat) : (w.countIssue b).ctx = w.ctx := rfl
@[simp] theorem Warp.countIssue_region (w : Warp) (b : List Nat) : (w.countIssue b).region = w.region := rfl
@[simp] theorem Warp.countIssue_block (w : Warp) (b : List Nat) : (w.countIssue b).block = w.block := rfl
@[simp] theorem Warp.countIssue_wnum (w : Warp) (b : List Nat) : (w.countIssue b).wnum = w.wnum := rfl
@[simp] theorem Warp.countIssue_onL (w : Warp) (b : List Nat) : (w.countIssue b).onL = w.onL := rfl
@[simp] theorem Warp.countIssue_core (w : Warp) (b : List Nat) : (w.countIssue b).core = w.core := rfl
@[simp] theorem Warp.countIssue_slot (w : Warp) (b : List Nat) : (w.countIssue b).slot = w.slot := rfl
@[simp] theorem Warp.countIssue_quarter (w : Warp) (b : List Nat) : (w.countIssue b).quarter = w.quarter := rfl
@[simp] theorem Warp.countIssue_home (w : Warp) (b : List Nat) : (w.countIssue b).home = w.home := rfl
@[simp] theorem Warp.countIssue_width (w : Warp) (b : List Nat) : (w.countIssue b).width = w.width := rfl
@[simp] theorem Warp.countIssue_lw (w : Warp) (b : List Nat) : (w.countIssue b).lw = w.lw := rfl
@[simp] theorem Warp.countIssue_bundle (w : Warp) (b : List Nat) : (w.countIssue b).bundle = w.bundle := rfl
@[simp] theorem Warp.countIssue_s (w : Warp) (b : List Nat) : (w.countIssue b).s = w.s := rfl
@[simp] theorem Warp.countIssue_ld (w : Warp) (b : List Nat) : (w.countIssue b).ld = w.ld := rfl
@[simp] theorem Warp.countIssue_st (w : Warp) (b : List Nat) : (w.countIssue b).st = w.st := rfl
@[simp] theorem Warp.countIssue_cp (w : Warp) (b : List Nat) : (w.countIssue b).cp = w.cp := rfl
@[simp] theorem Warp.countIssue_tm (w : Warp) (b : List Nat) : (w.countIssue b).tm = w.tm := rfl
@[simp] theorem Warp.countIssue_sb (w : Warp) (b : List Nat) : (w.countIssue b).sb = w.sb := rfl
@[simp] theorem Warp.countIssue_fifo (w : Warp) (b : List Nat) : (w.countIssue b).fifo = w.fifo := rfl
@[simp] theorem Warp.countIssue_loads (w : Warp) (b : List Nat) : (w.countIssue b).loads = w.loads := rfl
@[simp] theorem Warp.countIssue_overs (w : Warp) (b : List Nat) : (w.countIssue b).overs = w.overs := rfl
@[simp] theorem Warp.countIssue_queue (w : Warp) (b : List Nat) : (w.countIssue b).queue = w.queue := rfl
@[simp] theorem Warp.countIssue_tileOps (w : Warp) (b : List Nat) : (w.countIssue b).tileOps = w.tileOps := rfl
@[simp] theorem Warp.countIssue_barOps (w : Warp) (b : List Nat) : (w.countIssue b).barOps = w.barOps := rfl
@[simp] theorem Warp.countIssue_ep (w : Warp) (b : List Nat) : (w.countIssue b).ep = w.ep := rfl
@[simp] theorem Warp.countIssue_hold (w : Warp) (b : List Nat) : (w.countIssue b).hold = w.hold := rfl
@[simp] theorem Warp.countIssue_snare (w : Warp) (b : List Nat) : (w.countIssue b).snare = w.snare := rfl
@[simp] theorem Warp.countIssue_stopped (w : Warp) (b : List Nat) : (w.countIssue b).stopped = w.stopped := rfl
@[simp] theorem Warp.countIssue_suspended (w : Warp) (b : List Nat) : (w.countIssue b).suspended = w.suspended := rfl
@[simp] theorem Warp.countIssue_draining (w : Warp) (b : List Nat) : (w.countIssue b).draining = w.draining := rfl
@[simp] theorem Warp.countIssue_saved (w : Warp) (b : List Nat) : (w.countIssue b).saved = w.saved := rfl
@[simp] theorem Warp.countIssue_migrating (w : Warp) (b : List Nat) : (w.countIssue b).migrating = w.migrating := rfl
@[simp] theorem Warp.countIssue_mgos (w : Warp) (b : List Nat) : (w.countIssue b).mgos = w.mgos := rfl
@[simp] theorem Warp.countIssue_nextOp (w : Warp) (b : List Nat) : (w.countIssue b).nextOp = w.nextOp := rfl
@[simp] theorem Warp.countIssue_failed (w : Warp) (b : List Nat) : (w.countIssue b).failed = w.failed := rfl
@[simp] theorem Warp.countIssue_blocked (w : Warp) (b : List Nat) : (w.countIssue b).blocked = w.blocked := rfl

/-! ### `Thread.wake` -/
@[simp] theorem Thread.wake_tid (t : Thread) : t.wake.tid = t.tid := rfl
@[simp] theorem Thread.wake_age (t : Thread) : t.wake.age = t.age := rfl
@[simp] theorem Thread.wake_v (t : Thread) : t.wake.v = t.v := rfl
@[simp] theorem Thread.wake_p (t : Thread) : t.wake.p = t.p := rfl
@[simp] theorem Thread.wake_fpctl (t : Thread) : t.wake.fpctl = t.fpctl := rfl
@[simp] theorem Thread.wake_fpflags (t : Thread) : t.wake.fpflags = t.fpflags := rfl
@[simp] theorem Thread.wake_rngs (t : Thread) : t.wake.rngs = t.rngs := rfl
@[simp] theorem Thread.wake_ustk (t : Thread) : t.wake.ustk = t.ustk := rfl
@[simp] theorem Thread.wake_task (t : Thread) : t.wake.task = t.task := rfl
@[simp] theorem Thread.wake_triggered (t : Thread) : t.wake.triggered = t.triggered := rfl
@[simp] theorem Thread.wake_inEmu (t : Thread) : t.wake.inEmu = t.inEmu := rfl
@[simp] theorem Thread.wake_unchecked (t : Thread) : t.wake.unchecked = t.unchecked := rfl
@[simp] theorem Thread.wake_covered (t : Thread) : t.wake.covered = t.covered := rfl
@[simp] theorem Thread.wake_reads (t : Thread) : t.wake.reads = t.reads := rfl
@[simp] theorem Thread.wake_markers (t : Thread) : t.wake.markers = t.markers := rfl
@[simp] theorem Thread.wake_swapCov (t : Thread) : t.wake.swapCov = t.swapCov := rfl

/-! Tenants and transducer lanes. -/

@[simp] theorem State.setTenant_agenda (s : State) (c : Nat) (t : Tenant) : (s.setTenant c t).agenda = s.agenda := rfl
@[simp] theorem State.setTenant_cur (s : State) (c : Nat) (t : Tenant) : (s.setTenant c t).cur = s.cur := rfl
@[simp] theorem State.setTenant_free (s : State) (c : Nat) (t : Tenant) : (s.setTenant c t).free = s.free := rfl
@[simp] theorem State.setTenant_tick (s : State) (c : Nat) (t : Tenant) : (s.setTenant c t).tick = s.tick := rfl
@[simp] theorem State.setTenant_mem (s : State) (c : Nat) (t : Tenant) : (s.setTenant c t).mem = s.mem := rfl
@[simp] theorem State.setTenant_dram (s : State) (c : Nat) (t : Tenant) : (s.setTenant c t).dram = s.dram := rfl
@[simp] theorem State.setTenant_metab (s : State) (c : Nat) (t : Tenant) : (s.setTenant c t).metab = s.metab := rfl
@[simp] theorem State.setTenant_softWords (s : State) (c : Nat) (t : Tenant) : (s.setTenant c t).softWords = s.softWords := rfl
@[simp] theorem State.setTenant_badWords (s : State) (c : Nat) (t : Tenant) : (s.setTenant c t).badWords = s.badWords := rfl
@[simp] theorem State.setTenant_order (s : State) (c : Nat) (t : Tenant) : (s.setTenant c t).order = s.order := rfl
@[simp] theorem State.setTenant_warps (s : State) (c : Nat) (t : Tenant) : (s.setTenant c t).warps = s.warps := rfl
@[simp] theorem State.setTenant_blocks (s : State) (c : Nat) (t : Tenant) : (s.setTenant c t).blocks = s.blocks := rfl
@[simp] theorem State.setTenant_blockCt (s : State) (c : Nat) (t : Tenant) : (s.setTenant c t).blockCt = s.blockCt := rfl
@[simp] theorem State.setTenant_warpCt (s : State) (c : Nat) (t : Tenant) : (s.setTenant c t).warpCt = s.warpCt := rfl
@[simp] theorem State.setTenant_qwaits (s : State) (c : Nat) (t : Tenant) : (s.setTenant c t).qwaits = s.qwaits := rfl
@[simp] theorem State.setTenant_cores (s : State) (c : Nat) (t : Tenant) : (s.setTenant c t).cores = s.cores := rfl
@[simp] theorem State.setTenant_clusters (s : State) (c : Nat) (t : Tenant) : (s.setTenant c t).clusters = s.clusters := rfl
@[simp] theorem State.setTenant_ports (s : State) (c : Nat) (t : Tenant) : (s.setTenant c t).ports = s.ports := rfl
@[simp] theorem State.setTenant_hbm (s : State) (c : Nat) (t : Tenant) : (s.setTenant c t).hbm = s.hbm := rfl
@[simp] theorem State.setTenant_parts (s : State) (c : Nat) (t : Tenant) : (s.setTenant c t).parts = s.parts := rfl
@[simp] theorem State.setTenant_ctxs (s : State) (c : Nat) (t : Tenant) : (s.setTenant c t).ctxs = s.ctxs := rfl
@[simp] theorem State.setTenant_regions (s : State) (c : Nat) (t : Tenant) : (s.setTenant c t).regions = s.regions := rfl
@[simp] theorem State.setTenant_recs (s : State) (c : Nat) (t : Tenant) : (s.setTenant c t).recs = s.recs := rfl
@[simp] theorem State.setTenant_recCt (s : State) (c : Nat) (t : Tenant) : (s.setTenant c t).recCt = s.recCt := rfl
@[simp] theorem State.setTenant_saves (s : State) (c : Nat) (t : Tenant) : (s.setTenant c t).saves = s.saves := rfl
@[simp] theorem State.setTenant_lanes (s : State) (c : Nat) (t : Tenant) : (s.setTenant c t).lanes = s.lanes := rfl
@[simp] theorem State.setTenant_txCur (s : State) (c : Nat) (t : Tenant) : (s.setTenant c t).txCur = s.txCur := rfl
@[simp] theorem State.setTenant_links (s : State) (c : Nat) (t : Tenant) : (s.setTenant c t).links = s.links := rfl
@[simp] theorem State.setTenant_dev (s : State) (c : Nat) (t : Tenant) : (s.setTenant c t).dev = s.dev := rfl
@[simp] theorem State.setLane_agenda (s : State) (l : Lane) : (s.setLane l).agenda = s.agenda := rfl
@[simp] theorem State.setLane_cur (s : State) (l : Lane) : (s.setLane l).cur = s.cur := rfl
@[simp] theorem State.setLane_free (s : State) (l : Lane) : (s.setLane l).free = s.free := rfl
@[simp] theorem State.setLane_tick (s : State) (l : Lane) : (s.setLane l).tick = s.tick := rfl
@[simp] theorem State.setLane_mem (s : State) (l : Lane) : (s.setLane l).mem = s.mem := rfl
@[simp] theorem State.setLane_dram (s : State) (l : Lane) : (s.setLane l).dram = s.dram := rfl
@[simp] theorem State.setLane_metab (s : State) (l : Lane) : (s.setLane l).metab = s.metab := rfl
@[simp] theorem State.setLane_softWords (s : State) (l : Lane) : (s.setLane l).softWords = s.softWords := rfl
@[simp] theorem State.setLane_badWords (s : State) (l : Lane) : (s.setLane l).badWords = s.badWords := rfl
@[simp] theorem State.setLane_order (s : State) (l : Lane) : (s.setLane l).order = s.order := rfl
@[simp] theorem State.setLane_warps (s : State) (l : Lane) : (s.setLane l).warps = s.warps := rfl
@[simp] theorem State.setLane_blocks (s : State) (l : Lane) : (s.setLane l).blocks = s.blocks := rfl
@[simp] theorem State.setLane_blockCt (s : State) (l : Lane) : (s.setLane l).blockCt = s.blockCt := rfl
@[simp] theorem State.setLane_warpCt (s : State) (l : Lane) : (s.setLane l).warpCt = s.warpCt := rfl
@[simp] theorem State.setLane_qwaits (s : State) (l : Lane) : (s.setLane l).qwaits = s.qwaits := rfl
@[simp] theorem State.setLane_cores (s : State) (l : Lane) : (s.setLane l).cores = s.cores := rfl
@[simp] theorem State.setLane_clusters (s : State) (l : Lane) : (s.setLane l).clusters = s.clusters := rfl
@[simp] theorem State.setLane_ports (s : State) (l : Lane) : (s.setLane l).ports = s.ports := rfl
@[simp] theorem State.setLane_hbm (s : State) (l : Lane) : (s.setLane l).hbm = s.hbm := rfl
@[simp] theorem State.setLane_parts (s : State) (l : Lane) : (s.setLane l).parts = s.parts := rfl
@[simp] theorem State.setLane_ctxs (s : State) (l : Lane) : (s.setLane l).ctxs = s.ctxs := rfl
@[simp] theorem State.setLane_regions (s : State) (l : Lane) : (s.setLane l).regions = s.regions := rfl
@[simp] theorem State.setLane_paging (s : State) (l : Lane) : (s.setLane l).paging = s.paging := rfl
@[simp] theorem State.setLane_recs (s : State) (l : Lane) : (s.setLane l).recs = s.recs := rfl
@[simp] theorem State.setLane_recCt (s : State) (l : Lane) : (s.setLane l).recCt = s.recCt := rfl
@[simp] theorem State.setLane_saves (s : State) (l : Lane) : (s.setLane l).saves = s.saves := rfl
@[simp] theorem State.setLane_txCur (s : State) (l : Lane) : (s.setLane l).txCur = s.txCur := rfl
@[simp] theorem State.setLane_links (s : State) (l : Lane) : (s.setLane l).links = s.links := rfl
@[simp] theorem State.setLane_dev (s : State) (l : Lane) : (s.setLane l).dev = s.dev := rfl
/-- The value just set under a key is the one read there. -/
@[simp] theorem kvGet_kvSet {α : Type} (l : List (Nat × α)) (k : Nat) (x d : α) : kvGet (kvSet l k x) k d = x := by
  induction l with
  | nil => simp [kvSet, kvGet]
  | cons a r ih =>
    unfold kvSet
    split
    · simp [kvGet]
    · rename_i h
      simp [kvGet, h, ih]
@[simp] theorem State.setCore_core (s : State) (k : Nat) (c : Core) : (s.setCore k c).core k = c := by simp [State.core, State.setCore]
@[simp] theorem State.setCluster_cluster (s : State) (k : Nat) (c : Cluster) : (s.setCluster k c).cluster k = c := by simp [State.cluster, State.setCluster]
@[simp] theorem State.setPort_port (s : State) (k : Nat) (p : Port) : (s.setPort k p).port k = p := by simp [State.port, State.setPort]
@[simp] theorem State.setStack_stack (s : State) (k : Nat) (p : Stack) : (s.setStack k p).stack k = p := by simp [State.stack, State.setStack]
@[simp] theorem State.setContext_context (s : State) (k : Nat) (c : Context) : (s.setContext k c).context k = c := by simp [State.context, State.setContext]
@[simp] theorem State.setFport_fport (s : State) (k : Nat) (p : FPort) : (s.setFport k p).fport k = p := by simp [State.fport, State.setFport]
@[simp] theorem State.setLane_lane (s : State) (l : Lane) : (s.setLane l).lane = l := by simp [State.lane, State.setLane]

end Sys2Proof.Machine
end

