-- ==== Sys2Proof/Laws/Issue.lean ====
section
/-!
SUPPORT. Warps by key, and what the frame of a full instruction answers: one lemma for each way its body ends.
-/
namespace Sys2Proof.Machine
open Sys2Proof

theorem State.warp?_key {s : State} {k : Nat} {w : Warp} (h : s.warp? k = some w) : w.key = k := by
  have := List.find?_some h
  simpa using this

theorem find?_setWarp (l : List Warp) (v : Warp) (h : ∃ w, l.find? (fun x => x.key == v.key) = some w) :
    (l.map fun x => if x.key == v.key then v else x).find? (fun x => x.key == v.key) = some v := by
  induction l with
  | nil => simp at h
  | cons x r ih =>
    rw [List.map_cons, List.find?_cons]
    rw [List.find?_cons] at h
    cases hx : x.key == v.key with
    | true => simp
    | false =>
      rw [hx] at h
      simp only [hx, Bool.false_eq_true, if_false]
      exact ih h

/-- The warp put under a key that a warp has is the one read there. -/
theorem State.warp?_setWarp {s : State} {v w : Warp} (h : s.warp? v.key = some w) : (s.setWarp v).warp? v.key = some v :=
  find?_setWarp s.warps v ⟨w, h⟩

theorem State.withWarp_eq {s : State} {k : Nat} {w : Warp} (g : Warp → Warp) (h : s.warp? k = some w) :
    s.withWarp k g = s.setWarp (g w) := by
  simp [State.withWarp, h]

/-- A warp changed with its key kept is the one read under it. -/
theorem State.warp?_withWarp {s : State} {k : Nat} {w : Warp} {g : Warp → Warp} (h : s.warp? k = some w) (hk : (g w).key = k) :
    (s.withWarp k g).warp? k = some (g w) := by
  rw [State.withWarp_eq g h]
  have h' : s.warp? (g w).key = some w := by rw [hk]; exact h
  have := State.warp?_setWarp h'
  rwa [hk] at this

/-- Changing one warp leaves the others. -/
theorem State.warp?_withWarp_ne {s : State} {k j : Nat} {g : Warp → Warp} (hg : ∀ w, (g w).key = w.key) (hj : j ≠ k) :
    (s.withWarp k g).warp? j = s.warp? j := by
  unfold State.withWarp
  split
  · rename_i w hw
    have hkey : (g w).key = k := (hg w).trans (State.warp?_key hw)
    unfold State.warp? State.setWarp
    simp only
    generalize s.warps = l
    induction l with
    | nil => rfl
    | cons x r ih =>
      rw [List.map_cons, List.find?_cons, List.find?_cons, hkey]
      cases hx : x.key == k with
      | true =>
        have h1 : (k == j) = false := by simp [Ne.symm hj]
        have h2 : (x.key == j) = false := by rw [beq_iff_eq] at hx; rw [hx]; exact h1
        simp only [if_true, hkey, h1, h2]
        rw [hkey] at ih
        exact ih
      | false =>
        simp only [Bool.false_eq_true, if_false]
        rw [hkey] at ih
        rw [ih]
  · rfl

@[simp] theorem counted_mem (s : State) (w : Warp) : (counted s w).mem = s.mem := by simp [counted]
@[simp] theorem counted_order (s : State) (w : Warp) : (counted s w).order = s.order := by simp [counted]
@[simp] theorem counted_cores (s : State) (w : Warp) : (counted s w).cores = s.cores := by simp [counted]

theorem counted_warp? {s : State} {k : Nat} {w : Warp} (h : s.warp? k = some w) :
    (counted s w).warp? k = some (w.countIssue w.bundle) := by
  have hk := State.warp?_key h
  unfold counted
  rw [hk]
  exact State.warp?_withWarp h (by simpa using hk)

theorem splits_whole {w : Warp} {split : Bool} (h : Whole w split) : w.splits split = false := by
  cases split with
  | false => rfl
  | true =>
    rcases h rfl with h | h
    · simp [Warp.splits, h]
    · have : ¬ 16 < w.width := by omega
      simp [Warp.splits, this]

theorem subBundles_whole {w : Warp} {split : Bool} {ls : List Nat} (h : Whole w split) : subBundles w split ls = [ls] := by
  simp [subBundles, splits_whole h]

theorem issOf_pfx (w : Warp) (g : BitVec 4) (ls : List Nat) : { issOf w g ls with pfx := w.pfx } = issOf w g ls := rfl

/-- What a full instruction that nothing stops answers: its body's effect on the whole bundle. -/
theorem issueSplit_of_issues {s : State} {w : Warp} {i : Instr} {f : Fields} {op : Nat} {split : Bool}
    {blank : Blank} {body : Iss → State → Eff}
    (hf : fieldsOf i = some (op, f)) (h : Issues s w i f) (hs : Whole w split) :
    issueSplit i s split blank body = .next (match body (issueOf w f) (counted s w) with
      | .done t => ends w t
      | .jump t q => endsAt w t q
      | .trap t => takeTrap s (issueOf w f) t
      | .hold t => t) := by
  obtain ⟨hw, hg, ⟨e, he, hc⟩, hst⟩ := h
  have hkey := State.warp?_key hw
  have hb : w.bundle.isEmpty = false := by
    cases hl : w.bundle with
    | nil => simp [guarded, hl] at hg
    | cons a r => rfl
  have hge : (guarded w f.g w.bundle).isEmpty = false := by
    cases hl : guarded w f.g w.bundle with
    | nil => exact absurd hl hg
    | cons a r => rfl
  have hw' : s.warp? w.key = some w := by rw [hkey]; exact hw
  unfold issueSplit
  simp only [hw, hf, he, hb, splits_whole hs, hge, hc, subBundles_whole hs, Bool.false_eq_true, if_false]
  simp only [runBundles, hw']
  have hl : ({ issOf w f.g w.bundle with pfx := w.pfx } : Iss) = issueOf w f := rfl
  simp only [hl]
  have hle : (issueOf w f).lanes.isEmpty = false := hge
  simp only [hle, hst, Bool.false_eq_true, if_false]
  have hn : (w.bundle.map fun l => (l, (issueOf w f).nxt)) = fall w := rfl
  have hc : (s.withWarp w.key fun v => v.countIssue w.bundle) = counted s w := rfl
  simp only [hc, hn, List.nil_append, List.isEmpty_nil, if_true, State.leave]
  cases body (issueOf w f) (counted s w) <;> rfl

end Sys2Proof.Machine
end

