-- ==== Sys2Proof/Laws/Flags.lean ====
section
/-!
SUPPORT. How an instruction of the vector ALU or the scalar unit takes effect: results without a flag, results with
flags that no lane traps on, and the trap.
-/
namespace Sys2Proof.Machine
open Sys2Proof

theorem listAt_id {α} (l : List α) (k : Nat) (g : α → α) (h : ∀ x, g x = x) : listAt l k g = l := by
  induction l generalizing k with
  | nil => cases k <;> rfl
  | cons x r ih => cases k <;> simp [listAt, h, ih]

theorem setThread_id (w : Warp) (l : Nat) (g : Thread → Thread) (h : ∀ t, g t = t) : w.setThread l g = w := by
  simp [Warp.setThread, listAt_id _ _ _ h]

theorem raiseFlags_zero (w : Warp) (fl : List (Nat × Flags)) (h : ∀ p ∈ fl, p.2 = 0) : w.raiseFlags fl = w := by
  unfold Warp.raiseFlags
  induction fl generalizing w with
  | nil => rfl
  | cons p r ih =>
    rw [List.foldl_cons, ih]
    · exact setThread_id _ _ _ fun t => by simp [h p (List.mem_cons_self ..)]
    · exact fun q hq => h q (List.mem_cons_of_mem _ hq)

theorem stepRngs_none (w : Warp) (outs : List LaneOut) (h : ∀ o ∈ outs, o.rng = none) : w.stepRngs outs = w := by
  unfold Warp.stepRngs
  induction outs generalizing w with
  | nil => rfl
  | cons o r ih =>
    rw [List.foldl_cons, h o (List.mem_cons_self ..)]
    exact ih w fun q hq => h q (List.mem_cons_of_mem _ hq)

theorem flagsOf_zero (ls : List Nat) (scal : Bool) (outs : List LaneOut) (h : ∀ o ∈ outs, o.flags = 0) :
    ∀ p ∈ flagsOf ls scal outs, p.2 = 0 := by
  have h0 : outs.foldl (fun a o => a ||| o.flags) (0 : Flags) = 0 := by
    induction outs with
    | nil => rfl
    | cons o r ih =>
      rw [List.foldl_cons, h o (List.mem_cons_self ..)]
      simpa using ih fun q hq => h q (List.mem_cons_of_mem _ hq)
  intro p hp
  unfold flagsOf at hp
  split at hp
  · simp only [List.mem_map] at hp
    obtain ⟨a, _, rfl⟩ := hp
    exact h0
  · simp only [List.mem_map] at hp
    obtain ⟨a, ha, rfl⟩ := hp
    exact h a ha

theorem fpTrap_zero (w : Warp) (ls : List Nat) (scal : Bool) (fl : List (Nat × Flags)) (h : ∀ p ∈ fl, p.2 = 0) :
    fpTrap w ls scal fl = none := by
  unfold fpTrap
  have : (List.range 5).find? (fun k => fl.any (trapsOn w k)) = none := by
    rw [List.find?_eq_none]
    intro k _
    simp only [List.any_eq_true, not_exists, not_and]
    intro p hp
    simp [trapsOn, h p hp]
  rw [this]

theorem commit_value (i : Iss) (s : State) (scal : Bool) (d : BitVec 8) (wide : Bool) (g : Nat → Nat) :
    commit i s scal (valueOuts i d wide scal g) =
      .done (s.upd i fun w => w.putAll ((i.lanesFor scal).flatMap fun l => destWrites d wide l (g l))) := by
  have h : ∀ o ∈ valueOuts i d wide scal g, o.flags = 0 ∧ o.rng = none := by
    intro o ho
    simp only [valueOuts, List.mem_map] at ho
    obtain ⟨l, _, rfl⟩ := ho
    exact ⟨rfl, rfl⟩
  have hf := flagsOf_zero i.lanes scal _ fun o ho => (h o ho).1
  unfold commit
  simp only [fpTrap_zero i.w i.lanes scal _ hf]
  congr 2
  funext w
  rw [stepRngs_none _ _ fun o ho => (h o ho).2, raiseFlags_zero _ _ hf]
  simp [valueOuts, List.flatMap_map]

theorem issueValue_of {s : State} {w : Warp} {i : Instr} {f : Fields} {op : Nat} {wide : Bool} {g : Iss → Nat → Nat}
    (hf : fieldsOf i = some (op, f)) (h : Issues s w i f) (hs : Whole w (allScalar f)) :
    issueValue i f s wide g = .next (ends w ((counted s w).withWarp w.key fun x =>
      x.putAll (((issueOf w f).lanesFor (allScalar f)).flatMap fun l => destWrites f.d wide l (g (issueOf w f) l)))) := by
  unfold issueValue
  rw [issueSplit_of_issues hf h hs, commit_value]
  rfl

theorem commit_some (i : Iss) (s : State) (scal : Bool) (outs : List LaneOut) (h : fpTrap i.w i.lanes scal (flagsOf i.lanes scal outs) = none) :
  commit i s scal outs = .done (s.upd i fun w => ((w.putAll (outs.flatMap (·.writes))).raiseFlags (flagsOf i.lanes scal outs)).stepRngs outs) := by
  unfold commit; simp only [h]

theorem issueCommit_of {s : State} {w : Warp} {i : Instr} {f : Fields} {op : Nat} {split scal : Bool} {empty} {outs : Iss → List LaneOut}
    (hf : fieldsOf i = some (op, f)) (h : Issues s w i f) (hs : Whole w split)
    (ht : fpTrap w (issueOf w f).lanes scal (flagsOf (issueOf w f).lanes scal (outs (issueOf w f))) = none) :
    issueSplit i s split empty (fun i s => commit i s scal (outs i)) = .next (ends w ((counted s w).withWarp w.key fun x =>
      ((x.putAll ((outs (issueOf w f)).flatMap (·.writes))).raiseFlags
        (flagsOf (issueOf w f).lanes scal (outs (issueOf w f)))).stepRngs (outs (issueOf w f)))) := by
  rw [issueSplit_of_issues hf h hs]
  simp only [commit_some (issueOf w f) _ scal _ ht]
  rfl

theorem issueTrap_of {s : State} {w : Warp} {i : Instr} {f : Fields} {op : Nat} {split scal : Bool} {empty} {outs : Iss → List LaneOut} {t}
    (hf : fieldsOf i = some (op, f)) (h : Issues s w i f) (hs : Whole w split)
    (ht : fpTrap w (issueOf w f).lanes scal (flagsOf (issueOf w f).lanes scal (outs (issueOf w f))) = some t) :
    issueSplit i s split empty (fun i s => commit i s scal (outs i)) = .next (takeTrap s (issueOf w f) t) := by
  rw [issueSplit_of_issues hf h hs]
  have : commit (issueOf w f) (counted s w) scal (outs (issueOf w f)) = .trap t := by
    unfold commit
    have : fpTrap (issueOf w f).w (issueOf w f).lanes scal (flagsOf (issueOf w f).lanes scal (outs (issueOf w f))) = some t := ht
    simp only [this]
  simp only [this]

end Sys2Proof.Machine
end

