-- ==== Sys2Proof/Laws/Memory.lean ====
section
/-!
SUPPORT. The byte memory: a read after a write, and the canonical form kept by every write.
-/
namespace Sys2Proof.Machine
open Sys2Proof

/-- No listed location lies below the bound. -/
theorem memWfFrom_mono {lo hi : Nat} {m : Memory} (h : lo ≤ hi) (hm : memWfFrom hi m = true) : memWfFrom lo m = true := by
  cases m with
  | nil => rfl
  | cons p r =>
    simp only [memWfFrom, Bool.and_eq_true, decide_eq_true_eq] at hm ⊢
    exact ⟨⟨Nat.le_trans h hm.1.1, hm.1.2⟩, hm.2⟩

theorem memGet_below {m : Memory} {lo a : Nat} (h : memWfFrom lo m = true) (ha : a < lo) : memGet m a = 0 := by
  cases m with
  | nil => rfl
  | cons p r =>
    simp only [memWfFrom, Bool.and_eq_true, decide_eq_true_eq] at h
    have h1 : p.1 ≠ a := by omega
    have h2 : a < p.1 := by omega
    simp [memGet, h1, h2]

/-- A write keeps the canonical form. -/
theorem memPut_wfFrom {m : Memory} {lo a : Nat} (b : Byte) (h : memWfFrom lo m = true) (ha : lo ≤ a) :
    memWfFrom lo (memPut m a b) = true := by
  induction m generalizing lo with
  | nil =>
    by_cases hb : b = 0#8 <;> simp [memPut, hb, memWfFrom, ha]
  | cons p r ih =>
    obtain ⟨k, c⟩ := p
    have h0 := h
    simp only [memWfFrom, Bool.and_eq_true, decide_eq_true_eq] at h
    simp only [memPut]
    split
    · split
      · exact h0
      · rename_i hb; simp_all [memWfFrom] <;> omega
    · split
      · split
        · exact memWfFrom_mono (by omega) h.2
        · subst a; rename_i hb; simp_all [memWfFrom]
      · simp only [memWfFrom, Bool.and_eq_true, decide_eq_true_eq]
        exact ⟨h.1, ih h.2 (by omega)⟩

theorem memPut_wf {m : Memory} (a : Nat) (b : Byte) (h : m.wf = true) : (memPut m a b).wf = true :=
  memPut_wfFrom b h (Nat.zero_le a)

theorem memPutAll_wf {m : Memory} (cs : List Host.Cell) (h : m.wf = true) : (memPutAll m cs).wf = true := by
  unfold memPutAll
  induction cs generalizing m with
  | nil => exact h
  | cons c r ih => exact ih (memPut_wf c.1 c.2 h)

/-- A read after a write to the same location. -/
theorem memGet_memPut_same {m : Memory} {lo : Nat} (a : Nat) (b : Byte) (h : memWfFrom lo m = true) :
    memGet (memPut m a b) a = b := by
  induction m generalizing lo with
  | nil => by_cases hb : b = 0#8 <;> simp [memPut, hb, memGet]
  | cons p r ih =>
    obtain ⟨k, c⟩ := p
    simp only [memWfFrom, Bool.and_eq_true, decide_eq_true_eq] at h
    simp only [memPut]
    split
    · split
      · have h1 : k ≠ a := by omega
        simp [memGet, *]
      · simp [memGet]
    · split
      · subst a
        split
        · rw [memGet_below h.2 (by omega)]; simp_all
        · simp [memGet]
      · have h1 : k ≠ a := by omega
        have h2 : ¬ a < k := by omega
        simp [memGet, h1, h2, ih h.2]

/-- A write leaves every other location alone. -/
theorem memGet_memPut_other {m : Memory} {lo : Nat} {a x : Nat} (b : Byte) (h : memWfFrom lo m = true) (hx : x ≠ a) :
    memGet (memPut m a b) x = memGet m x := by
  induction m generalizing lo with
  | nil =>
    by_cases hb : b = 0#8
    · simp [memPut, hb, memGet]
    · simp [memPut, hb, memGet, Ne.symm hx]
  | cons p r ih =>
    obtain ⟨k, c⟩ := p
    have h0 := h
    simp only [memWfFrom, Bool.and_eq_true, decide_eq_true_eq] at h
    simp only [memPut]
    split
    · split
      · rfl
      · have ha : a ≠ x := Ne.symm hx
        by_cases hk : k = x
        · subst k
          have : ¬ x < a := by omega
          simp [memGet, ha, this]
        · by_cases hlt : x < k
          · by_cases hxa : x < a <;> simp [memGet, ha, hxa, hk, hlt]
          · have : ¬ x < a := by omega
            simp [memGet, ha, this]
    · split
      · subst a
        have hk : k ≠ x := Ne.symm hx
        split
        · by_cases hlt : x < k
          · rw [memGet_below h.2 (by omega)]; simp [memGet, hk, hlt]
          · simp [memGet, hk, hlt]
        · simp [memGet, hk]
      · by_cases hk : k = x
        · simp [memGet, hk]
        · by_cases hlt : x < k
          · simp [memGet, hk, hlt]
          · simp [memGet, hk, hlt, ih h.2]

theorem memGet_memPutAll_other {m : Memory} (cs : List Host.Cell) {x : Nat} (h : m.wf = true) (hx : ∀ c ∈ cs, c.1 ≠ x) :
    memGet (memPutAll m cs) x = memGet m x := by
  unfold memPutAll
  induction cs generalizing m with
  | nil => rfl
  | cons c r ih =>
    rw [List.foldl_cons, ih (memPut_wf c.1 c.2 h) fun d hd => hx d (List.mem_cons_of_mem _ hd)]
    exact memGet_memPut_other c.2 h (Ne.symm (hx c (List.mem_cons_self ..)))

end Sys2Proof.Machine
end

