-- ==== Sys2Proof/Laws/Ports.lean ====
section
/-!
SUPPORT. Blocks of pages without a binding: they need no fill, and their write-back always succeeds and moves no byte of
what software reads; and the packed form of a page whose blocks all code alike.
-/
namespace Sys2Proof.Machine
open Sys2Proof

theorem State.binding?_zero (s : State) (ctx : Nat) : s.binding? ctx 0 = none := rfl

/-- A block of a page whose BIND is 0 needs no fill (13 R355). -/
theorem State.needsFill_unbound (s : State) {k : Blk} (h : k.bind = 0) : s.needsFill k = false := by
  simp [State.needsFill, h, State.binding?_zero]

theorem State.fillAll_none {s : State} {ks : List Blk} (h : ∀ k ∈ ks, s.needsFill k = false) : s.fillAll ks = .ok s := by
  induction ks with
  | nil => rfl
  | cons k r ih =>
    unfold State.fillAll
    simp only [h k (List.mem_cons_self ..), Bool.not_false, if_true]
    exact ih fun x hx => h x (List.mem_cons_of_mem _ hx)

/-! ### `State.setFrt`: a count at the memory service, and a packet at its home port -/
@[simp] theorem State.setFrt_agenda (s : State) (pa n : Nat) : (s.setFrt pa n).agenda = s.agenda := rfl
@[simp] theorem State.setFrt_cur (s : State) (pa n : Nat) : (s.setFrt pa n).cur = s.cur := rfl
@[simp] theorem State.setFrt_free (s : State) (pa n : Nat) : (s.setFrt pa n).free = s.free := rfl
@[simp] theorem State.setFrt_tick (s : State) (pa n : Nat) : (s.setFrt pa n).tick = s.tick := rfl
@[simp] theorem State.setFrt_mem (s : State) (pa n : Nat) : (s.setFrt pa n).mem = s.mem := rfl
@[simp] theorem State.setFrt_dram (s : State) (pa n : Nat) : (s.setFrt pa n).dram = s.dram := rfl
@[simp] theorem State.setFrt_metab (s : State) (pa n : Nat) : (s.setFrt pa n).metab = s.metab := rfl
@[simp] theorem State.setFrt_softWords (s : State) (pa n : Nat) : (s.setFrt pa n).softWords = s.softWords := rfl
@[simp] theorem State.setFrt_badWords (s : State) (pa n : Nat) : (s.setFrt pa n).badWords = s.badWords := rfl
@[simp] theorem State.setFrt_order (s : State) (pa n : Nat) : (s.setFrt pa n).order = s.order := rfl
@[simp] theorem State.setFrt_warps (s : State) (pa n : Nat) : (s.setFrt pa n).warps = s.warps := rfl
@[simp] theorem State.setFrt_blocks (s : State) (pa n : Nat) : (s.setFrt pa n).blocks = s.blocks := rfl
@[simp] theorem State.setFrt_blockCt (s : State) (pa n : Nat) : (s.setFrt pa n).blockCt = s.blockCt := rfl
@[simp] theorem State.setFrt_warpCt (s : State) (pa n : Nat) : (s.setFrt pa n).warpCt = s.warpCt := rfl
@[simp] theorem State.setFrt_qwaits (s : State) (pa n : Nat) : (s.setFrt pa n).qwaits = s.qwaits := rfl
@[simp] theorem State.setFrt_cores (s : State) (pa n : Nat) : (s.setFrt pa n).cores = s.cores := rfl
@[simp] theorem State.setFrt_clusters (s : State) (pa n : Nat) : (s.setFrt pa n).clusters = s.clusters := rfl
@[simp] theorem State.setFrt_hbm (s : State) (pa n : Nat) : (s.setFrt pa n).hbm = s.hbm := rfl
@[simp] theorem State.setFrt_parts (s : State) (pa n : Nat) : (s.setFrt pa n).parts = s.parts := rfl
@[simp] theorem State.setFrt_ctxs (s : State) (pa n : Nat) : (s.setFrt pa n).ctxs = s.ctxs := rfl
@[simp] theorem State.setFrt_regions (s : State) (pa n : Nat) : (s.setFrt pa n).regions = s.regions := rfl
@[simp] theorem State.setFrt_recs (s : State) (pa n : Nat) : (s.setFrt pa n).recs = s.recs := rfl
@[simp] theorem State.setFrt_recCt (s : State) (pa n : Nat) : (s.setFrt pa n).recCt = s.recCt := rfl
@[simp] theorem State.setFrt_saves (s : State) (pa n : Nat) : (s.setFrt pa n).saves = s.saves := rfl
@[simp] theorem State.setFrt_lanes (s : State) (pa n : Nat) : (s.setFrt pa n).lanes = s.lanes := rfl
@[simp] theorem State.setFrt_txCur (s : State) (pa n : Nat) : (s.setFrt pa n).txCur = s.txCur := rfl
@[simp] theorem State.setFrt_lane (s : State) (pa n : Nat) : (s.setFrt pa n).lane = s.lane := rfl
@[simp] theorem State.setFrt_links (s : State) (pa n : Nat) : (s.setFrt pa n).links = s.links := rfl
@[simp] theorem State.setFrt_dev (s : State) (pa n : Nat) : (s.setFrt pa n).dev = s.dev := rfl

/-! ### Lines and metadata -/
@[simp] theorem State.putLine_mem (s : State) (l : Line) : (s.putLine l).mem = s.mem := rfl
@[simp] theorem State.putLine_ctxs (s : State) (l : Line) : (s.putLine l).ctxs = s.ctxs := rfl
@[simp] theorem State.dropLine_mem (s : State) (pa : Nat) : (s.dropLine pa).mem = s.mem := rfl
@[simp] theorem State.dropLine_ctxs (s : State) (pa : Nat) : (s.dropLine pa).ctxs = s.ctxs := rfl
@[simp] theorem State.setMeta_mem (s : State) (pa v : Nat) : (s.setMeta pa v).mem = s.mem := rfl
@[simp] theorem State.setMeta_ctxs (s : State) (pa v : Nat) : (s.setMeta pa v).ctxs = s.ctxs := rfl

theorem foldl_kept {α β γ : Type} (p : α → γ) {g : α → β → α} (h : ∀ a b, p (g a b) = p a) (l : List β) (a : α) : p (l.foldl g a) = p a := by
  induction l generalizing a with
  | nil => rfl
  | cons b r ih => rw [List.foldl_cons, ih, h]

@[simp] theorem State.send_mem (s : State) (k : PacketKind) (pa n : Nat) : (s.send k pa n).mem = s.mem := rfl
@[simp] theorem State.send_ctxs (s : State) (k : PacketKind) (pa n : Nat) : (s.send k pa n).ctxs = s.ctxs := rfl

/-- What a store of a block's form changes is DRAM, metadata and the port, and no byte of memory as software reads it. -/
theorem State.storeForm_kept (s : State) (pa size st used : Nat) (bs : List Byte) :
    (s.storeForm pa size st used bs).mem = s.mem ∧ (s.storeForm pa size st used bs).ctxs = s.ctxs := by
  unfold State.storeForm
  refine ⟨(foldl_kept State.mem (fun a b => ?_) _ _).trans ?_, (foldl_kept State.ctxs (fun a b => ?_) _ _).trans ?_⟩ <;> split <;> rfl

/-- A block stored plain changes DRAM and metadata, and no byte of memory as software reads it. -/
theorem State.storePlain_kept (s : State) (l : Line) (b : Bool) : (s.storePlain l b).mem = s.mem ∧ (s.storePlain l b).ctxs = s.ctxs := by
  unfold State.storePlain
  cases b with
  | true => exact s.storeForm_kept ..
  | false => exact ⟨foldl_kept State.mem (fun a b => by simp) _ _, foldl_kept State.ctxs (fun a b => by simp) _ _⟩

/-- The write-back of a line of 128 bytes without a binding and without a damaged byte succeeds (13 R355, R372). -/
theorem State.writeBack_unbound {s : State} {l : Line} (h : s.binding? l.ctx l.bind = none) (hn : l.bytes = 128) (hs : l.soft = []) :
    ∃ u, s.writeBack l = (u, []) ∧ u.mem = s.mem ∧ u.ctxs = s.ctxs := by
  have hb : l.bytes = s.blockBytes l.ctx l.bind := by simp [State.blockBytes, h, hn]
  unfold State.writeBack State.writeBackBlock
  rw [if_pos hb, h, hs]
  exact ⟨_, rfl, s.storePlain_kept l false⟩

theorem State.binding?_ctxs {s t : State} (h : t.ctxs = s.ctxs) (ctx bind : Nat) : t.binding? ctx bind = s.binding? ctx bind := by
  simp [State.binding?, State.context, h]

theorem State.storeAll_unbound {s : State} {ls : List Line} (h : ∀ l ∈ ls, s.binding? l.ctx l.bind = none ∧ l.bytes = 128 ∧ l.soft = []) :
    ∃ u, s.storeAll ls = .ok u ∧ u.mem = s.mem ∧ u.ctxs = s.ctxs := by
  induction ls generalizing s with
  | nil => exact ⟨s, rfl, rfl, rfl⟩
  | cons l r ih =>
    have h0 := h l (List.mem_cons_self ..)
    have hl : (s.putLine l).binding? l.ctx l.bind = none := (State.binding?_ctxs rfl _ _).trans h0.1
    obtain ⟨u, hu, hm, hc⟩ := State.writeBack_unbound hl h0.2.1 h0.2.2
    have hk : (u.dropLine l.pa).ctxs = s.ctxs := hc
    obtain ⟨v, hv, hvm, hvc⟩ := ih (s := u.dropLine l.pa) fun x hx => ⟨(State.binding?_ctxs hk _ _).trans (h x (List.mem_cons_of_mem _ hx)).1, (h x (List.mem_cons_of_mem _ hx)).2⟩
    refine ⟨v, ?_, hvm.trans hm, hvc.trans hk⟩
    unfold State.storeAll
    rw [hu]
    exact hv

/-- A page whose blocks all have one packed form: its index entries, and that form so many times. -/
theorem packPage_const {s : State} {b : Binding} {base at_ : Nat} {raw big : Bool} {x : List Byte}
    (h : ∀ i, i < 131072 / (16 * 2 ^ b.bsize) → packBlock b (memBytes s.mem (base + 16 * 2 ^ b.bsize * i) (16 * 2 ^ b.bsize)) = .ok (raw, x, big)) :
    ∃ es xs, packPage s b base at_ = .ok (es, (List.replicate (131072 / (16 * 2 ^ b.bsize)) x).flatten, xs) := by
  unfold packPage
  simp only
  generalize 131072 / (16 * 2 ^ b.bsize) = n at h ⊢
  induction n with
  | zero => exact ⟨[], [], rfl⟩
  | succ n ih =>
    obtain ⟨es, xs, he⟩ := ih fun i hi => h i (Nat.lt_succ_of_lt hi)
    rw [List.range_succ, List.foldl_append, he, List.foldl_cons, List.foldl_nil, h n (Nat.lt_succ_self n)]
    refine ⟨es ++ [at_ + (List.replicate n x).flatten.length + bitOf raw * 2 ^ 31],
      if big then xs ++ [at_ + (List.replicate n x).flatten.length] else xs, ?_⟩
    simp only [List.replicate_succ', List.flatten_append, List.flatten_cons, List.flatten_nil, List.append_nil]

end Sys2Proof.Machine
end

