-- ==== Sys2Proof/Tests/Slice0.lean ====
section
/-!
SUPPORT. The model's own tests: words written out from the spec's encodings, ill-formed instructions, small states that meet the
hypotheses of the statements, and one-step runs. Expected values come from the spec, by its worked examples or by hand.
-/
namespace Slice0

set_option Elab.async false

open Sys2Proof Sys2Proof.Machine

/-- The fields of a full instruction. -/
def fl (g sub d a b c mid imm : Nat) : Fields :=
  { g := BitVec.ofNat 4 g, sub := BitVec.ofNat 4 sub, d := BitVec.ofNat 8 d, a := BitVec.ofNat 8 a, b := BitVec.ofNat 8 b
    c := BitVec.ofNat 8 c, mid := BitVec.ofNat 16 mid, imm := BitVec.ofNat 32 imm }

/-! ### Words: OP, G, SUB, D, A, B, C, bits 47 to 32, IMM32 from the left (02 R25 to R31, R46; 13 R362, R363) -/

theorem test_words_control_1 :
  (let is (w : Nat) (i : Instr) : Bool := decodeTableWord 96 w == some i
  [is 0x0070_0102_0304_0506_0708_090A (.nop (fl 7 0 1 2 3 4 0x0506 0x0708090A)),
   is 0x0170_0102_0304_0506_0708_090A (.wait (fl 7 0 1 2 3 4 0x0506 0x0708090A)),
   is 0x0270_0102_0304_0506_0708_090A (.yield (fl 7 0 1 2 3 4 0x0506 0x0708090A)),
   is 0x0370_0102_0304_0506_0708_090A (.trap (fl 7 0 1 2 3 4 0x0506 0x0708090A)),
   is 0x0470_0102_0304_0506_0708_090A (.brk (fl 7 0 1 2 3 4 0x0506 0x0708090A)),
   is 0x0570_0102_0304_0506_0708_090A (.fence (fl 7 0 1 2 3 4 0x0506 0x0708090A)),
   is 0x0670_0102_0304_0506_0708_090A (.ifence (fl 7 0 1 2 3 4 0x0506 0x0708090A)),
   is 0x0770_0102_0304_0506_0708_090A (.rdsr (fl 7 0 1 2 3 4 0x0506 0x0708090A)),
   is 0x0870_0102_0304_0506_0708_090A (.wrsr (fl 7 0 1 2 3 4 0x0506 0x0708090A)),
   is 0x0970_0102_0304_0506_0708_090A (.exit (fl 7 0 1 2 3 4 0x0506 0x0708090A)),
   is 0x0A70_0102_0304_0506_0708_090A (.trig (fl 7 0 1 2 3 4 0x0506 0x0708090A)),
   is 0x0B70_0102_0304_0506_0708_090A (.post (fl 7 0 1 2 3 4 0x0506 0x0708090A)),
   is 0x0B71_0102_0304_0506_0708_090A (.postEnd (fl 7 1 1 2 3 4 0x0506 0x0708090A)),
   is 0x0C70_0102_0304_0506_0708_090A (.fresResume (fl 7 0 1 2 3 4 0x0506 0x0708090A)),
   is 0x0C71_0102_0304_0506_0708_090A (.fresKill (fl 7 1 1 2 3 4 0x0506 0x0708090A)),
   is 0x0C72_0102_0304_0506_0708_090A (.fresRebind (fl 7 2 1 2 3 4 0x0506 0x0708090A)),
   is 0x0D70_0102_0304_0506_0708_090A (.ep (fl 7 0 1 2 3 4 0x0506 0x0708090A)),
   is 0x0E70_0102_0304_0506_0708_090A (.migL (fl 7 0 1 2 3 4 0x0506 0x0708090A)),
   is 0x0E71_0102_0304_0506_0708_090A (.migD (fl 7 1 1 2 3 4 0x0506 0x0708090A)),
   is 0x0F70_0102_0304_0506_0708_090A (.emu (fl 7 0 1 2 3 4 0x0506 0x0708090A))].all id) = true := by decide

theorem test_words_control_2 :
  (let is (w : Nat) (i : Instr) : Bool := decodeTableWord 96 w == some i
  [is 0x1070_0102_0304_0506_0708_090A (.bra (fl 7 0 1 2 3 4 0x0506 0x0708090A)),
   is 0x1170_0102_0304_0506_0708_090A (.brx (fl 7 0 1 2 3 4 0x0506 0x0708090A)),
   is 0x1270_0102_0304_0506_0708_090A (.call (fl 7 0 1 2 3 4 0x0506 0x0708090A)),
   is 0x1370_0102_0304_0506_0708_090A (.callx (fl 7 0 1 2 3 4 0x0506 0x0708090A)),
   is 0x1470_0102_0304_0506_0708_090A (.ret (fl 7 0 1 2 3 4 0x0506 0x0708090A)),
   is 0x1570_0102_0304_0506_0708_090A (.brs (fl 7 0 1 2 3 4 0x0506 0x0708090A)),
   is 0x1670_0102_0304_0506_0708_090A (.wsync (fl 7 0 1 2 3 4 0x0506 0x0708090A))].all id) = true := by decide

theorem test_words_integer_1 :
  (let is (w : Nat) (i : Instr) : Bool := decodeTableWord 96 w == some i
  [is 0x2070_0102_0304_0506_0708_090A (.add (fl 7 0 1 2 3 4 0x0506 0x0708090A)),
   is 0x2170_0102_0304_0506_0708_090A (.sub (fl 7 0 1 2 3 4 0x0506 0x0708090A)),
   is 0x2270_0102_0304_0506_0708_090A (.mul (fl 7 0 1 2 3 4 0x0506 0x0708090A)),
   is 0x2370_0102_0304_0506_0708_090A (.mulhi (fl 7 0 1 2 3 4 0x0506 0x0708090A)),
   is 0x2470_0102_0304_0506_0708_090A (.mad (fl 7 0 1 2 3 4 0x0506 0x0708090A)),
   is 0x2570_0102_0304_0506_0708_090A (.min (fl 7 0 1 2 3 4 0x0506 0x0708090A)),
   is 0x2670_0102_0304_0506_0708_090A (.max (fl 7 0 1 2 3 4 0x0506 0x0708090A)),
   is 0x2770_0102_0304_0506_0708_090A (.abs (fl 7 0 1 2 3 4 0x0506 0x0708090A)),
   is 0x2870_0102_0304_0506_0708_090A (.and (fl 7 0 1 2 3 4 0x0506 0x0708090A)),
   is 0x2970_0102_0304_0506_0708_090A (.or (fl 7 0 1 2 3 4 0x0506 0x0708090A)),
   is 0x2A70_0102_0304_0506_0708_090A (.xor (fl 7 0 1 2 3 4 0x0506 0x0708090A)),
   is 0x2B70_0102_0304_0506_0708_090A (.andn (fl 7 0 1 2 3 4 0x0506 0x0708090A)),
   is 0x2C70_0102_0304_0506_0708_090A (.shl (fl 7 0 1 2 3 4 0x0506 0x0708090A)),
   is 0x2D70_0102_0304_0506_0708_090A (.shr (fl 7 0 1 2 3 4 0x0506 0x0708090A)),
   is 0x2E70_0102_0304_0506_0708_090A (.sar (fl 7 0 1 2 3 4 0x0506 0x0708090A)),
   is 0x2F70_0102_0304_0506_0708_090A (.cmp (fl 7 0 1 2 3 4 0x0506 0x0708090A)),
   is 0x3070_0102_0304_0506_0708_090A (.sel (fl 7 0 1 2 3 4 0x0506 0x0708090A)),
   is 0x3170_0102_0304_0506_0708_090A (.mov (fl 7 0 1 2 3 4 0x0506 0x0708090A)),
   is 0x3270_0102_0304_0506_0708_090A (.movi (fl 7 0 1 2 3 4 0x0506 0x0708090A)),
   is 0x3370_0102_0304_0506_0708_090A (.popc (fl 7 0 1 2 3 4 0x0506 0x0708090A))].all id) = true := by decide

theorem test_words_integer_2 :
  (let is (w : Nat) (i : Instr) : Bool := decodeTableWord 96 w == some i
  [is 0x3470_0102_0304_0506_0708_090A (.clz (fl 7 0 1 2 3 4 0x0506 0x0708090A)),
   is 0x3570_0102_0304_0506_0708_090A (.brev (fl 7 0 1 2 3 4 0x0506 0x0708090A)),
   is 0x3670_0102_0304_0506_0708_090A (.bfe (fl 7 0 1 2 3 4 0x0506 0x0708090A)),
   is 0x3770_0102_0304_0506_0708_090A (.bfi (fl 7 0 1 2 3 4 0x0506 0x0708090A)),
   is 0x3870_0102_0304_0506_0708_090A (.addsh (fl 7 0 1 2 3 4 0x0506 0x0708090A)),
   is 0x3970_0102_0304_0506_0708_090A (.idiv (fl 7 0 1 2 3 4 0x0506 0x0708090A)),
   is 0x3A70_0102_0304_0506_0708_090A (.plog (fl 7 0 1 2 3 4 0x0506 0x0708090A)),
   is 0x3B70_0102_0304_0506_0708_090A (.pmovGet (fl 7 0 1 2 3 4 0x0506 0x0708090A)),
   is 0x3B71_0102_0304_0506_0708_090A (.pmovSet (fl 7 1 1 2 3 4 0x0506 0x0708090A)),
   is 0x3C70_0102_0304_0506_0708_090A (.perm (fl 7 0 1 2 3 4 0x0506 0x0708090A)),
   is 0x3D70_0102_0304_0506_0708_090A (.rng (fl 7 0 1 2 3 4 0x0506 0x0708090A)),
   is 0x3E70_0102_0304_0506_0708_090A (.rot (fl 7 0 1 2 3 4 0x0506 0x0708090A)),
   is 0x3F70_0102_0304_0506_0708_090A (.clamp (fl 7 0 1 2 3 4 0x0506 0x0708090A))].all id) = true := by decide

theorem test_words_floating :
  (let is (w : Nat) (i : Instr) : Bool := decodeTableWord 96 w == some i
  [is 0x4070_0102_0304_0506_0708_090A (.fadd (fl 7 0 1 2 3 4 0x0506 0x0708090A)),
   is 0x4170_0102_0304_0506_0708_090A (.fsub (fl 7 0 1 2 3 4 0x0506 0x0708090A)),
   is 0x4270_0102_0304_0506_0708_090A (.fmul (fl 7 0 1 2 3 4 0x0506 0x0708090A)),
   is 0x4370_0102_0304_0506_0708_090A (.fma (fl 7 0 1 2 3 4 0x0506 0x0708090A)),
   is 0x4470_0102_0304_0506_0708_090A (.fmin (fl 7 0 1 2 3 4 0x0506 0x0708090A)),
   is 0x4570_0102_0304_0506_0708_090A (.fmax (fl 7 0 1 2 3 4 0x0506 0x0708090A)),
   is 0x4670_0102_0304_0506_0708_090A (.fcmp (fl 7 0 1 2 3 4 0x0506 0x0708090A)),
   is 0x4770_0102_0304_0506_0708_090A (.fsgn (fl 7 0 1 2 3 4 0x0506 0x0708090A)),
   is 0x4870_0102_0304_0506_0708_090A (.frnd (fl 7 0 1 2 3 4 0x0506 0x0708090A)),
   is 0x4970_0102_0304_0506_0708_090A (.fclass (fl 7 0 1 2 3 4 0x0506 0x0708090A)),
   is 0x4A70_0102_0304_0506_0708_090A (.fdot4 (fl 7 0 1 2 3 4 0x0506 0x0708090A)),
   is 0x4B70_0102_0304_0506_0708_090A (.fscl (fl 7 0 1 2 3 4 0x0506 0x0708090A)),
   is 0x4C70_0102_0304_0506_0708_090A (.famax (fl 7 0 1 2 3 4 0x0506 0x0708090A))].all id) = true := by decide

theorem test_words_conversions :
  (let is (w : Nat) (i : Instr) : Bool := decodeTableWord 96 w == some i
  [is 0x5070_0102_0304_0506_0708_090A (.cvt (fl 7 0 1 2 3 4 0x0506 0x0708090A)),
   is 0x5170_0102_0304_0506_0708_090A (.pack (fl 7 0 1 2 3 4 0x0506 0x0708090A)),
   is 0x5270_0102_0304_0506_0708_090A (.unpack (fl 7 0 1 2 3 4 0x0506 0x0708090A)),
   is 0x5370_0102_0304_0506_0708_090A (.rcp (fl 7 0 1 2 3 4 0x0506 0x0708090A)),
   is 0x5470_0102_0304_0506_0708_090A (.rsq (fl 7 0 1 2 3 4 0x0506 0x0708090A)),
   is 0x5570_0102_0304_0506_0708_090A (.sqrt (fl 7 0 1 2 3 4 0x0506 0x0708090A)),
   is 0x5670_0102_0304_0506_0708_090A (.exp2 (fl 7 0 1 2 3 4 0x0506 0x0708090A)),
   is 0x5770_0102_0304_0506_0708_090A (.log2 (fl 7 0 1 2 3 4 0x0506 0x0708090A)),
   is 0x5870_0102_0304_0506_0708_090A (.sin (fl 7 0 1 2 3 4 0x0506 0x0708090A)),
   is 0x5970_0102_0304_0506_0708_090A (.cos (fl 7 0 1 2 3 4 0x0506 0x0708090A)),
   is 0x5A70_0102_0304_0506_0708_090A (.tanh (fl 7 0 1 2 3 4 0x0506 0x0708090A)),
   is 0x5B70_0102_0304_0506_0708_090A (.act (fl 7 0 1 2 3 4 0x0506 0x0708090A))].all id) = true := by decide

theorem test_words_lanes :
  (let is (w : Nat) (i : Instr) : Bool := decodeTableWord 96 w == some i
  [is 0x6070_0102_0304_0506_0708_090A (.shfl (fl 7 0 1 2 3 4 0x0506 0x0708090A)),
   is 0x6170_0102_0304_0506_0708_090A (.vote (fl 7 0 1 2 3 4 0x0506 0x0708090A)),
   is 0x6270_0102_0304_0506_0708_090A (.ballot (fl 7 0 1 2 3 4 0x0506 0x0708090A)),
   is 0x6370_0102_0304_0506_0708_090A (.wred (fl 7 0 1 2 3 4 0x0506 0x0708090A)),
   is 0x6470_0102_0304_0506_0708_090A (.scan (fl 7 0 1 2 3 4 0x0506 0x0708090A)),
   is 0x6570_0102_0304_0506_0708_090A (.matchl (fl 7 0 1 2 3 4 0x0506 0x0708090A)),
   is 0x6670_0102_0304_0506_0708_090A (.elect (fl 7 0 1 2 3 4 0x0506 0x0708090A)),
   is 0x6770_0102_0304_0506_0708_090A (.rdlane (fl 7 0 1 2 3 4 0x0506 0x0708090A)),
   is 0x6870_0102_0304_0506_0708_090A (.wrlane (fl 7 0 1 2 3 4 0x0506 0x0708090A))].all id) = true := by decide

theorem test_words_memory :
  (let is (w : Nat) (i : Instr) : Bool := decodeTableWord 96 w == some i
  [is 0x7070_0102_0304_0506_0708_090A (.ld (fl 7 0 1 2 3 4 0x0506 0x0708090A)),
   is 0x7170_0102_0304_0506_0708_090A (.st (fl 7 0 1 2 3 4 0x0506 0x0708090A)),
   is 0x7270_0102_0304_0506_0708_090A (.lds (fl 7 0 1 2 3 4 0x0506 0x0708090A)),
   is 0x7370_0102_0304_0506_0708_090A (.sts (fl 7 0 1 2 3 4 0x0506 0x0708090A)),
   is 0x7470_0102_0304_0506_0708_090A (.pf (fl 7 0 1 2 3 4 0x0506 0x0708090A)),
   is 0x7570_0102_0304_2506_0708_090A (.cwb (fl 7 0 1 2 3 4 0x2506 0x0708090A)),
   is 0x7570_0102_0304_1506_0708_090A (.cwbSync (fl 7 0 1 2 3 4 0x1506 0x0708090A)),
   is 0x7670_0102_0304_0506_0708_090A (.mkptr (fl 7 0 1 2 3 4 0x0506 0x0708090A)),
   is 0x7770_0102_0304_0506_0708_090A (.ptrq (fl 7 0 1 2 3 4 0x0506 0x0708090A))].all id) = true := by decide

theorem test_words_atomics :
  (let is (w : Nat) (i : Instr) : Bool := decodeTableWord 96 w == some i
  [is 0x8070_0102_0304_0506_0708_090A (.atom (fl 7 0 1 2 3 4 0x0506 0x0708090A)),
   is 0x8170_0102_0304_0506_0708_090A (.cas (fl 7 0 1 2 3 4 0x0506 0x0708090A)),
   is 0x8270_0102_0304_0506_0708_090A (.redm (fl 7 0 1 2 3 4 0x0506 0x0708090A)),
   is 0x8370_0102_0304_0506_0708_090A (.fatom (fl 7 0 1 2 3 4 0x0506 0x0708090A)),
   is 0x8470_0102_0304_0506_0708_090A (.fredm (fl 7 0 1 2 3 4 0x0506 0x0708090A)),
   is 0x8570_0102_0304_0506_0708_090A (.amxr (fl 7 0 1 2 3 4 0x0506 0x0708090A))].all id) = true := by decide

theorem test_words_barriers :
  (let is (w : Nat) (i : Instr) : Bool := decodeTableWord 96 w == some i
  [is 0x9070_0102_0304_0506_0708_090A (.binit (fl 7 0 1 2 3 4 0x0506 0x0708090A)),
   is 0x9170_0102_0304_0506_0708_090A (.barrive (fl 7 0 1 2 3 4 0x0506 0x0708090A)),
   is 0x9270_0102_0304_0506_0708_090A (.bwait (fl 7 0 1 2 3 4 0x0506 0x0708090A)),
   is 0x9370_0102_0304_0506_0708_090A (.bexpect (fl 7 0 1 2 3 4 0x0506 0x0708090A)),
   is 0x9371_0102_0304_0506_0708_090A (.bexpectArrive (fl 7 1 1 2 3 4 0x0506 0x0708090A)),
   is 0x9470_0102_0304_0506_0708_090A (.btest (fl 7 0 1 2 3 4 0x0506 0x0708090A)),
   is 0x9570_0102_0304_0506_0708_090A (.nbarSync (fl 7 0 1 2 3 4 0x0506 0x0708090A)),
   is 0x9571_0102_0304_0506_0708_090A (.nbarArrive (fl 7 1 1 2 3 4 0x0506 0x0708090A)),
   is 0x9670_0102_0304_0506_0708_090A (.qinit (fl 7 0 1 2 3 4 0x0506 0x0708090A)),
   is 0x9770_0102_0304_0506_0708_090A (.qpush (fl 7 0 1 2 3 4 0x0506 0x0708090A)),
   is 0x9870_0102_0304_0506_0708_090A (.qpop (fl 7 0 1 2 3 4 0x0506 0x0708090A)),
   is 0x9970_0102_0304_0506_0708_090A (.xswap (fl 7 0 1 2 3 4 0x0506 0x0708090A))].all id) = true := by decide

theorem test_words_tiles :
  (let is (w : Nat) (i : Instr) : Bool := decodeTableWord 96 w == some i
  [is 0xA070_0102_0304_0506_0708_090A (.kick (fl 7 0 1 2 3 4 0x0506 0x0708090A)),
   is 0xA170_0102_0304_0506_0708_090A (.tdef (fl 7 0 1 2 3 4 0x0506 0x0708090A)),
   is 0xA270_0102_0304_0506_0708_090A (.tstat (fl 7 0 1 2 3 4 0x0506 0x0708090A)),
   is 0xA370_0102_0304_0506_0708_090A (.trel (fl 7 0 1 2 3 4 0x0506 0x0708090A)),
   is 0xA470_0102_0304_0506_0708_090A (.tld (fl 7 0 1 2 3 4 0x0506 0x0708090A)),
   is 0xA570_0102_0304_0506_0708_090A (.tstr (fl 7 0 1 2 3 4 0x0506 0x0708090A)),
   is 0xA670_0102_0304_0506_0708_090A (.atab (fl 7 0 1 2 3 4 0x0506 0x0708090A))].all id) = true := by decide

theorem test_words_matrix :
  (let is (w : Nat) (i : Instr) : Bool := decodeTableWord 96 w == some i
  [is 0xB070_0102_0304_0506_0708_090A (.mres (fl 7 0 1 2 3 4 0x0506 0x0708090A)),
   is 0xB170_0102_0304_0506_0708_090A (.mrel (fl 7 0 1 2 3 4 0x0506 0x0708090A)),
   is 0xB270_0102_0304_0506_0708_090A (.mfence (fl 7 0 1 2 3 4 0x0506 0x0708090A)),
   is 0xB370_0102_0304_0506_0708_090A (.mgo (fl 7 0 1 2 3 4 0x0506 0x0708090A)),
   is 0xB470_0102_0304_0506_0708_090A (.mwait (fl 7 0 1 2 3 4 0x0506 0x0708090A))].all id) = true := by decide

theorem test_words_pages :
  (let is (w : Nat) (i : Instr) : Bool := decodeTableWord 96 w == some i
  [is 0xC070_0102_0304_0506_0708_090A (.pgq (fl 7 0 1 2 3 4 0x0506 0x0708090A)),
   is 0xC170_0102_0304_0506_0708_090A (.pgadv (fl 7 0 1 2 3 4 0x0506 0x0708090A)),
   is 0xC270_0102_0304_0506_0708_090A (.bop (fl 7 0 1 2 3 4 0x0506 0x0708090A)),
   is 0xC370_0102_0304_0506_0708_090A (.tcommit (fl 7 0 1 2 3 4 0x0506 0x0708090A)),
   is 0xC470_0102_0304_0506_0708_090A (.tabort (fl 7 0 1 2 3 4 0x0506 0x0708090A)),
   is 0xC570_0102_0304_0506_0708_090A (.uret (fl 7 0 1 2 3 4 0x0506 0x0708090A)),
   is 0xC670_0102_0304_0506_0708_090A (.tspawn (fl 7 0 1 2 3 4 0x0506 0x0708090A)),
   is 0xC770_0102_0304_0506_0708_090A (.ctload (fl 7 0 1 2 3 4 0x0506 0x0708090A)),
   is 0xC870_0102_0304_0506_0708_090A (.cbind (fl 7 0 1 2 3 4 0x0506 0x0708090A)),
   is 0xC970_0102_0304_0506_0708_090A (.cbuild (fl 7 0 1 2 3 4 0x0506 0x0708090A))].all id) = true := by decide

theorem test_words_absent_and_prefixes :
  (let is (w : Nat) (i : Instr) : Bool := decodeTableWord 96 w == some i
  [is 0xE070_0102_0304_0506_0708_090A (.dadd (fl 7 0 1 2 3 4 0x0506 0x0708090A)),
   is 0xE170_0102_0304_0506_0708_090A (.dmul (fl 7 0 1 2 3 4 0x0506 0x0708090A)),
   is 0xE270_0102_0304_0506_0708_090A (.dfma (fl 7 0 1 2 3 4 0x0506 0x0708090A)),
   is 0xE370_0102_0304_0506_0708_090A (.ddiv (fl 7 0 1 2 3 4 0x0506 0x0708090A)),
   is 0xE470_0102_0304_0506_0708_090A (.dsqrt (fl 7 0 1 2 3 4 0x0506 0x0708090A)),
   is 0xE570_0102_0304_0506_0708_090A (.dcvt (fl 7 0 1 2 3 4 0x0506 0x0708090A)),
   is 0xF070_0102_0304_0506_0708_090A (.imx (fl 7 0 1 2 3 4 0x0506 0x0708090A)),
   is 0xF170_0102_0304_0506_0708_090A (.pol (fl 7 0 1 2 3 4 0x0506 0x0708090A))].all id) = true := by decide

theorem test_words_transducer_1 :
  (let is (w : Nat) (i : Instr) : Bool := decodeTableWord 32 w == some i
  [is 0x0302_0007 (.txGetImm 3 7),
   is 0x0314_0000 (.txGetReg 3 5),
   is 0x0B02_0007 (.txPeekImm 3 7),
   is 0x0B14_0000 (.txPeekReg 3 5),
   is 0x1062_0040 (.txPutImm 3 64),
   is 0x1074_0000 (.txPutReg 3 5),
   is 0x1B12_3456 (.txLi 3 0x123456),
   is 0x2340_0000 (.txMov 3 2),
   is 0x2B42_0009 (.txAddImm 3 2 9),
   is 0x2B54_0000 (.txAddReg 3 2 5),
   is 0x3342_0009 (.txSubImm 3 2 9),
   is 0x3354_0000 (.txSubReg 3 2 5),
   is 0x3B42_0009 (.txXorImm 3 2 9),
   is 0x3B54_0000 (.txXorReg 3 2 5),
   is 0x4342_0009 (.txAndImm 3 2 9),
   is 0x4354_0000 (.txAndReg 3 2 5),
   is 0x4B42_0009 (.txOrImm 3 2 9),
   is 0x4B54_0000 (.txOrReg 3 2 5),
   is 0x5342_0009 (.txShlImm 3 2 9),
   is 0x5354_0000 (.txShlReg 3 2 5)].all id) = true := by decide

theorem test_words_transducer_2 :
  (let is (w : Nat) (i : Instr) : Bool := decodeTableWord 32 w == some i
  [is 0x5B42_0009 (.txShrImm 3 2 9),
   is 0x5B54_0000 (.txShrReg 3 2 5),
   is 0x6342_0009 (.txSarImm 3 2 9),
   is 0x6354_0000 (.txSarReg 3 2 5),
   is 0x6B42_0009 (.txSextImm 3 2 9),
   is 0x6B54_0000 (.txSextReg 3 2 5),
   is 0x7342_0020 (.txZze 3 2 32),
   is 0x7B42_0010 (.txZzd 3 2 16),
   is 0x8340_0000 (.txTbl 3 2),
   is 0x8342_0100 (.txTblImm 3 2 256),
   is 0x8B00_0000 (.txPdec 3),
   is 0x9040_0000 (.txPenc 2),
   is 0x9E54_0011 (.txBfw 6 2 5 17),
   is 0xA002_00FF (.txRepImm 255),
   is 0xA040_0000 (.txRepReg 2),
   is 0xA800_0000 (.txEndr),
   is 0xB300_0000 (.txEob 3),
   is 0xB800_0000 (.txDone),
   is 0xC002_004D (.txFail 77)].all id) = true := by decide

/-! ### Ill-formed instructions that the checks refuse (02 R27, R32, R33, R36, R40 to R44, 13 R364) -/

theorem test_wellformed_add : wellFormed (.add (fl 7 0 1 2 3 0xF0 0 0)) = true := by decide
theorem test_ill_sub : checkFields ((entryOf (.add (fl 7 8 1 2 3 0xF0 0 0))).getD default) (fl 7 8 1 2 3 0xF0 0 0) 128 64 = some 0x006 ∧
    wellFormed (.add (fl 7 8 1 2 3 0xF0 0 0)) = false := by decide
theorem test_ill_d : wellFormed (.add (fl 7 0 0xC8 2 3 0xF0 0 0)) = false ∧ wellFormed (.add (fl 7 0 0xF1 2 3 0xF0 0 0)) = false ∧
    wellFormed (.add (fl 7 0 0x81 2 3 0xF0 0 0)) = false := by decide
theorem test_ill_a : wellFormed (.add (fl 7 0 1 0xF2 3 0xF0 0 0)) = false ∧ wellFormed (.add (fl 7 0 1 0xC1 3 0xF0 0 0)) = false := by decide
theorem test_ill_b : wellFormed (.add (fl 7 0 1 2 0xFF 0xF0 0 0)) = false := by decide
theorem test_ill_c : wellFormed (.add (fl 7 0 1 2 3 4 0 0)) = false := by decide
theorem test_ill_mod : wellFormed (.add (fl 7 0 1 2 3 0xF0 0x8000 0)) = false := by decide
theorem test_ill_load_pair : wellFormed (.ld (fl 7 3 127 2 3 0xF0 0x0422 0)) = false := by decide
theorem test_ill_aux : wellFormed (.mres (fl 7 0 0xF0 0xF0 0xF0 0xF0 1 0)) = false := by decide

/-- A short operation. -/
def so (sop d a b c type : Nat) : ShortOp :=
  { sop := BitVec.ofNat 6 sop, pred := 7, d := BitVec.ofNat 7 d, a := BitVec.ofNat 7 a, b := BitVec.ofNat 7 b, c := BitVec.ofNat 7 c
    type := BitVec.ofNat 3 type, zero := 0 }

theorem test_wellformed_pair : wellFormed (.shortPair (so 0x10 4 5 6 0 2) (so 0 9 10 11 0 0)) = true := by decide
theorem test_ill_short_opcode : checkPair (so 0x1C 4 5 6 0 0) (so 0 9 10 11 0 0) 128 = some (0x000, false) := by decide
theorem test_ill_short_type : checkPair (so 0 9 10 11 0 0) (so 0x10 4 5 6 0 0) 128 = some (0x006, true) := by decide
theorem test_ill_short_regs : checkPair (so 0 64 10 11 0 0) (so 0x10 5 5 6 0 2) 64 = some (0x002, false) ∧
    checkPair (so 0 8 64 11 0 0) (so 0x10 5 5 6 0 2) 64 = some (0x003, false) ∧
    checkPair (so 0 8 10 64 0 0) (so 0x10 5 5 6 0 2) 64 = some (0x004, false) ∧
    checkPair (so 0 8 10 11 1 0) (so 0x10 5 5 6 0 2) 64 = some (0x005, false) := by decide
theorem test_ill_short_zero : wellFormed (.shortPair { so 0 8 10 11 0 0 with zero := 1 } (so 0x10 5 5 6 0 2)) = false := by decide
theorem test_ill_pair_bank : checkPair (so 0x10 4 5 6 0 2) (so 0 8 10 11 0 0) 128 = some (0x008, false) := by decide
theorem test_ill_pair_overlap : checkPair (so 0x10 4 5 6 0 2) (so 0 9 4 11 0 0) 128 = some (0x009, false) := by decide
theorem test_ill_pair_sources : checkPair (so 0x03 4 1 5 9 0) (so 0 11 2 3 0 0) 128 = some (0x00A, false) := by decide
theorem test_ill_pair_queue : checkPair (so 0x18 4 5 0 0 0) (so 0x18 9 10 0 0 0) 128 = some (0x00B, false) := by decide
theorem test_ill_transducer : wellFormed (.txGetImm 0 0) = false ∧ wellFormed (.txPeekImm 0 65) = false ∧ wellFormed (.txPutImm 0 0) = false ∧
    wellFormed (.txSextImm 0 0 65) = false ∧ wellFormed (.txZze 0 0 7) = false ∧ wellFormed (.txZzd 0 0 0) = false ∧ wellFormed (.txRepImm 256) = false ∧
    wellFormed (.txBfw 7 0 0 1) = false ∧ wellFormed (.txBfw 6 0 0 0) = false ∧ wellFormed (.txGetImm 0 64) = true := by decide
theorem test_ill_steps : wellFormed (.propagate 1 326) = false ∧ wellFormed (.kickGate 324) = false ∧ wellFormed (.codecFill 0 (2 ^ 57)) = false ∧
    wellFormed (.pageMap 0 0 4 1) = false ∧ wellFormed (.pageMap 0 0 1 (2 ^ 64)) = false ∧ wellFormed (.burstReply 48 0 0) = false ∧
    wellFormed (.layerAlert 12 0) = false ∧ wellFormed (.layerAlert 0 16) = false ∧ wellFormed (.mapout 12) = false ∧ wellFormed (.decline 18 0) = false ∧
    wellFormed (.cageUpdate 0 256 0 0) = false ∧ wellFormed (.pauseFlit 0 3) = false ∧ wellFormed (.cxlLinkLoss 3) = false ∧
    wellFormed (.kickGate 323) = true := by decide
theorem test_refused_words : (decodeTableWord 96 0x1770_F0F0_F0F0_0000_0000_0000).isNone = true ∧ (decodeTableWord 32 0xC800_0000).isNone = true ∧
    (decodeTableWord 32 0xA002_1002).isNone = true ∧ (decodeTableWord 32 0xB802_0000).isNone = true := by decide

/-! ### Small states -/

/-- A line of five slots whose first k are given, with the TGT and PAIR bits (02 R18, R19). -/
def lineOf5 (ws : List Nat) (tgt pair : Nat) : Nat :=
  let w (k : Nat) : Nat := ws.getD k 0x0070_F0F0_F0F0_0000_0000_0000
  let slots := (List.range 5).foldl (fun n k => n + w k * 2 ^ (96 * k)) 0
  let spar := (List.range 5).foldl (fun n k => n + parity (w k) 96 * 2 ^ k) 0
  let lw := tgt + pair * 32 + spar * 1024
  slots + (lw + parity lw 31 * 32768) * 2 ^ 480

/-- The state in which warp 0, of 16 threads at 0x1000, issues next, from a line with these slots. -/
def sAt (ws : List Nat) (tgt : Nat := 1) (pair : Nat := 0) : State :=
  let s := State.reset.withFetchWord 96 0
  { s with mem := memPutAll s.mem (cellsAt 0x1000 (bytesOf 64 (lineOf5 ws tgt pair))) }

/-- The state with no port used yet. -/
def s0 : State := { sAt [] with ports := [] }
/-- The state in which READs of these blocks have come back. -/
def asked (s : State) (pas : List Nat) : State :=
  pas.foldl (fun s a => s.setPort (homePort a) { s.port (homePort a) with reads := a :: (s.port (homePort a)).reads }) s
def w0 : Warp := (s0.warp? 0).getD default

/-- The state with warp 0 changed, or its threads. -/
def withW (s : State) (g : Warp → Warp) : State := { s with warps := s.warps.map g }
def withT (s : State) (g : Thread → Thread) : State := withW s fun w => { w with threads := w.threads.map g }
def wOf (s : State) : Warp := (s.warp? 0).getD default

/-- Whether an instruction issues at a state from warp 0: the hypothesis of most statements. -/
def goes (s : State) (i : Instr) (f : Fields) : Bool :=
  s.warp? s.cur == some (wOf s) && !(guarded (wOf s) f.g (wOf s).bundle).isEmpty &&
  (match entryOf i with
   | some e => (checkFields e f (s.vregsOf (wOf s)) (s.sregsOf (wOf s))).isNone
   | none => false) && !stalled s (wOf s) i

theorem issues_of {s : State} {i : Instr} {f : Fields} (h : goes s i f = true) : Issues s (wOf s) i f := by
  simp only [goes, Bool.and_eq_true, beq_iff_eq, Bool.not_eq_true', List.isEmpty_eq_false_iff] at h
  obtain ⟨⟨⟨h1, h2⟩, h3⟩, h4⟩ := h
  refine ⟨h1, h2, ?_, h4⟩
  cases he : entryOf i with
  | none => rw [he] at h3; simp at h3
  | some e => rw [he] at h3; exact ⟨e, rfl, Option.isNone_iff_eq_none.mp h3⟩

/-- What a step answers, where it goes on. -/
def nextOf (o : Host.Outcome State Fault Refusal) : State :=
  match o with
  | .next t => t
  | _ => default
def isNext (o : Host.Outcome State Fault Refusal) : Bool :=
  match o with
  | .next _ => true
  | _ => false

/-- The instruction that stands in a slot, where one does. -/
def instrOf (x : Option Slotted) : Option Instr :=
  match x with
  | some (.instr n) => some n
  | _ => none
theorem of_instrOf {x : Option Slotted} {n : Instr} (h : instrOf x = some n) : x = some (.instr n) := by
  match x with
  | some (.instr m) => simp only [instrOf, Option.some.injEq] at h; rw [h]
  | some (.illegal _) | some (.trap _) | none => simp [instrOf] at h

theorem of_toOption {ε α : Type} {x : Except ε α} {a : α} (h : x.toOption = some a) : x = .ok a := by
  cases x with
  | ok b => simp only [Except.toOption, Option.some.injEq] at h; rw [h]
  | error _ => simp [Except.toOption] at h

/-- The scalar register s2 points to byte 0 of the block's scratchpad. -/
def sPtr : State := withW s0 fun w => { w with s := listAt w.s 2 fun _ => 0x1000_0000_0000_0000 }
/-- The state whose first 128 KiB are one page of a table of the lowest level, with this leaf. -/
def smallPage (leaf : Nat) : State :=
  { s0 with mem := memPutAll s0.mem (cellsAt 0x4000 (bytesOf 8 (1 + 3 * 2 ^ 28)) ++ cellsAt 0x6000 (bytesOf 8 (1 + 4 * 2 ^ 28)) ++ cellsAt 0x8000 (bytesOf 8 leaf)) }

/-! ### States and operands that meet the hypotheses of the statements -/

def fA : Fields := fl 7 0 1 2 3 0xF0 0 0
def fF : Fields := fl 7 8 4 5 6 0xF0 0 0

theorem wit_ValueResults : (∃ wide v, valueRule (.add fA) = some (fA, wide, v)) ∧ Issues s0 (wOf s0) (.add fA) fA ∧ Whole (wOf s0) (allScalar fA) :=
  ⟨⟨_, _, rfl⟩, issues_of (by decide), fun _ => .inl (by decide)⟩
theorem wit_FloatResults : (∃ scal outs, floatRule (.fadd fF) = some (fF, scal, outs) ∧
      fpTrap (wOf s0) (issueOf (wOf s0) fF).lanes scal (flagsOf (issueOf (wOf s0) fF).lanes scal (outs (issueOf (wOf s0) fF))) = none) ∧
    Issues s0 (wOf s0) (.fadd fF) fF ∧ Whole (wOf s0) (allScalar fF) :=
  ⟨⟨_, _, rfl, by decide⟩, issues_of (by decide), fun _ => .inl (by decide)⟩

/-- The threads hold infinities of both signs in v5 and v6, and every trap is enabled. -/
def sTrap : State := withT s0 fun t => { t with fpctl := 31, v := [0, 0, 0, 0, 0, 0x7F80_0000, 0xFF80_0000] }
theorem wit_FloatTraps : ∃ scal outs, floatRule (.fadd fF) = some (fF, scal, outs) ∧ Issues sTrap (wOf sTrap) (.fadd fF) fF ∧
    (fpTrap (wOf sTrap) (issueOf (wOf sTrap) fF).lanes scal (flagsOf (issueOf (wOf sTrap) fF).lanes scal (outs (issueOf (wOf sTrap) fF)))).isSome = true :=
  ⟨_, _, rfl, issues_of (by decide), by decide⟩

def fB : Fields := fl 7 0 0x85 0xC1 0xF0 0xF0 0 0
def fRed : Fields := fl 7 0 0x85 2 0xF0 0xF0 0 0
/-- Warp 0 has 32 threads, in legacy mode. -/
def sLw : State := withW s0 fun w => { w with width := 32, lw := true, threads := w.threads ++ w.threads, bundle := List.range 32 }
theorem wit_LaneResults : (∃ outs, resultRule (.wred fRed) = some (fRed, true, true, outs)) ∧ (∃ outs, resultRule (.ballot fB) = some (fB, true, false, outs) ∧
      groupsOf (wOf s0) true = [(wOf s0).bundle] ∧ (let j := groupIss (wOf s0) (wOf s0) fB (wOf s0).bundle
        fpTrap j.w j.lanes false (flagsOf j.lanes false (outs j)) = none)) ∧
    Issues s0 (wOf s0) (.ballot fB) fB ∧ Issues sLw (wOf sLw) (.ballot fB) fB ∧ groupsOf (wOf sLw) true = [List.range 16, List.range' 16 16] :=
  ⟨⟨_, rfl⟩, ⟨_, rfl, by decide, by decide⟩, issues_of (by decide), issues_of (by decide), by decide⟩
def fMt : Fields := fl 7 1 4 2 0xF0 0xF0 0 0
theorem wit_Matches : (∀ s ∈ [s0, sLw], goes s (.matchl fMt) fMt = true ∧ (wOf s).bundle.Nodup ∧ (∀ l ∈ (wOf s).bundle, l < (wOf s).width) ∧ (wOf s).width ≤ 64) ∧
    15 ∈ guarded (wOf s0) fMt.g (wOf s0).bundle ∧ 15 < (wOf s0).threads.length ∧ fMt.d.toNat + 1 < ((wOf s0).thread 15).v.length := by decide +kernel
/-- A warp of 32 threads in legacy mode. -/
def wLegacy : Warp := { w0 with width := 32, lw := true }
theorem wit_HalfGroups : wLegacy.lw = true ∧ 16 < wLegacy.width ∧ ∀ l ∈ [0, 15, 16, 63], l < 64 := by decide

def fR : Fields := fl 7 8 4 5 0xF0 0xF0 0 0
/-- The core's current activation table is valid. -/
def sAct : State := s0.setCore 0 { s0.core 0 with act0 := { valid := true, bytes := [] } }
theorem wit_QueueResults : (∃ r, queueRule sAct (.rcp fR) = some (fR, r)) ∧ Issues sAct (wOf sAct) (.rcp fR) fR ∧ Whole (wOf sAct) (allScalar fR) ∧
    (∃ r, queueRule sAct (.act fR) = some (fR, r)) ∧ Issues sAct (wOf sAct) (.act fR) fR ∧ (sAct.core (wOf sAct).homeCore).actBank.valid = true :=
  ⟨⟨_, rfl⟩, issues_of (by decide), fun _ => .inl (by decide), ⟨_, rfl⟩, issues_of (by decide), by decide⟩
theorem wit_RegisterFrames : registerOnly s0 (.add fA) = some fA ∧ s0.warp? s0.cur = some (wOf s0) ∧ isNext (exec (.add fA) s0) = true := by decide

theorem wit_FalseGuards : s0.warp? s0.cur = some (wOf s0) ∧ (wOf s0).bundle ≠ [] ∧ guarded (wOf s0) 15 (wOf s0).bundle = [] ∧
    sopLanes (wOf s0) { so 0 8 10 11 0 0 with pred := 0 } (wOf s0).bundle = [] := by decide
/-- The instructions of the second clause under a guard that no lane meets, with a scalar D. -/
def fgs : List Instr :=
  [.vote (fl 15 0 0x85 0xC1 0xF0 0xF0 0 0), .ballot (fl 15 0 0x84 0xC1 0xF0 0xF0 0 0), .wred (fl 15 0 0x85 2 0xF0 0xF0 0 0),
   .elect (fl 15 0 0x84 0xF0 0xF0 0xF0 0 0), .elect (fl 15 0 0x85 0xF0 0xF0 0xF0 0 0), .rdlane (fl 15 1 0x85 2 0xF1 0xF0 0 1)]
theorem wit_FalseGuards_scalar : ∀ i ∈ fgs, (match fieldsOf i, entryOf i with
    | some (_, f), some e => (guarded (wOf s0) f.g (wOf s0).bundle).isEmpty && isScal f.d &&
        (checkFields e f (s0.vregsOf (wOf s0)) (s0.sregsOf (wOf s0))).isNone
    | _, _ => false) = true := by decide +kernel
theorem wit_DecodeTraps : (∃ e, entryOf (.add (fl 7 8 1 2 3 0xF0 0 0)) = some e ∧
      checkFields e (fl 7 8 1 2 3 0xF0 0 0) (s0.vregsOf (wOf s0)) (s0.sregsOf (wOf s0)) = some 0x006) ∧
    guarded (wOf s0) 7 (wOf s0).bundle ≠ [] ∧ Fresh (wOf s0) := ⟨⟨_, rfl, by decide⟩, by decide, by unfold Fresh; decide⟩
theorem wit_AbsentInstructions : s0.warp? s0.cur = some (wOf s0) ∧ guarded (wOf s0) 7 (wOf s0).bundle ≠ [] := by decide
/-- An atomic that returns into v2 is outstanding. -/
def sBusy : State := withW s0 fun w => { w with sb := [(0, 2, false)] }
theorem wit_Stalls : (∃ e, entryOf (.add fA) = some e ∧ checkFields e fA (sBusy.vregsOf (wOf sBusy)) (sBusy.sregsOf (wOf sBusy)) = none) ∧
    sBusy.warp? sBusy.cur = some (wOf sBusy) ∧ stalled sBusy (wOf sBusy) (.add fA) = true ∧
    (∃ b, (groupsOf (wOf sBusy) true).head? = some b ∧ guarded (wOf sBusy) 7 b ≠ []) ∧ Fresh (wOf sBusy) :=
  ⟨⟨_, rfl, by decide⟩, by decide, by decide, ⟨_, rfl, by decide⟩, by unfold Fresh; decide⟩
theorem wit_TakesFault : s0.warp? (issueOf (wOf s0) fA).w.key = some (wOf s0) ∧ (issueOf (wOf s0) fA).w.ctx < 256 ∧
    inUndo (issueOf (wOf s0) fA).w [0, 15] = false := by decide

def fW : Fields := fl 7 0 0xF0 0xF0 0xF0 0xF0 0x1230 0
def sLd : State := withW s0 fun w => { w with ld := 1 }
theorem wit_IssueOnly : Issues s0 (wOf s0) (.nop (fl 7 0 0xF0 0xF0 0xF0 0xF0 0 0)) (fl 7 0 0xF0 0xF0 0xF0 0xF0 0 0) ∧
    Issues s0 (wOf s0) (.yield (fl 7 0 0xF0 0xF0 0xF0 0xF0 0 0)) (fl 7 0 0xF0 0xF0 0xF0 0xF0 0 0) ∧ Issues s0 (wOf s0) (.wait fW) fW ∧
    (∀ p ∈ [(0, (wOf s0).ld), (4, (wOf s0).st), (8, (wOf s0).cp), (12, (wOf s0).tm)], bitsOf fW.aux p.1 4 = 15 ∨ p.2 ≤ bitsOf fW.aux p.1 4) ∧
    Issues sLd (wOf sLd) (.wait fW) fW ∧ ¬ (∀ p ∈ [(0, (wOf sLd).ld)], bitsOf fW.aux p.1 4 = 15 ∨ p.2 ≤ bitsOf fW.aux p.1 4) :=
  ⟨issues_of (by decide), issues_of (by decide), issues_of (by decide), by decide, issues_of (by decide), by decide⟩
def fCyc : Fields := fl 7 3 0x85 0xF0 0xF0 0xF0 0 0x0C
def fFlags : Fields := fl 7 1 5 0xF0 0xF0 0xF0 0 0x0F
def opQ : QueueOp := { queue := 0, writes := [⟨.v 0 4, 9⟩], flags := [], trapMask := 0, trapCause := 0, bank := none, pc := 0x1000, lanes := [] }
def sQ : State := withW s0 fun w => { w with queue := [opQ] }
theorem wit_ReadResults : (∃ r, readRule s0 (.rdsr fCyc) = some (fCyc, r)) ∧ Issues s0 (wOf s0) (.rdsr fCyc) fCyc ∧ Whole (wOf s0) (allScalar fCyc) ∧
    Issues sQ (wOf sQ) (.rdsr fFlags) fFlags ∧ fFlags.im = 0x0F ∧ (wOf sQ).queue ≠ [] :=
  ⟨⟨_, rfl⟩, issues_of (by decide), fun _ => .inl (by decide), issues_of (by decide), by decide, by decide⟩
theorem wit_SpecialWrites : Issues s0 (wOf s0) (.wrsr (fl 7 1 0xF0 5 0xF0 0xF0 0 0x0F)) (fl 7 1 0xF0 5 0xF0 0xF0 0 0x0F) ∧ (wOf s0).queue = [] ∧
    Issues s0 (wOf s0) (.wrsr (fl 7 3 0xF0 6 0xF0 0xF0 0 0x10)) (fl 7 3 0xF0 6 0xF0 0xF0 0 0x10) :=
  ⟨issues_of (by decide), by decide, issues_of (by decide)⟩
theorem wit_PredicateMoves : Issues s0 (wOf s0) (.pmovSet (fl 7 1 0xF0 2 0xF0 0xF0 0 0x7F)) (fl 7 1 0xF0 2 0xF0 0xF0 0 0x7F) := issues_of (by decide)

def fBra (disp : Nat) : Fields := fl 7 0 0xF0 0xF0 0xF0 0xF0 0 disp
def fBrx : Fields := fl 7 0 0xF0 2 0xF0 0xF0 0 0
theorem wit_Transfers : (∃ link emu target, transferRule (.bra (fBra 0)) = some (fBra 0, link, emu, target) ∧
      transferTrap (counted s0 (wOf s0)) (wOf s0) ((issueOf (wOf s0) (fBra 0)).lanes.map fun l => (l, target (issueOf (wOf s0) (fBra 0)) l)) = none) ∧
    Issues s0 (wOf s0) (.bra (fBra 0)) (fBra 0) := ⟨⟨_, _, _, rfl, by decide +kernel⟩, issues_of (by decide +kernel)⟩
/-- Slot 1 of the line is no target; the offset 0x28 is no slot (02 R21, R23). -/
theorem wit_TransferTraps : (∃ link emu target, transferRule (.bra (fBra 2)) = some (fBra 2, link, emu, target) ∧
      (transferTrap (counted s0 (wOf s0)) (wOf s0) ((issueOf (wOf s0) (fBra 2)).lanes.map fun l => (l, target (issueOf (wOf s0) (fBra 2)) l))).map (·.cause) = some 0x00F) ∧
    Issues s0 (wOf s0) (.bra (fBra 2)) (fBra 2) ∧
    (transferTrap (counted s0 (wOf s0)) (wOf s0) [(0, 0x1028)]).map (·.cause) = some 0x011 ∧ Issues s0 (wOf s0) (.brx fBrx) fBrx ∧
    (transferTrap (sAt [] 1 1) (wOf (sAt [] 1 1)) [(0, 0x1004)]).map (·.cause) = some 0x010 :=
  ⟨⟨_, _, _, rfl, by decide +kernel⟩, issues_of (by decide +kernel), by decide +kernel, issues_of (by decide +kernel), by decide +kernel⟩
def fBrs (cond : Nat) : Fields := fl 7 1 0xF0 0x81 0xF0 0xF0 cond 0
theorem wit_ScalarBranches : Issues s0 (wOf s0) (.brs (fBrs 0)) (fBrs 0) ∧ Whole (wOf s0) true ∧
    readReg (wOf s0) 0x81 0 false 0 = readReg (wOf s0) 0xF0 0 false 0 ∧ Issues s0 (wOf s0) (.brs (fBrs 1)) (fBrs 1) ∧
    transferTrap (counted s0 (wOf s0)) (wOf s0) ((issueOf (wOf s0) (fBrs 0)).lanes.map fun l =>
      (l, lineOf (issueOf (wOf s0) (fBrs 0)).pc + ((fBrs 0).imm.signExtend 64) * 4)) = none :=
  ⟨issues_of (by decide +kernel), fun _ => .inl (by decide +kernel), by decide +kernel, issues_of (by decide +kernel), by decide +kernel⟩
def f0 : Fields := fl 7 0 0xF0 0xF0 0xF0 0xF0 0 0
theorem wit_Parks : Issues s0 (wOf s0) (.wsync f0) f0 ∧ Issues s0 (wOf s0) (.xswap f0) f0 := ⟨issues_of (by decide +kernel), issues_of (by decide +kernel)⟩

def rOf (s : State) : Region := s.regions.headD default
/-- The kernel has an emulation table of one entry, at 0x10C0, that names the first slot of its image. -/
def sEmu : State := { s0 with regions := s0.regions.map fun r => { r with hdr := r.hdr ||| 0x80, emuOff := 0x100, emuCnt := 1 } }
theorem wit_EmulationCalls : Issues s0 (wOf s0) (.emu f0) f0 ∧ s0.regionOf? (wOf s0).ctx (wOf s0).region = some (rOf s0) ∧ (rOf s0).emu = false ∧
    Issues sEmu (wOf sEmu) (.emu f0) f0 ∧ sEmu.regionOf? (wOf sEmu).ctx (wOf sEmu).region = some (rOf sEmu) ∧ (rOf sEmu).emu = true ∧
    f0.aux < (rOf sEmu).emuCnt ∧ emuTarget (counted sEmu (wOf sEmu)) (wOf sEmu) (rOf sEmu) f0.aux = some 0x1000 ∧
    transferTrap (counted sEmu (wOf sEmu)) (wOf sEmu) ((issueOf (wOf sEmu) f0).lanes.map fun l => (l, 0x1000)) = none :=
  ⟨issues_of (by decide +kernel), by decide +kernel, by decide +kernel, issues_of (by decide +kernel), by decide +kernel, by decide +kernel, by decide +kernel, by decide +kernel, by decide +kernel⟩
def fTrap : Fields := fl 7 0 0xF0 0xF1 0xF0 0xF0 15 0xFFFF_FFFF
theorem wit_SoftwareTraps : Issues s0 (wOf s0) (.trap fTrap) fTrap ∧ Issues s0 (wOf s0) (.brk (fl 7 0 0xF0 0xF0 0xF0 0xF0 0xFFFF 0)) (fl 7 0 0xF0 0xF0 0xF0 0xF0 0xFFFF 0) ∧
    groupsOf (wOf s0) (allScalar fTrap) = [List.range 16] ∧ guarded (wOf s0) 7 (List.range 16) ≠ [] ∧ Fresh (wOf s0) :=
  ⟨issues_of (by decide +kernel), issues_of (by decide +kernel), by decide +kernel, by decide +kernel, by unfold Fresh; decide +kernel⟩
def fFence (k : Nat) : Fields := fl 7 k 0xF0 0xF0 0xF0 0xF0 4 0
/-- A load of lane 0 is pending. -/
def ld0 : Load := { id := 1, dst := 2, size := 4, acq := false, scope := 0, pc := 0x0FC0, lanes := [{ lane := 0, loc := 0x5000, va := 0x5000, space := 0, got := [none, none, none, none] }] }
def sLoad : State := withW { asked s0 [0x5000] with order := { s0.order with next := 2 } } fun w => { w with ld := 1, loads := [ld0] }
theorem wit_Fences : (∀ k ∈ [0, 1, 2], Issues s0 (wOf s0) (.fence (fFence k)) (fFence k)) ∧ Issues sLoad (wOf sLoad) (.fence (fFence 1)) (fFence 1) ∧
    (wOf sLoad).busyLanes (issueOf (wOf sLoad) (fFence 1)).lanes = true ∧ (wOf s0).busyLanes (issueOf (wOf s0) (fFence 0)).lanes = false := by
  refine ⟨fun k hk => ?_, issues_of (by decide +kernel), by decide +kernel, by decide +kernel⟩
  simp only [List.mem_cons, List.not_mem_nil, or_false] at hk
  obtain rfl | rfl | rfl := hk <;> exact issues_of (by decide +kernel)
theorem wit_Markers : s0.warp? (wOf s0).key = some (wOf s0) ∧ (∀ l ∈ [0, 15], l < (wOf s0).threads.length) := by decide +kernel
/-- Write 7 is in another warp's FIFO, and the threads know it. -/
def ent0 : FifoEnt := { wid := 7, op := 0, kind := .store, lane := 0, cells := [(0x5000, 0xAB)], va := 0x5000, release := false, scope := 0, covered := [], pc := 0x0FC0, space := 0 }
def sFifo : State := withW { s0 with order := { s0.order with next := 8 } } fun w => { w with st := 1, nextOp := 1, fifo := [ent0] }
def sCov : State := withT sFifo fun t => { t with covered := [7] }
theorem wit_TriggersAndExits : Issues s0 (wOf s0) (.trig f0) f0 ∧ Issues s0 (wOf s0) (.ifence f0) f0 ∧ Issues sCov (wOf sCov) (.ifence f0) f0 ∧
    atHome (counted sCov (wOf sCov)) 7 = false ∧ 7 ∈ ((wOf sCov).thread 0).covered ∧ (∀ l ∈ (issueOf (wOf s0) f0).lanes, ((wOf s0).thread l).covered = []) ∧
    Issues s0 (wOf s0) (.exit f0) f0 ∧ ∀ l ∈ (issueOf (wOf s0) f0).lanes, ((wOf s0).thread l).isTask = false ∧ ((wOf s0).thread l).task.undoMode = false ∧
      l < (wOf s0).width ∧ l < (wOf s0).threads.length :=
  ⟨issues_of (by decide +kernel), issues_of (by decide +kernel), issues_of (by decide +kernel), by decide +kernel, by decide +kernel, by decide +kernel, issues_of (by decide +kernel), by decide +kernel⟩

def fImx : Fields := { fl 7 0 0 0 0 0 0 5 with g := 7 }
def fPol : Fields := fl 7 0 0 0 0 0 0x1420 0
/-- Slot 1 holds an instruction. -/
def sNext (w : Nat) (pair : Nat := 0) : State := sAt [0, w] 1 pair

def sImx : State := sNext 0x2072_0608_F1F0_0000_0000_0001
def sLdN : State := sNext 0x7072_0882_03F0_0002_0000_0040
theorem wit_Prefixes : Issues sImx (wOf sImx) (.imx fImx) fImx ∧
    peekSlot (counted sImx (wOf sImx)) (wOf sImx) (nextPc (issueOf (wOf sImx) fImx).pc) = some (.instr (.add (fl 7 2 6 8 0xF1 0xF0 0 1))) ∧
    imxTarget (.add (fl 7 2 6 8 0xF1 0xF0 0 1)) = true ∧ Issues sLdN (wOf sLdN) (.pol fPol) fPol ∧
    peekSlot (counted sLdN (wOf sLdN)) (wOf sLdN) (nextPc (issueOf (wOf sLdN) fPol).pc) = some (.instr (.ld (fl 7 2 8 0x82 3 0xF0 2 0x40))) ∧
    polTarget (.ld (fl 7 2 8 0x82 3 0xF0 2 0x40)) = true :=
  ⟨issues_of (by decide +kernel), of_instrOf (by decide +kernel), by decide +kernel, issues_of (by decide +kernel), of_instrOf (by decide +kernel), by decide +kernel⟩
def sPair : State := sNext 0x4384_0A18_0200_0389_142C_0000 2
def sImx2 : State := sNext 0xF070_0000_0000_0000_0000_0007
def sPol2 : State := sNext 0xF170_0000_0000_0420_0000_0000
theorem wit_PrefixMisuse : (Issues sPair (wOf sPair) (.imx fImx) fImx ∧ Issues sPair (wOf sPair) (.pol fPol) fPol ∧
      peekSlot (counted sPair (wOf sPair)) (wOf sPair) 0x1008 = some (.instr (.shortPair (so 0x10 4 5 6 0 2) (so 0 9 10 11 0 0)))) ∧
    (Issues sImx2 (wOf sImx2) (.imx fImx) fImx ∧ Issues sImx2 (wOf sImx2) (.pol fPol) fPol ∧
      peekSlot (counted sImx2 (wOf sImx2)) (wOf sImx2) 0x1008 = some (.instr (.imx (fl 7 0 0 0 0 0 0 7)))) ∧
    (Issues sPol2 (wOf sPol2) (.imx fImx) fImx ∧ Issues sPol2 (wOf sPol2) (.pol fPol) fPol ∧
      peekSlot (counted sPol2 (wOf sPol2)) (wOf sPol2) 0x1008 = some (.instr (.pol (fl 7 0 0 0 0 0 0x0420 0)))) ∧
    (peekSlot (counted sLdN (wOf sLdN)) (wOf sLdN) 0x1008 = some (.instr (.ld (fl 7 2 8 0x82 3 0xF0 2 0x40))) ∧ imxTarget (.ld (fl 7 2 8 0x82 3 0xF0 2 0x40)) = false ∧
      Issues sLdN (wOf sLdN) (.imx fImx) fImx) ∧
    (peekSlot (counted sImx (wOf sImx)) (wOf sImx) 0x1008 = some (.instr (.add (fl 7 2 6 8 0xF1 0xF0 0 1))) ∧ polTarget (.add (fl 7 2 6 8 0xF1 0xF0 0 1)) = false ∧
      Issues sImx (wOf sImx) (.pol fPol) fPol) ∧ nextPc (issueOf (wOf sImx) fPol).pc = 0x1008 := by
  refine ⟨⟨?_, ?_, ?_⟩, ⟨?_, ?_, ?_⟩, ⟨?_, ?_, ?_⟩, ⟨?_, ?_, ?_⟩, ⟨?_, ?_, ?_⟩, ?_⟩ <;>
    first | exact issues_of (by decide +kernel) | exact of_instrOf (by decide +kernel) | decide +kernel
/-- The imx that warp 0 has issued finds another in its slot. -/
def sLate : State := withW (sAt [0xF070_0000_0000_0000_0000_0007]) fun w => { w with pfx := some { isImx := true, hi := 0, pol := 0, scope := 0, ord := 0, pc := 0x0FE0 } }
theorem wit_PrefixMisuse_late : (match fetchLine sLate (wOf sLate) 0x1000 (wOf sLate).bundle with
    | .line _ l => (wOf sLate).entryCause l 0x1000 == none && prefixCause true (slotAt l 0x1000) == some 0x00D
    | .trap _ => false) = true := by decide +kernel
def pP : ShortOp := so 0x10 4 5 6 0 2
def pQ : ShortOp := so 0 9 10 11 0 0
def pC : ShortOp := so 0x18 4 5 0 0 0
theorem wit_ShortPairs : s0.warp? s0.cur = some (wOf s0) ∧ (wOf s0).bundle ≠ [] ∧ checkPair pP pQ (s0.vregsOf (wOf s0)) = none ∧
    stalled s0 (wOf s0) (.shortPair pP pQ) = false ∧ sopLanes (wOf s0) pP (wOf s0).bundle ≠ [] ∧
    fpTrap (wOf s0) (sopLanes (wOf s0) pP (wOf s0).bundle) false (flagsOf (sopLanes (wOf s0) pP (wOf s0).bundle) false (sopOuts (wOf s0) pP (sopLanes (wOf s0) pP (wOf s0).bundle))) = none ∧
    fpTrap (wOf s0) (sopLanes (wOf s0) pQ (wOf s0).bundle) false (flagsOf (sopLanes (wOf s0) pQ (wOf s0).bundle) false (sopOuts (wOf s0) pQ (sopLanes (wOf s0) pQ (wOf s0).bundle))) = none ∧
    sopClassX pP.sop.toNat = false ∧ sopClassX pQ.sop.toNat = false ∧
    checkPair pC pQ (s0.vregsOf (wOf s0)) = none ∧ sopClassX pC.sop.toNat = true ∧
    canTrap (wOf s0) (sopLanes (wOf s0) pC (wOf s0).bundle) (sopRaises pC.sop.toNat) = false ∧ stalled s0 (wOf s0) (.shortPair pC pQ) = false := by decide +kernel
theorem wit_ShortPairTraps : checkPair pP pQ (sTrap.vregsOf (wOf sTrap)) = none ∧ sTrap.warp? sTrap.cur = some (wOf sTrap) ∧
    stalled sTrap (wOf sTrap) (.shortPair pP pQ) = false ∧
    (fpTrap (wOf sTrap) (sopLanes (wOf sTrap) pP (wOf sTrap).bundle) false (flagsOf (sopLanes (wOf sTrap) pP (wOf sTrap).bundle) false
      (sopOuts (wOf sTrap) pP (sopLanes (wOf sTrap) pP (wOf sTrap).bundle)))).isSome = true ∧
    checkPair pQ pP (sTrap.vregsOf (wOf sTrap)) = none ∧ stalled sTrap (wOf sTrap) (.shortPair pQ pP) = false := by decide +kernel

def fLd : Fields := fl 7 2 8 0x82 0xF0 0xF0 0 0x40
def fSt (ty ord : Nat) : Fields := fl 7 ty 0xF0 0x82 0xF0 8 (if ord = 0 then 0 else 0x0400 + 16 * ord) 0x40
/-- A `pol` prefix that asks for both orders waits for its target. -/
def sPfx : State := withW s0 fun w => { w with pfx := some { isImx := false, hi := 0, pol := 0, scope := 4, ord := 4, pc := 0x0FC0 } }
/-- Every lane's address is 0x42, which is not aligned to 4 bytes. -/
def sOdd : State := withW s0 fun w => { w with s := listAt w.s 2 fun _ => 2 }
def sCow : State := (smallPage 0x8F3).setFrt 0 1
theorem wit_AccessStops : (∃ r, accessRule (.ld fLd) = some (fLd, r)) ∧ Issues sPfx (wOf sPfx) (.ld fLd) fLd ∧ Whole (wOf sPfx) (allScalar fLd) ∧
    modsBad (issueOf (wOf sPfx) fLd) [0, 1, 2] = true ∧
    Issues sOdd (wOf sOdd) (.ld fLd) fLd ∧ modsBad (issueOf (wOf sOdd) fLd) [0, 1, 2] = false ∧ (worstChk (checksAt sOdd (wOf sOdd) fLd false 0 0 4)).map (·.1) = some 7 ∧
    (∃ r, accessRule (.st (fSt 2 0)) = some (fSt 2 0, r)) ∧ Issues sCow (wOf sCow) (.st (fSt 2 0)) (fSt 2 0) ∧
    worstChk (checksAt sCow (wOf sCow) (fSt 2 0) false 1 0 4) = none ∧ (checksAt sCow (wOf sCow) (fSt 2 0) false 1 0 4).any (·.cow) = true :=
  ⟨⟨_, rfl⟩, issues_of (by decide +kernel), fun _ => .inl (by decide), by decide, issues_of (by decide +kernel), by decide, by decide +kernel, ⟨_, rfl⟩,
    issues_of (by decide +kernel), by decide +kernel, by decide +kernel⟩
theorem accesses_of {s : State} {i : Instr} {f : Fields} {cs : List LaneChk} {o : List Nat} (h : goes s i f = true) (hw : (wOf s).lw = false)
    (hm : modsBad (issueOf (wOf s) f) o = false) (hc : (cs.all fun c => c.why.isNone && !c.cow) = true) : Accesses s (wOf s) i f cs o := by
  refine ⟨issues_of h, fun _ => .inl hw, hm, fun c hcs => ?_⟩
  have := List.all_eq_true.mp hc c hcs
  simpa using this
theorem wit_Loads : Accesses s0 (wOf s0) (.ld fLd) fLd (checksAt s0 (wOf s0) fLd false 0 0 4) [0, 1, 2] ∧
    Accesses s0 (wOf s0) (.lds fLd) fLd (checksAt s0 (wOf s0) fLd true 0 0 4) [0, 1, 2] :=
  ⟨accesses_of (by decide +kernel) (by decide) (by decide) (by decide +kernel), accesses_of (by decide +kernel) (by decide) (by decide) (by decide +kernel)⟩
theorem wit_FillFrame : s0.mem.wf = true ∧ s0.walk 0 0x5000 = .leaf 1 0x4000 0x873 := by decide +kernel
theorem wit_Stores : Accesses s0 (wOf s0) (.st (fSt 2 0)) (fSt 2 0) (checksAt s0 (wOf s0) (fSt 2 0) false 1 0 4) [0, 1, 3] ∧
    Accesses s0 (wOf s0) (.st (fSt 4 0)) (fSt 4 0) (checksAt s0 (wOf s0) (fSt 4 0) false 1 0 16) [0, 1, 3] ∧
    Accesses s0 (wOf s0) (.st (fSt 3 3)) (fSt 3 3) (checksAt s0 (wOf s0) (fSt 3 3) false 1 0 8) [0, 1, 3] ∧
    Accesses s0 (wOf s0) (.sts (fSt 2 0)) (fSt 2 0) (checksAt s0 (wOf s0) (fSt 2 0) true 1 0 4) [0, 1, 3] :=
  ⟨accesses_of (by decide +kernel) (by decide) (by decide) (by decide +kernel), accesses_of (by decide +kernel) (by decide) (by decide) (by decide +kernel),
    accesses_of (by decide +kernel) (by decide) (by decide) (by decide +kernel), accesses_of (by decide +kernel) (by decide) (by decide) (by decide +kernel)⟩
def fPost (k : Nat) : Fields := fl 7 k 0xF0 0xF1 0xF0 0xF0 0 3
theorem wit_Posts : Issues s0 (wOf s0) (.post (fPost 0)) (fPost 0) ∧ Issues s0 (wOf s0) (.postEnd (fPost 1)) (fPost 1) ∧
    (checkLane s0 (wOf s0) 1 0 (BitVec.ofNat 64 (regionId (wOf s0).region * 256 + 136)) 0 1 8).why = none ∧
    (checkLane s0 (wOf s0) 1 0 (BitVec.ofNat 64 (regionId (wOf s0).region * 256 + 136)) 0 1 8).cow = false :=
  ⟨issues_of (by decide +kernel), issues_of (by decide +kernel), by decide +kernel, by decide +kernel⟩
def fPf : Fields := fl 7 0 0xF0 0x82 0xF0 0xF0 0 0
theorem wit_Prefetches : Issues s0 (wOf s0) (.pf fPf) fPf ∧ Whole (wOf s0) (allScalar fPf) ∧ Issues sPtr (wOf sPtr) (.pf fPf) fPf ∧
    (∀ c ∈ lanesChk sPtr (wOf sPtr) fPf false 0 0 1 ((issueOf (wOf sPtr) fPf).lanesFor (allScalar fPf)), c.why ≠ none ∨ ptrSpace c.addr ≠ 0) :=
  ⟨issues_of (by decide +kernel), fun _ => .inl (by decide), issues_of (by decide +kernel), by decide +kernel⟩
def fCwb (k : Nat) : Fields := fl 7 0 0xF0 0x82 0xF0 0xF0 (0x1000 * k) 0
theorem wit_WriteBackRequests : (∀ k ∈ [0, 1], goes s0 (if k = 0 then .cwb (fCwb 0) else .cwbSync (fCwb 1)) (fCwb k) = true) ∧ Whole (wOf s0) (allScalar (fCwb 0)) ∧
    ∀ k ∈ [0, 1], ∀ c ∈ ((issueOf (wOf s0) (fCwb k)).lanesFor (allScalar (fCwb k))).map (granuleChk s0 (wOf s0) (fCwb k)), c.why = none ∧ c.cow = false :=
  ⟨by decide +kernel, fun _ => .inl (by decide), by decide +kernel⟩
def fAt (sub d pol ord : Nat) : Fields := fl 7 sub d 0x82 0xF0 10 (0x1000 * pol + 0x0400 + 16 * ord) 0x40
theorem wit_AtomicRequests : Accesses s0 (wOf s0) (.atom (fAt 0 9 0 1)) (fAt 0 9 0 1) (checksAt s0 (wOf s0) (fAt 0 9 0 1) false 2 0 4) [1, 2, 3, 4] ∧
    Accesses s0 (wOf s0) (.cas (fAt 0 8 2 4)) (fAt 0 8 2 4) (checksAt s0 (wOf s0) (fAt 0 8 2 4) false 2 0 8) [1, 2, 3, 4] ∧
    Accesses s0 (wOf s0) (.redm (fAt 0 0xF0 0 3)) (fAt 0 0xF0 0 3) (checksAt s0 (wOf s0) (fAt 0 0xF0 0 3) false 2 0 4) [1, 3] ∧
    Accesses s0 (wOf s0) (.fatom (fAt 0 9 4 1)) (fAt 0 9 4 1) (checksAt s0 (wOf s0) (fAt 0 9 4 1) false 2 0 4) [1, 2, 3, 4] ∧
    Accesses s0 (wOf s0) (.fredm (fAt 4 0xF0 4 1)) (fAt 4 0xF0 4 1) (checksAt s0 (wOf s0) (fAt 4 0xF0 4 1) false 2 0 4) [1, 3] ∧
    Accesses s0 (wOf s0) (.amxr (fAt 0 6 4 4)) (fAt 0 6 4 4) (checksAt s0 (wOf s0) (fAt 0 6 4 4) false 2 0 4) [1, 2, 3, 4] := by
  refine ⟨?_, ?_, ?_, ?_, ?_, ?_⟩ <;> exact accesses_of (by decide +kernel) (by decide) (by decide) (by decide +kernel)

theorem wit_Forwards : sLoad.warp? (wOf sLoad).key = some (wOf sLoad) ∧ (wOf sLoad).loadLane? 1 0 = some (ld0, ld0.lanes.headD default) ∧
    (ld0.lanes.headD default).done = false ∧ (ld0.lanes.headD default).why = none ∧ (wOf sLoad).loadReady ld0 (ld0.lanes.headD default) = true ∧
    (ld0.lanes.headD default).got.length = ld0.size ∧ ld0.acq = false ∧ openRelease sLoad { wOf sLoad with fifo := [ent0] } ent0 = false := by decide +kernel
theorem wit_Reads : (wOf sLoad).loadLane? 1 0 = some (ld0, ld0.lanes.headD default) ∧ readEnabled sLoad (wOf sLoad) ld0 (ld0.lanes.headD default) = true ∧
    (∀ o ∈ ld0.lanes, o.why = none ∧ o.space = 0 ∧ o.done = false) ∧ (∀ k, k < 4 → sLoad.damaged (sLoad.homeLoc (0x5000 + k)) = false ∧
      sLoad.softWords.contains (sLoad.homeLoc (0x5000 + k) / 4) = false) := by decide +kernel
theorem wit_Drains : sFifo.warp? (wOf sFifo).key = some (wOf sFifo) ∧ (wOf sFifo).fifo = [ent0] ∧ ent0.kind = .store ∧ mayLeave sFifo (wOf sFifo) ent0 = true ∧
    (wOf sFifo).blocked.contains ent0.op = false ∧ (homeStatus sFifo (wOf sFifo) ent0 (opLocs sFifo (wOf sFifo) ent0.op) false matches .accepted) = true ∧
    sFifo.needsFill (sFifo.blockOf (wOf sFifo).ctx (ptrOff ent0.va) (((ent0.cells.map fun c => (sFifo.homeLoc c.1, c.2)).headD (0, 0)).1)) = false ∧
    (∃ c ∈ ent0.cells, isGlobal (sFifo.homeLoc c.1) = true) := by decide +kernel
/-- The head of the FIFO goes through a window, to device 3 behind port 5. -/
def ent8 : FifoEnt := { ent0 with cells := [(locRemote 3 0 0x5000, 0xAB)], va := 0x8000_0000_0000_5000, space := 8 }
def sFab : State := withW { sFifo with links := { sFifo.links with fports := [(5, { up := true })], routes := [(3, [5])] } } fun w => { w with fifo := [ent8] }
theorem wit_Drains_windows : sFab.warp? (wOf sFab).key = some (wOf sFab) ∧ (wOf sFab).fifo = [ent8] ∧ mayLeave sFab (wOf sFab) ent8 = true ∧
    (wOf sFab).blocked.contains ent8.op = false ∧ (homeStatus sFab (wOf sFab) ent8 (opLocs sFab (wOf sFab) ent8.op) false matches .accepted) = true := by decide +kernel
/-- A load older than the head of the FIFO is pending. -/
def sOlder : State := withW sFifo fun w => { w with ld := 1, loads := [ld0] }
/-- The head of the FIFO releases a write that is in the view of core 0 only. -/
def sGate : State := withW { sFifo with order := { sFifo.order with flight := [{ wid := 3, cells := [(0x6000, 0, 1)], views := [0] }] } } fun w =>
  { w with fifo := [{ ent0 with release := true, scope := 4, covered := [3] }] }
theorem wit_DrainWaits : (∃ ld ∈ (wOf sOlder).loads, ld.id < ent0.wid ∧ ∃ l ∈ ld.lanes, l.lane = ent0.lane ∧ l.done = false) ∧
    (∃ e ∈ (wOf sGate).fifo, e.release = true ∧ ∃ wid ∈ e.covered, ∃ v ∈ scopeViews e.scope (wOf sGate).core, reachedViews sGate wid [v] = false) := by decide +kernel
theorem wit_Propagates : (sGate.order.flight.map (·.wid)).Nodup ∧ (∃ w ∈ sGate.order.flight, w.wid = 3 ∧ ∃ v, v < 326 ∧ v ∉ w.views ∧ v ≠ 1) :=
  ⟨by decide, _, List.mem_singleton.mpr rfl, rfl, 2, by decide⟩
def entA : FifoEnt := { ent0 with kind := .atomic 0 0x800 5 0 true 9 false, cells := cellsAt 0x5000 (List.replicate 4 0), scope := 4 }
def sAtom : State := withW (asked sFifo [0x5000]) fun w => { w with fifo := [entA] }
/-- Two lanes of `red.add` that name one word of the scratchpad. -/
def entR (k : Nat) : FifoEnt := { ent0 with wid := 7 + k, lane := k, kind := .atomic 0 0x820 5 0 false 0xF0 false, cells := cellsAt (locChip 1 0 0x100) (List.replicate 4 0), va := 0x1000_0000_0000_0100, space := 1, scope := 4 }
def sRed : State := withW sFifo fun w => { w with fifo := [entR 0, entR 1] }
theorem wit_Atomics_runs : runOf (wOf sRed) (entR 0) = [entR 0, entR 1] ∧ (∀ q ∈ runOf (wOf sRed) (entR 0), mayLeave sRed (wOf sRed) q = true) ∧
    ((wOf sRed).fifo.map (·.wid)).Nodup ∧ (wOf sRed).blocked.contains (entR 0).op = false ∧
    (homeStatus sRed (wOf sRed) (entR 0) [] true matches .accepted) = true ∧ sRed.mem.wf = true ∧ sRed.paging.moves = [] := by decide +kernel
theorem wit_Atomics : runOf (wOf sAtom) entA = [entA] ∧ ((wOf sAtom).fifo.map (·.wid)).Nodup ∧ (wOf sAtom).fifo = [entA] ∧ entA.cells = cellsAt 0x5000 (List.replicate (atomBytes 0) 0) ∧ mayLeave sAtom (wOf sAtom) entA = true ∧
    (wOf sAtom).blocked.contains entA.op = false ∧ (homeStatus sAtom (wOf sAtom) entA [] true matches .accepted) = true := by decide +kernel
def sQTrap : State := withW s0 fun w => { w with queue := [{ opQ with trapMask := 1, trapCause := 0x046 }] }
theorem wit_QueueCompletions : takeFirst 0 (wOf sQ).queue = some (opQ, []) ∧ opQ.trapMask = 0 ∧ sQ.warp? (wOf sQ).key = some (wOf sQ) ∧
    takeFirst 0 (wOf sQTrap).queue = some ({ opQ with trapMask := 1, trapCause := 0x046 }, []) := by decide +kernel

def fBar (aux : Nat) : Fields := fl 7 0 0xF0 0x82 0xF0 0xF0 aux 0x100
def fBxa : Fields := fl 7 1 0xF0 0x82 0xF0 0xF0 0x1000 0x100
/-- The place of the object at offset 0x100 of core 0's scratchpad. -/
def locB : Nat := locChip 1 0 0x100
theorem wit_BarrierIssues : (∀ x ∈ [(Instr.binit (fBar 96), fBar 96), (.binit (fBar 0), fBar 0), (.barrive (fBar 1), fBar 1), (.bexpect (fBar 4096), fBar 4096), (.bexpectArrive fBxa, fBxa)],
      goes sPtr x.1 x.2 = true) ∧ objChk (issueOf (wOf sPtr) (fBar 96)) sPtr (fBar 96) = .ok locB ∧
    goes s0 (.binit (fBar 96)) (fBar 96) = true ∧ (objChk (issueOf (wOf s0) (fBar 96)) s0 (fBar 96)).toOption = none :=
  ⟨by decide +kernel, of_toOption (by decide +kernel), by decide +kernel, by decide +kernel⟩
def obj (pend txb phase : Nat) : BarObj := { pend := pend, expect := 16, phase := phase, err := false, txa := false, txb := txb, ovr := 0, owner := 0, mark := 0xB5 }
/-- An object at offset 0x100, and an update of warp 0 that waits for its bank. -/
def sObj (o : BarObj) (op : BarOp) : State :=
  withW (sPtr.setBar locB o) fun w => { w with hold := .barrier (List.range 16), barOps := [{ loc := locB, op := op, lanes := List.range 16 }] }
def atBank (s : State) : Bool :=
  s.warp? (wOf s).key == some (wOf s) && (wOf s).barOps.length == 1 && (wOf s).barOps.all (barOpen s (wOf s)) && s.mem.wf
theorem wit_BarrierUpdates : atBank (sObj (obj 0 0 0) (.init 65535)) = true ∧
    atBank (sObj (obj 16 0 3) (.arrive 16)) = true ∧ (sObj (obj 16 0 3) (.arrive 16)).bar locB = obj 16 0 3 ∧
    atBank (sObj (obj 1 5 3) (.expect 4096 true)) = true ∧ (sObj (obj 1 5 3) (.expect 4096 true)).bar locB = obj 1 5 3 := by decide +kernel
/-- A second warp, whose threads wait on phase 3 of the object. -/
def sWait : State := let s := sObj (obj 16 0 3) (.arrive 16)
  { s with warps := s.warps ++ [{ wOf s with key := 1, hold := .free, barOps := [], bundle := [], threads := (wOf s).threads.map fun t =>
      { t with st := .waiting, wait := .bwait locB 3 100 100 0xC1 } }] }
theorem wit_BarrierUpdates_wakes : atBank sWait = true ∧ ((sWait.warp? 1).map fun y => (y.thread 0).wait) = some (.bwait locB 3 100 100 0xC1) := by decide +kernel
theorem wit_BarrierRefusals : atBank (sObj { obj 16 0 0 with mark := 0 } (.arrive 1)) = true ∧
    ((sObj { obj 16 0 0 with mark := 0 } (.arrive 1)).bar locB).mark ≠ 0xB5 ∧ atBank (sObj (obj 15 0 0) (.arrive 16)) = true ∧
    atBank (sObj (obj 1 (2 ^ 24 - 1) 0) (.expect 1 false)) = true ∧ ((sObj (obj 1 (2 ^ 24 - 1) 0) (.expect 1 false)).bar locB).txb = 2 ^ 24 - 1 := by decide +kernel
/-- An object at offset 0x100, and warp 0 before its instruction. -/
def sAhead (o : BarObj) : State := sPtr.setBar locB o
theorem wit_BarrierCompletions : (∀ x ∈ [(Instr.binit (fBar 96), fBar 96), (.barrive (fBar 1), fBar 1), (.bexpect (fBar 4096), fBar 4096), (.bexpectArrive fBxa, fBxa)],
      goes (sAhead (obj 16 5 3)) x.1 x.2 = true ∧ (objChk (issueOf (wOf (sAhead (obj 16 5 3))) x.2) (sAhead (obj 16 5 3)) x.2).toOption = some locB) ∧
    objReady (wOf (sAhead (obj 16 5 3))) locB = true ∧ (sAhead (obj 16 5 3)).mem.wf = true ∧ (sAhead (obj 16 5 3)).bar locB = obj 16 5 3 ∧
    (∀ l ∈ (wOf (sAhead (obj 16 5 3))).bundle, ((wOf (sAhead (obj 16 5 3))).thread l).st = .ready ∧ l < (wOf (sAhead (obj 16 5 3))).threads.length) ∧
    (wOf (sAhead (obj 16 5 3))).busyLanes (List.range 16) = false ∧ gateOpen (counted (sAhead (obj 16 5 3)) (wOf (sAhead (obj 16 5 3)))) 0 3 ((wOf (sAhead (obj 16 5 3))).coveredBy (List.range 16)) = true := by decide +kernel
def fBw (b c : Nat) : Fields := fl 7 0 0xC1 0x82 b c 0 0x100
/-- s7 holds a timeout of 500 cycles. -/
def sBw (o : BarObj) : State := withW (sPtr.setBar locB o) fun w => { w with s := listAt w.s 7 fun _ => 500 }
theorem wit_BarrierWaits : (∀ ph ∈ [0, 1, 8], goes (sBw (obj 16 0 ph)) (.bwait (fBw 0xF0 0x87)) (fBw 0xF0 0x87) = true ∧ ((sBw (obj 16 0 ph)).bar locB).phase = ph) ∧
    objChk (issueOf (wOf (sBw (obj 16 0 0))) (fBw 0xF0 0x87)) (sBw (obj 16 0 0)) (fBw 0xF0 0x87) = .ok locB ∧ objReady (wOf (sBw (obj 16 0 0))) locB = true ∧
    goes (sBw (obj 16 0 0)) (.bwait (fBw 0xF0 0xF0)) (fBw 0xF0 0xF0) = true ∧ goes (sBw { obj 16 0 0 with mark := 0 }) (.bwait (fBw 0xF0 0x87)) (fBw 0xF0 0x87) = true :=
  ⟨by decide +kernel, of_toOption (by decide +kernel), by decide +kernel, by decide +kernel, by decide +kernel⟩
def sTimed : State := withT s0 fun t => { t with st := .waiting, wait := .bwait locB 0 0 0 0xC1 }
def fBt (k : Nat) : Fields := fl 7 k 0x89 0x82 0xF0 0xF0 0 0x100
theorem wit_BarrierTests : sTimed.warp? (wOf sTimed).key = some (wOf sTimed) ∧ 15 < (wOf sTimed).threads.length ∧ ((wOf sTimed).thread 15).st = .waiting ∧
    ((wOf sTimed).thread 15).wait = .bwait locB 0 0 0 0xC1 ∧ 0 ≤ sTimed.cyclesOf (wOf sTimed).core ∧
    (∀ k ∈ [0, 1, 2], goes (sBw (obj 16 0 0)) (.btest (fBt k)) (fBt k) = true) ∧ (sBw (obj 16 0 0)).mem.wf = true ∧ 0 < ((sBw (obj 16 0 0)).bar locB).pend := by decide +kernel
def fNb (sub n : Nat) : Fields := fl 7 sub 0xF0 0xF0 0xF0 0xF0 3 n
def sNb (c a : Nat) : State := s0.setCore 0 { s0.core 0 with nbars := [(3, { count := c, arrived := a })] }
theorem wit_NamedBarriers : (∀ n ∈ [1, 16, 32, 3072], goes s0 (.nbarSync (fNb 0 n)) (fNb 0 n) = true ∧ goes s0 (.nbarArrive (fNb 1 n)) (fNb 1 n) = true) ∧
    nbarOf s0 (wOf s0) 3 = some (0, 3) ∧ gateOpen (counted s0 (wOf s0)) 0 2 ((wOf s0).coveredBy (List.range 16)) = true ∧
    goes (sNb 32 16) (.nbarSync (fNb 0 32)) (fNb 0 32) = true ∧ (sNb 32 16).nbar 0 3 = { count := 32, arrived := 16 } ∧
    goes (sNb 32 16) (.nbarSync (fNb 0 33)) (fNb 0 33) = true ∧ (∀ l ∈ (wOf s0).bundle, ((wOf s0).thread l).st = .ready ∧ l < (wOf s0).threads.length) := by decide +kernel
def fQi (a aux im : Nat) : Fields := fl 7 0 0xF0 a 0xF0 0xF0 aux im
theorem wit_QueueInits : goes s0 (.qinit (fQi 0x83 5 0x0040_0006)) (fQi 0x83 5 0x0040_0006) = true ∧ queueOf s0 (wOf s0) 5 = some (0, 5, { core := 0, sBase := 0, wBase := 0, xBase := 0, aBase := 0, tBase := 0, nBase := 0, qBase := 0 }) ∧
    goes s0 (.qinit (fQi 0x83 16 6)) (fQi 0x83 16 6) = true ∧ queueOf s0 (wOf s0) 16 = none ∧ goes s0 (.qinit (fQi 0x83 5 9)) (fQi 0x83 5 9) = true ∧
    goes s0 (.qinit (fQi 0x83 5 0x0101_0008)) (fQi 0x83 5 0x0101_0008) = true := by decide +kernel
/-- Queue 5 of core 0, of 64 slots, with these many entries and this allowance. -/
def sQu (n allow : Nat) : State := s0.setCore 0 { s0.core 0 with queues := [(5, { base := 0, logn := 6, valid := true, head := 0, tail := BitVec.ofNat 16 n, allow := allow })] }
def fQp : Fields := fl 7 0 0xF0 4 0xF0 0xF0 5 0
def fQo : Fields := fl 7 0 4 0xF0 0xF0 0xF0 5 0
theorem wit_QueueSteps : goes (sQu 0 64) (.qpush fQp) fQp = true ∧ (sQu 0 64).mem.wf = true ∧ ((sQu 0 64).queue 0 5).valid = true ∧
    gateOpen (counted (sQu 0 64) (wOf (sQu 0 64))) 0 3 [] = true ∧ (sQu 0 64).qwaits = [] ∧ goes (sQu 16 0) (.qpop fQo) fQo = true ∧ ((sQu 16 0).queue 0 5).held = 16 ∧
    (wOf (sQu 0 64)).busyLanes (List.range 16) = false ∧ ((sQu 0 64).queue 0 5).allow = 64 ∧ (queueOf (sQu 0 64) (wOf (sQu 0 64)) 5).isSome = true := by decide +kernel
def fQt : Fields := fl 7 1 0xF0 4 0xC1 0xF0 5 0
theorem wit_QueueWaits : goes (sQu 0 15) (.qpush fQp) fQp = true ∧ ((sQu 0 15).queue 0 5).ready true 16 = false ∧ goes (sQu 15 0) (.qpop fQo) fQo = true ∧
    ((sQu 15 0).queue 0 5).ready false 16 = false ∧ goes (sQu 0 15) (.qpush fQt) fQt = true ∧
    (wOf (sQu 0 15)).busyLanes (List.range 16) = false ∧ gateOpen (counted (sQu 0 15) (wOf (sQu 0 15))) 0 3 [] = true := by decide +kernel
def qw (push : Bool) : QWait := { owner := 0, id := 5, warp := 0, lanes := List.range 16, push := push, vals := if push then List.replicate 16 7 else [], covered := [], dst := 4, pred := some 0xC1, deadline := some 0, span := 0 }
def sQw (push : Bool) : State := withT { sQu (if push then 0 else 16) 64 with qwaits := [qw push] } fun t => { t with st := .waiting, wait := .queue push 0 5 }
theorem wit_QueueReleases : ∀ p ∈ [true, false], qw p ∈ (sQw p).qwaits ∧ (sQw p).warp? 0 = some (wOf (sQw p)) ∧
    (((sQw p).qwaits.filter fun y => y.owner == 0 && y.id == 5).find? fun y => y.push == p) = some (qw p) ∧ ((sQw p).queue 0 5).ready p (qw p).count = true ∧
    ((sQw p).qwaits.find? fun y => y.warp == 0 && y.lanes.contains 15) = some (qw p) ∧ 0 ≤ (sQw p).cyclesOf 0 ∧ (∀ y ∈ (sQw p).qwaits, (sQw p).late y = false) ∧
    (let s := (sQw p).setCluster 0 { (sQw p).cluster 0 with cycles := 1 }
     ((s.qwaits.filter fun y => y.owner == 0 && y.id == 5).find? s.late) = some (qw p)) := by decide +kernel
def sSwap : State := withT (withW s0 fun w => { w with bundle := [] }) fun t => { t with st := .waiting, wait := .xswap }
def bOf (s : State) : Block := s.blocks.headD default
theorem wit_Swaps : sSwap.block? (bOf sSwap).id = some (bOf sSwap) ∧ swapReady sSwap (bOf sSwap).id = true ∧ ((bOf sSwap).allots.map (·.core)).Nodup := by decide +kernel

def aOf (s : State) : Allot := (bOf s).allots.headD default
/-- s6 and s7 hold the words of a tile of 16 rows of 16 binary32 elements in the W buffer. -/
def fTd (k : Nat) : Fields := fl 7 k 0x8A 0x86 0x87 (if k = 1 then 0xC2 else 0xF0) 0 0

def wordsT (w0 w1 : Nat) : State := withW s0 fun w => { w with s := listAt (listAt w.s 6 fun _ => BitVec.ofNat 64 w0) 7 fun _ => BitVec.ofNat 64 w1 }
def sTd : State := wordsT 6 0x0010_0010
/-- The block has one tile entry, and it is in use. -/
def sTdFull : State := (fun (s : State) => { s.setTile 0 0 { inUse := true } with blocks := s.blocks.map fun b => { b with tiles := 1 } }) sTd
theorem wit_TileDefinitions : (∀ k ∈ [0, 1], goes sTd (.tdef (fTd k)) (fTd k) = true ∧ goes sTdFull (.tdef (fTd k)) (fTd k) = true) ∧
    tileHome sTd (wOf sTd) = some (0, bOf sTd, aOf sTd) ∧ descBad 6 0x0010_0010 = false ∧ (sTd.tile 0 0).inUse = false ∧
    tileHome sTdFull (wOf sTdFull) = some (0, bOf sTdFull, aOf sTdFull) ∧ (∀ n, n < 1 → (!(sTdFull.tile 0 (0 + n)).inUse) = false) ∧ descBad 7 0x0010_0010 = true ∧
    goes (wordsT 7 0x0010_0010) (.tdef (fTd 0)) (fTd 0) = true ∧ descBad 6 0xFFFF_FFFF = false ∧ goes (wordsT 6 0xFFFF_FFFF) (.tdef (fTd 0)) (fTd 0) = true := by decide +kernel
/-- Entry 3 of core 0's table holds that tile in a state, with users; s10 holds its handle. -/
def sTile (st : TileState) (users : Nat) (ws : Nat × Nat := (6, 0x0010_0010)) : State :=
  withW (s0.setTile 0 3 { w0 := BitVec.ofNat 64 ws.1, w1 := BitVec.ofNat 64 ws.2, inUse := true, state := st, gen := 1, users := users }) fun w =>
    { w with s := listAt w.s 10 fun _ => 0x103 }
def fTq (k : Nat) : Fields := fl 7 k 0x8B 0x8A 0xF0 0xF0 0 0
def fTr : Fields := fl 7 0 0xF0 0x8A 0xF0 0xF0 0 0
theorem wit_TileQueries : (∀ k ∈ [0, 1], goes (sTile .ready 0) (.tstat (fTq k)) (fTq k) = true) ∧ goes (sTile .ready 1) (.trel fTr) fTr = true ∧
    (sTile .ready 0).current 0 (bOf s0) (aOf s0) 0x103 = some 3 ∧ ((sTile .ready 0).tile 0 3).users = 0 ∧ ((sTile .ready 1).tile 0 3).users = 1 ∧
    goes s0 (.trel fTr) fTr = true ∧ s0.current 0 (bOf s0) (aOf s0) 0 = none := by decide +kernel
def fTl (n off : Nat) : Fields := fl 7 n 20 0x8A 3 0xF0 0 off
def fTs : Fields := fl 7 2 0xF0 0x8A 3 21 0 255
/-- The block stands on an L-core. -/
def sTileL : State := { sTile .ready 0 with blocks := (sTile .ready 0).blocks.map fun b => { b with onL := true } }
theorem wit_TileAccesses : goes (sTile .ready 0) (.tld (fTl 2 255)) (fTl 2 255) = true ∧ goes (sTile .ready 0) (.tstr fTs) fTs = true ∧
    goes (sTile .filling 0) (.tld (fTl 2 0)) (fTl 2 0) = true ∧ goes (sTile .ready 0) (.tld (fTl 2 256)) (fTl 2 256) = true ∧
    goes (sTile .ready 0) (.tld (fTl 3 1)) (fTl 3 1) = true ∧ ((sTile .ready 0).tile 0 3).bytes = 1024 ∧
    goes sTileL (.tld (fTl 2 0)) (fTl 2 0) = true ∧ tileHome sTileL (wOf sTileL) = none := by decide +kernel
def tOp : TileOp := { tile := 3, core := 0, store := true, writes := [], data := [(0x5000, 1)] }
theorem wit_TileCompletions : (withW (sTile .ready 1) fun w => { w with tm := 1, tileOps := [tOp] }).warp? 0 = some (wOf (withW (sTile .ready 1) fun w => { w with tm := 1, tileOps := [tOp] })) ∧
    (wOf (withW (sTile .ready 1) fun w => { w with tm := 1, tileOps := [tOp] })).tileOps = [tOp] := by decide +kernel
def fTab (off : Nat) : Fields := fl 7 0 0xF0 0xF0 0xF0 0xF0 0 off
def sTab : State := (withW s0 fun w => { w with hold := .atab (List.range 16) }).setCore 0 { s0.core 0 with atab := some (0, locChip 1 0 0x200, List.range 16) }
theorem wit_ActivationTables : (∀ o ∈ [0, 8, 62448, 62464], goes s0 (.atab (fTab o)) (fTab o) = true) ∧ s0.block? (wOf s0).block = some (bOf s0) ∧ (s0.core 0).atab = none ∧
    (bOf s0).spad = 62448 + 3088 ∧ (sTab.core 0).atab = some (0, locChip 1 0 0x200, List.range 16) ∧ sTab.warp? (wOf sTab).key = some (wOf sTab) ∧ actBusy sTab 0 1 = false := by decide +kernel

def fK (n off : Nat) : Fields := fl 7 0 0xF0 0x82 0xF0 0xF0 n off
def kick0 (g : Bool) : Kick := { id := 0, warp := 0, block := 0, seed := 0, off := 0x200, n := 1, tag := default, gate := [], gated := g, left := 1 }
theorem wit_Kicks_faults : goes s0 (.kick (fK 1 0x200)) (fK 1 0x200) = true ∧ ptrSpace (effective 0 0x200 0).2 = 0 ∧ goes sPtr (.kick (fK 1 0xFFFF_FFFF)) (fK 1 0xFFFF_FFFF) = true ∧
    (effective 0x1000_0000_0000_0000 (signedOf 32 0xFFFF_FFFF) 0).1 = some 6 ∧ ptrSpace (effective 0x1000_0000_0000_0000 (signedOf 32 0xFFFF_FFFF) 0).2 = 1 ∧
    (let s : State := withW (sPtr.setCore 0 { sPtr.core 0 with kicks := List.replicate 32 { kick0 false with left := 1 } }) fun w => { w with ld := 1, loads := [ld0] }
     goes s (.kick (fK 1 0x200)) (fK 1 0x200) = true ∧ (wOf s).busyLanes (issueOf (wOf s) (fK 1 0x200)).lanes = true ∧ 32 ≤ ((s.core 0).kicks.filter (s.core 0).kickPending).length) := by decide +kernel
theorem wit_Kicks : (∀ p ∈ [(1, 0x200), (256, 0), (2, 0xFFC0), (1, 0x208)], goes sPtr (.kick (fK p.1 p.2)) (fK p.1 p.2) = true) ∧
    tileHome sPtr (wOf sPtr) = some (0, bOf sPtr, aOf sPtr) ∧ effective 0x1000_0000_0000_0000 0x200 0 = (none, 0x1000_0000_0000_0200) ∧
    ptrSpace 0x1000_0000_0000_0200 = 1 ∧ ((sPtr.core 0).kicks.filter (sPtr.core 0).kickPending).length < 32 ∧
    goes sPtr (.kick { fK 0 0x200 with b := 0x83 }) { fK 0 0x200 with b := 0x83 } = true := by decide +kernel
def rec0 : CopyRec := { id := 5, kick := 0, head := 0, place := 1, off := 0x200 }
/-- A copy of 16 binary32 elements from 0x5000 to offset 0x400 of the scratchpad, for the object at 0x100, in the record at 0x200. -/
def recWords : List Nat := [2, 0x5000, 0x1000_0000_0000_0400, 1 + 16 * 2 ^ 32, 0, 0, 0x100, 0]
def sRec (g : Bool) (rs : List CopyRec) (ws : List Nat := recWords) : State :=
  let s := (asked s0 [0x5000]).setCore 0 { s0.core 0 with kicks := [kick0 g], recs := rs, kickCt := 1 }
  { s with mem := memPutAll s.mem (cellsAt (locChip 1 0 0x200) (ws.flatMap fun x => bytesOf 8 x)) }
theorem wit_KickGates : ((sRec false []).core 0).kicks.find? (fun k => !k.gated) = some (kick0 false) ∧ (kick0 false).gate = [] := by decide +kernel
def qOf (s : State) (r : CopyRec) : CopyRec := { r with words := (List.range 8).map fun j => BitVec.ofNat 64 (memNat s.mem (locChip 1 0 (r.off + 8 * j)) 8) }
theorem wit_CopyStarts : nextRec (sRec true [rec0]) 0 = some rec0 ∧ ((sRec true [rec0]).core 0).rec? 5 = some rec0 ∧
    copyHome (sRec true [rec0]) 0 rec0 = some (kick0 true, bOf s0, aOf s0) ∧ (kick0 true).tag.undo = false ∧ (qOf (sRec true [rec0]) rec0).bad 65536 = false ∧
    (tilesAt (sRec true [rec0]) 0 (bOf s0) (aOf s0) (qOf (sRec true [rec0]) rec0) matches .ok) = true ∧
    nextRec (sRec true [{ rec0 with place := 65537 }]) 0 = some { rec0 with place := 65537 } ∧ rec0.passed = false ∧
    (copyHome (sRec true [{ rec0 with place := 65537 }]) 0 { rec0 with place := 65537 }).isSome = true ∧
    nextRec (sRec true [{ rec0 with place := 65537, passed := true }]) 0 = some { rec0 with place := 65537, passed := true } ∧
    nextRec (sRec true [{ rec0 with st := .restored }]) 0 = some { rec0 with st := .restored } ∧
    (qOf (sRec true [rec0] (6 :: recWords.drop 1)) rec0).bad 65536 = true ∧
    (qOf (sRec true [rec0] [0x0103_0080_0000, 0x5000, 0, 1 + 32 * 2 ^ 32, 0, 0, 0x100, 0]) rec0).bad 65536 = false ∧
    (tilesAt (sRec true [rec0]) 0 (bOf s0) (aOf s0) (qOf (sRec true [rec0] [0x0103_0080_0000, 0x5000, 0, 1 + 32 * 2 ^ 32, 0, 0, 0x100, 0]) rec0) matches .bad 0x06C) = true := by decide +kernel

def recR (ps : List Piece) (ws : List Nat := recWords) : CopyRec := { rec0 with st := .running, words := ws.map (BitVec.ofNat 64), pieces := ps, unit := 16 }
def pc0 : Piece := { first := 0, count := 16, bytes := 64 }
def pc1 : Piece := { pc0 with data := some (List.replicate 64 7) }
theorem wit_CopyPieces : (∀ p ∈ [pc0, pc1], let s := sRec true [recR [p]]
      (s.core 0).rec? 5 = some (recR [p]) ∧ (recR [p]).pieces[0]? = some p ∧ copyHome s 0 (recR [p]) = some (kick0 true, bOf s0, aOf s0) ∧
      s.warp? (kick0 true).warp = some (wOf s)) ∧
    (let s := sRec true [recR [pc0]]
     let us := pc0.units.map fun n => (n, sideBytes s (wOf s) 0 (bOf s) (aOf s) (recR [pc0]) false n)
     let cs := us.flatMap fun u => u.2.flatten
     let h := (fillLanes s (wOf s) cs).holdSide 0 cs
     (match readSide s 0 cs with
       | .ok => true
       | _ => false) = true ∧
     (us.mapM fun u => convUnit h 0 (bOf s) (aOf s) (kick0 true) (recR [pc0]) u.1 (u.2.map fun run => run.map fun c => memGet h.mem (h.homeLoc c.loc))).isSome = true) ∧
    (let s := sRec true [recR [pc1]]
     let cs := (pc1.units.flatMap fun n => sideBytes s (wOf s) 0 (bOf s) (aOf s) (recR [pc1]) true n).flatten
     (match writeSide s 0 cs with
       | .ok => true
       | _ => false) = true ∧ ∀ c ∈ cs, ptrSpace c.addr ≠ 0) := by decide +kernel
def pcW (n : Nat) : Piece := { pc0 with first := 16 * n, written := true }
def sArr (ws : List Nat) : State := (sRec true [recR [pcW 0, pcW 1] ws]).setBar locB { obj 1 100 0 with txa := true }
theorem wit_ByteArrivals : ∀ p ∈ [(recWords, false), ((2 + 2 ^ 27) :: recWords.drop 1, true)], let s := sArr p.1
    let r := recR [pcW 0, pcW 1] p.1
    (s.core 0).rec? 5 = some r ∧ copyHome s 0 r = some (kick0 true, bOf s0, aOf s0) ∧ gateOpen s 0 3 (pcW 0).wids = true ∧
    (r.setPiece 0 { pcW 0 with counted := true }).pieces.all (·.counted) = false ∧ r.nocount = p.2 ∧ s.mem.wf = true ∧
    (s.bar locB).txa = true ∧ (pcW 0).bytes ≤ (s.bar locB).txb ∧ 0 < (s.bar locB).pend := by decide +kernel

def fMr : Fields := fl 7 1 0xC1 0xF0 0xF0 0xF0 0 0
/-- The holder of core 0's matrix engine. -/
def sHold (h : Option Nat) : State := s0.setCore 0 { s0.core 0 with meHolder := h }
theorem wit_MatrixReservations : (∀ h ∈ [none, some 0, some 9], let s := sHold h
      tileHome s (wOf s) = some (0, bOf s0, aOf s0) ∧ (s.core 0).meHolder = h ∧ (s.core 0).meRelease = false ∧ (s.core 0).meQueue = [] ∧
      goes s (.mres f0) f0 = true ∧ goes s (.mres fMr) fMr = true ∧ goes s (.mrel f0) f0 = true ∧ goes s (.mfence f0) f0 = true ∧ goes s (.mwait f0) f0 = true) ∧
    (bOf s0).id = 0 := by decide +kernel

/-- Tiles 1 and 2 are one row of 32 elements of one plane in W and X, tile 3 one word in A; their parameters lie at 0x300. -/
def mxTile (s : State) (k w0 w1 : Nat) (n : Nat) : State :=
  s.setTile 0 k { w0 := BitVec.ofNat 64 w0, w1 := BitVec.ofNat 64 w1, inUse := true, state := .ready, gen := 1, users := n }
def mxWords : List Nat := [0x101 * 2 ^ 32 + 0x102 * 2 ^ 48, 0x103, 0, 0, 0, 0, 0, 0]
def sMx (h : Option Nat) (ws : List Nat := mxWords) (n : Nat := 0) : State :=
  let s := mxTile (mxTile (mxTile (sHold h) 1 0 (1 + 32 * 2 ^ 16) n) 2 1 (1 + 32 * 2 ^ 16) n) 3 6 (1 + 1 * 2 ^ 16) n
  let s : State := withW s fun w => { w with s := listAt w.s 2 fun _ => 0x1000_0000_0000_0000 }
  { s with mem := memPutAll s.mem (cellsAt (locChip 1 0 0x300) (ws.flatMap fun x => bytesOf 8 x)) }
def fMg : Fields := fl 7 0 0xF0 0x82 0xF0 0xF0 0 0x300
theorem wit_MatrixOperations : (∀ p ∈ [(none, mxWords), (some 0, mxWords), (some 0, 9 :: mxWords.drop 1), (some 0, mxWords.headD 0 :: 0x101 :: mxWords.drop 2)], let s := sMx p.1 p.2
      goes s (.mgo fMg) fMg = true ∧ tileHome s (wOf s) = some (0, bOf s0, aOf s0) ∧
      effective (BitVec.ofNat 64 (readReg (wOf s) fMg.a 0 true 0)) (signedOf 32 fMg.im) 0 = (none, 0x1000_0000_0000_0300) ∧
      (s.core 0).holds 0 = p.1.isSome ∧ (threadBytes (counted s (wOf s)) (wOf s) (locChip 1 0 0x300) 64).isSome = true ∧
      s.current 0 (bOf s) (aOf s) 0x101 = some 1 ∧ s.current 0 (bOf s) (aOf s) 0x102 = some 2 ∧ s.current 0 (bOf s) (aOf s) 0x103 = some 3) ∧
    (let ws := mxWords.map (BitVec.ofNat 64)
     paramBad ws = false ∧ paramBad ((9 :: mxWords.drop 1).map (BitVec.ofNat 64)) = true ∧
     let s := sMx (some 0)
     shapeBad ws (s.tile 0 1) (s.tile 0 2) (s.tile 0 3) = false ∧ shapeBad ws (s.tile 0 1) (s.tile 0 2) (s.tile 0 1) = true ∧
     (∀ k ∈ [1, 2, 3], (s.tile 0 k).state = .ready) ∧ (s.core 0).meQueue.length < 8) := by decide +kernel
def mop0 : MOp := { warp := 0, block := 0, words := mxWords.map (BitVec.ofNat 64), tag := default }
def sMq (op : MOp) : State :=
  let s : State := withW (sMx (some 0) mxWords 1) fun w => { w with tm := 1, mgos := 1 }
  s.setCore 0 { s.core 0 with meQueue := [op] }
theorem wit_MatrixSteps : (∀ op ∈ [mop0, { mop0 with started := true }, { mop0 with started := true, data := some (cellsAt 0 (List.replicate 20 0)) }, { mop0 with written := true }],
      ((sMq op).core 0).meQueue = [op] ∧ (opTiles (sMq op) 0 op).isSome = true ∧ (sMq op).warp? op.warp = some (wOf (sMq op))) ∧
    mop0.bad = [] ∧ ((sMq mop0).core 0).meRelease = false := by decide +kernel

def fPq : Fields := fl 7 0 4 0x82 0xF0 0xF0 0 0x5000
theorem wit_PageQueries : goes s0 (.pgq fPq) fPq = true ∧ Whole (wOf s0) (isScal fPq.a) := ⟨by decide +kernel, fun _ => .inl (by decide)⟩
/-- A page of the context in T1, whose home is at the CXL memory. -/
def sT1 : State := smallPage (0x877 + 2 ^ 42 / 8192 * 2 ^ 28)
def fPa (ty n : Nat) : Fields := fl 7 ty 0xF0 0x82 0xF0 0xF0 n 0
theorem wit_PageAdvice : (∀ k ∈ [0, 1, 2], goes (smallPage 0x873) (.pgadv (fPa k 1)) (fPa k 1) = true ∧ goes sT1 (.pgadv (fPa k 256)) (fPa k 256) = true) ∧
    ((smallPage 0x873).leafAt 0 0).isSome = true ∧ (((smallPage 0x873).leafAt 0 0).map fun l => leafTier l.e) = some 0 ∧
    ((sT1.leafAt 0 0).map fun l => (leafTier l.e, leafMig l.e)) = some (1, false) ∧ (smallPage 0x873).mem.wf = true := by decide +kernel

def fCt : Fields := fl 7 0 0xF0 0x82 0xF0 0xF0 0 0x5000
/-- The threads are tasks of sequence number 7; a port holds a grant of context 0. -/
def sGr (seq : Nat) : State := withT (s0.setPort 0 { s0.port 0 with grants := [{ seq := BitVec.ofNat 64 seq, obj := 0, kind := 0, ctx := 0, undo := false, arg0 := 0 }] }) fun t =>
  { t with task := { t.task with seq := 7, live := true } }
/-- The state whose core translates the first 128 GiB by its TLB, with these bytes beside the page table. -/
def sTlb (m : Memory) : State := { (asked s0 ((List.range 37).map fun k => 0x5000 + 128 * k)).setCore 0 { s0.core 0 with tlb := [⟨0, 0, 1, 0x873⟩] } with mem := [(0x2000, 1), (0x2003, 0x20), (0x4000, 0x73), (0x4001, 8)] ++ m }
/-- The lanes of a region of n bytes that an instruction reads from its displacement on. -/
def regionOf (w : Warp) (c : State) (f : Fields) (n : Nat) : List LaneChk := regionChks (issueOf w f) c 0 (signedOf 32 f.im) n
/-- What a read of a region needs, by the blocks that hold it. -/
def readable (w : Warp) (c : State) (f : Fields) (n : Nat) (ks : List Blk) : Bool :=
  let cs := regionOf w c f n
  (worstChk cs).isNone && regionReady (issueOf w f) c cs && (cs.all fun x => ptrSpace x.addr == 0) &&
  (cs.find? fun x => ptrSpace x.addr == 0 && c.damaged (c.homeLoc x.loc)).isNone &&
  (cs.all fun x => (tlbFind (c.core w.core).tlb (c.asnOf w.ctx) (ptrOff x.addr)).isSome) &&
  ((union [] ((cs.filter fun x => ptrSpace x.addr == 0).map fun x => ptrOff x.addr / 16 * 16)).all fun va => match c.blockAt w.ctx va with
    | none => true
    | some k => !c.needsFill k) &&
  (cs.all fun x => ks.contains (x.blk c w.ctx)) && !ks.any fun k => !c.room k || (!c.cached k && k.busy c)
theorem read_of {w : Warp} {c : State} {f : Fields} {n : Nat} {ks : List Blk} (h : readable w c f n ks = true) :
    readRegion (issueOf w f) c 0 (signedOf 32 f.im) n = .bytes (c.holdSide w.ctx (regionOf w c f n)) (regionOf w c f n) := by
  simp only [readable, Bool.and_eq_true, Option.isNone_iff_eq_none, Bool.not_eq_true'] at h
  obtain ⟨⟨⟨⟨⟨⟨⟨h1, hy⟩, h0⟩, h3⟩, h4⟩, h5⟩, h6⟩, h7⟩ := h
  have hu : ((regionOf w c f n).find? fun x => ptrSpace x.addr == 8 && c.unreachable x.loc) = none := by
    rw [List.find?_eq_none]
    intro x hx
    have : ptrSpace x.addr = 0 := by simpa using List.all_eq_true.mp h0 x hx
    simp [this]
  have h2 : ((regionOf w c f n).any fun x => ptrSpace x.addr == 0 && (!c.room (x.blk c w.ctx) || (!c.cached (x.blk c w.ctx) && (x.blk c w.ctx).busy c))) = false := by
    rw [List.any_eq_false]
    intro x hx
    have := List.any_eq_false.mp h7 _ (List.contains_iff_mem.mp (List.all_eq_true.mp h6 x hx))
    simp only [Bool.and_eq_true, not_and]
    exact fun _ => this
  have h := readRegion_bytes (i := issueOf w f) h1 hy hu (fun va hva k hk => by
    have := List.all_eq_true.mp h5 va hva
    have hk : c.blockAt w.ctx va = some k := hk
    simp only [hk, Bool.not_eq_true'] at this
    exact this) h2 h3
  have e : fillLanes c (issueOf w f).w (regionOf w c f n) = c := fillLanes_hit fun x hx => List.all_eq_true.mp h4 x hx
  exact h.trans (congrArg (fun t => RegionRead.bytes (State.holdSide t w.ctx (regionOf w c f n)) (regionOf w c f n)) e)
theorem space_of {w : Warp} {c : State} {f : Fields} {n : Nat} {ks : List Blk} (h : readable w c f n ks = true) :
    ∀ x ∈ regionOf w c f n, ptrSpace x.addr = 0 := by
  simp only [readable, Bool.and_eq_true] at h
  obtain ⟨⟨⟨⟨⟨⟨⟨_, _⟩, h0⟩, _⟩, _⟩, _⟩, _⟩, _⟩ := h
  exact fun x hx => by simpa using List.all_eq_true.mp h0 x hx
/-- The blocks in the caches do not change what the core sees. -/
theorem regionBytes_hold (s : State) (ctx core : Nat) (xs cs : List LaneChk) : regionBytes (s.holdSide ctx xs) core cs = regionBytes s core cs := by
  rw [State.holdSide_eq]
  rfl
/-- The blocks from 0x5000 on. -/
def blocks5 (c : State) (n : Nat) : List Blk := (List.range n).map fun k => c.blockOf 0 (0x5000 + 128 * k) (0x5000 + 128 * k)
/-- The state in which the body of an instruction of warp 0 runs. -/
def cOf (s : State) : State := counted s (wOf s)
theorem wit_TableLoads : (∀ s ∈ [sGr 7, sGr 8, s0, sTlb [(0x5000, 1)], sTlb [(0x5000, 1), (0x5060, 4)]], goes s (.ctload fCt) fCt = true ∧
      effective (BitVec.ofNat 64 (readReg (wOf s) fCt.a 0 true 0)) (signedOf 32 fCt.im) 0 = (none, 0x5000)) ∧
    ((sGr 7).holdsGrant 0 7 = true ∧ ((wOf (sGr 7)).thread 0).isTask = true) ∧ (sGr 8).holdsGrant 0 7 = false ∧ (∃ q ∈ (sGr 8).ports, ∃ g ∈ q.2.grants, g.ctx = 0) ∧
    s0.ports = [] ∧ (∀ s ∈ [sGr 7, sGr 8, s0, sTlb []], s.boostRegion (wOf s) = false) ∧
    (let s : State := { s0 with regions := s0.regions.map fun r => { r with hdr := r.hdr ||| 0x20 } }
     let s := withT s fun t => { t with task := { t.task with live := false } }
     goes s (.ctload fCt) fCt = true ∧ s.boostRegion (wOf s) = true ∧ ((wOf s).thread 0).isTask = false) := by decide +kernel
/-- The table images: none, one of one kind that is right, one with a bad word. -/
def imgs : List Memory := [[], [(0x5000, 1)], [(0x5000, 1), (0x5060, 4)]]
/-- The state after the first 64 bytes of the image have been read. -/
def cTab (m : Memory) : State := { cOf (sTlb m) with ports := ((cOf (sTlb m)).hold ((cOf (sTlb m)).blockOf 0 0x5000 0x5000)).ports }
theorem tl_first : ∀ m ∈ imgs, readable (wOf (sTlb m)) (cOf (sTlb m)) fCt 64 (blocks5 (cOf (sTlb m)) 1) = true ∧
    (wOf (sTlb m)).ctx = 0 ∧ ((cOf (sTlb m)).holdSide 0 (regionOf (wOf (sTlb m)) (cOf (sTlb m)) fCt 64)).ports = (cTab m).ports ∧
    (regionBytes (cOf (sTlb m)) 0 (regionOf (wOf (sTlb m)) (cOf (sTlb m)) fCt 64)).1 = BitVec.ofNat 8 (bitOf (!m.isEmpty)) :: List.replicate 63 0 := by decide +kernel
theorem tl_second : ∀ m ∈ imgs.drop 1, readable (wOf (sTlb m)) (cTab m) fCt 160 (blocks5 (cTab m) 2) = true ∧
    (tableBad (regionBytes (cTab m) 0 (regionOf (wOf (sTlb m)) (cTab m) fCt 160)).1 1).isNone = decide (m.length = 1) := by decide +kernel
theorem wit_TableLoads_images : ∀ m ∈ imgs, ∃ s1 cs1, readRegion (issueOf (wOf (sTlb m)) fCt) (cOf (sTlb m)) 0 (signedOf 32 fCt.im) 64 = .bytes s1 cs1 ∧
    natOfBytes ((regionBytes s1 0 cs1).1.take 2) = bitOf (!m.isEmpty) ∧ natOfBytes ((regionBytes s1 0 cs1).1.drop 2) = 0 ∧
    (m ∈ imgs.drop 1 → ∃ s2 cs, readRegion (issueOf (wOf (sTlb m)) fCt) s1 0 (signedOf 32 fCt.im) 160 = .bytes s2 cs ∧
      (tableBad (regionBytes s2 0 cs).1 1).isNone = decide (m.length = 1)) := by
  intro m hm
  obtain ⟨h1, hc, h2, h3⟩ := tl_first m hm
  have hk : ∀ m ∈ imgs, natOfBytes ((BitVec.ofNat 8 (bitOf (!m.isEmpty)) :: List.replicate 63 0).take 2) = bitOf (!m.isEmpty) ∧
      natOfBytes ((BitVec.ofNat 8 (bitOf (!m.isEmpty)) :: List.replicate 63 0).drop 2) = 0 := by decide +kernel
  refine ⟨_, _, read_of h1, ?_, ?_, fun hm2 => ?_⟩
  · rw [regionBytes_hold, h3]
    exact (hk m hm).1
  · rw [regionBytes_hold, h3]
    exact (hk m hm).2
  · obtain ⟨h4, h5⟩ := tl_second m hm2
    rw [hc, State.holdSide_local _ _ _ (space_of h1), h2]
    refine ⟨_, _, read_of h4, ?_⟩
    rw [regionBytes_hold]
    exact h5

def fCb : Fields := fl 7 0 0xF0 0x82 0xF0 0xF0 3 0x5000
/-- A binding record lies at 0x5000: its decode program is `done`, or a word that is no instruction. -/
def sRg (ok : Bool) : State := sTlb [(0x5004, 1), (0x5006, 1), (0x5043, 0xB8), (0x5143, if ok then 0xB8 else 0xC8)]
theorem rg_readable : ∀ b, readable (wOf (sRg b)) (cOf (sRg b)) fCb 576 (blocks5 (cOf (sRg b)) 5) = true := by decide +kernel
theorem rg_places : ∀ b, ((regionOf (wOf (sRg b)) (cOf (sRg b)) fCb 576).map fun c => (cOf (sRg b)).homeLoc c.loc) = (List.range 576).map (0x5000 + ·) := by decide +kernel
theorem rg_bytes : ∀ b, let bs := ((List.range 576).map (0x5000 + ·)).map (viewByte (cOf (sRg b)).order (cOf (sRg b)).mem 0)
    bindBad bs = (if b then none else some 320) ∧ bitsOf (natOfBytes (bs.take 4)) 5 1 = 0 := by decide +kernel
def fCb0 : Fields := fl 7 0 0xF0 0x82 0x83 0xF0 0 0x5000
def sSt1 : State := withW s0 fun w => { w with st := 1 }
theorem wit_CodecBindings : goes s0 (.cbind fCb0) fCb0 = true ∧ readReg (wOf s0) 0x83 0 false 0 = 0 ∧ goes sSt1 (.cbind fCb) fCb = true ∧ (wOf sSt1).st ≠ 0 ∧
    effective (BitVec.ofNat 64 (readReg (wOf s0) fCb.a 0 true 0)) (signedOf 32 fCb.im) 0 = (none, 0x5000) ∧
    ∀ b, goes (sRg b) (.cbind fCb) fCb = true ∧ (wOf (sRg b)).st = 0 ∧ (sRg b).paging.moves = [] := by decide +kernel
theorem regionBytes_fst (s : State) (core : Nat) (cs : List LaneChk) :
    (regionBytes s core cs).1 = (cs.map fun c => s.homeLoc c.loc).map (viewByte s.order s.mem core) := rfl
theorem wit_CodecBindings_reads (b : Bool) : ∃ s1 cs, readRegion (issueOf (wOf (sRg b)) fCb) (cOf (sRg b)) 0 (signedOf 32 fCb.im) 576 = .bytes s1 cs ∧
    bindBad (regionBytes s1 0 cs).1 = (if b then none else some 320) ∧ bitsOf (natOfBytes ((regionBytes s1 0 cs).1.take 4)) 5 1 = 0 := by
  refine ⟨_, _, read_of (rg_readable b), ?_⟩
  rw [regionBytes_hold, regionBytes_fst, rg_places]
  exact rg_bytes b
def bind0 : Binding := { bsize := 0, packed := false, xfault := false, group := 0, ebound := 1, dbound := 1, enc := [0xB8000000], dec := [0xB8000000], table := [], built := false }
def fBd : Fields := fl 7 0 0xF0 0x82 0x83 0xF0 3 0
/-- The context with these bindings; s2 points to 0x5000, s3 holds a length. -/
def sBd (binds : List (Nat × Binding)) (n : Nat) : State :=
  withW (s0.setContext 0 { s0.context 0 with binds := binds }) fun w => { w with s := listAt (listAt w.s 2 fun _ => 0x5000) 3 fun _ => BitVec.ofNat 64 n }
theorem wit_CodecBuilds : goes (sBd [] 0) (.cbuild fBd) fBd = true ∧ goes (sBd [] 16) (.cbuild fBd) fBd = true ∧ (sBd [] 16).binding? 0 3 = none ∧
    goes (sBd [(3, bind0)] 16) (.cbuild fBd) fBd = true ∧ (sBd [(3, bind0)] 16).binding? 0 3 ≠ none ∧
    readReg (wOf (sBd [] 0)) fBd.b 0 true 0 = 0 ∧ readReg (wOf (sBd [(3, bind0)] 16)) fBd.b 0 true 0 = 16 ∧
    (let s := sBd [(3, bind0)] 16
     (match readRegion (issueOf (wOf s) fBd) (counted s (wOf s)) 0x5000 0 16 with
       | .bytes t _ => t.binding? 0 3 == some bind0
       | .stop _ => false) = true) := by decide +kernel

def leaf2 : Nat := 0x873 + 0x40000 / 8192 * 2 ^ 28
theorem wit_PageChanges : let s := smallPage 0x873
    (leafV leaf2 = true ∧ leafLeaf leaf2 = true ∧ malformed 3 leaf2 = false ∧ leafCow leaf2 = false ∧
      (entrySlot 0x20000 3 (leafLoc 3 leaf2 0) (2 ^ pageBits 3) 4 (s.context 0).root 0 s).map (·.1) = some 0x8008 ∧ leafV (memNat s.mem 0x8008 8) = false ∧
      (let l : LeafAt := ⟨0x20000, 3, 0x8008, leaf2⟩
       (∀ i, i < l.frames → s.frt (l.base + 131072 * i) < 0xFFFE) ∧ s.mapRefused 0 0x8008 l = false ∧ 0xFFFE ≤ (s.setFrt 0x40000 0xFFFE).frt l.base) ∧
      s.mapRefused 0 0x8008 ⟨0x20000, 3, 0x8008, 0x873⟩ = true) ∧
    ((entrySlot 0 3 (leafLoc 3 0x1873 0) (2 ^ pageBits 3) 4 (s.context 0).root 0 s).map (·.1) = some 0x8000 ∧ memNat s.mem 0x8000 8 = 0x873 ∧ leafV 0x873 = true ∧
      malformed 3 0x873 = false ∧ leafLoc 3 0x873 0 = leafLoc 3 0x1873 0 ∧ leafBind 0x873 ≠ leafBind 0x1873 ∧ malformed 3 0x1873 = false) ∧
    s.walk 0 0 = .leaf 3 0x8000 0x873 ∧ s.leafWaits ⟨0, 3, 0x8000, 0x873⟩ = false ∧ s.heldIn ⟨0, 3, 0x8000, 0x873⟩ = false ∧
    (s.setFrt 0 1).frt 0 = 1 ∧ (s.setFrt 0 2).frt 0 = 2 ∧
    (smallPage (0x873 + 2 ^ 26)).walk 0 0 = .leaf 3 0x8000 (0x873 + 2 ^ 26) ∧ (smallPage (0x873 + 2 ^ 26)).leafWaits ⟨0, 3, 0x8000, 0x873 + 2 ^ 26⟩ = true := by decide +kernel
def inv0 : Inval := { ctx := 0, page := 0, level := 3, frees := none }
def invF : Inval := { inv0 with frees := some 0x40000, size := 131072 }
def withInv (s : State) (v : Inval) (r : List Inval) : State := { s with paging := { s.paging with invals := v :: r } }
theorem wit_Invalidations : (withInv s0 inv0 []).paging.invals[0]? = some inv0 ∧ (withInv s0 inv0 []).usesPage 0 0 3 = false ∧
    (withInv sFifo inv0 []).paging.invals[0]? = some inv0 ∧ (withInv sFifo inv0 []).usesPage 0 0 3 = true ∧
    (∀ r ∈ [[], [{ inv0 with frame := some 0x40000, size := 131072 }]], (withInv s0 invF r).paging.invals[0]? = some invF ∧ (withInv s0 invF r).usesPage 0 0 3 = false ∧
      (withInv s0 invF r).paging.invals.eraseIdx 0 = r ∧
      ({ s0 with paging := { s0.paging with invals := r } } : State).invalHolds 0x40000 131072 = !r.isEmpty) := by decide +kernel
/-- A copy-on-write page with two leaves counted in its frame, whose write waits; the break may have read n. -/
def sCow2 (pool : List Nat) (waits : List (Nat × Nat)) (breaks : List Break) (leaf : Nat := 0x8F3) : State :=
  let s := (smallPage leaf).setFrt 0 2
  let s := s.setTenant 0 { s.tenant 0 with autoCow := true, poolFrames := pool }
  { s with paging := { s.paging with cowWaits := waits, breaks := breaks } }
def brk0 (n : Nat) : Break := { ctx := 0, page := 0, e := putBits 0x8F3 8 3 0, n := n }
theorem wit_CowBreaks : leafCow 0x8F3 = true ∧ leafW 0x8F3 = true ∧ leafTier 0x8F3 = 0 ∧
    (∀ p ∈ [([], [], []), ([], [(0, 0)], []), ([], [(0, 0)], [brk0 1]), ([], [(0, 0)], [brk0 2]), ([0x40000], [(0, 0)], [brk0 2])], let s := sCow2 p.1 p.2.1 p.2.2
      s.walk 0 0 = .leaf 3 0x8000 0x8F3 ∧ s.leafWaits ⟨0, 3, 0x8000, 0x8F3⟩ = false ∧ s.paging.cowWaits = p.2.1 ∧
      (s.paging.breaks.find? fun b => b.ctx == 0 && b.page == 0) = p.2.2.head? ∧ (s.tenant 0).poolFrames = p.1 ∧ (s.tenant 0).autoCow = true ∧ s.mem.wf = true) ∧
    0x8000 + 8 ≤ 0x40000 ∧ 0x40000 / 131072 ≠ (⟨0, 3, 0x8000, 0x8F3⟩ : LeafAt).base / 131072 ∧
    (sCow2 [] [] [] (0x8F3 + 2 ^ 26)).walk 0 0 = .leaf 3 0x8000 (0x8F3 + 2 ^ 26) ∧ (sCow2 [] [] [] (0x8F3 + 2 ^ 26)).leafWaits ⟨0, 3, 0x8000, 0x8F3 + 2 ^ 26⟩ = true := by decide +kernel
/-- Tier 0 of the tenant has these limits, and a CXL link is up. -/
def sDem (high low : Nat) (quota : Nat := 9) : State :=
  let s := (smallPage 0x73).setFrt 0 1
  let s := s.setTenant 0 { s.tenant 0 with quotas := [(0, { quota := quota, high := high, low := low })] }
  { s with links := { s.links with cxlUp := [0] } }
theorem wit_AgingSweeps : (sDem 1 0).mem.wf = true ∧ ((sDem 1 0).tenantLeaves 0).map (fun p => (leafTier p.2.e, leafAge p.2.e)) = [(0, 0)] := by decide +kernel
theorem wit_Demotions : (sDem 2 1).demotes 0 0 = (false, false) ∧ (sDem 1 1).demotes 0 0 = (false, true) ∧ (sDem 1 1).tierCount 0 0 = 1 ∧ (let s := sDem 1 0
    kvHas (s.tenant 0).quotas 0 = true ∧ s.demotes 0 0 = (false, true) ∧ (kvGet (s.tenant 0).quotas 0 {}).low < s.tierCount 0 0 ∧
    s.victim 0 0 = some ⟨0, 3, 0x8000, 0x73⟩ ∧ 2 ^ 42 % 2 ^ pageBits 3 = 0 ∧ inTier 1 (2 ^ 42) (2 ^ pageBits 3) = true ∧ s.linkUp (2 ^ 42) = true ∧ s.linkUp 0 = true ∧
    s.isFree (2 ^ 42) (2 ^ pageBits 3) = true ∧ s.quotaRoom 0 1 1 = true ∧ s.engineFull 0 = false ∧ s.mem.wf = true) := by decide +kernel
def mv (o c : List Nat) (undo : Bool := false) (b : List Nat := []) : Move := { src := 0, dst := 2 ^ 42, tier := 1, level := 3, opened := o, committed := c, undo := undo, back := b }
def sMv (up : Bool) (m : Move) : State := { sDem 1 0 with paging := { moves := [m] }, links := { cxlUp := if up then [0] else [] } }
theorem wit_FrameMoves : (∀ p ∈ [(true, mv [] []), (false, mv [] []), (false, mv [1] [1]), (true, mv [0] []), (true, mv (List.range 32) (List.range' 1 31)), (true, mv [0, 1] [0, 1] true),
        (true, mv [0, 1] [0, 1] true [0]), (true, mv [0] [0] true [0]), (false, mv [0] [0] true)], let s := sMv p.1 p.2
      (s.paging.moves.find? fun x => x.src == 0) = some p.2 ∧ 0 < p.2.chunks ∧ s.linkUp p.2.src = true ∧ s.linkUp p.2.dst = p.1 ∧ s.linesIn p.2.src 4096 = [] ∧
      s.linesIn p.2.dst 4096 = [] ∧ s.mem.wf = true ∧ p.2.moved = false) ∧ (List.range' 1 31).length + 1 = (mv [] []).chunks ∧ 0 + 1 ≠ (mv [] []).chunks := by decide +kernel
def rcd (cause : Nat) (acts : Resolves) : Rec := { id := 4, ctx := 0, region := 0x10000, words := [BitVec.ofNat 64 cause, 0, 0, 0, 0, 0, 0, 0], toService := true, acts := acts }
/-- A batch of one page at the memory service; its record stops warp 0. -/
def sBat (page : Nat) : State :=
  let s : State := withW s0 fun w => { w with stopped := [4] }
  { s with recs := [rcd 0xC0 (.replay 0 1)], recCt := 5, paging := { s.paging with batches := [{ id := 3, ctx := 0, pages := [page], recId := some 4 }], batchCt := 4 } }
/-- The tenant's one T0 frame is pinned and fills QUOTA; the page of 0x20000 lies in the memory behind CXL. -/
def sStuck : State :=
  let s := sBat 0x20000
  let s := s.setTenant 0 { s.tenant 0 with quotas := [(0, { quota := 1, high := 1, low := 0 })] }
  { s with mem := memPutAll s.mem (cellsAt 0x4000 (bytesOf 8 (1 + 3 * 2 ^ 28)) ++ cellsAt 0x6000 (bytesOf 8 (1 + 4 * 2 ^ 28)) ++
      cellsAt 0x8000 (bytesOf 8 0x873) ++ cellsAt 0x8008 (bytesOf 8 (0x77 + 2 ^ 42 / 8192 * 2 ^ 28))) }
theorem wit_BatchPromotions : (∀ p ∈ [0, 2 ^ 40], ((sBat p).paging.batches.find? fun x => x.id == 3) = some { id := 3, ctx := 0, pages := [p], recId := some 4 } ∧
      (sBat p).rec? 4 = some (rcd 0xC0 (.replay 0 1))) ∧ ((sBat 0).leafAt 0 0).map (fun l => (leafTier l.e, leafTier ((sBat 0).largest l).e)) = some (0, 0) ∧ (sBat (2 ^ 40)).leafAt 0 (2 ^ 40) = none ∧
    inUndo (wOf (sBat 0)) (lanesOf 1) = false ∧ (sStuck.paging.batches.find? fun x => x.id == 3) = some { id := 3, ctx := 0, pages := [0x20000], recId := some 4 } ∧
    sStuck.rec? 4 = some (rcd 0xC0 (.replay 0 1)) ∧ sStuck.pageState 0 0x20000 = .stuck ∧ inUndo (wOf sStuck) (lanesOf 1) = false := by decide +kernel
def snare (run ended : Bool) (cause : Nat) : Snare := { running := run, ended := ended, cause := cause, mask := 1, addr := 0, pages := [0], lanes := [0] }
def sSn (n : Snare) : State := withW s0 fun w => { w with snare := some n }
theorem wit_SnareModes : (∀ n ∈ [snare false false 0xC0, snare true true 0xC0, snare false false 0xB0], (sSn n).warp? (wOf (sSn n)).key = some (wOf (sSn n)) ∧
      (wOf (sSn n)).snare = some n ∧ (wOf (sSn n)).ld = 0 ∧ (wOf (sSn n)).sb = [] ∧ (wOf (sSn n)).queue = [] ∧ (wOf (sSn n)).stopped = []) ∧
    (snare false false 0xB0).isFetch = true ∧ (snare false false 0xC0).isFetch = false := by decide +kernel

def sPk : State := { s0.setPort 0 { s0.port 0 with packets := [{ tag := 3, burst := 0x140, count := 2 }] } with badWords := [] }
theorem wit_BurstReplies : (∀ x ∈ (sPk.port 0).packets, x.tag ≠ 4) ∧ ((sPk.port 0).packets.find? fun y => y.tag == 3) = some { tag := 3, burst := 0x140, count := 2 } ∧
    (sPk.port 0).waiting = [] := by decide +kernel
/-- A page bound to slot 3, whose block of address 0x5000 has these metadata. -/
def sCf (m : Nat) : State :=
  let s := smallPage (0x873 + 3 * 2 ^ 12)
  asked ((s.setContext 0 { s.context 0 with binds := [(3, bind0)] }).setMeta 0x5000 m) [0x5000]
/-- Sixteen other lines of the block's set; a record of its failed fill; a load that waits for it. -/
def sCfFull : State := (sCf 0).setPort (homePort 0x5000) { lines := (List.range 16).map fun i => { pa := 0x5000 + 2 ^ 21 * (i + 1), bytes := 128, ctx := 0, va := 0, bind := 0 } }
def sCfRec : State := { sCf 3 with recs := [{ id := 4, ctx := 0, region := 0x10000, words := [0xB9, 0, 0, 0, 0, 0, 0x5000, 0], toService := false, acts := .nothing }] }
def sCfLoad : State := withW (sCf 3) fun w => { w with ld := 1, loads := [{ ld0 with lanes := [{ lane := 0, loc := 0x5000, va := 0x5000, space := 0, got := [none, none, none, none] }] }] }
theorem wit_CodecFills : ({ sCf 0 with ports := [] } : State).blockAt 0 0x5000 = (sCf 0).blockAt 0 0x5000 ∧ ((sCf 0).blockAt 0 0x5000).any (fun k => ({ sCf 0 with ports := [] } : State).unread k && !(sCf 0).unread k) = true ∧
    (∀ s ∈ [sCf 0, sCf 3, sCfFull, sCfRec, sCfLoad], (s.blockAt 0 0x5000).any (fun k => s.needsFill k && !k.busy s && s.room k == decide (s ≠ sCfFull) &&
        s.charged k == decide (s = sCfRec)) = true) ∧
    ((sCf 0).blockAt 0 0x5000).any (fun k => ((sCf 0).fillBlock k).toOption.isSome && ((sCf 0).linesIn k.base k.size).isEmpty) = true ∧
    (∀ s ∈ [sCf 3, sCfRec, sCfLoad, { sCf 1 with badWords := [0x5000 / 8] }], (s.blockAt 0 0x5000).any (fun k => s.room k && match s.fillBlock k with
      | .error (r, n, m) => (r == if s.badWords.isEmpty then 0xD else 8) &&
          (waiters ((s.forget k).logError k.base { decoder := true, index := n, imm := m, reason := r, tag := none }).2 k).isEmpty == decide (s ≠ sCfLoad)
      | .ok _ => false) = true) := by decide +kernel
def lineC (dirty : Bool) (held : Option Nat) : Line :=
  { pa := 0x5000, bytes := 128, ctx := 0, va := 0x5000, bind := 0, units := if dirty then [0, 3] else [], held := held }
/-- The line beside eight held lines of its set, or one that is to leave first. -/
def sNine (held : Option Nat) (cls : Nat) : State :=
  (s0.setPort (homePort 0x5000) { lines := (List.range 8).map fun i => { pa := 0x5000 + 2 ^ 21 * (i + 1), bytes := 128, ctx := 0, va := 0, bind := 0, held := held, cls := cls } }).putLine (lineC true none)
theorem wit_CacheLines : (∀ l ∈ [lineC true (some 0xB), lineC false none, lineC true none], let s := s0.putLine l
    s.ctxLoc 0 0x5000 = some 0x5000 ∧ s.lineAt 0x5000 = some l ∧ s.binding? l.ctx l.bind = none ∧ s.dram.wf = true ∧ s.mayEvict l = true ∧ s.ninth l = false ∧ s.besides l = [l] ∧ s.lineHeld l = l.held.isSome) ∧
    (∀ p ∈ [(some 0xB, 0), (none, 1)], let s := sNine p.1 p.2
      s.ctxLoc 0 0x5000 = some 0x5000 ∧ s.lineAt 0x5000 = some (lineC true none) ∧ s.ninth (lineC true none) = p.1.isSome ∧ s.mayEvict (lineC true none) = p.1.isSome) := by decide +kernel
def sSk (k : Stack) (leaf : Nat := 0x873) : State := (smallPage leaf).setStack 0 k
theorem wit_LayerMapouts : (sSk {}).stack 0 = {} ∧ (∀ l ∈ [0x873, 0x73 + 12 * 2 ^ 32 / 8192 * 2 ^ 28], let s := sSk { alert := true, nlayer := 13 } l
      s.stack 0 = { alert := true, nlayer := 13 } ∧ s.rangeEmpty (0 * 2 ^ 36 + (13 - 1) * 2 ^ 32) (2 ^ 32) = (l == 0x873)) ∧
    ((sSk { alert := true, nlayer := 13, mapout := true }).stack 0).mapout = true ∧
    (sSk { alert := true, nlayer := 12 }).stack 0 = { alert := true, nlayer := 12 } := by decide +kernel

def ctab (e : Nat) : CTable := { kinds := [{ inv := 0, argc := 1, valid := true, noundo := true, dpc := 0, lpc := 0 }], entries := [e] }
/-- A boosted kernel with a table of one kind; the threads are tasks as given. -/
def sTk (e : Nat) (g : Task → Task) : State :=
  let s := withT s0 fun t => { t with task := g { t.task with seq := 7, live := true } }
  let s := s.setContext 0 { s.context 0 with ctable := some (ctab e) }
  { s with regions := s.regions.map fun r => { r with hdr := r.hdr ||| 0x20 } }
def fBop (argc : Nat) : Fields := fl 7 0 0xF0 0x82 (if argc = 0 then 0xF0 else 8) 0xF0 (1024 * argc) 0x5000
theorem wit_BoostRequests : (let s := sTk 0 id
      goes s (.bop (fBop 1)) (fBop 1) = true ∧ (∀ l ∈ (issueOf (wOf s) (fBop 1)).lanes, bopCheck s (wOf s) (fBop 1) (s.boostRegion (wOf s)) l = none) ∧
      (∀ l ∈ (issueOf (wOf s) (fBop 1)).lanes, ((wOf s).thread l).task.pendingAbort = false)) ∧
    (let s := sTk 0 fun t => { t with pendingAbort := true }
     goes s (.bop (fBop 1)) (fBop 1) = true ∧ (∀ l ∈ (issueOf (wOf s) (fBop 1)).lanes, bopCheck s (wOf s) (fBop 1) (s.boostRegion (wOf s)) l = none) ∧
     0 ∈ (issueOf (wOf s) (fBop 1)).lanes ∧ ((wOf s).thread 0).task.pendingAbort = true) ∧
    goes s0 (.bop (fBop 1)) (fBop 1) = true ∧ (∀ l ∈ (issueOf (wOf s0) (fBop 1)).lanes, (bopCheck s0 (wOf s0) (fBop 1) (s0.boostRegion (wOf s0)) l).map (·.1) = some 1) := by decide +kernel
def fTsp : Fields := fl 7 0 0xF0 4 0xF0 0xF0 0 0
/-- A task that holds a grant and covers a write which has reached its home only. -/
def sTkG : State :=
  let s := withT (sTk 0 id) fun t => { t with covered := [3] }
  { s.setPort 5 { s.port 5 with grants := [{ seq := 7, obj := 0x5000, kind := 0, ctx := 0, undo := false, arg0 := 5 }] } with
    order := { next := 8, flight := [{ wid := 3, cells := [(0x6000, 0, 1)], views := [0] }] } }
theorem wit_TaskInstructions : (∀ s ∈ [s0, sTk 0 id, sTk 0 fun t => { t with undoMode := true }, sTk 0 fun t => { t with spawns := List.replicate 8 0 }, sTk 0 fun t => { t with undoMode := true, inverse := true }],
      goes s (.tspawn fTsp) fTsp = true ∧ goes s (.tabort f0) f0 = true ∧ goes s (.tcommit f0) f0 = true ∧ goes s (.uret f0) f0 = true) ∧
    s0.boostRegion (wOf s0) = false ∧ (sTk 0 id).boostRegion (wOf (sTk 0 id)) = true ∧ ((wOf (sTk 0 id)).thread 15).isTask = true ∧
    ((wOf (sTk 0 id)).thread 15).task.undoMode = false ∧ ((wOf (sTk 0 id)).thread 15).task.spawns = [] ∧ (sTk 0 id).holdsGrant 0 7 = false ∧
    goes sTkG (.tcommit f0) f0 = true ∧ sTkG.boostRegion (wOf sTkG) = true ∧ ((wOf sTkG).thread 0).isTask = true ∧ sTkG.holdsGrant 0 7 = true ∧
    gateOpen (counted sTkG (wOf sTkG)) 0 4 ((wOf sTkG).thread 0).covered = false ∧
    (issueOf (wOf (sTk 0 id)) f0).lanes.Nodup := by decide +kernel
def req0 : BoostReq := { warp := 0, lane := 0, seq := 7, ctx := 0, obj := 0x5000, kind := 0, args := [5], pc := 0x1000 }
/-- A request of task 7 at the arbiter of 0x5000, beside grants of other tasks of that object. -/
def sBg (e : Nat) (seqs : List Nat) : State :=
  let s := sTk e id
  s.setPort 5 { s.port 5 with breqs := [req0], grants := seqs.map fun n => { seq := BitVec.ofNat 64 n, obj := 0x5000, kind := 0, ctx := 0, undo := false, arg0 := 5 } }
theorem wit_BoostGrants : ∀ p ∈ [[], [6], [8]], let s := sBg 0 p
    (s.port 5).breqs[0]? = some req0 ∧ s.mayJudge 5 0 = true ∧ s.mayJudge 5 1 = false ∧ s.warp? 0 = some (wOf s) ∧ 0 < (wOf s).threads.length ∧
    ((wOf s).thread 0).task.pendingAbort = false ∧ (s.context 0).ctable = some (ctab 0) ∧ (ctab 0).kinds[0]? = some { inv := 0, argc := 1, valid := true, noundo := true, dpc := 0, lpc := 0 } ∧
    (s.context 0).ctBusy = false ∧ (wOf s).stopped = [] ∧ (wOf s).snare = none ∧ (wOf s).suspended = false ∧ ((wOf s).thread 0).task.owed = false ∧
    ((wOf s).thread 0).task.seq = 7 ∧ (∀ g ∈ (s.port 5).grants, ((ctab 0).judge 0 5 g.kind g.arg0).1 = true) ∧ (s.port 5).grants.map (·.seq) = p.map (BitVec.ofNat 64) := by decide +kernel
/-- Two requests of one `bop`: the first judged already, or not. -/
def sTwo (judged : Bool) : State :=
  (sBg 0 []).setPort 5 { breqs := [{ req0 with judged := judged }, { req0 with lane := 1 }], running := if judged then some (0, 0) else none }
theorem wit_BoostGrants_runs : (sTwo true).mayJudge 5 1 = true ∧ (sTwo true).mayJudge 5 0 = false ∧ (sTwo true).inRun 5 = some (0, 0) ∧
    (sTwo false).mayJudge 5 1 = false ∧ (sTwo false).mayJudge 5 0 = true ∧
    (let s := withT (sBg 0 []) fun t => { t with task := { t.task with pendingAbort := true } }
     s.mayJudge 5 0 = true ∧ ((wOf s).thread 0).task.pendingAbort = true) := by decide +kernel
/-- Task 8, whose grant stands against the request, runs in another thread. -/
def sBgY : State := let s := sBg 0 [8]
  { s with warps := s.warps ++ [{ wOf s with key := 1, threads := (wOf s).threads.map fun t => { t with task := { t.task with seq := 8 } } }], warpCt := 2 }
theorem wit_BoostGrants_abort : (sBgY.port 5).breqs[0]? = some req0 ∧ sBgY.mayJudge 5 0 = true ∧ sBgY.warp? 0 = some (wOf sBgY) ∧ (sBgY.warp? 1).any (fun x => x.threads.all (fun u => u.wait != .boost) &&
    (x.thread 0).task.live && (x.thread 0).task.seq == 8 && !(x.thread 0).task.undoMode) = true ∧ (sBgY.warps.map fun (y : Warp) => y.key).Nodup := by decide +kernel
def sTm (wt : Waiting) (g : Task → Task) : State :=
  let s := sTk 0 g
  withT s fun t => { t with st := .waiting, wait := wt }
theorem wit_TaskMoves : (∀ p ∈ [(Waiting.boost, true, []), (.undo, false, []), (.backoff 0, false, []), (.spawns, false, [5, 6])], let s := sTm p.1 fun t => { t with pendingAbort := p.2.1, spawns := p.2.2 }
      let th := (wOf s).thread 3
      s.warp? 0 = some (wOf s) ∧ 3 < (wOf s).threads.length ∧ (wOf s).stopped = [] ∧ (wOf s).snare = none ∧ (wOf s).suspended = false ∧ (wOf s).hold.atEp = none ∧ th.task.unwinding = false ∧ th.st = .waiting ∧ th.wait = p.1 ∧
      th.task.pendingAbort = p.2.1 ∧ s.youngerUndo 0 th.task.seq = false ∧ th.task.depth = 0 ∧ th.task.killed = false ∧ releaseShut (s.setWarp ((wOf s).setThread 3 fun t => { t with task := { t.task with unwinding := true } }))
        ((wOf s).setThread 3 fun t => { t with task := { t.task with unwinding := true } }) 3 = false ∧ th.isTask = true ∧
      th.task.leaving = false ∧ s.holdsGrant 0 7 = false ∧ s.regionOf? 0 (wOf s).region = some (s.regions.headD default) ∧ th.task.spawns = p.2.2) ∧
    (let s := sTm (.backoff 0) id
     0 ≤ s.cyclesOf 0 ∧ transferTrap s (wOf s) [(3, BitVec.ofNat 64 ((s.regions.headD default).entry false))] = none) ∧
    (let s := withT sTkG fun t => { t with wait := .undo }
     ((wOf s).thread 3).st = .ready ∧ ((wOf s).thread 3).wait = .undo ∧ ((wOf s).thread 3).task.depth = 0 ∧ releaseShut s (wOf s) 3 = true) ∧
    (let s := withT (sTm .undo id) fun t => if t.tid = 3 then t else { t with task := { t.task with seq := 8, undoMode := true } }
     ((wOf s).thread 3).wait = .undo ∧ s.youngerUndo 0 ((wOf s).thread 3).task.seq = true) := by decide +kernel

def sParked : State := withT (withW s0 fun w => { w with bundle := [] }) fun t => { t with st := .parked }
def sHeld : State := withW s0 fun w => { w with stopped := [1] }
theorem wit_WarpResorts : s0.warp? 0 = some (wOf s0) ∧ (wOf s0).pfx = none ∧ (wOf s0).hold = .free ∧ (wOf s0).stopped = [] ∧ (wOf s0).snare = none ∧
    sHeld.warp? 0 = some (wOf sHeld) ∧ (wOf sHeld).stopped ≠ [] := by decide +kernel
theorem wit_WsyncReleases : s0.warp? 0 = some (wOf s0) ∧ (∃ l ∈ (wOf s0).live, ((wOf s0).thread l).st ≠ .parked) ∧
    sParked.warp? 0 = some (wOf sParked) ∧ (∀ l ∈ (wOf sParked).live, ((wOf sParked).thread l).st = .parked) ∧ (wOf sParked).live ≠ [] ∧
    (wOf sParked).width ≤ (wOf sParked).threads.length := by decide +kernel
def sDrain : State := withT (withW s0 fun w => { w with draining := true, bundle := [] }) fun t => { t with st := .exited }
def sDrain2 : State := { sDrain with warps := sDrain.warps ++ [{ wOf s0 with key := 1 }] }
theorem wit_WarpFrees : (∀ s ∈ [sDrain, sDrain2], s.warp? 0 = some (wOf s) ∧ (wOf s).draining = true ∧ (wOf s).ld = 0 ∧ (wOf s).st = 0 ∧ (wOf s).cp = 0 ∧ (wOf s).tm = 0 ∧ (wOf s).sb = [] ∧
      (wOf s).fifo = [] ∧ (wOf s).failed = [] ∧ (wOf s).loads = [] ∧ (wOf s).queue = [] ∧ (wOf s).tileOps = [] ∧ (wOf s).barOps = [] ∧ (wOf s).stopped = [] ∧ s.holdsWarp 0 = false) ∧
    (∀ y ∈ sDrain.warps, y.key ≠ 0 → y.block ≠ 0) ∧ (∃ y ∈ sDrain2.warps, y.key ≠ 0 ∧ y.block = 0) ∧ (wOf s0).draining = false := by decide +kernel
def entT : FifoEnt := { ent0 with kind := .trig, cells := cellsAt 0 (List.replicate 16 0), release := true, scope := 4 }
def sTr : State := withW sFifo fun w => { w with fifo := [entT] }
theorem wit_TriggerSteps : sTr.warp? 0 = some (wOf sTr) ∧ (wOf sTr).fifo = [entT] ∧ entT.kind = .trig ∧ mayLeave sTr (wOf sTr) entT = true ∧
    sTr.regionOf? 0 (wOf sTr).region = some (sTr.regions.headD default) ∧ (sTr.block? (wOf sTr).block).any (·.spawned) = false := by decide +kernel

def fEp (sub id : Nat) : Fields := fl 7 sub 0xF0 0xF0 0xF0 0xF0 id 0
/-- The kernel has one migration point, and these images. -/
def sEp (imgs : Nat) (aen : Bool) : State :=
  let s : State := { s0 with regions := s0.regions.map fun r => { r with hdr := (r.hdr &&& 0xFFFFFFFFFFFFFFE7) ||| BitVec.ofNat 64 (2 ^ 40 + 8 * imgs) } }
  s.setCluster 0 { s.cluster 0 with aen := aen, pen := false }
theorem wit_MigrationPoints : (∀ p ∈ [(3, true), (3, false), (1, true), (2, true)], let s := sEp p.1 p.2
      s.regionOf? 0 (wOf s).region = some (s.regions.headD default) ∧ (s.regions.headD default).epcnt = 1 ∧ (s.regions.headD default).hasD = p.1.testBit 0 ∧
      (s.regions.headD default).hasL = p.1.testBit 1 ∧ (∀ k ∈ [0, 1], goes s (.ep (fEp 0 k)) (fEp 0 k) = true ∧ goes s (.migL (fEp 0 k)) (fEp 0 k) = true ∧ goes s (.migD (fEp 1 k)) (fEp 1 k) = true) ∧
      (s.cluster (coreCluster (wOf s).core)).aen = p.2 ∧ (s.cluster 0).pen = false ∧ (wOf s).onL = false) ∧
    (let s := withW ((sEp 3 true).setCluster 0 { (sEp 3 true).cluster 0 with pen := true }) fun w => { w with issues := 300 }
     let passed := (counted s (wOf s)).withWarp 0 fun x => { x with ep := 0, since := 0 }
     goes s (.ep (fEp 0 0)) (fEp 0 0) = true ∧ (issueOf (wOf s) (fEp 0 0)).lanes = (wOf passed).live ∧ passed.warp? 0 = some (wOf passed) ∧ epPolicy passed (wOf passed) = true) := by decide +kernel
def sMg (q : List MigReq) (cyc : Nat) : State :=
  let s := withT (withW (sEp 3 true) fun w => { w with bundle := [] }) fun t => { t with st := .waiting, wait := .mig 0 true }
  s.setCluster 0 { s.cluster 0 with migq := q, cycles := BitVec.ofNat 64 cyc }
def mq (g : Bool) : MigReq := { warp := 0, ep := 0, toL := true, core := 288, time := 0, granted := g, slot := 0, quarter := 0 }
theorem wit_MigrationRequests : (∀ l ∈ (wOf (sMg [] 0)).live, ((wOf (sMg [] 0)).thread l).atMig = some (0, true, 0x1000) ∧ ((wOf (sMg [] 0)).thread l).task.undoMode = false ∧
      ((wOf (sMg [] 0)).thread l).inEmu = false) ∧ (wOf (sMg [] 0)).live ≠ [] ∧ (sMg [] 0).migReq? (wOf (sMg [] 0)) = none ∧ (wOf (sMg [] 0)).saved = false ∧
    (wOf (sMg [] 0)).stopped = [] ∧ (wOf (sMg [] 0)).hold.atEp = none ∧
    (let s := sMg [] 0
     let s := withT s fun t => if t.tid = 3 then { t with st := .parked, wait := .nothing } else t
     (∀ l ∈ (wOf s).live, ((wOf s).thread l).st ≠ .ready) ∧ 0 ∈ (wOf s).live ∧ ((wOf s).thread 0).atMig ≠ none ∧ 3 ∈ (wOf s).live ∧ ((wOf s).thread 3).atMig = none ∧
     s.migReq? (wOf s) = none ∧ (wOf s).saved = false ∧ (wOf s).stopped = [] ∧ (wOf s).hold.atEp = none) ∧
    (let s := withW (sMg [mq false] 4096) fun w => { w with hold := .ep 0 true }
     s.warp? 0 = some (wOf s) ∧ ((s.cluster 0).migq.find? fun n => n.warp == 0) = some (mq false) ∧ (wOf s).hold.atEp ≠ none ∧ (wOf s).live ≠ []) ∧
    (∀ c ∈ [4095, 4096], let s := sMg [mq false] c
      s.warp? 0 = some (wOf s) ∧ ((s.cluster 0).migq.find? fun n => n.warp == 0) = some (mq false) ∧ (s.cluster 0).cycles.toNat = c ∧
      (placeOne s.uses 288 (wOf s).width (useOf s (wOf s) 288 0 0).vregs (useOf s (wOf s) 288 0 0).priv).isSome = true) := by decide +kernel
/-- The record of point 0 of the kernel at offset 0x400: these targets, and as many entries. -/
def sMs (es : List Nat) : State :=
  let s := sMg [mq true] 0
  let s : State := { s with regions := s.regions.map fun r => { r with epOff := 0x400 } }
  let kobj := (s.regions.headD default).kobj
  { s with mem := memPutAll s.mem (cellsAt (kobj + 0x400) (bytesOf 16 (es.length * 2 ^ 64 + 0x500 * 2 ^ 96)) ++ cellsAt (kobj + 0x500) (es.flatMap (bytesOf 4))) }
theorem wit_MigrationSequences : (∀ es ∈ [[], [0x0001_0001], [0xC007_C007]], let s := sMs es
      let r := s.regions.headD default
      s.warp? 0 = some (wOf s) ∧ s.regionOf? 0 (wOf s).region = some r ∧ s.migReq? (wOf s) = some (mq true) ∧ (wOf s).width ≤ (wOf s).threads.length ∧
      (∀ u ∈ (wOf s).threads, gateOpen s 0 3 u.covered = true ∧ u.task.undoMode = false ∧ u.inEmu = false) ∧ (wOf s).ld = 0 ∧ (wOf s).st = 0 ∧ (wOf s).sb = [] ∧ (wOf s).stopped = [] ∧
      (wOf s).fifo = [] ∧ (wOf s).failed = [] ∧ (wOf s).loads = [] ∧ (wOf s).queue = [] ∧ (wOf s).tileOps = [] ∧ (wOf s).barOps = [] ∧ (s.epRecord r 0).map (·.2) = some es) ∧
    (let s := withT (sMs []) fun t => { t with task := { t.task with undoMode := true } }
     0 ∈ (wOf s).live ∧ ((wOf s).thread 0).task.undoMode = true) ∧
    ([0x0001_0001].all (entryOk ((sMs []).regions.headD default)) = true) ∧ ([0xC007_C007].all (entryOk ((sMs []).regions.headD default)) = false) := by decide +kernel

/-- The state whose memory is its page table and these words at an address. -/
def sW (a : Nat) (ws : List Nat) : State :=
  { s0 with mem := [(0x2000, 1), (0x2003, 0x20), (0x4000, 0x73), (0x4001, 8)] ++ (cellsAt a (ws.flatMap (bytesOf 8))).filter fun c => c.2 != 0 }
/-- The kernel's ring of 16 slots lies at 0x30000. -/
def rRing (r : Region) : Region := { r with ring := 0x30000, rlog := 4 }
def recF (id cause : Nat) (acts : Resolves) (written : Bool) : Rec :=
  { id := id, ctx := 0, region := 0x10000, words := [BitVec.ofNat 64 (cause + 2 ^ 10 + 7 * 2 ^ 14), 0, 0, 0, 0, 0, 0, 0], slot := if written then some 0x30000 else none, written := written, acts := acts }
def sRe (rs : List Rec) (ridx : Nat := 0) : State :=
  let s := sW 0x10070 [ridx]
  { s with regions := s.regions.map rRing, recs := rs, recCt := 9 }
def fFr (k : Nat) : Fields := fl 7 k 0xC1 0x82 0xF0 0xF0 0 0x30000
def sGateF : State := { withT (sRe []) fun t => { t with covered := [3] } with order := { next := 8, flight := [{ wid := 3, cells := [(0x6000, 0, 1)], views := [0] }] } }
theorem wit_Resolutions : (∀ s ∈ [sRe [], sRe [recF 4 0x85 .nothing true], sRe [recF 4 0xC0 (.replay 5 1) true], sRe [recF 4 0xC0 (.replay 0 1) true]],
      goes s (.fresResume (fFr 0)) (fFr 0) = true ∧ goes s (.fresKill (fFr 1)) (fFr 1) = true ∧ goes s (.fresRebind (fFr 2)) (fFr 2) = true ∧
      gateOpen (counted s (wOf s)) 0 4 ((wOf s).coveredBy (List.range 16)) = true) ∧
    (counted (sRe []) (wOf (sRe []))).resolvable 0 0x30000 0 = none ∧
    (∀ a ∈ [.nothing, .replay 5 1, .replay 0 1], let s := sRe [recF 4 0xC0 a true]
      (counted s (wOf s)).resolvable 0 0x30000 0 = some (recF 4 0xC0 a true) ∧ (recF 4 0xC0 a true).names (wOf s) = decide (a = .replay 0 1) ∧
      s.isSaved (recF 4 0xC0 a true) = false ∧ s.rec? 4 = some (recF 4 0xC0 a true)) ∧
    ({ recF 4 0xC0 .nothing true with who := some 0 } : Rec).names (wOf s0) = true ∧
    goes sGateF (.fresResume (fFr 0)) (fFr 0) = true ∧ gateOpen (counted sGateF (wOf sGateF)) 0 4 ((wOf sGateF).coveredBy (List.range 16)) = false := by decide +kernel
theorem wit_FaultRecords : (∀ x ∈ [{ recF 4 0xC0 (.replay 0 1) false with toService := true }, { recF 4 0xC0 (.replay 0 1) false with toDebug := true }, recF 4 0xC0 (.replay 0 1) false],
      (sRe [x]).rec? 4 = some x ∧ x.written = false ∧ (wOf (sRe [x])).queue = []) ∧
    (∀ p ∈ [(15, false), (16, true)], let s := sRe [recF 4 0xC0 (.replay 0 1) false] p.1
      s.domainOf (recF 4 0xC0 (.replay 0 1) false) = some (rRing (s0.regions.headD default)) ∧ s.isNext (recF 4 0xC0 (.replay 0 1) false) = true ∧
      s.agentRead 0 0x10070 8 = some p.1 ∧ ringFull (rRing (s0.regions.headD default)) p.1 = p.2 ∧
      s.ringStops (rRing (s0.regions.headD default)) (recF 4 0xC0 (.replay 0 1) false).needRes = p.2 ∧
      (agentChks s 0 (0x30000 + 64 * (p.1 % 16)) 64).isSome = true ∧ (agentChks s 0 0x10070 4).isSome = true) ∧
    (let s := sRe [recF 4 0xC0 (.replay 0 1) false] 15
     (match agentChks s 0 (0x30000 + 64 * 15) 64 with
       | some cs =>
         let s := s.makeRoom (s.blockOf 0 (0x30000 + 64 * 15) (s.homeLoc ((cs.headD { lane := 0, addr := 0 }).loc)))
         let p := writeBytes s 0 hostView (agentTag s 0) cs ((recF 4 0xC0 (.replay 0 1) false).words.flatMap fun x => bytesOf 8 x.toNat)
         ((reachAll p.2 p.1).agentPut 0 0x10070 hostView (bytesOf 4 16)).isSome
       | none => false) = true) := by decide +kernel
def sHost (a k : Nat) (rs : List Rec) : State :=
  let s := sRe rs
  let s := s.setContext 0 { s.context 0 with fresAddr := BitVec.ofNat 64 a, killAddr := BitVec.ofNat 64 k, fresOk := true, halted := true }
  { s with regions := s.regions.map fun r => { r with tocsin := 5, count := 5 } }
theorem wit_HostMoves : (let s := sHost 0x30000 0x10000 [recF 4 0x85 .nothing true]
      s.resolvable 0 (s.context 0).fresAddr 0 = some (recF 4 0x85 .nothing true) ∧ s.isSaved (recF 4 0x85 .nothing true) = false ∧
      s.regionOf? 0 (s.context 0).killAddr.toNat = some (s.regions.headD default) ∧ (s.regions.headD default).alive = true ∧
      s.keyed? 0x10000 = some (s.regions.headD default) ∧ (s.regions.headD default).tocStop = false ∧
      (let s := sHost 0x30000 0x10000 []
       let u := (s.setRegion { s.regions.headD default with tocStop := true }).settle 0
       (u.regionOf? 0 0x10000).any (fun d => !u.ringStops d true) = true)) ∧
    (let s : State := { sRe [] 16 with regions := (sRe [] 16).regions.map fun r => { r with tocsin := 5, count := 5 } }
     let r := s.regions.headD default
     s.keyed? 0x10000 = some r ∧ r.tocStop = false ∧ r.alive = true ∧ r.faultRegion = 0x10000 ∧
      (((s.setRegion { r with tocStop := true }).settle 0).regionOf? 0 0x10000).any (fun d => ((s.setRegion { r with tocStop := true }).settle 0).ringStops d true) = true) ∧
    (sHost 0 0x20000 []).resolvable 0 ((sHost 0 0x20000 []).context 0).fresAddr 0 = none ∧ (sHost 0 0x20000 []).regionOf? 0 0x20000 = none := by decide +kernel

/-- Queue 0 of context 0 holds a command of these words at 0x5000, after bring-up. -/
def sCq (ws : List Nat) (g : CQueue → CQueue := id) : State :=
  let s := sW 0x5000 ws
  let s : State := { s with dev := { s.dev with stage := 11 } }
  s.setContext 0 { s.context 0 with queues := [(0, g { base := 0x5000, qlog := 1, en := true, tail := 1 })] }
def cmd (opc : Nat) (ws : List Nat) : Cmd := { index := 0, opc := opc, words := (opc :: ws).map (BitVec.ofNat 64) }
theorem wit_QueueControls : ((sCq [1] fun x => { x with err := true }).cqueue 0 0).err = true ∧ ((sCq [1]).cqueue 0 0).err = false ∧ (sCq [6]).readyCmd 0 0 = some [6, 0, 0, 0, 0, 0, 0, 0] ∧
    (sCq [6]).served 0 0 = true ∧ cmdBad [6, 0, 0, 0, 0, 0, 0, 0] = true ∧ ((sCq [1] fun x => { x with en := false }).cqueue 0 0).en = false ∧
    (sCq [1]).answers = true ∧ ({ s0 with dev := { s0.dev with fail := true, stage := 6 } } : State).answers = false := by decide +kernel
theorem wit_CommandStarts : ∀ ws ∈ [[1, 0x10000, 0], [2, 0x6000, 0], [3, 0x6000, 1], [4, 0x6000, 9], [5, 0x6000, 0x7000, 64]], let s := sCq ws
    s.readyCmd 0 0 = some (ws ++ List.replicate (8 - ws.length) 0) ∧ s.served 0 0 = true ∧ cmdBad ws = false ∧ gateOpen s 0 5 ((s.cqueue 0 0).take ws (ws.headD 0)).2.covered = true ∧
    (s.agentPut 0 0x6000 cpView (bytesOf 8 9)).isSome = true := by decide +kernel
def sGateC : State := { sCq [4, 0x6000, 9] (fun x => { x with covered := [3] }) with order := { next := 8, flight := [{ wid := 3, cells := [(0x6000, 0, 1)], views := [0] }] } }
theorem wit_CommandStarts_gate : sGateC.readyCmd 0 0 = some [4, 0x6000, 9, 0, 0, 0, 0, 0] ∧ sGateC.served 0 0 = true ∧
    gateOpen sGateC 0 5 ((sGateC.cqueue 0 0).take [4, 0x6000, 9, 0, 0, 0, 0, 0] 4).2.covered = false := by decide +kernel
def launchOf (s : State) (rcb : Nat) : Nat :=
  match launchRegion s 0 0 0 rcb 0 [] with
  | .waits _ => 0
  | .refused _ => 1
  | .started _ => 2
/-- Control blocks of group regions at 0x20000 whose RLOG is 4 and 3. -/
def rcbW (rlog : Nat) : List Nat := [2] ++ List.replicate 11 0 ++ [rlog * 2 ^ 14]
theorem wit_RegionLaunches : 0x20001 % 256 ≠ 0 ∧ (sW 0x20000 (rcbW 3)).agentRead 0 0x20000 256 = some (2 + 3 * 2 ^ 14 * 2 ^ 768) ∧ rcbBad (2 + 3 * 2 ^ 14 * 2 ^ 768) = true ∧
    (sW 0x20000 (rcbW 4)).agentRead 0 0x20000 256 = some (2 + 4 * 2 ^ 14 * 2 ^ 768) ∧ rcbBad (2 + 4 * 2 ^ 14 * 2 ^ 768) = false ∧
    rcbField (2 + 4 * 2 ^ 14 * 2 ^ 768) 8 0 64 = 0 ∧ rcbField (2 + 4 * 2 ^ 14 * 2 ^ 768) 0 0 2 = 2 ∧ ((sW 0x20000 (rcbW 4)).regionOf? 0 0x20000).any Region.alive = false ∧
    launchOf (sW 0x20000 (rcbW 3)) 0x20000 = 1 ∧ launchOf (sW 0x20000 (rcbW 4)) 0x20000 = 2 := by decide +kernel
theorem wit_CommandWaits : (∀ v ∈ [4, 5], let s := (fun (s : State) => s.setContext 0 { s.context 0 with queues := [(0, { cmds := [cmd 3 [0x6000, 5]] })] }) (sW 0x6000 [v])
    (s.cqueue 0 0).cmds = [cmd 3 [0x6000, 5]] ∧ s.agentRead 0 0x6000 8 = some v) := by decide +kernel
/-- A walk at a node, after so many steps, with a limit; its current node, once stopped, has one range 5 to 6. -/
def walk (stopped : Bool) (node steps limit : Nat) : Cmd :=
  { cmd 2 ([0x6000, limit, 0, 0, 0, 0, 0] ++ [1, 0x10000, 0x7000, 5, 6, 0x8000]) with stopped := stopped, node := BitVec.ofNat 64 node, steps := steps }
def sGw (c : Cmd) (result : Nat := 0) : State :=
  let s := sW 0x10088 [result]
  s.setContext 0 { s.context 0 with queues := [(0, { cmds := [c] })] }
theorem wit_GraphWalks : (∀ c ∈ [walk false 0 0 4, walk false 0x6000 4 4, walk false 0x6004 0 4, walk true 0x6000 0 4], ((sGw c).cqueue 0 0).cmds.find? (fun c => c.opc == 2 && !c.done && !c.run) = some c) ∧
    (walk false 0x6000 4 4).word 2 = 4 ∧ (∀ v ∈ [5, 7], (sGw (walk true 0x6000 0 4) v).agentRead 0 ((walk true 0x6000 0 4).word 9 + 136) 8 = some v) ∧
    bitsOf ((walk true 0x6000 0 4).word 8) 0 3 = 1 ∧ (walk true 0x6000 0 4).word 11 = 5 ∧ (walk true 0x6000 0 4).word 12 = 6 := by decide +kernel

def r0 : Region := s0.regions.headD default
def sReg (g : Region → Region) (rest : List Region := []) : State := { s0 with regions := s0.regions.map g ++ rest }
theorem wit_BlockDispatches : (let s := sReg fun r => { r with blocks := 2 }
      let r := s.regions.headD default
      s.keyed? r.key = some r ∧ (s.placement r).isSome = true ∧ r.nextBlock = some (1, false) ∧ s.blockReady r = true ∧ s.isTurn r = true ∧ ∀ w ∈ s.warps, w.key < s.warpCt) ∧
    s0.keyed? r0.key = some r0 ∧ s0.isTurn r0 = false ∧ (s0.placement r0).isSome = true ∧
    (let s := sReg fun r => { r with blocks := 2, maxd := 0 }
     let r := s.regions.headD default
     r.nextBlock.isSome = true ∧ s.placement r = none ∧ r.group = false ∧ r.state = .running) ∧
    (∀ p ∈ [(0, 0), (0x20000, 0), (0x20000, 5)], let s := sReg (fun r => { r with state := .pending, producer := p.1 }) [{ r0 with rcb := 0x20000, untrig := p.2 }]
      let r := s.regions.headD default
      s.keyed? r.key = some r ∧ r.state = .pending ∧ (s.placement r).isSome = true ∧ (s.regionOf? 0 p.1).map (·.untrig) = (if p.1 = 0 then none else some p.2)) := by decide +kernel
def sDone (cov : List Nat) : State :=
  { sReg (fun r => { r with covered := cov, endReq := true }) with blocks := [], warps := [], order := { next := 8, flight := [{ wid := 3, cells := [(0x6000, 0, 1)], views := [0] }] } }
theorem wit_RegionEnds : s0.keyed? r0.key = some r0 ∧ r0.endReq = false ∧ r0.state = .running ∧ s0.finished r0 = none ∧ r0.group = false ∧ s0.blocksOfRegions [r0] ≠ [] ∧
    (∀ c ∈ [[], [3]], let s := sDone c
      let r := s.regions.headD default
      s.keyed? r.key = some r ∧ r.endReq = true ∧ r.endSent = false ∧ r.state = .running ∧ s.finished r = some c ∧ gateOpen s 0 5 c = decide (c = []) ∧ s.below 0 (r.rcb + 144) = false) := by decide +kernel
/-- A region of context 1, and one of context 0 that has no room for its cores. -/
def r1 : Region := { r0 with ctx := 1 }
def rNo : Region := { r0 with rcb := 0x20000, blocks := 2, maxd := 0 }
def sPre (g : Region → Region) : State := sReg g [r1, rNo]
def dr (r : Region) : Region := { r with quantum := 5, used := [(0, 5)], meanCt := 1 }
theorem wit_Preemptions : (let s := sPre dr
      let r := s.regions.headD default
      s.keyed? r.key = some r ∧ kvHas s.parts 0 = true ∧ (s.partition 0).slice = 0 ∧ s.hasWork 1 = true ∧ s.hasWork 2 = false ∧ r.quantum ≠ 0 ∧ r.quantum ≤ kvGet r.used 0 0 ∧ kvGet r.used 1 0 < r.quantum ∧
      rNo ∈ s.regions ∧ rNo.group = false ∧ r.prio ≤ rNo.prio ∧ rNo.state = .running ∧ rNo.nextBlock.isSome = true ∧ s.placement rNo = none ∧ s.blocksOn r 1 = [] ∧ s.blocksOn r 0 ≠ [] ∧
      r.preempt = [] ∧ choose s r 0 = some 1) ∧
    (let s := sPre id
     choose s (s.regions.headD default) 0 = some 2 ∧ s.blocksOn (s.regions.headD default) 0 ≠ []) ∧
    (let s := sPre fun r => { r with deadline := 1 }
     choose s (s.regions.headD default) 0 = none ∧ s.blocksOn (s.regions.headD default) 0 ≠ []) := by decide +kernel
def sSv : State := withW (sReg fun r => { r with preempt := [(0, 2), (1, 1)] }) fun w => { w with saved := true }
def saved0 : Saved := { block := bOf s0, warps := s0.warps, ranges := [], cores := [], qwaits := [], bars := [] }
def sSaved (cl : List Nat) : State := { s0 with saves := [saved0], blocks := [], warps := [], parts := [(0, { clusters := cl })] }
theorem wit_SavesAndRestores : (let r := sSv.regions.headD default
      sSv.keyed? r.key = some r ∧ sSv.blocksOn r 1 = [] ∧ (1, 1) ∈ r.preempt ∧ (0, 2) ∈ r.preempt ∧
      ((sSv.blocksOn r 0).find? fun b => (sSv.warpsOf b.id).all fun w => !w.draining && w.saved && atRest sSv w) = some (bOf s0)) ∧
    (∀ cl ∈ [[], [3]], (sSaved cl).saves[0]? = some saved0 ∧ (sSaved cl).regionOf? 0 saved0.block.region = some r0) ∧ restorePlace (sSaved []) r0 saved0 = none ∧
    (restorePlace (sSaved [3]) r0 saved0).any (fun x => x.1 == 3 && x.2.1.length == 1) = true ∧ (sSaved [3]).recs = [] := by decide +kernel

def clst (g : Cluster → Cluster) : State := s0.setCluster 17 (g (s0.cluster 17))
theorem wit_Islands : s0.dev.ilim < [3301].sum ∧ [3300].sum ≤ s0.dev.ilim ∧ s0.dev.tjmax ≤ [105].getD 0 0 ∧ [100].getD 0 0 + 5 ≤ s0.dev.tjmax ∧
    (clst id).dev.ilim = 3300 ∧ ((clst id).cluster 17).hot = false ∧
    (let c := (clst fun c => { c with hot := true, fmin := 30, fnow := 29 }).cluster 17
     c.hot = true ∧ 30 = c.fnow + 1 ∧ 30 ≤ c.topFreq 17) ∧
    (let c := (clst fun c => { c with hot := true, fmin := 20, fnow := 21 }).cluster 17
     20 + 1 = c.fnow ∧ c.topFreq 17 ≤ 20 ∧ ¬ (22 = c.fnow + 1 ∧ 22 ≤ c.topFreq 17) ∧ ¬ (22 + 1 = c.fnow ∧ c.topFreq 17 ≤ 22)) ∧
    ((clst fun c => { c with eoldays := 365 }).cluster 17).eoldays = 365 ∧ s0.dev.stage < 10 ∧
    (∀ v ∈ [559, 700], let s := { clst fun c => { c with hot := true, fmin := 30, fnow := 29, vnow := v } with dev := { s0.dev with stage := 11 } }
      10 ≤ s.dev.stage ∧ ((s.cluster 17).vnow < (s.cluster 17).voltsAt 30 ↔ v = 559) ∧ 30 ≤ (s.cluster 17).topFreq 17) := by decide +kernel
/-- An island whose grant is what its highest frequency takes. -/
theorem wit_Islands_grant : let c : Cluster := { grant := Config.islandAmps 17 40 }
    c.hot = false ∧ c.fmin ≤ 40 ∧ 40 ≤ c.fmax ∧ 40 ≤ c.flimit ∧ Config.islandAmps 17 40 ≤ c.grant := ⟨rfl, by decide, by decide, by decide, Nat.le_refl _⟩
def sErr : State := s0.setContext 0 { s0.context 0 with queues := [(15, { err := true, en := true })] }
theorem wit_RegisterWrites : (∀ v ∈ [0xC0, 0x40], (v : Nat).testBit 7 = decide (v = 0xC0) ∧ v.testBit 6 = true) ∧ (sErr.cqueue 0 15).err = true ∧ (s0.cqueue 0 15).err = false ∧
    State.reset.regions = [] ∧ State.reset.blocks = [] ∧ State.reset.saves = [] ∧ s0.answers = true ∧
    ({ s0 with dev := { s0.dev with fail := true, stage := 6 } } : State).answers = false ∧ s0.ownedBy 64 = none ∧
    (let s : State := { s0 with links := { s0.links with funcs := [(64, 3)] } }
     s.ownedBy 64 = some 3 ∧ (∃ p ∈ s.links.funcs, p.1 ≠ 1 ∧ p.2 = 3) ∧ ∀ p ∈ s.links.funcs, p.1 ≠ 1 → p.2 ≠ 143) := by decide +kernel
def sDev (g : Device → Device) : State := { s0 with dev := g s0.dev }
theorem wit_DeviceMoves : (∀ b ∈ s0.blocks, b.cluster ≠ 17) ∧ (∃ b ∈ s0.blocks, b.cluster = 0) ∧ s0.dev.attKey = false ∧ (sDev fun d => { d with attKey := true, attCt := 1023 }).dev.attCt < 1024 ∧
    (sDev fun d => { d with attKey := true, attCt := 1024 }).dev.attCt = 1024 ∧ (sDev fun d => { d with attKey := true, attCt := 1024 }).dev.idLeaf < 2 ^ 20 ∧
    (∀ k ∈ [0, 3, 8, 10], (sDev fun d => { d with stage := k }).dev.stage = k ∧ k < 11) ∧ s0.dev.fail = false ∧ (sDev fun d => { d with stage := 11 }).dev.stage = 11 ∧
    (sDev fun d => { d with stage := 6, fail := true }).dev.stage ≤ 6 ∧
    (let d := (sDev fun d => { d with revoked := [63], minVer := 2 }).dev
     (∀ g ∈ [({ valid := true, key := 62, version := 2 } : ImageSig)], g.valid = true ∧ g.key ∉ d.revoked ∧ d.minVer ≤ g.version) ∧
     63 ∈ d.revoked ∧ 1 < d.minVer) ∧ s0.answers = true ∧
    (let x : StageLoad := { images := [{ valid := true, key := 62, version := 2, digest := 7 }] }
     (∀ k ∈ [1, 4, 7, 8], k + 1 ∈ [2, 5, 8, 9]) ∧ x.images ≠ [] ∧ x.lost = [] ∧ s0.dev.revoked = [] ∧ s0.dev.minVer ≤ 2) := by decide +kernel
/-- Port 95 is as given, at a tick. -/
def sLk (f : FPort) (tick : Nat) : State := { s0 with links := { s0.links with fports := [(95, f)] }, tick := BitVec.ofNat 64 tick }
theorem wit_LinkMoves : (∀ k ∈ [6, 7], ((sLk { up := true, resends := k } 0).fport 95).up = true ∧ ((sLk { up := true, resends := k } 0).fport 95).resends = k) ∧
    ((sLk {} 0).fport 95).up = false ∧ (∀ t ∈ [9999999, 10000000], ((sLk { training := some 0 } t).fport 95).training = some 0 ∧ (sLk { training := some 0 } t).tick.toNat = t) ∧
    (∀ t ∈ [1000000, 1000001], ((sLk { up := true, paused := [(2, 0)] } t).fport 95).paused.find? (fun c => c.1 == 2) = some (2, 0) ∧
      (sLk { up := true, paused := [(2, 0)] } t).tick.toNat = t ∧ (sLk {} 0).links.pto = 1000000) := by decide +kernel
def reqR (w a : Bool) (addr : Nat) : RemoteReq := { ctx := 0, addr := addr, size := 8, write := w, atomic := a, data := 7, aop := 0x200, cmp := 0 }
def sOut : State :=
  let s := sW 0x6000 [9]
  { s.setPort (homePort 0x6000) { lines := [{ pa := 0x6000, bytes := 128, ctx := 0, va := 0x6000, bind := 0 }] } with links := { fports := [(95, { up := true })], hostUp := true } }
def outOk (q : RemoteReq) : Bool :=
  match outsideAt sOut q with
  | .ok cs => (sOut.bringIn q.ctx cs == (some none, sOut)) && cs.all fun c => !sOut.damaged (sOut.homeLoc c.loc)
  | _ => false
theorem wit_OutsideRequests : (sOut.links.hostUp = true ∧ (sOut.fport 95).up = true) ∧ s0.links.hostUp = false ∧ (∀ p, p < 96 → (s0.fport p).up = false) ∧
    (match outsideAt sOut (reqR false false (2 ^ 57 - 1)) with
      | .refused _ => true
      | _ => false) = true ∧
    (∀ q ∈ [reqR false false 0x6000, reqR true false 0x6000, reqR false true 0x6000], outOk q = true) ∧ (sOut.agentPut 0 0x6000 remoteView (bytesOf 8 7)).isSome = true ∧
    (sOut.agentPut 0 0x6000 hostView (bytesOf 8 7)).isSome = true ∧
    (let s : State := { sOut with ports := [] }
     (match outsideAt s (reqR false false 0x6000) with
       | .ok cs => (s.bringIn 0 cs).1.isNone
       | _ => false) = true) := by decide +kernel

def lane0 : Lane := { x := [1, 2, 3, 4, 5, 6, 7, 64], prog := [0xA002_0002, 0xA800_0000, 0xB800_0000], bound := 100, input := [true, false, true], table := List.replicate 8 1 }
theorem wit_TransducerValues : lane0.ended = none ∧ lane0.steps ≠ lane0.bound ∧ 1 ≤ (64 : BitVec 12).toNat ∧ (64 : BitVec 12).toNat ≤ 64 ∧ 4 * ((1 : Nat) % 1024) + 4 ≤ lane0.table.length := by decide +kernel
/-- The table in which symbols 0 and 1 have the codewords 0 and 1. -/
def tbl2 : List Byte := [1, 1]
theorem wit_TransducerControl : lane0.ended = none ∧ ({ lane0 with ended := some (0, 0, none) } : Lane).ended ≠ none ∧ ({ lane0 with steps := 100 } : Lane).steps = lane0.bound ∧
    lane0.input.length < lane0.inCur + 4 ∧ lane0.inCur + 3 ≤ lane0.input.length ∧ ({ lane0 with outMax := some 2 } : Lane).outMax = some 2 ∧
    (lane0.prog.getD 1 0).toNat / 2 ^ 27 = 0x15 ∧ (lane0.prog.getD 0 0).toNat / 2 ^ 27 ≠ 0x15 ∧ 1 < ({ lane0 with loop := 255 } : Lane).loop ∧ ({ lane0 with loop := 1 } : Lane).loop = 1 ∧
    lane0.built = false ∧ codeOf tbl2 2 = none ∧ codeOf tbl2 1 = some (1, 1) := by decide +kernel
theorem wit_PrefixCodes : lensOk tbl2 = true ∧ codeOf tbl2 1 = some (1, 1) ∧ (∀ p, p < 1 → lane0.input[lane0.inCur + p]? = some ((1 : Nat).testBit (1 - 1 - p))) ∧
    ({ lane0 with built := true, table := tbl2 } : Lane).built = true := by decide +kernel
theorem wit_CanonicalCodes : lensOk tbl2 = true ∧ codeOf tbl2 0 = some (1, 0) ∧ codeOf tbl2 1 = some (1, 1) ∧ codeLen tbl2 0 ≠ 0 ∧ codeLen tbl2 1 ≠ 0 := by decide +kernel
theorem wit_Operands : 127 < (List.replicate 128 (0 : W32)).length ∧ 15 < (wOf s0).threads.length ∧ 63 < ((wOf s0).thread 15).v.length := by decide +kernel
theorem wit_Encodings : wellFormed (.add (fl 7 0 1 2 3 0xF0 0 0)) = true ∧ encode (.add (fl 7 0 1 2 3 0xF0 0 0)) = some (96, 0x2070_0102_03F0_0000_0000_0000) ∧
    wellFormed (.shortPair pP pQ) = true ∧ encode (.shortPair pP pQ) = some (96, 0x4384_0A18_0200_0389_142C_0000) ∧ wellFormed (.txRepImm 2) = true ∧
    encode (.txRepImm 2) = some (32, 0xA002_0002) := by decide +kernel
theorem wit_Decodings : (decodeSlot true 0x4384_0A18_0200_0389_142C_0000).toOption = some (.shortPair pP pQ) ∧ (decodeSlot false 0x2070_0102_03F0_0000_0000_0000).toOption = some (.add (fl 7 0 1 2 3 0xF0 0 0)) ∧
    (decodeTx 0xA002_0002).toOption = some (.txRepImm 2) := by decide +kernel

/-- The hypotheses of a step that issues from warp 0, from memory. -/
def runs (s : State) (line : Nat) : Option Instr :=
  let u : State := ({ s with agenda := [] } : State).withWarp 0 Warp.sortDue
  let r := reloadCredits exec u (wOf u)
  let y := wOf r
  let v := (takeTurn exec r y).getD default
  let pc := (y.thread (y.bundle.headD 0)).pc
  let c := checkLane v y 3 (y.bundle.headD 0) (lineOf pc &&& 0x01FFFFFFFFFFFFFF) 0 0 1
  if u.warp? 0 == some (wOf u) && eligible (wOf u) && r.warp? 0 == some y && (takeTurn exec r y).isSome && y.snare.isNone && (fetchGate v y).isNone &&
      decide (slotOf pc ≤ 4) && pc &&& 7 == 0 && parityOk line && bitsOf (lineWordOf line) 16 16 == 0 && (y.entryCause line pc).isNone && y.pfx.isNone &&
      c.why.isNone && natOfBytes (memBytes v.mem (v.homeLoc (c.loc - c.loc % 64)) 64) == line
  then (decodeSlot (bitsOf (lineWordOf line) (5 + slotOf pc) 1 == 1) (slotBits line (slotOf pc))).toOption else none
theorem wit_StepRuns : (sAt []).agenda = [.issue 0] ∧ runs (sAt []) (lineOf5 [] 1 0) = some (.nop (fl 7 0 0xF0 0xF0 0xF0 0xF0 0 0)) ∧
    (let s := (sAt []).setCore 0 { s0.core 0 with icache := [(0, 0x1000, bytesOf 64 (lineOf5 [] 1 0))] }
     runs s (lineOf5 [] 1 0) = some (.nop (fl 7 0 0xF0 0xF0 0xF0 0xF0 0 0)) ∧
     ((s.core 0).icache.find? fun e => e.1 == 0 && e.2.1 == 0x1000).map (fun e => natOfBytes e.2.2) = some (lineOf5 [] 1 0)) ∧
    eligible (wOf sDrain) = false ∧ (State.reset.withFetchWord 32 0xB800_0000).agenda = [.transduce 0] ∧
    (decodeTx ((State.reset.withFetchWord 32 0xB800_0000).lane.prog.getD 0 0).toNat).toOption = some .txDone := by decide +kernel
/-- Beside a warp of a region of a higher class a warp's turn does not come. -/
def sLow : State :=
  let r := s0.regions.headD default
  let s := s0.setCore 0 { s0.core 0 with icache := [(0, 0x1000, bytesOf 64 (lineOf5 [] 1 0))] }
  { s with regions := s0.regions ++ [{ r with rcb := 0x20000, prio := r.prio + 1 }], warps := s0.warps ++ [{ wOf s0 with key := 1, slot := 1, region := 0x20000 }], warpCt := 2 }
theorem wit_StepRuns_turn : let r := reloadCredits exec sLow (wOf sLow)
    eligible (wOf sLow) = true ∧ r.warp? 0 = some (wOf r) ∧ takeTurn exec r (wOf r) = none := by decide +kernel
theorem wit_OtherMoves : ({ s0 with agenda := [] } : State).warp? 0 = some (wOf s0) ∧ eligible (wOf s0) = true ∧ chipBase ≤ locB ∧ locB < remoteBase ∧
    (∀ x, s0.warp? 0 = some x → x.failed = []) ∧ s0.isFree (0x2000040000 / 131072 * 131072) 131072 = true ∧
    (let f : FPort := { up := true, queue := [{ warp := 0, core := 0, ent := ent0 }] }
     (sLk f 0).fport 95 = f ∧ f.up = true ∧ f.paused = [] ∧ (sLk f 0).farAt ((ent0.cells.headD (remoteBase, 0)).1) = 0) ∧
    (∀ r ∈ ({ s0 with blocks := [] } : State).regions, ({ s0 with blocks := [] } : State).clustersHeld r = []) ∧
    (let s : State := { sFab with links := { sFab.links with fports := [(5, { queue := [{ warp := 0, core := 0, ent := ent8 }] }), (6, { up := true })], routes := [(3, [5, 6])] } }
     (s.fport 5).up = false ∧ ((s.routeOf ((ent8.cells.headD (remoteBase, 0)).1)).find? fun k => k != 5 && (s.fport k).up) = some 6 ∧
       (wOf s).failed = []) := by decide +kernel
theorem wit_CanonicalSteps : s0.mem.wf = true ∧ s0.dram.wf = true ∧ isNext (step s0) = true := by decide +kernel
theorem wit_SteeringLeavesMemory : ∀ i ∈ [Instr.nop f0, .bra (fBra 0), .trap fTrap, .tcommit f0], isNext (exec i s0) = true := by decide +kernel

/-- The page of smallPage with BIND 0 or 3 and, at slot 3, blocks of 256 bytes. -/
def bindB (packed : Bool) : Binding := { bind0 with bsize := 4, packed := packed, ebound := 1024, dbound := 1024, enc := [0xA002_0021, 0x1002_0040, 0xA800_0000, 0xB800_0000] }
def sRb (bind m : Nat) : State :=
  let s := smallPage (0x873 + bind * 2 ^ 12)
  (s.setContext 0 { s.context 0 with binds := [(3, bindB false)] }).setMeta 0 m
theorem wit_Rebinds_fails : (sRb 3 3).leafAt 0 0 = some ⟨0, 3, 0x8000, 0x3873⟩ ∧ (∀ b ∈ [3, 0], ((sRb 3 3).binding? 0 b).any (·.packed) = false) ∧ (sRb 3 3).paging.moves = [] ∧ (sRb 3 3).linesIn 0 131072 = [] ∧
    (match (sRb 3 3).fillAll (blocksOf 0 0 0 3 256 131072) with
      | .error _ => true
      | .ok _ => false) = true := by decide +kernel
/-- The state of a rebind before its stores: the metadata of the page are cleared. -/
def sRbC (s : State) : State := { s with metab := s.metab.filter fun p => !(decide (0 / 64 ≤ p.1) && decide (p.1 < (0 + 131072) / 64)) }
def rbLines (bind size : Nat) : List Line :=
  (blocksOf 0 0 0 bind size 131072).map fun k => { pa := k.base, bytes := k.size, ctx := 0, va := k.va, bind := bind, units := unitsOf k.size }
theorem rb_unbound : (sRbC (sRb 0 0)).binding? 0 5 = none := by decide +kernel
theorem rb_wf : (sRbC (sRb 0 0)).mem.wf = true := by decide +kernel
theorem wit_Rebinds : (sRb 0 0).leafAt 0 0 = some ⟨0, 3, 0x8000, 0x873⟩ ∧ leafMig 0x873 = false ∧ leafTier 0x873 = 0 ∧ (sRb 0 0).paging.moves = [] ∧ (sRb 0 0).linesIn 0 131072 = [] ∧
    (∀ b ∈ [0, 5], ((sRb 0 0).binding? 0 b).any (·.packed) = false) ∧ (sRb 0 0).linkUp 0 = true := by decide +kernel
theorem rb_fills (s : State) : s.fillAll (blocksOf 0 0 0 0 128 131072) = .ok s := State.fillAll_none fun k hk => State.needsFill_unbound _ (by
  obtain ⟨i, _, rfl⟩ := List.mem_map.mp hk
  rfl)
theorem wit_Rebinds_stores : ∃ u, (sRbC (sRb 0 0)).storeAll (rbLines 5 128) = .ok u ∧ u.mem.wf = true := by
  obtain ⟨u, hu, hm, _⟩ := State.storeAll_unbound (s := sRbC (sRb 0 0)) (ls := rbLines 5 128) fun l hl => by
    obtain ⟨k, hk, rfl⟩ := List.mem_map.mp hl
    obtain ⟨i, _, rfl⟩ := List.mem_map.mp hk
    exact ⟨rb_unbound, rfl, rfl⟩
  exact ⟨u, hu, (congrArg Memory.wf hm).trans rb_wf⟩
/-- The binding of slot 4, whose encoder fails. -/
def bindF (packed : Bool) : Binding := { bindB packed with enc := [0xC002_004D] }
def sRbF : State := (sRb 0 0).setContext 0 { (sRb 0 0).context 0 with binds := [(4, bindF false)] }
theorem wit_Rebinds_refused : (sRbF.binding? 0 4).any (·.packed) = false ∧ sRbF.leafAt 0 0 = some ⟨0, 3, 0x8000, 0x873⟩ ∧ sRbF.linesIn 0 131072 = [] ∧
    (match (sRbC sRbF).storeAll (rbLines 4 256) with
      | .error _ => true
      | .ok _ => false) = true := by decide +kernel

/-- A page at frame 32 of the table at 0x6000, of zeros but one byte of every 256, or of zeros; slot 3 is a packed binding. -/
def memP (full : Bool) : Memory :=
  [(0x2000, 1), (0x2003, 0x20), (0x4000, 1), (0x4003, 0x30), (0x6000, 1), (0x6003, 0x40), (0x8000, 0x73), (0x8001, 8), (0x8004, 2)] ++
    (if full then (List.range' 0x400 512).map fun k => (256 * k, (1 : Byte)) else [])
def sPg (full : Bool) : State := { s0.setContext 0 { s0.context 0 with binds := [(3, bindB true), (4, bindF true)] } with mem := memP full }
theorem wit_PagePacks : ∀ f, let s := sPg f
    s.binding? 0 3 = some (bindB true) ∧ s.binding? 0 4 = some (bindF true) ∧ s.leafAt 0 0 = some ⟨0, 3, 0x8000, 0x200000873⟩ ∧ (⟨0, 3, 0x8000, 0x200000873⟩ : LeafAt).base = 0x40000 ∧ leafTier 0x200000873 = 0 ∧ leafMig 0x200000873 = false ∧
    s.packedSlot 0 0x200000873 0 = none ∧ s.linesIn 0x40000 131072 = [] ∧ s.paging.moves = [] ∧ inTier 0 0x80000 131072 = true ∧ s.isFree 0x80000 131072 = true ∧ leafBind 0x200000873 = 0 := by decide +kernel
theorem pk_wf : ∀ f, (sPg f).mem.wf = true := by decide +kernel
theorem pk_head {m : Memory} {a : Nat} (h : 0x9000 ≤ a) :
    memGet ([(0x2000, 1), (0x2003, 0x20), (0x4000, 1), (0x4003, 0x30), (0x6000, 1), (0x6003, 0x40), (0x8000, 0x73), (0x8001, 8), (0x8004, 2)] ++ m) a = memGet m a := by
  simp only [List.cons_append, List.nil_append, memGet]
  repeat rw [if_neg (by omega), if_neg (by omega)]
theorem pk_spots (n s q j : Nat) (h1 : s ≤ q) (h2 : q < s + n) (hj : j < 256) :
    memGet ((List.range' s n).map fun k => (256 * k, (1 : Byte))) (256 * q + j) = if j = 0 then 1 else 0 := by
  induction n generalizing s with
  | zero => omega
  | succ n ih =>
    rw [List.range'_succ, List.map_cons]
    by_cases hq : s = q
    · subst hq
      by_cases h0 : j = 0
      · simp [memGet, h0]
      · cases n with
        | zero => simp [memGet, h0]
        | succ n =>
          have h3 : ¬ 256 * s = 256 * s + j := by omega
          have h4 : ¬ 256 * (s + 1) = 256 * s + j := by omega
          have h5 : 256 * s + j < 256 * (s + 1) := by omega
          have h6 : ¬ 256 * s + j < 256 * s := by omega
          simp only [List.range'_succ, List.map_cons, memGet, if_neg h3, if_neg h4, if_neg h6, if_pos h5, if_neg h0]
    · have h3 : ¬ 256 * s = 256 * q + j := by omega
      have h4 : ¬ 256 * q + j < 256 * s := by omega
      simp only [memGet, if_neg h3, if_neg h4]
      exact ih (s + 1) (by omega) (by omega)
theorem pk_block (f : Bool) (i : Nat) (hi : i < 512) : memBytes (sPg f).mem (0x40000 + 256 * i) 256 = (if f then 1 else 0) :: List.replicate 255 0 := by
  have h : ∀ j, j < 256 → memGet (sPg f).mem (0x40000 + 256 * i + j) = if f ∧ j = 0 then 1 else 0 := by
    intro j hj
    show memGet (memP f) _ = _
    unfold memP
    rw [pk_head (by omega)]
    cases f with
    | false => rfl
    | true =>
      have := pk_spots 512 0x400 (0x400 + i) j (by omega) (by omega) hj
      rw [show 0x40000 + 256 * i + j = 256 * (0x400 + i) + j by omega]
      simpa using this
  unfold memBytes
  rw [List.map_congr_left fun j hj => h j (List.mem_range.mp hj)]
  cases f <;> decide +kernel
theorem pk_codes (f : Bool) : packBlock (bindB true) ((if f then 1 else 0) :: List.replicate 255 0) = .ok (f, if f then 1 :: List.replicate 255 0 else [], f) := by
  have h : ∀ f : Bool, (bindB true).store ((if f then 1 else 0) :: List.replicate 255 0) = if f then .raw true else .zero := by decide +kernel
  unfold packBlock
  rw [h]
  cases f <;> rfl
theorem pk_fails : (match packPage (sPg true) (bindF true) 0x40000 2084 with
    | .error _ => true
    | .ok _ => false) = true := by decide +kernel
theorem pk_length (n : Nat) (x : List Byte) : (List.replicate n x).flatten.length = n * x.length := by simp [List.length_flatten]
theorem wit_PagePacks_forms (f : Bool) : (sPg f).fillAll (blocksOf 0 0 0x40000 0 128 131072) = .ok (sPg f) ∧
    ∃ es bs xs, packPage (sPg f) (bindB true) 0x40000 2084 = .ok (es, bs, xs) ∧ (f = false → 2084 + bs.length ≤ 131072) ∧ (f = true → 131072 < 2084 + bs.length) := by
  refine ⟨State.fillAll_none fun k hk => State.needsFill_unbound _ ?_, ?_⟩
  · obtain ⟨i, _, rfl⟩ := List.mem_map.mp hk
    rfl
  · have hn : 131072 / (16 * 2 ^ (bindB true).bsize) = 512 := by decide +kernel
    have hs : 16 * 2 ^ (bindB true).bsize = 256 := by decide +kernel
    obtain ⟨es, xs, he⟩ := packPage_const (s := sPg f) (b := bindB true) (base := 0x40000) (at_ := 2084) (raw := f) (big := f) (x := if f then 1 :: List.replicate 255 0 else []) (fun i hi => by
      rw [hn] at hi
      rw [hs, pk_block f i hi, pk_codes f])
    refine ⟨es, _, xs, he, ?_, ?_⟩ <;> rintro rfl
    · rw [hn, pk_length]
      decide +kernel
    · rw [hn, pk_length]
      decide +kernel

/-! ### One step each: expected values from the spec's examples, or worked out by hand from the rule named -/

/-- The state of `sAt` whose lane l starts with these vector registers, with s6 = 0x100. -/
def sOn (word : Nat) (v : Nat → List Nat) (pair : Nat := 0) : State := withW (sAt [word] 1 pair) fun w =>
  { w with s := listAt w.s 6 fun _ => 0x100
           threads := w.threads.mapIdx fun l t => { t with v := (v l).map (BitVec.ofNat 32) } }

/-- A register, a predicate, the flags and the PC of a lane after one step. -/
def ranV (s : State) (l r : Nat) : Nat := (((wOf (nextOf (step s))).thread l).vreg r).toNat
def ranT (s : State) (l : Nat) : Thread := (wOf (nextOf (step s))).thread l

/-- 03 R84: the spec's `rdsr v3, %lane`. -/
theorem test_rdsr_lane : ranV (sOn 0x0771_03F0_F0F0_0000_0000_0001 fun _ => [0, 0, 0, 9]) 5 3 = 5 := by decide +kernel
/-- 03 R81: the spec's `wait 0, 15, 15, 15` goes on to slot 1 (02 R21) when no load is out. -/
theorem test_wait : (ranT (sAt [0x0170_F0F0_F0F0_FFF0_0000_0000]) 0).pc = 0x1008 := by decide +kernel
/-- 05 R146: 0x100 + 4 · 2. -/
theorem test_movi : ranV (sOn 0x3271_0186_F1F0_0000_0000_0004 fun _ => [0, 0]) 2 1 = 0x108 := by decide +kernel
/-- 05 R142: 5 − 7 wraps; clamped to i32 the product of 2^31 − 1 and 2 stays at 2^31 − 1. -/
theorem test_sub_wraps : ranV (sOn 0x2170_0100_01F0_0000_0000_0000 fun _ => [5, 7]) 0 1 = 0xFFFF_FFFE := by decide +kernel
theorem test_mad_sat : ranV (sOn 0x2470_0001_0203_0100_0000_0000 fun _ => [0, 0x7FFF_FFFF, 2, 9]) 0 0 = 0x7FFF_FFFF := by decide +kernel
/-- 05 R142: the spec's `add.n8x4.sat v2, v2, 0x0101_0101`. -/
theorem test_add_bytes : ranV (sOn 0x2077_0202_F1F0_0100_0101_0101 fun _ => [0, 0, 0xFF00_7FFE]) 3 2 = 0xFF01_80FF := by decide +kernel
/-- 05 R142: `sar` of an n type fills with bit w − 1 all the same. -/
theorem test_sar_n32 : ranV (sOn 0x2E71_0001_F1F0_0000_0000_0004 fun _ => [0, 0x8000_0000]) 0 0 = 0xF800_0000 := by decide +kernel
/-- 05 R143: `clz` of 0 is the width. -/
theorem test_clz_zero : ranV (sOn 0x3471_0001_F0F0_0000_0000_0000 fun _ => [0, 0]) 0 0 = 32 := by decide +kernel
/-- 05 R148: C = 0x4567 gives the bytes of B in reverse order. -/
theorem test_perm : ranV (sOn 0x3C71_0001_02F1_0000_0000_4567 fun _ => [0, 0x0A0B_0C0D, 0x1122_3344]) 0 0 = 0x4433_2211 := by decide +kernel
/-- 05 R149: the spec's `idiv.remi.i32 v2, v3, v4`, issued and completed, keeps the sign of a: −7 rem 2 = −1. -/
theorem test_remi : (let s := nextOf (step (sOn 0x3973_0203_04F0_0000_0000_0000 fun _ => [0, 0, 0, 0xFFFF_FFF9, 2]))
    (((wOf (nextOf (exec (.queueOpComplete 0 0) s))).thread 3).vreg 2).toNat) = 0xFFFF_FFFF := by decide +kernel
/-- 02 R36: the spec's `?p2 fadd.f32 v4, v5, v6`; 1 + 2^−24 is a tie to the even 1 and raises NX alone (04 R101, R106). -/
theorem test_fadd_tie : let s := withT (sOn 0x4028_0405_06F0_0000_0000_0000 fun _ => [0, 0, 0, 0, 7, 0x3F80_0000, 0x3380_0000]) fun t => { t with p := 4 }
    ranV s 1 4 = 0x3F80_0000 ∧ (ranT s 1).fpflags.toNat = 16 := by decide +kernel
/-- A lane whose guard is false keeps its register (02 R26). -/
theorem test_fadd_guard : ranV (withT (sOn 0x4028_0405_06F0_0000_0000_0000 fun _ => [0, 0, 0, 0, 7, 0x3F80_0000, 0x3380_0000]) fun t =>
    { t with p := if t.tid = 1 then 0 else 4 }) 1 4 = 7 := by decide +kernel
/-- 02 R43: the spec's pair; 1.5 + 2.25 = 3.75 beside 40 + 2. -/
theorem test_pair : let s := sOn 0x4384_0A18_0200_0389_142C_0000 (fun _ => [0, 0, 0, 0, 0, 0x3FC0_0000, 0x4010_0000, 0, 0, 0, 40, 2]) 1
    ranV s 0 4 = 0x4070_0000 ∧ ranV s 0 9 = 42 := by decide +kernel
/-- 06 R166: the spec's `plog p3, p1, p2, 0x30`: p1 and not p2. -/
theorem test_plog : (ranT (withT (sOn 0x3A70_C3C1_C2F0_0000_0000_0030 fun _ => []) fun t => { t with p := 2 }) 0).p.getLsbD 3 = true ∧
    (ranT (withT (sOn 0x3A70_C3C1_C2F0_0000_0000_0030 fun _ => []) fun t => { t with p := 6 }) 0).p.getLsbD 3 = false := by decide +kernel
/-- 06 R171: the spec's `shfl.down v2, v1, 3` and `shfl.idx v4, v1, 17` on 16 lanes of 100 + l. -/
theorem test_shfl : ranV (sOn 0x6072_0201_F1F0_0000_0000_0003 fun l => [0, 100 + l, 0]) 4 2 = 107 ∧
    ranV (sOn 0x6072_0201_F1F0_0000_0000_0003 fun l => [0, 100 + l, 0]) 14 2 = 114 ∧
    ranV (sOn 0x6070_0401_F1F0_0000_0000_0011 fun l => [0, 100 + l, 0, 0, 0]) 9 4 = 101 := by decide +kernel
/-- 03 R86: DISP = −30 from the line at 0x1000 leads to 0x0F88, slot 1 of the line at 0x0F80. -/
theorem test_bra : let s := sAt [0x1070_F0F0_F0F0_0000_FFFF_FFE2]
    let s := { s with mem := memPutAll s.mem (cellsAt 0x0F80 (bytesOf 64 (lineOf5 [] 2 0))) }
    (ranT s 0).pc = 0x0F88 := by decide +kernel
/-- 03 R82: after `exit` the thread is EXITED, and with its last thread the warp drains (R92). -/
theorem test_exit : let s := sAt [0x0970_F0F0_F0F0_0000_0000_0000]
    (ranT s 0).st = .exited ∧ (wOf (nextOf (step s))).draining = true := by decide +kernel
/-- 17 R456, R473: `trap` stops the warp, whose PC stays. -/
theorem test_trap : let s := sAt [0x0370_F0F0_F0F0_0000_0000_0007]
    (wOf (nextOf (step s))).stopped ≠ [] ∧ (ranT s 0).pc = 0x1000 ∧ (nextOf (step s)).recs.length = 1 := by decide +kernel
/-- 08 R214: `famax` of an old +0.0 with −5.0 is 5.0; R213: `dec` of 0 gives c. -/
theorem test_atomics : fatomVal 4 4 0 0xC0A0_0000 = 0x40A0_0000 ∧ atomVal 8 false 32 0 9 = 9 ∧ atomVal 7 false 32 9 9 = 0 := by decide
/-- 05 R163, its example: segment 160 of [−4, 4) with 0.5, 0.25, 2.0 at 1.015625 gives 1033 / 2048 and no flag. -/
theorem test_act : actEval (bytesOf 4 0xC080_0000 ++ bytesOf 4 0x4080_0000 ++ List.replicate 1928 0 ++
    bytesOf 4 0x3F00_0000 ++ bytesOf 4 0x3E80_0000 ++ bytesOf 4 0x4000_0000) {} 0x3F82_0000 = (0x3F01_2000, 0) := by decide +kernel
/-- 10 R278, its example: one rounding for each block keeps 2^24; from 0 the same blocks give 2.0. -/
theorem test_matrix : let k : KBlock := kblock 4 (bytesOf 20 (0x3FE + 2 ^ 96))
    let x := macTerm k k
    accStep (accStep 0x4B80_0000 x) x = 0x4B80_0000 ∧ accStep (accStep 0 x) x = 0x4000_0000 := by decide +kernel
/-- 10 R280, call 2 of its example: (7.0, 201), then of the three entries of 5.0 the one of index 101. -/
theorem test_topk : (rankSort true [(0x40A0_0000, 101), (0x40A0_0000, 102), (0x40A0_0000, 200), (0x40E0_0000, 201), (0xFF80_0000, 202), (0x3F80_0000, 203)]).take 2 =
    [(0x40E0_0000, 201), (0x40A0_0000, 101)] := by decide +kernel
/-- 13 R369, its example: lengths 1, 2, 3, 3, and `penc` of the four bytes in turn writes 0xDA, 0x01. -/
def exTable : List Byte := ((huffLens 20 (byteCounts (List.replicate 8 0x41 ++ List.replicate 4 0x42 ++ List.replicate 3 0x43 ++ [0x44]))).map (BitVec.ofNat 8))
theorem test_table : (exTable.drop 0x40).take 6 = [0, 1, 2, 3, 3, 0] ∧ codeOf exTable 0x44 = some (3, 7) := by decide +kernel
/-- 13 R363: `put x1, 9` appends nine bits, the lowest first. -/
theorem test_put : ((txEffect (.txPutImm 1 9) (({ outMax := some 512, x := List.replicate 8 0 } : Lane).setReg 1 0x1DA)).out) =
    [false, true, false, true, true, false, true, true, true] := by decide +kernel

end Slice0
end

section
namespace Sys2Proof.Claims

set_option Elab.async false

open Sys2Proof Sys2Proof.Machine

/-!
### The canonical form of the memories is kept

`State.mem` and `State.dram` change by `memPutAll` in every function of the model but two: bring-up clears a range of `mem` (R492), and a
reset gives new memories. So each function that answers a state has here one lemma, `Canonical.<function>`, that its state is canonical
where the one it was given is, and the proofs follow the function's own text: a change of other fields is `quiet`, a write is `stored` or
`storedDram`, and `ite`, `foldl` and a case split stand where the function branches or repeats.
-/

theorem memWfFrom_filter {m : Memory} {lo : Nat} (p : Host.Cell → Bool) (h : memWfFrom lo m = true) :
    memWfFrom lo (m.filter p) = true := by
  induction m generalizing lo with
  | nil => exact h
  | cons c r ih =>
    simp only [memWfFrom, Bool.and_eq_true] at h
    obtain ⟨hc, hr⟩ := h
    rw [List.filter_cons]
    split
    · simp only [memWfFrom, Bool.and_eq_true]
      exact ⟨hc, ih hr⟩
    · exact memWfFrom_mono (by simp only [decide_eq_true_eq] at hc; omega) (ih hr)

/-- A change of the state beside both memories. -/
theorem Canonical.quiet {s t : State} (h : Canonical s) (hm : t.mem = s.mem := by rfl) (hd : t.dram = s.dram := by rfl) :
    Canonical t :=
  ⟨hm ▸ h.1, hd ▸ h.2⟩

/-- A write to memory as software reads it. -/
theorem Canonical.stored {s t : State} {cs : List Host.Cell} (h : Canonical s) (hm : t.mem = memPutAll s.mem cs := by rfl)
    (hd : t.dram = s.dram := by rfl) : Canonical t :=
  ⟨hm ▸ memPutAll_wf cs h.1, hd ▸ h.2⟩

/-- A write to DRAM, behind the memory-side cache. -/
theorem Canonical.storedDram {s t : State} {cs : List Host.Cell} (h : Canonical s) (hm : t.mem = s.mem := by rfl)
    (hd : t.dram = memPutAll s.dram cs := by rfl) : Canonical t :=
  ⟨hm ▸ h.1, hd ▸ memPutAll_wf cs h.2⟩

/-! ### What a function may answer beside a state -/

/-- An effect of an instruction's body whose state is canonical, if it has one. -/
def CanonicalEff : Eff → Prop
  | .done t | .jump t _ | .hold t => Canonical t
  | .trap _ => True

/-- An outcome whose state is canonical, if it has one. -/
def CanonicalOut : Out → Prop
  | .next t => Canonical t
  | .fault _ | .refused _ => True

/-- What an issue finds to execute, with a canonical state. -/
def CanonicalNext : Next → Prop
  | .done t | .instr t _ => Canonical t

/-- A fetched line, with a canonical state. -/
def CanonicalFetched : Fetched → Prop
  | .line t _ => Canonical t
  | .trap _ => True

/-- What the read of a region answers: a canonical state, or an effect that stops the instruction. -/
def CanonicalRead : RegionRead → Prop
  | .bytes t _ => Canonical t
  | .stop x => CanonicalEff x

/-- What a launch answers, with a canonical state. -/
def CanonicalLaunched : Launched → Prop
  | .waits t | .refused t | .started t => Canonical t

/-- An answer that may be missing, and holds a canonical state where it is not. -/
def CanonicalSome {α : Type} (π : α → State) (x : Option α) : Prop := ∀ a, x = some a → Canonical (π a)

theorem CanonicalSome.none {α : Type} {π : α → State} : CanonicalSome π none := fun _ e => nomatch e

theorem CanonicalSome.some {α : Type} {π : α → State} {a : α} (h : Canonical (π a)) : CanonicalSome π (some a) := by
  intro b e
  cases e
  exact h

theorem Canonical.of_fst {α : Type} {x : State × α} {t : State} {a : α} (h : Canonical x.1) (e : x = (t, a)) : Canonical t := by
  subst e
  exact h

theorem Canonical.of_snd {α : Type} {x : α × State} {t : State} {a : α} (h : Canonical x.2) (e : x = (a, t)) : Canonical t := by
  subst e
  exact h

/-! ### Branches -/

theorem Canonical.ite {c : Prop} [Decidable c] {s t : State} (hs : Canonical s) (ht : Canonical t) :
    Canonical (if c then s else t) :=
  iteInduction (fun _ => hs) fun _ => ht

theorem Canonical.ite_fst {α : Type} {c : Prop} [Decidable c] {x y : State × α} (hx : Canonical x.1) (hy : Canonical y.1) :
    Canonical (if c then x else y).1 :=
  iteInduction (motive := fun x : State × α => Canonical x.1) (fun _ => hx) fun _ => hy

theorem Canonical.ite_snd {α : Type} {c : Prop} [Decidable c] {x y : α × State} (hx : Canonical x.2) (hy : Canonical y.2) :
    Canonical (if c then x else y).2 :=
  iteInduction (motive := fun x : α × State => Canonical x.2) (fun _ => hx) fun _ => hy

theorem CanonicalEff.ite {c : Prop} [Decidable c] {a b : Eff} (ha : CanonicalEff a) (hb : CanonicalEff b) :
    CanonicalEff (if c then a else b) :=
  iteInduction (fun _ => ha) fun _ => hb

theorem CanonicalOut.ite {c : Prop} [Decidable c] {a b : Out} (ha : CanonicalOut a) (hb : CanonicalOut b) :
    CanonicalOut (if c then a else b) :=
  iteInduction (fun _ => ha) fun _ => hb

theorem CanonicalNext.ite {c : Prop} [Decidable c] {a b : Next} (ha : CanonicalNext a) (hb : CanonicalNext b) :
    CanonicalNext (if c then a else b) :=
  iteInduction (fun _ => ha) fun _ => hb

theorem CanonicalRead.ite {c : Prop} [Decidable c] {a b : RegionRead} (ha : CanonicalRead a) (hb : CanonicalRead b) :
    CanonicalRead (if c then a else b) :=
  iteInduction (fun _ => ha) fun _ => hb

theorem CanonicalLaunched.ite {c : Prop} [Decidable c] {a b : Launched} (ha : CanonicalLaunched a) (hb : CanonicalLaunched b) :
    CanonicalLaunched (if c then a else b) :=
  iteInduction (fun _ => ha) fun _ => hb

theorem CanonicalSome.ite {α : Type} {π : α → State} {c : Prop} [Decidable c] {x y : Option α} (hx : CanonicalSome π x)
    (hy : CanonicalSome π y) : CanonicalSome π (if c then x else y) :=
  iteInduction (fun _ => hx) fun _ => hy

/-! ### Repetitions -/

theorem Canonical.foldl {α : Type} {f : State → α → State} {s : State} {l : List α} (h : Canonical s)
    (hf : ∀ s a, Canonical s → Canonical (f s a)) : Canonical (l.foldl f s) :=
  List.foldlRecOn l f h fun s hs a _ => hf s a hs

theorem Canonical.foldl_fst {α β : Type} {f : State × β → α → State × β} {x : State × β} {l : List α} (h : Canonical x.1)
    (hf : ∀ x a, Canonical x.1 → Canonical (f x a).1) : Canonical (l.foldl f x).1 :=
  List.foldlRecOn (motive := fun x => Canonical x.1) l f h fun x hx a _ => hf x a hx

theorem Canonical.foldl_snd {α β : Type} {f : β × State → α → β × State} {x : β × State} {l : List α} (h : Canonical x.2)
    (hf : ∀ x a, Canonical x.2 → Canonical (f x a).2) : Canonical (l.foldl f x).2 :=
  List.foldlRecOn (motive := fun x => Canonical x.2) l f h fun x hx a _ => hf x a hx

/-- A repetition that may fail: each step's answer is canonical where the one before it is. -/
theorem Canonical.foldl_ok {ε α β : Type} {π : β → State} {f : Except ε β → α → Except ε β} {l : List α} {b c : β}
    (h : Canonical (π b)) (hf : ∀ x a c, (∀ b, x = .ok b → Canonical (π b)) → f x a = .ok c → Canonical (π c))
    (e : l.foldl f (.ok b) = .ok c) : Canonical (π c) := by
  refine List.foldlRecOn (motive := fun x => ∀ c, x = .ok c → Canonical (π c)) l f ?_ (fun x hx a _ c => hf x a c hx) c e
  intro c e
  cases e
  exact h

/-! ### The parts of the state -/

theorem Canonical.setCore {s : State} {k : Nat} {c : Core} (h : Canonical s) : Canonical (s.setCore k c) := h.quiet
theorem Canonical.setCluster {s : State} {k : Nat} {c : Cluster} (h : Canonical s) : Canonical (s.setCluster k c) := h.quiet
theorem Canonical.setPort {s : State} {k : Nat} {p : Port} (h : Canonical s) : Canonical (s.setPort k p) := h.quiet
theorem Canonical.setStack {s : State} {k : Nat} {p : Stack} (h : Canonical s) : Canonical (s.setStack k p) := h.quiet
theorem Canonical.setContext {s : State} {k : Nat} {c : Context} (h : Canonical s) : Canonical (s.setContext k c) := h.quiet
theorem Canonical.setFport {s : State} {k : Nat} {p : FPort} (h : Canonical s) : Canonical (s.setFport k p) := h.quiet
theorem Canonical.setWarp {s : State} {w : Warp} (h : Canonical s) : Canonical (s.setWarp w) := h.quiet
theorem Canonical.setRegion {s : State} {r : Region} (h : Canonical s) : Canonical (s.setRegion r) := h.quiet

theorem Canonical.coverRegion {s : State} {ctx rcb : Nat} {ws : List Nat} (h : Canonical s) : Canonical (s.coverRegion ctx rcb ws) := by
  unfold State.coverRegion
  split
  · exact h.quiet
  · exact h

theorem Canonical.setRec {s : State} {r : Rec} (h : Canonical s) : Canonical (s.setRec r) := h.quiet

theorem Canonical.enterOrder {s : State} {wid : Nat} {cells : List Host.Cell} {view : Nat} (h : Canonical s) :
    Canonical (enterOrder s wid cells view) :=
  h.stored

theorem Canonical.propagate {s : State} {wid view : Nat} (h : Canonical s) : Canonical (propagate s wid view) := h.quiet
theorem Canonical.reachAll {s : State} {wids : List Nat} (h : Canonical s) : Canonical (reachAll s wids) := h.quiet

theorem Canonical.joinReleases {s : State} {key lane since : Nat} {gains : List Nat} (h : Canonical s) :
    Canonical (s.joinReleases key lane since gains) := by
  unfold State.joinReleases
  split
  · exact h
  · exact h.quiet

theorem Canonical.learn {s : State} {key lane since : Nat} {acq : Option Nat} {wids : List Nat} (h : Canonical s) :
    Canonical (s.learn key lane since acq wids) := by
  unfold State.learn
  split
  · exact h
  · exact h.quiet.joinReleases

theorem Canonical.fill {s : State} {core ctx va : Nat} (h : Canonical s) : Canonical (s.fill core ctx va) := by
  unfold State.fill
  refine .ite h ?_
  split
  · refine .setCore ?_
    split
    · exact .ite h.stored h
    · exact h
  · split
    · exact .ite h.stored.setCore h
    · exact h

theorem Canonical.fillLanes {s : State} {w : Warp} {cs : List LaneChk} (h : Canonical s) : Canonical (fillLanes s w cs) :=
  .foldl h fun _ _ h => .ite h.fill h

/-! ### Issue -/

theorem Canonical.raise {s : State} {ctx region : Nat} {words : List W64} {acts : Resolves} {toService toDebug : Bool}
    {who : Option Nat} (h : Canonical s) : Canonical (s.raise ctx region words acts toService toDebug who) :=
  h.quiet

theorem Canonical.withWarp {s : State} {key : Nat} {g : Warp → Warp} (h : Canonical s) : Canonical (s.withWarp key g) := by
  unfold State.withWarp
  split
  · exact h.quiet
  · exact h

theorem Canonical.takeTrap {s : State} {i : Iss} {t : Trap} (h : Canonical s) : Canonical (takeTrap s i t) := by
  unfold Machine.takeTrap
  extract_lets w back w'
  split
  · exact h.setWarp
  refine .setWarp (.raise ?_)
  split
  · exact h.setPort
  · exact h

theorem Canonical.leave {s : State} {key : Nat} {pfx : Option Pfx} {pcs : List (Nat × W64)} (h : Canonical s) :
    Canonical (s.leave key pfx pcs) :=
  .ite h h.withWarp

theorem Canonical.setGone {s : State} {key : Nat} {pcs : List (Nat × W64)} (h : Canonical s) : Canonical (s.setGone key pcs).1 := by
  unfold State.setGone
  split
  · exact h
  · exact h.quiet

/-- The bundles of an issue keep the canonical form where the effect of each does. -/
theorem Canonical.runBundles {key : Nat} {pfx : Option Pfx} {g : BitVec 4} {stall : State → Warp → Bool} {body : Iss → State → Eff}
    {blank : Blank} (hb : ∀ i s, Canonical s → CanonicalEff (body i s)) (he : ∀ i s, Canonical s → Canonical (blank.eff i s))
    {bs : List (List Nat)} {s : State} {pcs : List (Nat × W64)} (h : Canonical s) :
    Canonical (runBundles key pfx g stall body blank bs s pcs) := by
  induction bs generalizing s pcs with
  | nil => exact h.withWarp
  | cons b r ih =>
    unfold Machine.runBundles
    split
    · exact h
    next w _ =>
    have ht := hb { issOf w g b with pfx := pfx } _ (h.withWarp (key := key) (g := fun w => w.countIssue b))
    refine .ite h.leave (.ite (ih (he _ _ h.withWarp)) ?_)
    split
    · next t e => exact ih (e ▸ ht : CanonicalEff (.done t))
    · next t q e =>
      have ht : Canonical t := (e ▸ ht : CanonicalEff (.jump t q))
      exact .ite (ih ht) (ih ht.setGone)
    · exact h.takeTrap
    · next t e =>
      have ht : Canonical t := (e ▸ ht : CanonicalEff (.hold t))
      exact ht.leave

theorem Canonical.issueSplit {i : Instr} {s : State} {split : Bool} {blank : Blank} {body : Iss → State → Eff} (h : Canonical s)
    (hb : ∀ i s, Canonical s → CanonicalEff (body i s))
    (he : ∀ i s, Canonical s → Canonical (blank.eff i s) := by exact fun _ _ h => h) :
    CanonicalOut (issueSplit i s split blank body) := by
  unfold Machine.issueSplit
  split
  · refine .ite trivial ?_
    dsimp only
    split
    · exact h.takeTrap
    · exact Canonical.runBundles hb he h
  · trivial

theorem Canonical.issue {i : Instr} {s : State} {body : Iss → State → Eff} (h : Canonical s)
    (hb : ∀ i s, Canonical s → CanonicalEff (body i s)) : CanonicalOut (issue i s body) :=
  h.issueSplit hb

theorem Canonical.back {s : State} {i : Iss} (h : Canonical s) : Canonical (i.back s) := h.quiet
theorem Canonical.upd {s : State} {i : Iss} {g : Warp → Warp} (h : Canonical s) : Canonical (s.upd i g) := h.withWarp
theorem Canonical.writeEff {s : State} {i : Iss} {rs : List RegWrite} (h : Canonical s) : CanonicalEff (writeEff i s rs) := h.upd

theorem Canonical.commit {s : State} {i : Iss} {scal : Bool} {outs : List LaneOut} (h : Canonical s) :
    CanonicalEff (commit i s scal outs) := by
  unfold Machine.commit
  dsimp only
  split
  · trivial
  · exact h.upd

theorem Canonical.enqueueWith {s : State} {i : Iss} {q : Nat} {may : Bool} {t : Option Trap} {fl : List (Nat × Flags)}
    {bank : Option Nat} {outs : List LaneOut} (h : Canonical s) : CanonicalEff (enqueueWith i s q may t fl bank outs) :=
  .ite h.upd h.upd

theorem Canonical.enqueue {s : State} {i : Iss} {q : Nat} {scal : Bool} {raises : Flags} {bank : Option Nat} {outs : List LaneOut}
    (h : Canonical s) : CanonicalEff (enqueue i s q scal raises bank outs) :=
  h.enqueueWith

theorem Canonical.issueValue {s : State} {x : Instr} {f : Fields} {wide : Bool} {g : Iss → Nat → Nat} (h : Canonical s) :
    CanonicalOut (issueValue x f s wide g) :=
  h.issueSplit fun _ _ h => h.commit

/-! ### Transducers -/

theorem Canonical.txOn {s : State} {i : Instr} (h : Canonical s) : CanonicalOut (txOn i s) := h.quiet

/-! ### The memory-side cache -/

theorem Canonical.putLine {s : State} {l : Line} (h : Canonical s) : Canonical (s.putLine l) := h.quiet

theorem Canonical.allocate {s : State} {l : Line} (h : Canonical s) : Canonical (s.allocate l) :=
  .ite h.quiet (.foldl h.quiet fun _ _ h => .ite h h.quiet)

theorem Canonical.dropLine {s : State} {pa : Nat} (h : Canonical s) : Canonical (s.dropLine pa) := h.quiet
theorem Canonical.send {s : State} {kind : PacketKind} {loc n : Nat} (h : Canonical s) : Canonical (s.send kind loc n) := h.quiet
theorem Canonical.setFrt {s : State} {pa n : Nat} (h : Canonical s) : Canonical (s.setFrt pa n) := h.quiet
theorem Canonical.setMeta {s : State} {pa v : Nat} (h : Canonical s) : Canonical (s.setMeta pa v) := h.quiet
theorem Canonical.requestBlk {s : State} {k : Blk} (h : Canonical s) : Canonical (s.requestBlk k) := .ite h (.setPort (.ite h h.quiet))

theorem Canonical.install {s : State} {k : Blk} {plain : List Byte} (h : Canonical s) : Canonical (s.install k plain) :=
  h.stored.allocate

theorem Canonical.hold {s : State} {k : Blk} (h : Canonical s) : Canonical (s.hold k) := .ite h.quiet h.allocate
theorem Canonical.rewritten {s : State} {whole : Nat → Bool} (h : Canonical s) : Canonical (s.rewritten whole) := h.quiet

theorem Canonical.storeForm {s : State} {pa size state used : Nat} {bytes : List Byte} (h : Canonical s) :
    Canonical (s.storeForm pa size state used bytes) := by
  unfold State.storeForm
  extract_lets old m1 m2 s1 s2 s3
  have h1 : Canonical s1 := .ite h.send h.send
  have h2 : Canonical s2 := .foldl h1 fun _ _ h => .ite h h.setMeta
  have h3 : Canonical s3 := h2.rewritten
  exact .setMeta h3.storedDram

theorem Canonical.storePlain {s : State} {l : Line} {bound : Bool} (h : Canonical s) : Canonical (s.storePlain l bound) := by
  have hs := h.send (kind := .write) (loc := l.pa) (n := l.bytes)
  exact .ite h.storeForm (.foldl (.rewritten hs.storedDram) fun _ _ h => h.setMeta)

theorem Canonical.touchLine {s : State} {k : Blk} {locs : List Nat} {tag : WriterTag} (h : Canonical s) :
    Canonical (s.touchLine k locs tag) := by
  unfold State.touchLine
  refine .foldl h.hold fun _ _ h => ?_
  split
  · exact h.quiet
  · exact h

theorem Canonical.repair {s : State} {locs : List Nat} {loc : Nat} (h : Canonical s) : Canonical (s.repair locs loc) := by
  unfold State.repair
  extract_lets word burst u
  have hu : Canonical u := by
    dsimp only [u]
    split
    · exact .ite h.putLine h
    · exact h
  exact .ite hu.quiet hu

theorem Canonical.storeDamaged {s : State} {l : Line} (h : Canonical s) : Canonical (s.storeDamaged l) :=
  .putLine (.ite h.storePlain h.storePlain.quiet)

theorem Canonical.countRaw {s : State} {pa : Nat} (h : Canonical s) : Canonical (s.countRaw pa) := h.quiet

theorem Canonical.failWb {s : State} {l : Line} {dec : Bool} {r index : Nat} {m : Option Nat} (h : Canonical s) :
    Canonical (s.failWb l dec r index m).1 := by
  unfold State.failWb
  dsimp only
  split
  · exact h.quiet.storePlain.putLine
  · exact h.quiet

theorem Canonical.writeBackBlock {s : State} {l : Line} (h : Canonical s) : Canonical (s.writeBackBlock l).1 := by
  unfold State.writeBackBlock
  split
  · exact h.storeDamaged
  split
  · exact h.storePlain.putLine
  split
  · exact h.storeForm.putLine
  · exact h.storeForm.putLine
  · exact .putLine (.ite h.storePlain.countRaw h.storePlain)
  · exact h.failWb

theorem Canonical.recut {s t : State} {l : Line} {ls : List Line} (h : Canonical s) (e : s.recut l = .ok (t, ls)) : Canonical t := by
  refine Canonical.foldl_ok (π := Prod.fst) (b := (s, [])) h (fun a k p ha ep => ?_) e
  split at ep
  · cases ep
  next u us =>
  have hu : Canonical u := ha _ rfl
  split at ep
  · cases ep
    exact hu
  split at ep
  · cases ep
  · cases ep
    exact hu.stored

theorem Canonical.writeBack {s : State} {l : Line} (h : Canonical s) : Canonical (s.writeBack l).1 := by
  unfold State.writeBack
  split
  · exact h.writeBackBlock
  split
  · exact h.failWb
  next e => exact .foldl_fst ((h.recut e).dropLine) fun _ _ h => h.quiet.writeBackBlock

theorem Canonical.raiseWb {s : State} {f : WbFail} (h : Canonical s) : Canonical (s.raiseWb f) := by
  unfold State.raiseWb
  split
  · exact h
  · exact h.quiet

theorem Canonical.writeBackDeferred {s : State} {l : Line} (h : Canonical s) : Canonical (s.writeBackDeferred l).1 := by
  unfold State.writeBackDeferred
  split
  · exact h
  split
  · exact h
  refine .foldl ?_ fun _ _ h => h.raiseWb
  exact h.writeBack

theorem Canonical.evict {s : State} {l : Line} (h : Canonical s) : Canonical (s.evict l) :=
  .ite (.foldl (.foldl_fst h fun _ _ h => h.writeBackDeferred) fun _ _ h => h.quiet) (.foldl_fst h fun _ _ h => h.writeBackDeferred)

theorem Canonical.abandon {s : State} {l : Line} (h : Canonical s) : Canonical (s.abandon l) := by
  unfold State.abandon
  dsimp only
  split
  · exact h.stored
  refine .foldl h.quiet fun _ _ h => ?_
  split
  · exact h.stored
  · exact h

theorem Canonical.unstop {s : State} {id : Nat} (h : Canonical s) : Canonical (s.unstop id) := h.quiet

theorem Canonical.lineDone {s : State} {pa : Nat} (h : Canonical s) : Canonical (s.lineDone pa) :=
  (Canonical.foldl h fun _ _ h => h.unstop).quiet

theorem Canonical.retryBlock {s : State} {mode : Nat} {l : Line} (h : Canonical s) : Canonical (State.retryBlock mode s l) := by
  unfold State.retryBlock
  dsimp only
  exact .ite h.storeDamaged (.ite h (.ite h.storePlain.putLine (.foldl h.quiet.writeBack fun _ _ h => h.raiseWb)))

theorem Canonical.resolveLine {s : State} {pa mode : Nat} (h : Canonical s) : Canonical (s.resolveLine pa mode) := by
  unfold State.resolveLine
  split
  · exact h
  refine .ite h (.ite (.foldl h fun _ _ h => h.abandon) ?_)
  extract_lets t
  have ht : Canonical t := .foldl h.retryBlock fun _ _ h => h.retryBlock
  exact .ite ht ht.lineDone

theorem Canonical.resolveSync {s : State} {mode pa : Nat} (h : Canonical s) : Canonical (State.resolveSync mode s pa) := by
  unfold State.resolveSync
  split
  · exact h
  · exact .ite h (.ite (.ite h (.foldl h fun _ _ h => h.abandon)) (.ite h.storeDamaged.lineDone h.quiet))

/-! ### Loads, stores and cache operations -/

theorem Canonical.noteCow {s : State} {ctx : Nat} {cs : List LaneChk} (h : Canonical s) : Canonical (s.noteCow ctx cs) := h.quiet

/-- An access that stops its instruction leaves the memories as they were. -/
theorem Canonical.accessStop {i : Iss} {s : State} {kind : Nat} {cs : List LaneChk} {x : Eff} (h : Canonical s)
    (e : accessStop i s kind cs = some x) : CanonicalEff x := by
  unfold Machine.accessStop at e
  split at e
  · cases e
    trivial
  split at e
  · cases e
    exact h.quiet
  · cases e

theorem Canonical.requestBlock {s : State} {ctx pol : Nat} {c : LaneChk} (h : Canonical s) : Canonical (s.requestBlock ctx pol c) :=
  .ite h h.quiet.requestBlk

theorem Canonical.dataCache {s : State} {w : Warp} {pol : Nat} {store : Bool} {c : LaneChk} (h : Canonical s) :
    Canonical (s.dataCache w pol store c) :=
  .ite h h.quiet

theorem Canonical.startLoad {s : State} {i : Iss} {f : Fields} {m : Mods} {cs : List LaneChk} (h : Canonical s) :
    Canonical (startLoad i s f m cs) :=
  .upd (.foldl h.fillLanes.quiet fun _ _ h => h.requestBlock.dataCache)

theorem Canonical.loadBody {s : State} {f : Fields} {spad : Bool} {i : Iss} (h : Canonical s) : CanonicalEff (loadBody f spad i s) := by
  unfold Machine.loadBody
  refine .ite trivial ?_
  dsimp only
  split
  · next e => exact h.accessStop e
  · exact h.startLoad

theorem Canonical.pushEntry {s : State} {key : Nat} {p : Post} {lane : Nat} {va : W64} {cells : List Host.Cell} (h : Canonical s) :
    Canonical (pushEntry key p lane va cells s) := by
  unfold Machine.pushEntry
  split
  · exact h
  · exact .setWarp (.ite h.quiet h.quiet)

theorem Canonical.noteClass {s : State} {ctx pol : Nat} {c : LaneChk} (h : Canonical s) : Canonical (s.noteClass ctx pol c) :=
  .ite h h.quiet

theorem Canonical.pushStores {s : State} {i : Iss} {kind : FifoKind} {m : Mods} {data : List (LaneChk × List Byte)} (h : Canonical s) :
    Canonical (pushStores i kind m data s) :=
  .upd (.foldl h fun _ _ h => .foldl h.noteClass.dataCache fun _ _ h => h.pushEntry)

theorem Canonical.storeBody {s : State} {f : Fields} {spad : Bool} {i : Iss} (h : Canonical s) :
    CanonicalEff (storeBody f spad i s) := by
  unfold Machine.storeBody
  refine .ite trivial ?_
  dsimp only
  split
  · next e => exact h.accessStop e
  · exact h.fillLanes.pushStores

theorem Canonical.postBody {f : Fields} {ends : Bool} {i : Iss} {s : State} (h : Canonical s) : CanonicalEff (postBody f ends i s) := by
  unfold Machine.postBody
  extract_lets v cs
  split
  · next e => exact h.accessStop e
  · exact h.fillLanes.pushStores

theorem Canonical.flitOk {s : State} {port : Nat} (h : Canonical s) : Canonical (s.flitOk port) := h.quiet
theorem Canonical.crossed {s : State} {loc : Nat} (h : Canonical s) : Canonical (s.crossed loc) := .ite h h.quiet
theorem Canonical.notePf {s : State} {ctx : Nat} {c : LaneChk} (h : Canonical s) : Canonical (s.notePf ctx c) := .ite h (.ite h h.quiet)

theorem Canonical.cwbBody {s : State} {f : Fields} {sync : Bool} {i : Iss} (h : Canonical s) : CanonicalEff (cwbBody f sync i s) := by
  unfold Machine.cwbBody
  dsimp only
  split
  · next e => exact h.accessStop e
  · exact .ite h.quiet.upd.upd h.quiet.upd

theorem Canonical.pushMarker {s : State} {key : Nat} {kind : FifoKind} {lanes : List Nat} {scope : Nat} {pc : W64} (h : Canonical s) :
    Canonical (pushMarker key kind lanes scope pc s) := by
  unfold Machine.pushMarker
  split
  · exact h
  · exact h.quiet

theorem Canonical.execForward {s : State} {w load lane : Nat} (h : Canonical s) : CanonicalOut (execForward w load lane s) := by
  unfold Machine.execForward
  split
  · exact h
  split
  · exact h
  · exact .ite h (.ite h h.quiet.learn)

theorem Canonical.raiseLate {s : State} {w : Warp} {kind : Nat} {pc : W64} {ep : W32} {since : Nat} {bad : List (Nat × W64 × Nat)}
    {batch : Nat} {undo : Bool} {acts : Resolves} (h : Canonical s) : Canonical (raiseLate s w kind pc ep since bad batch undo acts) :=
  h.quiet

theorem Canonical.settleLoad {s : State} {key id : Nat} (h : Canonical s) : Canonical (settleLoad s key id) := by
  unfold Machine.settleLoad
  split
  · exact h
  split
  · exact h
  · exact .ite h (.ite h.quiet h.quiet)

theorem Canonical.execRead {w load lane : Nat} {s : State} (h : Canonical s) : CanonicalOut (execRead w load lane s) := by
  unfold Machine.execRead
  split
  · exact h
  split
  · exact h
  refine .ite (Canonical.ite h.requestBlk h) ?_
  extract_lets rest locs why byte wids z t
  clear_value why
  split
  · exact h.setWarp.settleLoad
  · exact Canonical.settleLoad (.learn (.setWarp (.ite h.hold h.crossed)))

/-! ### DRAIN and PROPAGATE -/

theorem Canonical.settleOp {s : State} {key : Nat} {e : FifoEnt} (h : Canonical s) : Canonical (settleOp s key e) := by
  unfold Machine.settleOp
  split
  · exact h
  · exact .ite h (.ite h.quiet (.ite h.quiet (.ite h.quiet h.quiet)))

theorem Canonical.failStore {s : State} {w : Warp} {e : FifoEnt} {r entry : Nat} (h : Canonical s) :
    Canonical (failStore s w e r entry) :=
  .withWarp (.raiseLate (.foldl h fun _ _ h => h.quiet))

theorem Canonical.failEntries {s : State} {w : Warp} {e : FifoEnt} {mine : FifoEnt → Bool} {r entry : Nat} (h : Canonical s) :
    Canonical (failEntries s w e mine r entry) :=
  h.quiet.settleOp

theorem Canonical.failEntry {s : State} {w : Warp} {e : FifoEnt} {r : Nat} (h : Canonical s) : Canonical (failEntry s w e r) :=
  h.failEntries

theorem Canonical.askFor {s : State} {w : Warp} {e : FifoEnt} {reads : Bool} (h : Canonical s) : Canonical (s.askFor w e reads) :=
  .ite h.requestBlk h

theorem Canonical.acceptWrite {s : State} {w : Warp} {e : FifoEnt} {whole : List Nat} {cells : List Host.Cell} (h : Canonical s) :
    Canonical (acceptWrite s w e whole cells) := by
  unfold Machine.acceptWrite
  refine .ite (.touchLine (.enterOrder (.foldl (.ite ?_ h) fun _ _ h => h.repair))) h.enterOrder
  split
  · exact h.install
  · exact h

theorem Canonical.cleanData {s : State} {w : Warp} {gs : List Nat} (h : Canonical s) : Canonical (s.cleanData w gs) := h.quiet

theorem Canonical.cwbSyncLine {a : State × List WbFail} {l : Line} (h : Canonical a.1) : Canonical (cwbSyncLine a l).1 := by
  unfold Machine.cwbSyncLine
  split
  · exact h
  · exact .ite h.writeBack.lineDone h.writeBack

theorem Canonical.drainCwb {s : State} {w : Warp} {e : FifoEnt} {sync : Bool} (h : Canonical s) :
    Canonical (Machine.drainCwb s w e sync) := by
  unfold Machine.drainCwb
  extract_lets w' ls far u words t
  have hu : Canonical u := .ite h.cleanData h
  clear_value u far
  split
  · have ht : Canonical t := .foldl hu fun _ _ h => h.writeBackDeferred
    split
    · exact ht.setWarp
    · exact ht.raise.setWarp
  · have ht : Canonical (ls.foldl Machine.cwbSyncLine (u, [])).1 := .foldl_fst (f := Machine.cwbSyncLine) hu fun _ _ h => h.cwbSyncLine
    dsimp only
    split
    · exact ht.raise.setWarp
    · exact ht.raise.setWarp
    · exact ht.setWarp

/-! ### The ports' queues and atomics -/

theorem Canonical.toFabric {s : State} {w : Warp} {e : FifoEnt} (h : Canonical s) : Canonical (s.toFabric w e) := h.quiet.withWarp

theorem Canonical.fabricWrite {s : State} {port : Nat} (h : Canonical s) : Canonical (fabricWrite port s) := by
  unfold Machine.fabricWrite
  dsimp only
  split
  · exact h
  refine .ite h.quiet.withWarp.settleOp (.ite (.ite h (.ite h.quiet.withWarp.settleOp.flitOk h.quiet.enterOrder.settleOp)) ?_)
  split
  · exact h.quiet
  · exact h.quiet.withWarp.settleOp

theorem Canonical.sendEnd {s : State} {w : Warp} {ends : Bool} (h : Canonical s) : Canonical (s.sendEnd w ends) := by
  unfold State.sendEnd
  refine .ite h ?_
  split
  · exact h.quiet
  · exact h

theorem Canonical.execDrain {s : State} {w : Nat} (h : Canonical s) : CanonicalOut (execDrain w s) := by
  unfold Machine.execDrain
  split
  · exact h
  split
  · exact h
  refine .ite h ?_
  split
  · exact h
  · exact h
  · exact h.quiet
  · exact Canonical.ite h h.drainCwb
  split
  · dsimp only
    split
    · exact h.askFor
    · exact h.failEntry
    · exact h.toFabric
  · dsimp only
    split
    · exact h.askFor
    · exact h.failStore
    · exact h.acceptWrite.withWarp.sendEnd.settleOp

theorem Canonical.atomicBody {opc : Nat} {ret : Bool} {f : Fields} {i : Iss} {s : State} (h : Canonical s) :
    CanonicalEff (atomicBody opc ret f i s) := by
  unfold Machine.atomicBody
  refine .ite trivial ?_
  extract_lets m n lanes cs
  split
  · next e => exact h.accessStop e
  · exact Canonical.upd (.foldl h.fillLanes fun _ _ h => h.requestBlock.pushEntry)

theorem Canonical.performAtomic {s : State} {w : Warp} {e : FifoEnt} {ty op operand compare : Nat} {ret : Bool} {dst : BitVec 8}
    {acq : Bool} (h : Canonical s) : Canonical (performAtomic s w e ty op operand compare ret dst acq) := by
  unfold Machine.performAtomic
  dsimp only
  split
  · exact h.setWarp.learn
  · exact .acceptWrite (.quiet (h.setWarp.learn))

theorem Canonical.performNext {s : State} {key : Nat} {e : FifoEnt} (h : Canonical s) : Canonical (performNext key s e) := by
  unfold Machine.performNext
  split
  · exact h.performAtomic
  · exact h

theorem Canonical.execHomeRmw {s : State} {w : Nat} (h : Canonical s) : CanonicalOut (execHomeRmw w s) := by
  unfold Machine.execHomeRmw
  split
  · exact h
  split
  · exact h
  refine .ite h ?_
  split
  · exact h.askFor
  · exact h.failEntries
  · exact Canonical.settleOp (.foldl h.crossed fun _ _ h => h.performNext)

theorem Canonical.fetchLine {s : State} {w : Warp} {pc : W64} {lanes : List Nat} (h : Canonical s) :
    CanonicalFetched (fetchLine s w pc lanes) := by
  unfold Machine.fetchLine
  dsimp only
  split
  · exact h
  split
  · trivial
  · exact h.fill.quiet

/-! ### Fetch, values and control transfers -/

theorem Canonical.fetchNext {s : State} {w : Warp} (h : Canonical s) : CanonicalNext (fetchNext s w) := by
  unfold Machine.fetchNext
  dsimp only
  split
  · exact h.takeTrap
  next t line e =>
  have ht : Canonical t := (e ▸ h.fetchLine : CanonicalFetched (.line t line))
  split
  · exact ht.takeTrap
  · exact ht.takeTrap
  split
  · exact ht
  · exact ht.takeTrap
  · exact .ite ht.withWarp ht.takeTrap

theorem Canonical.evictLine {s : State} {core : Nat} (h : Canonical s) : Canonical (evictLine s core) := h.quiet
theorem Canonical.evictTlb {s : State} {core : Nat} (h : Canonical s) : Canonical (evictTlb s core) := h.quiet
theorem Canonical.parityFails {s : State} {w : Warp} (h : Canonical s) : Canonical (parityFails s w) := h.quiet.takeTrap

theorem Canonical.issueInt {s : State} {x : Instr} {f : Fields} {op : IntOp} (h : Canonical s) : CanonicalOut (issueInt x f s op) :=
  h.issueValue

theorem Canonical.issueFp {s : State} {x : Instr} {f : Fields} {g : Fmt → Rnd → Nat → Nat → Nat → Nat × Flags} (h : Canonical s) :
    CanonicalOut (issueFp x f s g) :=
  h.issueSplit fun _ _ h => h.commit

theorem Canonical.issueSpecial {s : State} {x : Instr} {op : Nat} {f : Fields} (h : Canonical s) :
    CanonicalOut (issueSpecial x op f s) :=
  h.issueSplit fun _ _ h => h.enqueue

theorem Canonical.execQueueOpComplete {s : State} {w queue : Nat} (h : Canonical s) : CanonicalOut (execQueueOpComplete w queue s) := by
  unfold Machine.execQueueOpComplete
  split
  · exact h
  split
  · exact h
  · exact .ite h.quiet.takeTrap h.quiet

theorem Canonical.issueLane {x : Instr} {f : Fields} {s : State} {wide : Bool} {v : Nat} {body : Iss → State → Eff} (h : Canonical s)
    (hb : ∀ i s, Canonical s → CanonicalEff (body i s)) : CanonicalOut (issueLane x f s wide v body) :=
  h.issueSplit hb fun _ _ h => .ite h.upd h

theorem Canonical.transfer {f : Fields} {link : Bool} {target : Iss → Nat → W64} {i : Iss} {s : State} (h : Canonical s) :
    CanonicalEff (transfer f link target i s) := by
  unfold Machine.transfer
  extract_lets ts
  split
  · trivial
  · exact h.upd

theorem Canonical.leaveEmu {f : Fields} {i : Iss} {s : State} (h : Canonical s) : CanonicalEff (leaveEmu f i s) := by
  unfold Machine.leaveEmu
  have ht := h.transfer (f := f) (link := false) (target := fun i l => targetA i f l) (i := i)
  split
  · next t q e =>
    have ht : Canonical t := (e ▸ ht : CanonicalEff (.jump t q))
    exact .ite (a := .jump _ _) ht.upd ht
  · exact ht

/-! ### Emulation, prefixes and pairs -/

theorem Canonical.execEmu {s : State} {f : Fields} (h : Canonical s) : CanonicalOut (execEmu f s) := by
  unfold Machine.execEmu
  refine h.issue fun _ _ h => ?_
  split
  · trivial
  refine .ite trivial ?_
  split
  · trivial
  dsimp only
  split
  · trivial
  · exact h.upd

theorem Canonical.prefixBody {s : State} {isImx : Bool} {f : Fields} {i : Iss} (h : Canonical s) :
    CanonicalEff (prefixBody isImx f i s) := by
  unfold Machine.prefixBody
  split
  · trivial
  · exact h.upd

theorem Canonical.issuePrefix {s : State} {x : Instr} {f : Fields} {isImx : Bool} (h : Canonical s) :
    CanonicalOut (issuePrefix x f s isImx) := by
  unfold Machine.issuePrefix
  split
  · exact .ite h.takeTrap (h.issue fun _ _ h => h.prefixBody)
  · trivial

theorem Canonical.pairBody {p q : ShortOp} {i : Iss} {s : State} (h : Canonical s) : CanonicalEff (pairBody p q i s) := by
  unfold Machine.pairBody
  refine .ite h ?_
  split
  · split
    · trivial
    · exact h.upd
  · split
    · trivial
    · exact h.enqueueWith

theorem Canonical.execShortPair {p q : ShortOp} {s : State} (h : Canonical s) : CanonicalOut (execShortPair p q s) := by
  unfold Machine.execShortPair
  split
  · trivial
  refine .ite trivial ?_
  dsimp only
  split
  · exact h.takeTrap
  · exact Canonical.runBundles (fun _ _ h => h.pairBody) (fun _ _ h => h) h

/-! ### Barriers and queues -/

theorem Canonical.poke {s : State} {loc : Nat} {bs : List Byte} (h : Canonical s) : Canonical (s.poke loc bs) := h.quiet.enterOrder
theorem Canonical.setBar {s : State} {loc : Nat} {b : BarObj} (h : Canonical s) : Canonical (s.setBar loc b) := h.poke

theorem Canonical.setBarCov {s : State} {loc phase : Nat} {c : List Nat} (h : Canonical s) : Canonical (s.setBarCov loc phase c) :=
  h.quiet

theorem Canonical.barWaiters {s : State} {loc : Nat} {g : Nat → Thread → BitVec 8 → Thread} (h : Canonical s) :
    Canonical (s.barWaiters loc g) :=
  h.quiet

theorem Canonical.barUpdate {s : State} {loc : Nat} {b : BarObj} {cov : List Nat} (h : Canonical s) :
    Canonical (s.barUpdate loc b cov) :=
  .ite h.quiet.setBar h.quiet.setBar.barWaiters.setBarCov

theorem Canonical.barBody {s : State} {f : Fields} {op : Iss → BarOp} {i : Iss} (h : Canonical s) :
    CanonicalEff (barBody f op i s) := by
  unfold Machine.barBody
  split
  · trivial
  split
  · trivial
  · exact h.upd

theorem Canonical.barInit {s : State} {loc n : Nat} (h : Canonical s) : Canonical (s.barInit loc n) :=
  .foldl h.setBar.barWaiters fun _ _ h => h.quiet

theorem Canonical.execBarrierUpdate {s : State} {w : Nat} (h : Canonical s) : CanonicalOut (execBarrierUpdate w s) := by
  unfold Machine.execBarrierUpdate
  split
  · exact h
  split
  · exact h
  refine .ite h ?_
  split
  · exact h.quiet.barInit
  split
  · exact h.quiet
  · exact h.quiet.barUpdate
  refine Canonical.takeTrap (.setWarp ?_)
  split
  · exact h.setBar
  · exact h

theorem Canonical.execBwait {s : State} {f : Fields} (h : Canonical s) : CanonicalOut (execBwait f s) := by
  unfold Machine.execBwait
  refine h.issue fun _ _ h => ?_
  split
  · trivial
  · exact .ite h.quiet (.ite trivial (.ite trivial h.upd.upd))

theorem Canonical.execBwaitTimeout {s : State} {w lane : Nat} (h : Canonical s) : CanonicalOut (execBwaitTimeout w lane s) := by
  unfold Machine.execBwaitTimeout
  split
  · exact h
  split
  · exact .ite h.quiet h
  · exact h

theorem Canonical.execBtest {s : State} {f : Fields} (h : Canonical s) : CanonicalOut (execBtest f s) := by
  unfold Machine.execBtest
  refine h.issueSplit fun _ _ h => ?_
  split
  · trivial
  · exact .ite h.quiet (Canonical.writeEff (.ite h.barUpdate h))

theorem Canonical.nbarBody {s : State} {f : Fields} {sync : Bool} {i : Iss} (h : Canonical s) : CanonicalEff (nbarBody f sync i s) := by
  unfold Machine.nbarBody
  split
  · trivial
  · exact .ite trivial (.ite h.quiet (.ite (Canonical.ite h.quiet.upd h.quiet) (.ite h.quiet.upd h.quiet)))

theorem Canonical.setQueue {s : State} {core k : Nat} {q : QDesc} (h : Canonical s) : Canonical (s.setQueue core k q) := h.quiet

theorem Canonical.execQinit {s : State} {f : Fields} (h : Canonical s) : CanonicalOut (execQinit f s) := by
  unfold Machine.execQinit
  refine h.issueSplit fun _ _ h => ?_
  split
  · trivial
  · exact .ite trivial h.quiet

theorem Canonical.pushVals {s : State} {core k sBase : Nat} {vals : List W32} {cov : List Nat} (h : Canonical s) :
    Canonical (s.pushVals core k sBase vals cov) :=
  .setQueue (.foldl h fun _ _ h => h.poke)

theorem Canonical.queueDo {s : State} {x : QWait} {sBase : Nat} (h : Canonical s) : Canonical (s.queueDo x sBase) :=
  .ite h.pushVals h.quiet.withWarp

theorem Canonical.queuePred {s : State} {x : QWait} {ok : Bool} (h : Canonical s) : Canonical (s.queuePred x ok) := by
  unfold State.queuePred
  split
  · exact h
  · exact h.withWarp

theorem Canonical.queueBody {s : State} {f : Fields} {push : Bool} {i : Iss} (h : Canonical s) :
    CanonicalEff (queueBody f push i s) := by
  unfold Machine.queueBody
  split
  · trivial
  · exact .ite trivial (.ite trivial (.ite h.quiet (.ite h.queueDo.queuePred (.ite h.queuePred h.upd.quiet))))

theorem Canonical.queueWake {s : State} {x : QWait} (h : Canonical s) : Canonical (s.queueWake x) := h.quiet.withWarp

theorem Canonical.execQueueStep {s : State} {core queue : Nat} (h : Canonical s) : CanonicalOut (execQueueStep core queue s) := by
  unfold Machine.execQueueStep
  dsimp only
  split
  · exact h.queuePred.queueWake
  split
  · exact h
  · exact h.queueDo.queuePred.queueWake

theorem Canonical.execQueueTimeout {s : State} {w lane : Nat} (h : Canonical s) : CanonicalOut (execQueueTimeout w lane s) := by
  unfold Machine.execQueueTimeout
  split
  · exact h
  split
  · exact h
  split
  · exact h
  · exact .ite h.queuePred.queueWake h

theorem Canonical.execSwap {block : Nat} {s : State} (h : Canonical s) : CanonicalOut (execSwap block s) := by
  unfold Machine.execSwap
  split
  · exact h
  · exact .ite h (Canonical.quiet (.ite h (.foldl h fun _ _ h => .ite h h.setCore)))

/-! ### Tiles -/

theorem Canonical.claimTile {s : State} {core k : Nat} (h : Canonical s) : Canonical (s.claimTile core k) := h.quiet
theorem Canonical.dropTile {s : State} {core k : Nat} (h : Canonical s) : Canonical (s.dropTile core k) := h.quiet
theorem Canonical.tileTo {s : State} {core k : Nat} {st : TileState} (h : Canonical s) : Canonical (s.tileTo core k st) := h.quiet

theorem Canonical.execTdef {s : State} {f : Fields} (h : Canonical s) : CanonicalOut (execTdef f s) := by
  unfold Machine.execTdef
  refine h.issueSplit fun _ _ h => ?_
  split
  · trivial
  refine .ite trivial (.ite trivial ?_)
  split
  · exact .ite h.writeEff trivial
  · exact h.quiet.writeEff

theorem Canonical.execTstat {s : State} {f : Fields} (h : Canonical s) : CanonicalOut (execTstat f s) := by
  unfold Machine.execTstat
  refine h.issueSplit fun _ _ h => ?_
  split
  · trivial
  · exact h.writeEff

theorem Canonical.execTrel {s : State} {f : Fields} (h : Canonical s) : CanonicalOut (execTrel f s) := by
  unfold Machine.execTrel
  refine h.issueSplit fun _ _ h => ?_
  split
  · trivial
  split
  · trivial
  · exact h.quiet

theorem Canonical.tileBody {s : State} {f : Fields} {store : Bool} {i : Iss} (h : Canonical s) :
    CanonicalEff (tileBody f store i s) := by
  unfold Machine.tileBody
  split
  · trivial
  split
  · trivial
  · exact .ite h.quiet (.ite trivial h.quiet.upd)

theorem Canonical.pokeCells {s : State} {core : Nat} {cells : List Host.Cell} (h : Canonical s) : Canonical (s.pokeCells core cells) :=
  h.quiet.enterOrder

theorem Canonical.execTileOpComplete {s : State} {w : Nat} (h : Canonical s) : CanonicalOut (execTileOpComplete w s) := by
  unfold Machine.execTileOpComplete
  split
  · exact h
  split
  · exact h
  · exact Canonical.dropTile (.ite h.quiet.pokeCells h.quiet)

theorem Canonical.execAtab {s : State} {f : Fields} (h : Canonical s) : CanonicalOut (execAtab f s) := by
  unfold Machine.execAtab
  refine h.issueSplit fun _ _ h => ?_
  split
  · trivial
  · exact .ite trivial (.ite trivial (.ite trivial (.ite h.quiet h.quiet.upd)))

theorem Canonical.execBankFlip {core : Nat} {s : State} (h : Canonical s) : CanonicalOut (execBankFlip core s) := by
  unfold Machine.execBankFlip
  dsimp only
  split
  · exact h
  split
  · exact h.setCore
  refine .ite h ?_
  split
  · exact h
  · exact .ite h.setCore.setWarp h.setCore.takeTrap

/-! ### Copies -/

theorem Canonical.setRecs {s : State} {core : Nat} {g : List CopyRec → List CopyRec} (h : Canonical s) : Canonical (s.setRecs core g) :=
  h.quiet

theorem Canonical.setCopy {s : State} {core : Nat} {r : CopyRec} (h : Canonical s) : Canonical (s.setCopy core r) := h.quiet

theorem Canonical.execKick {s : State} {f : Fields} (h : Canonical s) : CanonicalOut (execKick f s) := by
  unfold Machine.execKick
  refine h.issueSplit fun _ _ h => ?_
  split
  · trivial
  · exact .ite trivial (.ite trivial (.ite trivial (.ite trivial (.ite h.quiet (.ite h.quiet h.quiet.upd)))))

theorem Canonical.newRec {s : State} {core kick head place off : Nat} (h : Canonical s) :
    Canonical (newRec s core kick head place off) :=
  h.quiet

theorem Canonical.execKickGate {s : State} {core : Nat} (h : Canonical s) : CanonicalOut (execKickGate core s) := by
  unfold Machine.execKickGate
  dsimp only
  split
  · exact h
  · exact .ite h (Canonical.foldl h.quiet fun _ _ h => h.newRec)

theorem Canonical.runRec {s : State} {core : Nat} {r : CopyRec} (h : Canonical s) : Canonical (runRec s core r) :=
  .setCopy (.ite (.tileTo (.claimTile (.ite h.quiet h))) (.ite h.quiet h))

theorem Canonical.startRec {s : State} {core : Nat} {r : CopyRec} (h : Canonical s) : Canonical (startRec s core r) := by
  unfold Machine.startRec
  split
  · exact h
  refine .ite h.quiet (.ite h.quiet (.ite h.quiet ?_))
  split
  · exact h.quiet
  · exact h.quiet
  · exact h.quiet
  · exact h.runRec

theorem Canonical.execCopyRecordStart {s : State} {core : Nat} (h : Canonical s) : CanonicalOut (execCopyRecordStart core s) := by
  unfold Machine.execCopyRecordStart
  split
  · exact h
  · exact h.startRec

theorem Canonical.askSide {s : State} {ctx : Nat} {cs : List LaneChk} (h : Canonical s) : Canonical (s.askSide ctx cs) :=
  .foldl h fun _ _ h => .ite h.requestBlk h

theorem Canonical.holdSide {s : State} {ctx : Nat} {cs : List LaneChk} (h : Canonical s) : Canonical (s.holdSide ctx cs) :=
  .foldl h fun _ _ h => .ite h.hold h.crossed

theorem Canonical.writeByte {ctx view : Nat} {tag : WriterTag} {whole : List Nat} {a : List Nat × State} {x : LaneChk × Byte}
    (h : Canonical a.2) : Canonical (writeByte ctx view tag whole a x).2 := by
  unfold Machine.writeByte
  dsimp only
  split
  · refine .touchLine (.enterOrder (.repair ?_))
    split
    · split
      · exact h.quiet.install
      · exact h.quiet
    · exact h.quiet
  · exact .enterOrder h.quiet

theorem Canonical.writeBytes {s : State} {ctx view : Nat} {tag : WriterTag} {cs : List LaneChk} {bs : List Byte}
    (h : Canonical s) : Canonical (writeBytes s ctx view tag cs bs).2 :=
  .foldl_snd (x := ([], s)) h fun _ _ h => h.writeByte

theorem Canonical.putBytes {s : State} {ctx view : Nat} {tag : WriterTag} {cs : List LaneChk} {bs : List Byte} {put : List Nat}
    (h : Canonical s) : Canonical (putBytes s ctx view tag cs bs put).2 :=
  .foldl_snd (x := ([], _)) h.quiet fun _ _ h => h.writeByte

theorem Canonical.failPiece {s : State} {core : Nat} {k : Kick} {r : CopyRec} {i : Nat} {p : Piece} {cause : Nat} {addr : W64}
    {more : Nat} (h : Canonical s) : Canonical (failPiece s core k r i p cause addr more) :=
  .ite h.quiet h.quiet

theorem Canonical.missPiece {s : State} {core : Nat} {w : Warp} {r : CopyRec} {i : Nat} {p : Piece} {pages : List Nat}
    (h : Canonical s) : Canonical (missPiece s core w r i p pages) :=
  .ite h.quiet h.quiet

theorem Canonical.copyRead {s : State} {core id i : Nat} (h : Canonical s) : Canonical (copyRead core id i s) := by
  unfold Machine.copyRead
  split
  · exact h
  split
  · split
    · exact h
    refine .ite h ?_
    dsimp only
    split
    · exact h.askSide
    · exact h.missPiece
    · exact h.failPiece
    split
    · exact h.fillLanes.holdSide.failPiece
    · exact h.fillLanes.holdSide.setCopy
  · exact h

theorem Canonical.copyWrite {s : State} {core id i : Nat} (h : Canonical s) : Canonical (copyWrite core id i s) := by
  unfold Machine.copyWrite
  split
  · exact h
  split
  · split
    · refine .ite h ?_
      dsimp only
      split
      · exact h.quiet
      · exact h.missPiece
      · exact h.failPiece
      · exact .setCopy (.coverRegion (.putBytes (.foldl h.fillLanes fun _ _ h => h.crossed)))
    · exact h
  · exact h

theorem Canonical.copyArriveBar {s : State} {core : Nat} {k : Kick} {r : CopyRec} {a : Allot} {n : Nat} {cov : List Nat}
    (h : Canonical s) : Canonical (copyArriveBar s core k r a n cov) :=
  .ite h.setBar.raise h.barUpdate

theorem Canonical.kickDown {s : State} {core kick : Nat} (h : Canonical s) : Canonical (kickDown s core kick) := by
  unfold Machine.kickDown
  dsimp only
  split
  · exact h
  · exact .ite h.quiet h.quiet.withWarp

theorem Canonical.freeTiles {s : State} {core : Nat} {r : CopyRec} (h : Canonical s) : Canonical (freeTiles s core r) :=
  .ite h (.ite (.ite h.quiet h) (.dropTile (.ite (.ite h.quiet h) (.tileTo (.ite h.quiet h)))))

theorem Canonical.finishRec {s : State} {core : Nat} {r : CopyRec} {spad : Nat} (h : Canonical s) :
    Canonical (finishRec s core r spad) :=
  .ite h.freeTiles.setRecs.setCore.newRec.kickDown h.freeTiles.setRecs.kickDown

theorem Canonical.execByteArrive {core id i : Nat} {s : State} (h : Canonical s) : CanonicalOut (execByteArrive core id i s) := by
  unfold Machine.execByteArrive
  split
  · exact h
  split
  · refine .ite h ?_
    extract_lets src r full last s1 s2 s3
    have h2 : Canonical s2 := .ite h.setCopy.poke h.setCopy
    have h3 : Canonical s3 := .ite h2.finishRec h2
    exact Canonical.ite h3 h3.copyArriveBar
  · exact h

theorem Canonical.readyTile {s : State} {core : Nat} {b : Block} {a : Allot} {r : CopyRec} (h : Canonical s) :
    Canonical (readyTile s core b a r) := by
  unfold Machine.readyTile
  refine .ite h ?_
  split
  · exact .ite h.quiet h
  · exact h

theorem Canonical.resolveCopy {s : State} {core id : Nat} {atStart sized : Bool} {mode : Nat} (h : Canonical s) :
    Canonical (s.resolveCopy core id atStart sized mode) := by
  unfold State.resolveCopy
  split
  · exact h
  split
  · exact h
  refine .ite (.ite h.setCopy h.setCopy) ?_
  extract_lets bar loc src s1 s2
  have h2 : Canonical s2 := .finishRec (.readyTile (.ite h.setBar h))
  exact .ite h2.copyArriveBar h2

theorem Canonical.abandonCopies {s : State} {core : Nat} {warps : List Nat} (h : Canonical s) :
    Canonical (s.abandonCopies core warps) :=
  .setCore (.foldl h fun _ _ h => h.freeTiles.setRecs)

/-! ### The matrix engine -/

theorem Canonical.wakeMres {s : State} {core block : Nat} (h : Canonical s) : Canonical (s.wakeMres core block) := h.quiet

theorem Canonical.matrixSettle {s : State} {core : Nat} (h : Canonical s) : Canonical (s.matrixSettle core) := by
  unfold State.matrixSettle
  refine .ite h ?_
  split <;> exact h.quiet

theorem Canonical.execMres {s : State} {f : Fields} (h : Canonical s) : CanonicalOut (execMres f s) := by
  unfold Machine.execMres
  refine h.issueSplit fun _ _ h => ?_
  split
  · trivial
  · exact .ite h.writeEff (.ite h.quiet.writeEff (.ite h.writeEff h.quiet.upd))

theorem Canonical.execMrel {s : State} {f : Fields} (h : Canonical s) : CanonicalOut (execMrel f s) := by
  unfold Machine.execMrel
  refine h.issueSplit fun _ _ h => ?_
  split
  · trivial
  · exact .ite trivial h.quiet.matrixSettle

theorem Canonical.execMfence {s : State} {f : Fields} (h : Canonical s) : CanonicalOut (execMfence f s) := by
  unfold Machine.execMfence
  refine h.issueSplit fun _ _ h => ?_
  split
  · trivial
  · exact .ite h.quiet h

theorem Canonical.execMgo {s : State} {f : Fields} (h : Canonical s) : CanonicalOut (execMgo f s) := by
  unfold Machine.execMgo
  refine h.issueSplit fun _ _ h => ?_
  split
  · trivial
  split
  split
  · trivial
  refine .ite trivial (.ite trivial (.ite trivial ?_))
  split
  · exact h.quiet
  refine .ite trivial ?_
  split
  · exact .ite trivial (.ite h.quiet (Canonical.upd (.foldl h.quiet fun _ _ h => h.quiet)))
  · trivial

theorem Canonical.execMwait {s : State} {f : Fields} (h : Canonical s) : CanonicalOut (execMwait f s) := by
  unfold Machine.execMwait
  refine h.issueSplit fun _ _ h => ?_
  split
  · trivial
  · exact .ite h.quiet h

theorem Canonical.setHeadOp {s : State} {core : Nat} {op : MOp} (h : Canonical s) : Canonical (s.setHeadOp core op) := h.quiet

theorem Canonical.execMatrixOpStart {s : State} {core : Nat} (h : Canonical s) : CanonicalOut (execMatrixOpStart core s) := by
  unfold Machine.execMatrixOpStart
  split
  · exact h
  · exact h.quiet

theorem Canonical.matrixRead {s : State} {core pick : Nat} (h : Canonical s) : Canonical (matrixRead core pick s) := by
  unfold Machine.matrixRead
  split
  · exact h
  split
  · exact h
  · exact .ite h (.setHeadOp (.foldl h fun _ _ h => h.quiet))

theorem Canonical.matrixWrite {s : State} {core : Nat} (h : Canonical s) : Canonical (matrixWrite core s) := by
  unfold Machine.matrixWrite
  split
  · exact h
  split
  · exact .ite h h.pokeCells.setHeadOp
  · exact h

theorem Canonical.execMatrixOpFinish {s : State} {core : Nat} (h : Canonical s) : CanonicalOut (execMatrixOpFinish core s) := by
  unfold Machine.execMatrixOpFinish
  dsimp only
  split
  · exact h
  · exact .ite h (Canonical.matrixSettle (.withWarp (.foldl h.quiet fun _ _ h => h.quiet)))

theorem Canonical.abandonMatrix {s : State} {core : Nat} {blocks : List Nat} (h : Canonical s) :
    Canonical (s.abandonMatrix core blocks) :=
  .matrixSettle (.foldl h.quiet fun _ _ h => .foldl h fun _ _ h => h.quiet)

/-! ### Leaves, frames and moves -/

theorem Canonical.setEntry {s : State} {slot e : Nat} (h : Canonical s) : Canonical (s.setEntry slot e) := h.stored
theorem Canonical.setLeaf {s : State} {l : LeafAt} {lo len v : Nat} (h : Canonical s) : Canonical (s.setLeaf l lo len v) := h.setEntry

theorem Canonical.invalidate {s : State} {ctx : Nat} {l : LeafAt} {frees : Option Nat} {gone : Bool} {also : List (Nat × Nat)}
    {brk : Bool} (h : Canonical s) : Canonical (s.invalidate ctx l frees gone also brk) :=
  h.quiet

theorem Canonical.bumpFrt {s : State} {l : LeafAt} {g : Nat → Nat} (h : Canonical s) : Canonical (s.bumpFrt l g) :=
  .foldl h fun _ _ h => h.quiet

theorem Canonical.unmapped {s : State} {ctx : Nat} {l : LeafAt} (h : Canonical s) : Canonical (s.unmapped ctx l) := h.quiet

theorem Canonical.fillPool {s : State} {ctx : Nat} (h : Canonical s) : Canonical (s.fillPool ctx) := by
  unfold State.fillPool
  refine .foldl h fun _ _ h => ?_
  split
  · exact .ite h.quiet h
  · exact h

theorem Canonical.carry {s : State} {src dst n : Nat} (h : Canonical s) : Canonical (s.carry src dst n) := by
  unfold State.carry
  extract_lets _ _ _ _ _ _ _ _ u v off
  have hu : Canonical u := ⟨memPutAll_wf _ h.1, memPutAll_wf _ h.2⟩
  have hv : Canonical v := .foldl hu fun _ _ h => h.setMeta
  clear_value v
  exact hv.quiet

theorem Canonical.rehome {s : State} {src dst n : Nat} (h : Canonical s) : Canonical (s.rehome src dst n) := .ite h h.stored

theorem Canonical.startMove {s : State} {src dst tier level : Nat} (h : Canonical s) : Canonical (s.startMove src dst tier level) :=
  (Canonical.foldl h fun _ _ h => h.setLeaf).quiet

theorem Canonical.setMove {s : State} {m : Move} (h : Canonical s) : Canonical (s.setMove m) := h.quiet
theorem Canonical.dropMove {s : State} {m : Move} (h : Canonical s) : Canonical (s.dropMove m) := .foldl h.quiet fun _ _ h => h.setLeaf
theorem Canonical.undoMove {s : State} {m : Move} (h : Canonical s) : Canonical (s.undoMove m) := .ite h (.ite h.dropMove h.quiet)

theorem Canonical.endMove {s : State} {m : Move} (h : Canonical s) : Canonical (s.endMove m) :=
  .setMove (.foldl (.foldl (.foldl h fun _ _ h => h.setLeaf.setLeaf.setLeaf.invalidate) fun _ _ h => h.quiet) fun _ _ h => h.carry)

theorem Canonical.cleanRange {s : State} {base n : Nat} (h : Canonical s) : Canonical (s.cleanRange base n).1 := by
  unfold State.cleanRange
  refine .foldl_fst h fun _ _ h => ?_
  split
  · exact h
  split
  · exact h
  refine .foldl ?_ fun _ _ h => h.raiseWb
  exact h.writeBack

theorem Canonical.execChunkOpen {frame chunk : Nat} {s : State} (h : Canonical s) : CanonicalOut (execChunkOpen frame chunk s) := by
  unfold Machine.execChunkOpen
  split
  · exact h
  refine .ite (.ite h ?_) (.ite h (.ite h.undoMove ?_))
  · exact Canonical.ite h.cleanRange.setMove h.cleanRange
  · exact Canonical.ite h.cleanRange.setMove h.cleanRange.quiet.undoMove

theorem Canonical.execChunkCommit {frame chunk : Nat} {s : State} (h : Canonical s) : CanonicalOut (execChunkCommit frame chunk s) := by
  unfold Machine.execChunkCommit
  split
  · exact h
  refine .ite (.ite h ?_) (.ite h (.ite h.undoMove ?_))
  · exact Canonical.ite h.carry.dropMove h.carry.setMove
  · exact Canonical.ite h.carry.setMove.endMove h.carry.setMove

theorem Canonical.execDemotion {s : State} {ctx tier target : Nat} (h : Canonical s) :
    CanonicalOut (execDemotion ctx tier target s) := by
  unfold Machine.execDemotion
  refine .ite h (.ite (Canonical.ite h.quiet h) ?_)
  split
  · exact h
  · exact .ite h (Canonical.startMove (.ite h.quiet h))

/-! ### Maps, copies on write and batches -/

/-- What holds of a function by recursion on `Nat` that its step keeps. -/
theorem holds_brecOn {α : Type} {P : α → Prop} {F : (n : Nat) → Nat.below (motive := fun _ => α) n → α} (h0 : ∀ b, P (F 0 b))
    (hs : ∀ n (b : Nat.below (motive := fun _ => α) (n + 1)), P b.1 → P (F (n + 1) b)) : ∀ n, P (Nat.brecOn n F)
  | 0 => h0 _
  | n + 1 => hs n _ (holds_brecOn h0 hs n)

/-- The step of `entrySlot` is its compiled one: the equation of `entrySlot` cannot be used, since its proof has the kernel evaluate the
search for a free frame, which reads the reference count of each (`State.retired` multiplies by 2^32 in unary there). -/
theorem canonicalSome_entrySlot_succ {va level lo len n table k : Nat} {s : State}
    {b : Nat.below (motive := fun _ => Nat → Nat → State → Option (Nat × State)) (n + 1)} (h : Canonical s)
    (hb : ∀ table k s, Canonical s → CanonicalSome Prod.snd (b.1 table k s)) :
    CanonicalSome Prod.snd (entrySlot._f va level lo len (n + 1) b table k s) := by
  refine CanonicalSome.ite (.some h) (.ite (.ite .none (hb _ _ _ h)) ?_)
  split
  · exact .none
  · exact hb _ _ _ (.setEntry h.stored)

theorem Canonical.entrySlot {va level lo len n table k slot : Nat} {s t : State} (h : Canonical s)
    (e : entrySlot va level lo len n table k s = some (slot, t)) : Canonical t := by
  delta Machine.entrySlot at e
  exact holds_brecOn (P := fun f => ∀ table k s, Canonical s → CanonicalSome Prod.snd (f table k s)) (F := entrySlot._f va level lo len)
    (fun _ _ _ _ _ => .none) (fun _ _ hb _ _ _ h => canonicalSome_entrySlot_succ h hb) n table k s h _ e

theorem Canonical.clearMeta {s : State} {l : LeafAt} (h : Canonical s) : Canonical (s.clearMeta l) := .ite h h.quiet

theorem Canonical.execPageMap {ctx va level leaf : Nat} {s : State} (h : Canonical s) :
    CanonicalOut (execPageMap ctx va level leaf s) := by
  unfold Machine.execPageMap
  extract_lets e base bad
  refine .ite h ?_
  split
  · exact h
  next slot t et =>
  have ht : Canonical t := h.entrySlot et
  extract_lets l old l0 stood same full other
  refine .ite h ?_
  split
  next u ok eu =>
  have hu : Canonical u := .of_fst (x := if leafCow e && !bad then t.cleanRange base (2 ^ pageBits level) else (t, true))
    (.ite_fst ht.cleanRange ht) eu
  refine .ite h ?_
  extract_lets u1 u2 u3 u4
  have h4 : Canonical u4 := .ite (.setEntry (.ite (.clearMeta (.ite hu.bumpFrt hu)) (.ite hu.bumpFrt hu)))
    (.bumpFrt (.setEntry (.ite (.clearMeta (.ite hu.bumpFrt hu)) (.ite hu.bumpFrt hu))))
  exact Canonical.ite h4 (.ite h4.unmapped h4.invalidate)

theorem Canonical.execPageUnmap {s : State} {ctx va : Nat} (h : Canonical s) : CanonicalOut (execPageUnmap ctx va s) := by
  unfold Machine.execPageUnmap
  split
  · exact .ite h h.setEntry.bumpFrt.unmapped
  · exact h

theorem Canonical.freeFrame {s : State} {f n : Nat} (h : Canonical s) : Canonical (s.freeFrame f n) :=
  .foldl h.quiet fun _ _ h => .ite h h.quiet

theorem Canonical.freeOrPass {s : State} {p : Nat × Nat} (h : Canonical s) : Canonical (s.freeOrPass p) := .ite h.quiet h.freeFrame

theorem Canonical.execTlbInvalidation {s : State} {index : Nat} (h : Canonical s) : CanonicalOut (execTlbInvalidation index s) := by
  unfold Machine.execTlbInvalidation
  split
  · exact h
  · exact .ite h (Canonical.fillPool (.foldl h.quiet fun _ _ h => h.freeOrPass))

theorem Canonical.copyFrame {s : State} {f g : Nat} (h : Canonical s) : Canonical (s.copyFrame f g) := by
  unfold State.copyFrame
  extract_lets here there flight last t
  have ht : Canonical t := h.carry
  clear_value t
  exact ht.quiet

theorem Canonical.execCowBreak {s : State} {ctx va : Nat} (h : Canonical s) : CanonicalOut (execCowBreak ctx va s) := by
  unfold Machine.execCowBreak
  split
  · refine .ite h ?_
    split
    · exact .ite h h.quiet
    refine .ite h.quiet (.ite h.quiet.setLeaf.invalidate ?_)
    split
    · exact h.quiet.copyFrame.setFrt.setLeaf.setLeaf.setFrt.invalidate
    · exact h.quiet
  · exact h

theorem Canonical.promote {s : State} {ctx page : Nat} (h : Canonical s) : Canonical (s.promote ctx page) := by
  unfold State.promote
  split
  · exact h
  refine .ite h ?_
  split
  · exact h
  · exact h.startMove

theorem Canonical.batchCopy {s : State} {core id : Nat} (h : Canonical s) : Canonical (s.batchCopy core id) := by
  unfold State.batchCopy
  split
  · exact h
  split
  · exact h
  split
  · exact h
  refine .foldl h fun _ _ h => ?_
  split
  · exact h
  split
  · exact h
  refine .ite h ?_
  split
  · exact .ite h.quiet h.failPiece
  · exact h.quiet

theorem Canonical.batchRec {s : State} {id outcome : Nat} (h : Canonical s) : Canonical (s.batchRec id outcome) := by
  unfold State.batchRec
  split
  · exact h
  · exact .ite h.quiet h.quiet

/-- The end of a batch keeps the canonical form where its part in the command processor does. -/
theorem Canonical.batchPromotion {cpBatch : State → Nat → Nat → State} {batch drop : Nat} {s : State}
    (hc : ∀ s core id, Canonical s → Canonical (cpBatch s core id)) (h : Canonical s) :
    Canonical (batchPromotion cpBatch batch drop s) := by
  unfold Machine.batchPromotion
  split
  · exact h
  next b _ =>
  have ht := Canonical.foldl (l := b.pages) (f := fun s p => s.promote b.ctx p) h fun _ _ h => h.promote
  dsimp only
  split
  · split
    · exact ht.quiet.batchRec
    · exact .ite ht.quiet.batchRec ht
  · exact .ite ht (.ite (hc _ _ _ ht.quiet) ht.quiet.batchCopy)
  · exact .ite h.quiet (.ite ht ht.quiet)

theorem Canonical.execSnareCheckpoint {s : State} {w : Nat} (h : Canonical s) : CanonicalOut (execSnareCheckpoint w s) := by
  unfold Machine.execSnareCheckpoint
  split
  · exact h
  split
  · exact h
  · exact .ite h h.quiet

theorem Canonical.handBatch {s : State} {x : Warp} {n : Snare} (h : Canonical s) : Canonical (handBatch s x n) := h.quiet

theorem Canonical.execSnareBatch {s : State} {w : Nat} (h : Canonical s) : CanonicalOut (execSnareBatch w s) := by
  unfold Machine.execSnareBatch
  split
  · exact h
  split
  · exact h
  · exact Canonical.ite h h.quiet

/-! ### Run-ahead -/

theorem Canonical.aheadFill {s : State} {w : Warp} {cs : List LaneChk} (h : Canonical s) : Canonical (aheadFill s w cs) := by
  unfold Machine.aheadFill
  refine .foldl h fun _ _ h => .ite h ?_
  split
  · exact h.install
  · exact h

theorem Canonical.aheadLoad {s : State} {w : Warp} {n : Snare} {i : Instr} {f : Fields} {spad : Bool} (h : Canonical s) :
    Canonical (aheadLoad s w n i f spad) :=
  .ite h (.ite h.aheadFill h.aheadFill.setWarp)

theorem Canonical.aheadFetch {s t : State} {w : Warp} {b : Bool} (h : Canonical s) (e : aheadFetch s w = some (b, t)) :
    Canonical t := by
  unfold Machine.aheadFetch at e
  split at e
  · cases e
    exact h
  dsimp only at e
  split at e
  · cases e
    exact h
  split at e
  · split at e
    · cases e
      exact h.install
    · cases e
  split at e
  · cases e
  · cases e
    exact h

/-- An instruction in run-ahead keeps the canonical form where `run` does. -/
theorem Canonical.runAhead {run : Instr → State → Out} {s : State} {w : Warp} {n : Snare}
    (hr : ∀ i s, Canonical s → CanonicalOut (run i s)) (h : Canonical s) : Canonical (runAhead run s w n) := by
  unfold Machine.runAhead
  refine .ite h ?_
  split
  · exact h.withWarp
  · next e => exact h.aheadFetch e
  next t e =>
  have ht := h.aheadFetch e
  split
  · split
    · exact ht.withWarp
    · exact ht.withWarp
  next u line e =>
  have hu : Canonical u := (e ▸ ht.fetchLine : CanonicalFetched (.line u line))
  split
  · exact hu.withWarp
  · exact hu.withWarp
  next i _ =>
  refine .ite hu.withWarp ?_
  extract_lets unkG unkS ready exec
  have hx (cross m) : Canonical (exec cross m) := by
    have hy : CanonicalOut (run i { u.withWarp w.key (fun w => { w with trapsOff := List.range w.width }) with cur := w.key }) :=
      hr i _ (hu.withWarp (key := w.key)).quiet
    dsimp only [exec]
    split
    · next v e =>
      have hv : Canonical v := (e ▸ hy : CanonicalOut (.next v))
      split
      · exact .ite hu.withWarp (.ite hu.withWarp (.ite hv hv.setWarp))
      · exact hu
    · exact hu.withWarp
  split
  · split
    · exact hu.aheadLoad
    · exact hu.aheadLoad
    · exact hu
  · exact hu.setWarp
  · exact .ite hu.withWarp (hx _ _)
  · exact .ite hu.withWarp (hx _ _)
  · exact hx _ _
  · exact hx _ _
  · exact hu.withWarp

/-! ### The command processor's copies -/

theorem Canonical.setCqueue {s : State} {ctx q : Nat} {x : CQueue} (h : Canonical s) : Canonical (s.setCqueue ctx q x) := h.quiet
theorem Canonical.setCmd {s : State} {ctx q : Nat} {c : Cmd} (h : Canonical s) : Canonical (s.setCmd ctx q c) := h.quiet

theorem Canonical.finishCmd {s : State} {ctx q k : Nat} {covered : List Nat} (h : Canonical s) :
    Canonical (s.finishCmd ctx q k covered) := by
  unfold State.finishCmd
  split
  · exact h
  · exact h.quiet

theorem Canonical.agentRec {s : State} {ctx region cause : Nat} {addr detail : W64} {acts : Resolves} (h : Canonical s) :
    Canonical (agentRec s ctx region cause addr detail acts) :=
  h.quiet

theorem Canonical.cpFail {s : State} {ctx q : Nat} {c : Cmd} {i : Nat} {p : Piece} {cause : Nat} {addr : W64} {more : Nat}
    (h : Canonical s) : Canonical (cpFail s ctx q c i p cause addr more) :=
  .ite h.quiet (.ite h.quiet h.quiet)

theorem Canonical.cpMiss {s : State} {ctx q : Nat} {c : Cmd} {i : Nat} {p : Piece} (h : Canonical s) :
    Canonical (cpMiss s ctx q c i p) :=
  .ite h.quiet h.quiet

theorem Canonical.cpRead {s : State} {ctx id i : Nat} (h : Canonical s) : Canonical (cpRead ctx id i s) := by
  unfold Machine.cpRead
  split
  · exact h
  split
  · exact h
  refine .ite h ?_
  dsimp only
  split
  · exact h.askSide
  · exact h.cpMiss
  · exact h.cpFail
  · exact h.holdSide.setCmd

theorem Canonical.cpWrite {s : State} {ctx id i : Nat} (h : Canonical s) : Canonical (cpWrite ctx id i s) := by
  unfold Machine.cpWrite
  split
  · exact h
  split
  · exact h
  split
  · exact h
  refine .ite h ?_
  dsimp only
  split
  · exact h.quiet
  · exact h.cpMiss
  · exact h.cpFail
  · exact .ite h.putBytes.setCmd.finishCmd h.putBytes.setCmd

theorem Canonical.cpBatch {s : State} {core id : Nat} (h : Canonical s) : Canonical (cpBatch s core id) := by
  unfold Machine.cpBatch
  dsimp only
  split
  · exact h
  refine .foldl h fun _ _ h => ?_
  split
  · exact h
  split
  · exact h
  refine .ite h ?_
  split
  · exact .ite h.quiet h.cpFail
  · exact h.quiet

theorem Canonical.resolveCp {s : State} {ctx id mode : Nat} (h : Canonical s) : Canonical (s.resolveCp ctx id mode) := by
  unfold State.resolveCp
  split
  · exact h
  · exact .ite h.finishCmd h.quiet

theorem Canonical.mapCmds {s : State} {ctx : Nat} {g : Cmd → Cmd} (h : Canonical s) : Canonical (s.mapCmds ctx g) := h.quiet

/-! ### Fills that fail -/

theorem Canonical.setBatch {s : State} {n : Nat} (h : Canonical s) : Canonical (s.setBatch n) := h.quiet

theorem Canonical.failWaiter {s : State} {k : Blk} {reason entry : Nat} {x : Waiter} (h : Canonical s) :
    Canonical (failWaiter k reason entry s x) := by
  unfold Machine.failWaiter
  split
  · split
    · exact h
    split
    · exact h
    · exact h.setWarp.settleLoad
  · split
    · exact h
    split
    · exact h
    · exact .ite h.failEntries h.failStore
  · split
    · exact h
    split
    · split
      · exact h
      · exact .ite h.failPiece h.failPiece.setBatch
    · exact h
  · split
    · exact h
    split
    · exact h
    · exact h.cpFail
  · split
    · exact h
    · exact h.takeTrap.setBatch

theorem Canonical.forget {s : State} {k : Blk} (h : Canonical s) : Canonical (s.forget k) := h.quiet

theorem Canonical.execCodecFill {ctx va : Nat} {s : State} (h : Canonical s) : CanonicalOut (execCodecFill ctx va s) := by
  unfold Machine.execCodecFill
  split
  · exact h
  next k _ =>
  refine .ite h (.ite h.requestBlk ?_)
  split
  · exact h.install
  · exact Canonical.foldl h.forget fun _ _ h => h.failWaiter
  refine .ite h ?_
  have hl (port e) : Canonical ((s.forget k).logAt port e).2 := (h.forget (k := k)).quiet
  dsimp only
  split
  · exact hl _ _
  · exact (hl _ _).failWaiter

theorem Canonical.chargeNext {s : State} {entry : Nat} {ks : List Blk} (h : Canonical s) : Canonical (s.chargeNext entry ks) := by
  refine .foldl h fun s k h => .ite h ?_
  split
  · refine .ite h ?_
    split
    · exact h
    · exact h.failWaiter
  · exact h

theorem Canonical.fetchGate {s t : State} {w : Warp} (h : Canonical s) (e : fetchGate s w = some t) : Canonical t := by
  unfold Machine.fetchGate at e
  split at e
  · cases e
  dsimp only at e
  split at e
  · cases e
    exact h.requestBlk
  split at e
  · cases e
    exact h.takeTrap
  · cases e

/-! ### Soft errors, map-out and rebinding -/

theorem Canonical.endPf {s : State} {port : Nat} (h : Canonical s) : Canonical (s.endPf port) :=
  .foldl h fun _ _ h => .ite h (.ite h.quiet.hold h.quiet)

theorem Canonical.execBurstReply {s : State} {port tag status : Nat} (h : Canonical s) :
    CanonicalOut (execBurstReply port tag status s) := by
  unfold Machine.execBurstReply
  dsimp only
  split
  · exact h
  · exact Canonical.endPf (.foldl h.quiet fun _ _ h => .ite h.quiet (.ite h.quiet h))

theorem Canonical.execWriteBack {s : State} {ctx va : Nat} (h : Canonical s) : CanonicalOut (execWriteBack ctx va s) := by
  unfold Machine.execWriteBack
  split
  · exact h
  · exact Canonical.ite h h.evict

theorem Canonical.execCacheSoftError {s : State} {ctx va : Nat} (h : Canonical s) : CanonicalOut (execCacheSoftError ctx va s) := by
  unfold Machine.execCacheSoftError
  split
  · exact h
  split
  · exact h
  · exact .ite (Canonical.foldl h.quiet fun _ _ h => h.quiet) (.ite h.quiet.storeDamaged.raiseWb h.quiet.raiseWb)

/-- A function whose state is canonical where the one it is given is. Being a structure it keeps the function as it stands: the two below
are unfolded before their arguments are given, since the kernel would else evaluate the search for a free frame (as in `entrySlot`). -/
structure KeepsCanonical {α β : Type} (f : State → α → β → State) : Prop where
  keeps {s : State} {a : α} {b : β} : Canonical s → Canonical (f s a b)

theorem keepsCanonical_splitLeaf : KeepsCanonical State.splitLeaf := by
  delta State.splitLeaf
  constructor
  intro s ctx l h
  split
  · exact h
  · exact .invalidate (.setEntry (.foldl h.stored fun _ _ h => h.setEntry))

theorem Canonical.splitLeaf {s : State} {ctx : Nat} {l : LeafAt} (h : Canonical s) : Canonical (s.splitLeaf ctx l) :=
  keepsCanonical_splitLeaf.keeps h

theorem Canonical.moveFrame {s : State} {ctx : Nat} {l : LeafAt} (h : Canonical s) : Canonical (s.moveFrame ctx l) := by
  unfold State.moveFrame
  refine .ite h ?_
  split
  · exact h.startMove
  · exact .ite h.splitLeaf h

theorem keepsCanonical_moveTable : KeepsCanonical State.moveTable := by
  delta State.moveTable
  constructor
  intro s ctx t h
  split
  · exact h
  · exact .foldl (.ite h.carry.setContext h.carry) fun _ _ h => .foldl h fun _ _ h => .ite h.setEntry h

theorem Canonical.moveTable {s : State} {ctx t : Nat} (h : Canonical s) : Canonical (s.moveTable ctx t) :=
  keepsCanonical_moveTable.keeps h

theorem Canonical.evacuate {s : State} {lo n : Nat} (h : Canonical s) : Canonical (s.evacuate lo n) :=
  (Canonical.foldl (.foldl h fun _ _ h => h.moveFrame) fun _ _ h => h.moveTable).quiet

theorem Canonical.fillAll {s t : State} {ks : List Blk} (h : Canonical s) (e : s.fillAll ks = .ok t) : Canonical t := by
  induction ks generalizing s with
  | nil =>
    cases e
    exact h
  | cons k r ih =>
    unfold State.fillAll at e
    split at e
    · exact ih h e
    split at e
    · exact ih h.stored e
    · cases e

theorem Canonical.storeAll {s t : State} {ls : List Line} (h : Canonical s) (e : s.storeAll ls = .ok t) : Canonical t := by
  induction ls generalizing s with
  | nil =>
    cases e
    exact h
  | cons l r ih =>
    unfold State.storeAll at e
    split at e
    · next u eu =>
      have hu : Canonical u := .of_fst h.putLine.writeBack eu
      exact ih hu.dropLine e
    · cases e

theorem Canonical.storeAll_error {s t : State} {ls : List Line} {f : WbFail} (h : Canonical s) (e : s.storeAll ls = .error (f, t)) :
    Canonical t := by
  induction ls generalizing s with
  | nil => cases e
  | cons l r ih =>
    unfold State.storeAll at e
    split at e
    · next u eu =>
      have hu : Canonical u := .of_fst h.putLine.writeBack eu
      exact ih hu.dropLine e
    · next u f' r' eu =>
      have hu : Canonical u := .of_fst h.putLine.writeBack eu
      cases e
      exact hu

theorem Canonical.codingFails {s : State} {l : Line} {e : ErrEnt} (h : Canonical s) : Canonical (s.codingFails l e) := by
  unfold State.codingFails
  dsimp only
  split
  · exact h.quiet
  · exact .foldl h.allocate.failWb fun _ _ h => h.raiseWb

theorem Canonical.execRebind {ctx va bind : Nat} {s : State} (h : Canonical s) : CanonicalOut (execRebind ctx va bind s) := by
  unfold Machine.execRebind
  split
  · exact h
  refine .ite h ?_
  extract_lets lines tagAt
  split
  · exact h.quiet
  next t et =>
  extract_lets t1 t2
  have h1 : Canonical t1 := .rehome (.foldl (h.fillAll et) fun _ _ h => h.dropLine)
  have h2 : Canonical t2 := h1.quiet
  split
  · next u eu => exact Canonical.foldl (h2.storeAll eu) fun _ _ h => h.setLeaf.invalidate
  · exact Canonical.codingFails h.stored

theorem Canonical.packFails {s : State} {ctx pa va : Nat} {e : ErrEnt} (h : Canonical s) : Canonical (s.packFails ctx pa va e) := by
  unfold State.packFails
  split <;> exact h.codingFails

theorem Canonical.execPackCommand {ctx va bind frame : Nat} {s : State} (h : Canonical s) :
    CanonicalOut (Machine.execPackCommand ctx va bind frame s) := by
  unfold Machine.execPackCommand
  split
  · exact h
  refine .ite h ?_
  extract_lets fill data0
  have hf : ∀ t, fill = .ok t → Canonical t := by
    refine fun t e => Canonical.foldl_ok (π := id) (b := s) h (fun a p u ha eu => ?_) e
    split at eu
    · cases eu
    · exact Canonical.fillAll (ha _ rfl) eu
  clear_value fill
  split
  · exact h.quiet
  next t =>
  have ht : Canonical t := hf t rfl
  extract_lets built
  clear_value built
  split
  · exact h.packFails
  refine .ite h ?_
  extract_lets head image sent u1 u2 u3
  have h1 : Canonical u1 := ht.storedDram
  have h2 : Canonical u2 := .foldl h1 fun _ _ h => h.setMeta
  have h3 : Canonical u3 := .foldl h2 fun _ _ h => h.countRaw
  refine Canonical.foldl h3 fun u p h => ?_
  exact .invalidate (.setFrt (.setLeaf (.setLeaf (.bumpFrt (.foldl h.stored fun _ _ h => h.dropLine)))))

/-! ### Regions that instructions read -/

theorem Canonical.readRegion {i : Iss} {s : State} {base : W64} {off : Int} {n : Nat} (h : Canonical s) :
    CanonicalRead (readRegion i s base off n) := by
  unfold Machine.readRegion
  dsimp only
  split
  · trivial
  refine .ite h ?_
  split
  · trivial
  refine .ite h ?_
  split
  · trivial
  next t e =>
  have ht : Canonical t := by
    refine Canonical.foldl_ok (π := id) (b := s) h (fun a va u ha eu => ?_) e
    split at eu
    · cases eu
    next v =>
    have hv : Canonical v := ha _ rfl
    split at eu
    · cases eu
      exact hv
    split at eu
    · cases eu
      exact hv
    split at eu
    · cases eu
      exact hv.install
    · cases eu
  split
  · trivial
  · exact ht.fillLanes.holdSide

theorem Canonical.stop_of_readRegion {i : Iss} {s : State} {base : W64} {off : Int} {n : Nat} {x : Eff} (h : Canonical s)
    (e : Machine.readRegion i s base off n = .stop x) : CanonicalEff x :=
  (e ▸ h.readRegion : CanonicalRead (.stop x))

theorem Canonical.bytes_of_readRegion {i : Iss} {s t : State} {base : W64} {off : Int} {n : Nat} {cs : List LaneChk}
    (h : Canonical s) (e : Machine.readRegion i s base off n = .bytes t cs) : Canonical t :=
  (e ▸ h.readRegion : CanonicalRead (.bytes t cs))

theorem Canonical.installBinding {s : State} {ctx idx : Nat} {b : Binding} (h : Canonical s) : Canonical (s.installBinding ctx idx b) :=
  .ite h.quiet (.foldl h.quiet fun _ _ h => h.rehome)

theorem Canonical.execCbind {f : Fields} {s : State} (h : Canonical s) : CanonicalOut (Machine.execCbind f s) := by
  refine h.issueSplit fun i s h => ?_
  extract_lets base off idx
  split
  extract_lets bad
  split
  · trivial
  refine .ite trivial (.ite h.back ?_)
  split
  · next e => exact h.stop_of_readRegion e
  next s1 cs1 e =>
  have h1 := h.bytes_of_readRegion e
  dsimp only
  split
  · next e =>
    split at e
    · exact h1.stop_of_readRegion e
    · cases e
  next s2 cs2 e =>
  have h2 : Canonical s2 := by
    split at e
    · exact h1.bytes_of_readRegion e
    · cases e
      exact h1
  split
  · trivial
  · exact .ite (a := .hold _) h.back h2.installBinding.upd

theorem Canonical.execCbuild {f : Fields} {s : State} (h : Canonical s) : CanonicalOut (Machine.execCbuild f s) := by
  refine h.issueSplit fun i s h => ?_
  extract_lets base n idx
  refine .ite trivial ?_
  split
  · trivial
  split
  · next e => exact h.stop_of_readRegion e
  next t cs e =>
  have ht := h.bytes_of_readRegion e
  dsimp only
  split
  · trivial
  · exact ht.setContext.upd

/-! ### Threads and tasks -/

theorem Canonical.countDecline {s : State} {cl : Nat} (h : Canonical s) : Canonical (s.countDecline cl) := h.quiet

theorem Canonical.decline {s : State} {key : Nat} (h : Canonical s) : Canonical (s.decline key) := by
  unfold State.decline
  split
  · exact h
  · exact h.quiet

theorem Canonical.dropRequest {s : State} {w : Warp} (h : Canonical s) : Canonical (s.dropRequest w) := h.quiet

theorem Canonical.exitThreads {s : State} {key : Nat} {lanes : List Nat} {pc : W64} (h : Canonical s) :
    Canonical (s.exitThreads key lanes pc) := by
  unfold State.exitThreads
  dsimp only
  split
  · exact .ite h.pushMarker.withWarp.dropRequest h.pushMarker.withWarp
  · exact h.pushMarker.withWarp

theorem Canonical.execTrigStep {s : State} {w : Nat} (h : Canonical s) : CanonicalOut (execTrigStep w s) := by
  unfold Machine.execTrigStep
  split
  · exact h
  split
  · exact h
  refine .ite h ?_
  dsimp only
  split <;> exact h.quiet

theorem Canonical.execCtload {f : Fields} {s : State} (h : Canonical s) : CanonicalOut (Machine.execCtload f s) := by
  refine h.issueSplit fun i s h => ?_
  extract_lets base off c free wait ended fail
  have hwait {t : State} (ht : Canonical t) : CanonicalEff (wait t) := ht.setContext.upd
  have hfail {t : Trap} : CanonicalEff (fail t) := h.setContext.back.takeTrap
  refine .ite trivial ?_
  split
  · trivial
  refine .ite trivial (.ite (hwait h.back) ?_)
  split
  · next e => exact hwait (h.stop_of_readRegion e)
  · exact hfail
  · next e => exact h.stop_of_readRegion e
  next e =>
  have h1 := h.bytes_of_readRegion e
  refine .ite hfail ?_
  split
  · next e => exact hwait (h1.stop_of_readRegion e)
  · exact hfail
  · next e => exact h1.stop_of_readRegion e
  next e =>
  have h2 := h1.bytes_of_readRegion e
  dsimp only
  split
  · exact hfail
  · exact h2.setContext.setContext.upd

theorem Canonical.enterUndo {s : State} {key lane : Nat} {killed : Bool} (h : Canonical s) :
    Canonical (s.enterUndo key lane killed) := by
  unfold State.enterUndo
  extract_lets u
  have hu : Canonical u := .ite h.decline h
  split
  · exact hu
  · exact hu.quiet.withWarp

theorem Canonical.sendAbort {s : State} {ctx : Nat} {seq : W64} (h : Canonical s) : Canonical (s.sendAbort ctx seq) := by
  unfold State.sendAbort
  dsimp only
  split
  · exact h.enterUndo
  · exact h.quiet

theorem Canonical.execBop {s : State} {f : Fields} (h : Canonical s) : CanonicalOut (execBop f s) := by
  unfold Machine.execBop
  refine h.issue fun _ _ h => ?_
  split
  · trivial
  · exact Canonical.foldl h fun _ _ h => .ite h.enterUndo h.quiet.upd

theorem Canonical.waitTrap {s : State} {w : Warp} {lane cause : Nat} {pc : W64} {ep : W32} {since : Nat} {addr : W64}
    {level : Option Nat} {pages : Option (List Nat)} (h : Canonical s) :
    Canonical (s.waitTrap w lane cause pc ep since addr level pages) := by
  unfold State.waitTrap
  split <;> exact h.quiet

theorem Canonical.pushUndo {s t : State} {w : Warp} {r : BoostReq} {k : Kind} (h : Canonical s) (e : Machine.pushUndo s w r k = some t) :
    Canonical t := by
  suffices ht : CanonicalSome id (Machine.pushUndo s w r k) from ht t e
  unfold Machine.pushUndo
  refine .ite (.some h.withWarp) ?_
  extract_lets c
  clear_value c
  split
  · refine .some ?_
    dsimp only [id]
    split
    · exact h.withWarp.waitTrap
    · exact h.withWarp
  · refine .ite .none (.some ?_)
    dsimp only [id]
    exact .withWarp (.withWarp (.foldl h.fillLanes fun _ _ h => h.pushEntry))

theorem Canonical.execBoostGrant {port index : Nat} {s : State} (h : Canonical s) :
    CanonicalOut (Machine.execBoostGrant port index s) := by
  unfold Machine.execBoostGrant
  extract_lets stay p take
  split
  · exact h
  next r _ =>
  split
  · next w ct _ _ =>
    extract_lets obj a own owed others judged unk c s1 bad p1 s2 waits oldest room kept s3 p3 cov
    refine .ite h (.ite h.enterUndo ?_)
    have h2 : Canonical s2 := h.setContext.setPort
    have ht : Canonical s3 := h2.setPort
    refine .ite ht.enterUndo (.ite ?_ ?_)
    · exact Canonical.foldl h2.setPort fun _ _ h => h.sendAbort
    refine .ite ?_ (.ite ht.enterUndo ht.waitTrap)
    split
    · exact h2
    extract_lets g s4 s5
    have h3 : Canonical s5 := (Canonical.ite ht ht.setPort).withWarp
    split
    · next t e =>
      obtain ⟨x, _, ex⟩ := Option.bind_eq_some_iff.mp e
      exact h3.pushUndo ex
    · exact h.noteCow
  · exact h

theorem Canonical.releaseTask {s : State} {key lane : Nat} (h : Canonical s) : Canonical (releaseTask s key lane) := by
  unfold Machine.releaseTask
  split
  · exact h
  · exact .ite h h.quiet.withWarp

theorem Canonical.passSpawns {s t : State} {key lane : Nat} (h : Canonical s) (e : passSpawns s key lane = some t) : Canonical t := by
  unfold Machine.passSpawns at e
  split at e
  · cases e
  dsimp only at e
  split at e
  · cases e
    exact h
  split at e
  · cases e
  split at e
  · cases e
    exact h.quiet.withWarp
  split at e
  · cases e
    exact h.withWarp
  · cases e

theorem Canonical.commitLane {s : State} {key lane : Nat} (h : Canonical s) : Canonical (commitLane s key lane).1 := by
  unfold Machine.commitLane
  dsimp only
  split
  · exact h.releaseTask
  next e => exact h.releaseTask.passSpawns e

theorem Canonical.commitLanes {s : State} {i : Iss} {leaving : Bool} (h : Canonical s) : Canonical (commitLanes i leaving s).1 := by
  unfold Machine.commitLanes
  refine .foldl_fst h fun _ _ h => ?_
  dsimp only
  split
  · exact h
  split
  · exact h.enterUndo
  split
  · exact h.commitLane
  · exact h.commitLane.withWarp

theorem Canonical.execTcommit {f : Fields} {s : State} (h : Canonical s) : CanonicalOut (execTcommit f s) := by
  refine h.issue fun _ _ h => ?_
  split
  · trivial
  · exact .ite h.quiet h.commitLanes

theorem Canonical.execTabort {s : State} {f : Fields} (h : Canonical s) : CanonicalOut (execTabort f s) := by
  unfold Machine.execTabort
  refine h.issue fun _ _ h => ?_
  split
  · trivial
  · exact Canonical.foldl h fun _ _ h => h.enterUndo

theorem Canonical.execTspawn {s : State} {f : Fields} (h : Canonical s) : CanonicalOut (execTspawn f s) := by
  unfold Machine.execTspawn
  refine h.issue fun _ _ h => ?_
  dsimp only
  split
  · trivial
  · exact h.upd

theorem Canonical.execSpawnEnqueue {w lane : Nat} {s : State} (h : Canonical s) : CanonicalOut (execSpawnEnqueue w lane s) := by
  unfold Machine.execSpawnEnqueue
  split
  · exact h
  · exact .ite h (.ite h.commitLane (.ite h.commitLane.exitThreads h.commitLane.withWarp))

theorem Canonical.execAbortSignal {s : State} {w lane : Nat} (h : Canonical s) : CanonicalOut (execAbortSignal w lane s) := by
  unfold Machine.execAbortSignal
  split
  · exact h
  · exact Canonical.ite h.enterUndo h

theorem Canonical.undoFault {s : State} {w : Warp} {lane cause : Nat} {addr : W64} {entry : Nat} (h : Canonical s) :
    Canonical (undoFault s w lane cause addr entry) :=
  h.quiet

theorem Canonical.popUndo {s : State} {w : Warp} {lane : Nat} (h : Canonical s) : Canonical (popUndo s w lane) := by
  unfold Machine.popUndo
  extract_lets t top c pages global k
  split
  · exact .ite h.undoFault (.ite h h.quiet)
  · exact h.undoFault
  refine .ite h.requestBlk (.ite h ?_)
  split
  · exact .ite h.forget.undoFault (.undoFault (.quiet (h.forget (k := k))))
  extract_lets u
  have hu : Canonical u := .ite h.install h
  refine .ite hu.undoFault ?_
  split
  · extract_lets n pc
    refine .ite hu.undoFault ?_
    split
    · exact hu.undoFault
    · exact hu.setWarp
  · exact hu

theorem Canonical.endUndo {s : State} {w : Warp} {lane : Nat} (h : Canonical s) : Canonical (endUndo s w lane) :=
  .ite h.quiet.withWarp.exitThreads h.quiet.withWarp

theorem Canonical.execUndoReplay {s : State} {w lane : Nat} (h : Canonical s) : CanonicalOut (execUndoReplay w lane s) := by
  unfold Machine.execUndoReplay
  split
  · exact h
  · exact .ite h (.ite h (.ite h.quiet.popUndo (.ite h.quiet h.quiet.endUndo)))

theorem Canonical.execTaskRestart {s : State} {w lane : Nat} (h : Canonical s) : CanonicalOut (execTaskRestart w lane s) := by
  unfold Machine.execTaskRestart
  split
  · exact h
  split
  · refine .ite h ?_
    dsimp only
    split
    · exact h.quiet
    · exact h.quiet.waitTrap
  · exact h

/-! ### Migration -/

theorem Canonical.freeBytes {s : State} {base n : Nat} (h : Canonical s) : Canonical (s.freeBytes base n) := h.stored

theorem Canonical.formRequest {s : State} {key id : Nat} {toL : Bool} (h : Canonical s) : Canonical (s.formRequest key id toL) := by
  unfold State.formRequest
  split
  · exact h
  · exact .ite h.decline h.quiet

theorem Canonical.execEp {s : State} {f : Fields} (h : Canonical s) : CanonicalOut (execEp f s) := by
  unfold Machine.execEp
  refine h.issueSplit fun _ _ h => .ite trivial ?_
  dsimp only
  split
  · exact h.upd
  · exact .ite h.upd.upd.formRequest h.upd

theorem Canonical.migBody {s : State} {f : Fields} {toL : Bool} {i : Iss} (h : Canonical s) : CanonicalEff (migBody f toL i s) := by
  unfold Machine.migBody
  split
  · exact h
  · exact .ite trivial (.ite trivial (.ite h.upd (.ite h.upd.countDecline h.upd.upd)))

theorem Canonical.execMigrationRequest {s : State} {w : Nat} (h : Canonical s) : CanonicalOut (execMigrationRequest w s) := by
  unfold Machine.execMigrationRequest
  split
  · exact h
  refine .ite h ?_
  split
  · exact h.formRequest
  refine .ite h ?_
  split
  · exact .ite h.formRequest h.quiet
  · exact h

theorem Canonical.execMigrationGrant {s : State} {cluster w : Nat} (h : Canonical s) :
    CanonicalOut (execMigrationGrant cluster w s) := by
  unfold Machine.execMigrationGrant
  dsimp only
  split
  · refine .ite h.decline (.ite h ?_)
    split
    · exact h
    · exact h.quiet
  · exact h

theorem Canonical.execDecline {s : State} {cluster w : Nat} (h : Canonical s) : CanonicalOut (execDecline cluster w s) := by
  unfold Machine.execDecline
  dsimp only
  split
  · exact .ite h h.decline
  · exact h

theorem Canonical.carryEntry {s : State} {old : Warp} {e : Nat} {new : Warp} (h : Canonical s) :
    Canonical (carryEntry s old e new).1 := by
  unfold Machine.carryEntry
  extract_lets src dst i j
  split
  · exact h
  · exact h
  refine .foldl_fst h fun _ _ h => ?_
  dsimp only
  split
  · exact h
  · exact h.stored

theorem Canonical.migrateWarp {s : State} {r : Region} {w : Warp} {m : MigReq} {target : Nat} {es : List Nat} (h : Canonical s) :
    Canonical (migrateWarp s r w m target es) :=
  .setWarp (.setCluster (.foldl_fst (.foldl_fst h fun _ _ h => h.quiet.freeBytes) fun _ _ h => h.carryEntry))

theorem Canonical.execMigrationSequence {s : State} {w : Nat} (h : Canonical s) : CanonicalOut (execMigrationSequence w s) := by
  unfold Machine.execMigrationSequence
  split
  · exact h
  split
  · refine .ite (Canonical.ite h.decline h) (.ite h ?_)
    split
    · exact h
    · exact .ite h.migrateWarp h.quiet.takeTrap
  · exact h

/-! ### Records and the region tree -/

theorem Canonical.makeRoom {s : State} {k : Blk} (h : Canonical s) : Canonical (s.makeRoom k) := by
  unfold State.makeRoom
  refine .foldl h fun _ _ h => .ite h ?_
  split
  · exact h.evict
  · exact h

theorem Canonical.agentPut {s t : State} {ctx va view wid : Nat} {bs : List Byte} (h : Canonical s)
    (e : s.agentPut ctx va view bs = some (wid, t)) : Canonical t := by
  unfold State.agentPut at e
  split at e
  · cases e
  dsimp only at e
  split at e
  · cases e
  next u eu =>
  have hu : Canonical u := by
    split at eu
    · split at eu
      · cases eu
        exact h.makeRoom.install
      · cases eu
    · cases eu
      exact h.makeRoom
  cases e
  exact .touchLine (.enterOrder (.foldl hu.quiet fun _ _ h => h.repair))

theorem Canonical.agentRelease {s : State} {wid scope agent : Nat} {covered : List Nat} (h : Canonical s) :
    Canonical (s.agentRelease wid scope agent covered) :=
  h.quiet

theorem Canonical.cpWord {s : State} {ctx va n val : Nat} (h : Canonical s) : Canonical (s.cpWord ctx va n val) := by
  unfold State.cpWord
  split
  · next e => exact h.agentPut e
  · exact h

theorem Canonical.writeShare {s : State} {r : Region} (h : Canonical s) : Canonical (s.writeShare r) := .foldl h fun _ _ h => h.cpWord

theorem Canonical.coverWarps {s : State} {ws : List Warp} (h : Canonical s) : Canonical (s.coverWarps ws) :=
  .foldl h fun _ _ h => h.coverRegion

theorem Canonical.setRState {s : State} {r : Region} {st : RState} (h : Canonical s) : Canonical (s.setRState r st) :=
  .ite h h.quiet.cpWord

theorem Canonical.settle {s : State} {ctx : Nat} (h : Canonical s) : Canonical (s.settle ctx) :=
  .foldl h fun _ _ h => (Canonical.ite h.setRState (.ite h.setRState h)).quiet

theorem Canonical.dropWarps {s : State} {keys : List Nat} (h : Canonical s) : Canonical (s.dropWarps keys) := by
  refine .quiet (.foldl (.foldl (.foldl h.coverWarps fun _ _ h => ?_) fun _ _ h => ?_) fun _ _ h => ?_)
  · exact .ite h.setContext h
  · exact .foldl h fun _ _ h => h.dropTile
  · exact h.abandonCopies

theorem Canonical.leaveCluster {s : State} {ctx rcb cl : Nat} (h : Canonical s) : Canonical (s.leaveCluster ctx rcb cl) := by
  unfold State.leaveCluster
  split
  · exact h
  · exact .ite h.quiet.writeShare h

theorem Canonical.freeBlock {s : State} {b : Block} (h : Canonical s) : Canonical (s.freeBlock b) :=
  (Canonical.foldl h fun _ _ h => h.abandonMatrix.setCore).quiet

theorem Canonical.dropAllGrants {s : State} {ws : List Warp} (h : Canonical s) : Canonical (s.dropAllGrants ws) :=
  .foldl h fun _ _ h => .foldl h fun _ _ h => .ite h.quiet h

theorem Canonical.endLaunch {s : State} {r : Region} {covered : List Nat} (h : Canonical s) : Canonical (s.endLaunch r covered) := by
  unfold State.endLaunch
  split
  · exact h
  · exact .ite h.quiet h.finishCmd

theorem Canonical.closeRegion {s : State} {r : Region} {st : RState} {covered : List Nat} (h : Canonical s) :
    Canonical (s.closeRegion r st covered) := by
  unfold State.closeRegion
  refine .endLaunch ?_
  split
  · next e => exact (h.quiet.agentPut e).agentRelease
  · exact h.quiet

theorem Canonical.killHeld {s : State} {r : Rec} (h : Canonical s) : Canonical (s.killHeld r) := by
  unfold State.killHeld
  split
  · exact h.resolveLine
  · exact .foldl h fun _ _ h => h.resolveSync
  · exact .ite h.resolveCp h
  · exact h

theorem Canonical.killTree {s : State} {ctx rcb : Nat} (h : Canonical s) : Canonical (s.killTree ctx rcb) := by
  unfold State.killTree
  extract_lets rs mine ws open_ fills s1 s2 s3 s4 s5 s6 s7 s8 s9
  have h4 : Canonical s4 := .foldl h.coverWarps.dropAllGrants.dropWarps fun _ _ h => h.freeBlock
  have h5 : Canonical s5 := .foldl h4 fun _ _ h => h.writeShare
  have h6 : Canonical s6 := h5.quiet
  have h7 : Canonical s7 := .foldl h6 fun _ _ h => h.killHeld
  have h8 : Canonical s8 := .foldl h7 fun _ _ h => h.chargeNext
  have h9 : Canonical s9 := .foldl h8 fun _ _ h => by
    split
    · exact h.reachAll.closeRegion
    · exact h
  exact h9.setContext.settle

theorem Canonical.countBlock {s : State} {b : Block} (h : Canonical s) : Canonical (s.countBlock b) := by
  unfold State.countBlock
  split
  · exact h
  · exact h.quiet.writeShare

theorem Canonical.execWarpFree {s : State} {w : Nat} (h : Canonical s) : CanonicalOut (execWarpFree w s) := by
  unfold Machine.execWarpFree
  split
  · exact h
  refine .ite h (.ite h.coverWarps.quiet ?_)
  split
  · exact h.coverWarps.quiet
  · exact h.coverWarps.quiet.freeBlock.countBlock.leaveCluster

theorem Canonical.killThreads {s : State} {key : Nat} {m : W64} (h : Canonical s) : Canonical (s.killThreads key m) := by
  unfold State.killThreads
  split
  · exact h
  extract_lets ls tasks t rest
  have ht : Canonical t := .foldl h fun _ _ h => h.enterUndo
  exact .ite ht ht.exitThreads

theorem Canonical.actOn {s : State} {r : Rec} {mode : Nat} (h : Canonical s) : Canonical (s.actOn r mode) := by
  unfold State.actOn
  extract_lets u mask
  have hu : Canonical u := h.unstop
  split
  · exact hu
  · exact .ite hu.killThreads hu
  · exact .ite hu.killThreads hu.withWarp
  · exact .ite hu.killThreads hu.withWarp
  · split
    · exact hu
    split
    · exact hu
    · exact .ite hu.setWarp.settleLoad.killThreads hu.setWarp
  · exact .ite hu.withWarp (.ite hu.withWarp hu.withWarp.killThreads)
  · exact .ite hu.withWarp hu.withWarp.killThreads
  · refine .ite hu.resolveCp ?_
    split
    · exact hu.resolveCopy
    · exact hu
  · exact hu.resolveLine
  · have hv (l : List Nat) : Canonical (l.foldl (State.resolveSync mode) u) := .foldl hu fun _ _ h => h.resolveSync
    exact .ite (hv _).killThreads (hv _)
  · split
    · exact hu
    · exact .ite hu.killTree hu.setRegion

theorem Canonical.applyRes {s : State} {r : Rec} {mode : Nat} (h : Canonical s) : Canonical (s.applyRes r mode) :=
  .ite h.actOn.chargeNext h.actOn

theorem Canonical.resolve {s : State} {r : Rec} {mode : Nat} (h : Canonical s) : Canonical (s.resolve r mode) :=
  .ite h.quiet h.quiet.applyRes.settle

theorem Canonical.acquireFrom {s : State} {r : Rec} {cov : List Nat} (h : Canonical s) : Canonical (s.acquireFrom r cov) := by
  unfold State.acquireFrom
  split
  · exact h.quiet
  split
  · refine .ite ?_ h.quiet
    split
    · exact h.quiet
    · exact h
  · exact h

theorem Canonical.fresBody {s : State} {f : Fields} {mode : Nat} {i : Iss} (h : Canonical s) : CanonicalEff (fresBody f mode i s) := by
  unfold Machine.fresBody
  refine .ite h.quiet ?_
  split
  · exact h.writeEff
  · exact .ite h.writeEff h.acquireFrom.resolve.writeEff

theorem Canonical.bringUp {s : State} {ctx va : Nat} (h : Canonical s) : Canonical (s.bringUp ctx va) := by
  unfold State.bringUp
  split
  · exact .ite h h.quiet
  · exact h

theorem Canonical.applyPolicy {s : State} {r : Rec} {d : Region} (h : Canonical s) : Canonical (s.applyPolicy r d) :=
  .ite h.killTree (.ite h (.ite h.killTree h.settle))

theorem Canonical.readyRing {s : State} {ctx : Nat} {vas : List Nat} (h : Canonical s) : Canonical (s.readyRing ctx vas) := by
  unfold State.readyRing
  refine .foldl h fun _ _ h => .bringUp ?_
  split
  · exact .ite h.quiet h
  · exact h

theorem Canonical.execFaultRecord {rec_ : Nat} {s : State} (h : Canonical s) : CanonicalOut (execFaultRecord rec_ s) := by
  unfold Machine.execFaultRecord
  split
  · exact h
  refine .ite h (.ite h.setRec (.ite h.setRec.setContext.settle ?_))
  split
  · exact h
  refine .ite h ?_
  split
  · exact h.bringUp
  refine .ite h ?_
  split
  · extract_lets u
    split
    next ws v ev =>
    have ht : Canonical (Machine.reachAll v ws) := .reachAll (.of_snd h.makeRoom.writeBytes ev)
    dsimp only
    split
    · exact h.makeRoom
    · next e =>
      have hv := ht.agentPut e
      exact Canonical.applyPolicy (.setRec (.ite hv.quiet hv.agentRelease))
  · exact h.readyRing

theorem Canonical.execTocsin {region : Nat} {s : State} (h : Canonical s) : CanonicalOut (execTocsin region s) := by
  unfold Machine.execTocsin
  split
  · exact h
  next r _ =>
  have ht := (h.setRegion (r := { r with tocStop := true })).settle (ctx := r.ctx)
  exact .ite h (.ite (Canonical.quiet ht.killTree) ht.agentRec)

/-! ### Host software and commands -/

theorem Canonical.hostFres {s : State} {mode ctx : Nat} (h : Canonical s) : Canonical (hostFres mode ctx s) := by
  unfold Machine.hostFres
  dsimp only
  split
  · exact h.quiet
  · exact h.quiet.resolve.setContext

theorem Canonical.hostKill {s : State} {r : Region} {reset : Bool} (h : Canonical s) : Canonical (s.hostKill r reset) :=
  h.killTree.agentRec

theorem Canonical.execHostKill {s : State} {ctx : Nat} (h : Canonical s) : CanonicalOut (execHostKill ctx s) := by
  unfold Machine.execHostKill
  dsimp only
  split
  · exact h.quiet
  · exact h.hostKill.setContext

theorem Canonical.setPartition {s : State} {ctx : Nat} {p : Machine.Partition} (h : Canonical s) : Canonical (s.setPartition ctx p) :=
  .ite h.quiet h

theorem Canonical.stopQueue {s : State} {ctx q : Nat} {ws : List Nat} (h : Canonical s) : Canonical (s.stopQueue ctx q ws) := h.quiet

/-- The start of a command keeps the canonical form where `go` does. -/
theorem Canonical.startCmd {s : State} {ctx q opc : Nat} {go : State → Cmd → State} (h : Canonical s)
    (hg : ∀ s c, Canonical s → Canonical (go s c)) : CanonicalOut (startCmd s ctx q opc go) := by
  unfold Machine.startCmd
  dsimp only
  split
  · exact Canonical.ite h.bringUp h
  · exact .ite h (.ite h.stopQueue (.ite h (hg _ _ h.setCqueue.setPartition)))

theorem Canonical.execQueueDoorbell {s : State} {ctx queue tail : Nat} (h : Canonical s) :
    CanonicalOut (execQueueDoorbell ctx queue tail s) :=
  .ite h h.quiet

theorem Canonical.execWaitSatisfied {s : State} {ctx queue : Nat} (h : Canonical s) : CanonicalOut (execWaitSatisfied ctx queue s) := by
  unfold Machine.execWaitSatisfied
  dsimp only
  split
  · exact h.finishCmd
  · exact Canonical.foldl h fun _ _ h => h.bringUp

theorem Canonical.execSignal {ctx queue : Nat} {s : State} (h : Canonical s) : CanonicalOut (execSignal ctx queue s) := by
  refine h.startCmd fun t c ht => .ite h ?_
  split
  · exact h.bringUp
  · next e => exact (ht.agentPut e).agentRelease.finishCmd

/-! ### Launches, graphs and placement -/

theorem Canonical.relink {s : State} {ctx parent : Nat} (h : Canonical s) : Canonical (s.relink ctx parent) :=
  .ite (.ite h h.cpWord) (.foldl (.ite h h.cpWord) fun _ _ h => h.cpWord)

theorem Canonical.addRegion {s : State} {r : Region} (h : Canonical s) : Canonical (s.addRegion r) := by
  unfold State.addRegion
  split
  · exact .ite h.quiet h.quiet.relink
  · exact h.quiet

theorem Canonical.refuseLaunch {s : State} {ctx rcb ring cause : Nat} (h : Canonical s) :
    CanonicalLaunched (refuseLaunch s ctx rcb ring cause) :=
  Canonical.agentRec (.ite h.cpWord h)

theorem Canonical.acceptRegion {s : State} {r : Region} {x : Nat} (h : Canonical s) : Canonical (acceptRegion s r x) := by
  unfold Machine.acceptRegion
  refine .settle (.cpWord (.writeShare ?_))
  split
  · exact h.quiet.addRegion.cpWord.cpWord.cpWord.relink.cpWord
  · exact h.quiet.addRegion.cpWord.cpWord.cpWord.relink

theorem Canonical.refuseKernel {s : State} {r : Region} (h : Canonical s) : CanonicalLaunched (launchRegion.refuseKernel s r) :=
  h.addRegion.refuseLaunch

theorem Canonical.launchRegion {s : State} {ctx q k rcb prod : Nat} {cov : List Nat} (h : Canonical s) :
    CanonicalLaunched (launchRegion s ctx q k rcb prod cov) := by
  unfold Machine.launchRegion
  refine .ite h.refuseLaunch ?_
  split
  · split
    · exact h.bringUp
    · exact h.refuseLaunch
  refine .ite h (.ite h.refuseLaunch (.ite h.bringUp (.ite h.refuseLaunch (.ite h.acceptRegion (.ite h.refuseKernel ?_)))))
  split
  · exact .ite (a := .waits _) h.bringUp h.refuseKernel
  · exact .ite h.refuseKernel (.ite h.refuseLaunch (.ite h.refuseLaunch h.acceptRegion))

theorem Canonical.execLaunch {ctx queue : Nat} {s : State} (h : Canonical s) : CanonicalOut (execLaunch ctx queue s) := by
  refine h.startCmd fun t c ht => ?_
  have hl {t : State} (ht : Canonical t) : CanonicalLaunched (Machine.launchRegion t ctx queue c.index (c.word 1) (c.word 2) c.covered) :=
    ht.launchRegion
  split
  · split
    · next u e => exact (e ▸ hl h : CanonicalLaunched (.waits u))
    · exact h
  · next u e => exact Canonical.finishCmd (e ▸ hl ht : CanonicalLaunched (.refused u))
  · next u e => exact (e ▸ hl ht : CanonicalLaunched (.started u))

theorem Canonical.graphFails {s : State} {ctx q : Nat} {c : Cmd} (h : Canonical s) : Canonical (graphFails s ctx q c) :=
  h.quiet.finishCmd

theorem Canonical.graphStep {s : State} {ctx q : Nat} {c : Cmd} (h : Canonical s) : Canonical (graphStep s ctx q c) := by
  unfold Machine.graphStep
  split
  · dsimp only
    split
    · exact h.bringUp
    · exact h.setCmd
  refine .ite h.finishCmd (.ite h.graphFails (.ite h.graphFails ?_))
  split
  · exact .ite h.bringUp h.graphFails
  refine .ite h.graphFails ?_
  dsimp only
  have hl (rcb prod cov) := h.launchRegion (ctx := ctx) (q := q) (k := c.index) (rcb := rcb) (prod := prod) (cov := cov)
  split
  · next u e => exact (e ▸ hl _ _ _ : CanonicalLaunched (.waits u))
  · next u e => exact Canonical.setCmd (e ▸ hl _ _ _ : CanonicalLaunched (.refused u))
  · next u e => exact Canonical.setCmd (e ▸ hl _ _ _ : CanonicalLaunched (.started u))

theorem Canonical.execGraphNode {s : State} {ctx queue : Nat} (h : Canonical s) : CanonicalOut (execGraphNode ctx queue s) := by
  unfold Machine.execGraphNode
  split
  · exact h
  · exact h.graphStep

theorem Canonical.freshRange {s : State} {base n : Nat} (h : Canonical s) : Canonical (s.freshRange base n) := h.freeBytes.quiet
theorem Canonical.freshCore {s : State} {b : Block} {a : Allot} (h : Canonical s) : Canonical (s.freshCore b a) := h.quiet
theorem Canonical.wipeCore {s : State} {core : Nat} (h : Canonical s) : Canonical (s.wipeCore core) := h.stored

theorem Canonical.swapTables {s : State} {core ctx : Nat} (h : Canonical s) : Canonical (s.swapTables core ctx) := by
  unfold State.swapTables
  refine .ite h (.setCore ?_)
  split
  · exact .setContext (.ite h h.wipeCore)
  · exact h

theorem Canonical.claimCluster {s : State} {cl ctx : Nat} (h : Canonical s) : Canonical (s.claimCluster cl ctx) :=
  .foldl h fun _ _ h => h.swapTables

theorem Canonical.takeDxt {s : State} {cl : Nat} (h : Canonical s) : Canonical (s.takeDxt cl) := .ite h h.quiet

theorem Canonical.freeRegSets {s : State} {n k : Nat} (h : Canonical s) : Canonical (s.freeRegSets n k).2 := by
  induction k generalizing s with
  | zero => exact h
  | succ k ih => exact ih h.quiet

theorem Canonical.launchWarp {s : State} {r : Region} {b : Block} {es : List SpawnEnt} {wnum : Nat} {u : Use} (h : Canonical s) :
    Canonical (launchWarp s r b es wnum u) := by
  unfold Machine.launchWarp
  extract_lets pc
  split
  next vs t et =>
  have ht : Canonical t := .of_snd h.freeRegSets et
  extract_lets ts w0 w s1 s2
  have h2 : Canonical s2 := .foldl ht.quiet fun _ _ h => h.freshRange
  split
  · exact .ite h2.setWarp h2.takeTrap
  · exact h2

theorem Canonical.placeBlock {s : State} {r : Region} {cl index : Nat} {plan : List (List Use × Allot)} {spawned : Bool}
    (h : Canonical s) : Canonical (Machine.placeBlock s r cl plan index spawned) := by
  unfold Machine.placeBlock
  extract_lets src b es l s1 s2 part s3 s4 s5 s6
  have h1 : Canonical s1 := h.quiet
  have h3 : Canonical s3 := h1.setRegion.takeDxt.claimCluster.setPartition
  clear_value s3
  have h4 : Canonical s4 := h3.quiet
  have h5 : Canonical s5 := .foldl h4 fun _ _ h => .foldl h.freshCore fun _ _ h => h.freshRange
  refine Canonical.writeShare (.foldl h5 fun _ _ h => ?_)
  split
  · split
    · exact h.launchWarp
    · exact h
  · exact h

theorem Canonical.askRoom {s : State} {r : Region} (h : Canonical s) : Canonical (s.askRoom r) := by
  unfold State.askRoom
  dsimp only
  split
  · exact h.quiet
  · exact h

theorem Canonical.execBlockDispatch {s : State} {region : Nat} (h : Canonical s) : CanonicalOut (execBlockDispatch region s) := by
  unfold Machine.execBlockDispatch
  split
  · exact h
  split
  · exact Canonical.ite h.placeBlock h
  · exact Canonical.ite h h.askRoom
  · exact h

theorem Canonical.execDependentLaunchStart {s : State} {region : Nat} (h : Canonical s) :
    CanonicalOut (execDependentLaunchStart region s) := by
  unfold Machine.execDependentLaunchStart
  split
  · exact h
  refine .ite h (Canonical.settle (.setRState ?_))
  split
  · exact h.quiet
  · exact h

theorem Canonical.execEndRequest {s : State} {region : Nat} (h : Canonical s) : CanonicalOut (execEndRequest region s) := by
  unfold Machine.execEndRequest
  split
  · exact h
  · exact Canonical.ite h.quiet h

theorem Canonical.execRegionComplete {s : State} {region : Nat} (h : Canonical s) : CanonicalOut (execRegionComplete region s) := by
  unfold Machine.execRegionComplete
  split
  · exact h
  refine .ite h ?_
  split
  · exact h
  · exact .ite h (.ite h.bringUp h.quiet.closeRegion)

/-! ### Preemption -/

theorem Canonical.swapMig {s : State} {old new : Nat} (h : Canonical s) : Canonical (s.swapMig old new) := .foldl h fun _ _ h => h.quiet
theorem Canonical.applyLater {s : State} (h : Canonical s) : Canonical s.applyLater := .foldl h fun _ _ h => h.quiet.applyRes

theorem Canonical.execQuantumExpiry {s : State} {region cluster : Nat} (h : Canonical s) :
    CanonicalOut (execQuantumExpiry region cluster s) := by
  unfold Machine.execQuantumExpiry
  split
  · exact h
  · exact Canonical.ite h h.quiet

theorem Canonical.stopForSave {s : State} {key : Nat} (h : Canonical s) : Canonical (stopForSave s key) := by
  unfold Machine.stopForSave
  split
  · exact h
  next w _ =>
  dsimp only
  split
  · exact .handBatch (.setWarp (.ite (.setContext h.setCluster) h.setCluster))
  · exact .setWarp (.ite (.setContext h.setCluster) h.setCluster)

theorem Canonical.discardOn {s : State} {r : Region} {cl : Nat} (h : Canonical s) : Canonical (discardOn s r cl) := by
  unfold Machine.discardOn
  refine .foldl h fun _ _ h => ?_
  split
  · exact h
  · exact h.quiet.dropWarps.freeBlock

theorem Canonical.execPreemption {s : State} {region cluster : Nat} (h : Canonical s) :
    CanonicalOut (execPreemption region cluster s) := by
  unfold Machine.execPreemption
  split
  · exact h
  refine .ite h.leaveCluster ?_
  split
  · exact h.quiet
  · exact h.quiet.discardOn.writeShare
  · exact Canonical.foldl h.quiet fun _ _ h => h.stopForSave
  · exact Canonical.agentRec (.foldl h.quiet fun _ _ h => h.stopForSave)

theorem Canonical.vacate {s : State} {b : Block} {a : Allot} (h : Canonical s) : Canonical (s.vacate b a) :=
  .matrixSettle (.foldl h.quiet fun _ _ h => .ite h.poke h)

theorem Canonical.saveBlock {s : State} {r : Region} {b : Block} (h : Canonical s) : Canonical (saveBlock s r b) :=
  (Canonical.foldl h fun _ _ h => h.vacate).quiet

theorem Canonical.execPreemptSave {s : State} {region cluster : Nat} (h : Canonical s) :
    CanonicalOut (execPreemptSave region cluster s) := by
  unfold Machine.execPreemptSave
  split
  · exact h
  refine .ite h.leaveCluster (.ite h ?_)
  split
  · exact h.saveBlock.writeShare
  · exact h

theorem Canonical.refit {s : State} {parts : Core} {b : Block} {a : Allot} (h : Canonical s) : Canonical (s.refit parts b a) := h.quiet

theorem Canonical.rangeIn {s : State} {base : Nat} {bs : List (Nat × Byte × Nat)} (h : Canonical s) : Canonical (s.rangeIn base bs) :=
  h.stored

theorem Canonical.restoreBlock {s : State} {r : Region} {x : Saved} {cl : Nat} {us : List Use} {as : List Allot} (h : Canonical s) :
    Canonical (Machine.restoreBlock s r x cl us as) := by
  unfold Machine.restoreBlock
  extract_lets src b moved old new s1 entry ws s2 s3 s4 keep bars ord s5 s6
  have h1 : Canonical s1 := h.takeDxt.claimCluster
  clear_value s1
  have h2 : Canonical s2 := h1.quiet
  have h3 : Canonical s3 := .foldl h2 fun _ _ h => h.refit
  have h4 : Canonical s4 := .foldl h3 fun _ _ h => h.rangeIn
  clear_value s4
  have h5 : Canonical s5 := h4.quiet
  exact .foldl h5 fun _ _ h => .ite h.wakeMres h

theorem Canonical.execRestore {s : State} {index : Nat} (h : Canonical s) : CanonicalOut (execRestore index s) := by
  unfold Machine.execRestore
  split
  · exact h
  split
  · exact h
  split
  · exact h
  · exact h.quiet.restoreBlock.writeShare.applyLater.settle

/-! ### Islands, registers and bring-up -/

theorem Canonical.countHour {s : State} (h : Canonical s) : Canonical s.countHour := .foldl h.quiet fun _ _ h => h.quiet
theorem Canonical.movePartition {s : State} {cl v : Nat} (h : Canonical s) : Canonical (s.movePartition cl v) := .ite h h.quiet

theorem Canonical.setLimit {s : State} {ctx tier item v : Nat} (h : Canonical s) : Canonical (s.setLimit ctx tier item v) :=
  .ite h h.quiet.fillPool

theorem Canonical.giveContext {s : State} {fn ctx : Nat} (h : Canonical s) : Canonical (s.giveContext fn ctx) := .ite h h.quiet

theorem Canonical.orSame {o : Out} {s : State} (h : Canonical s) (ho : CanonicalOut o) : Canonical (o.orSame s) := by
  cases o with
  | next t => exact ho
  | fault e => exact h
  | refused e => exact h

theorem Canonical.fnWrite {s : State} {fn off v : Nat} (h : Canonical s) : Canonical (fnWrite s fn off v) := by
  unfold Machine.fnWrite
  split
  · exact h
  refine .ite h.quiet (.ite (.ite h (.ite h.quiet.hostFres h.quiet)) (.ite h.quiet (.ite ?_ (.ite h ?_))))
  · exact .ite (.orSame h h.execHostKill) h
  split
  · exact .ite h h.quiet
  · exact h.quiet
  · exact .orSame h h.execQueueDoorbell
  · exact h

theorem Canonical.execRegisterWrite {s : State} {reg : RegName} {v : Nat} (h : Canonical s) :
    CanonicalOut (execRegisterWrite reg v s) := by
  unfold Machine.execRegisterWrite
  refine Canonical.ite h ?_
  cases reg with
  | quota ctx tier item => exact h.setLimit
  | partition cl => exact h.movePartition
  | fnWindow fn off => exact h.fnWrite
  | fnContext fn => exact h.giveContext
  | cisland cl | pcurlim | qbase ctx q | qctl ctx q | fresMode ctx | pto | window part i word => exact .ite h h.quiet
  | stkcapAlert st => exact .ite h.quiet h
  | cmigctl cl | cmigstat cl | cboostStat ctx | cdbgctlDen ctx | fresAddr ctx | killAddr ctx | route dev
  | ctxRoot ctx | ctxAsn ctx | ctxWin ctx | autoCow ctx => exact h.quiet

theorem Canonical.newKey {s : State} (h : Canonical s) : Canonical s.newKey := .ite h.quiet h.quiet

theorem Canonical.execAttestationReport {nonce : Nat} {s : State} (h : Canonical s) : CanonicalOut (execAttestationReport nonce s) := by
  unfold Machine.execAttestationReport
  extract_lets u
  have hu : Canonical u := .ite h.newKey h
  exact Canonical.ite hu hu.quiet

/-- After a reset both memories are empty but for what the reset itself gives. -/
theorem canonical_afterReset {s : State} : Canonical s.afterReset := ⟨rfl, rfl⟩

theorem Canonical.verify {s : State} {stage : Nat} {gs : List ImageSig} (h : Canonical s) : Canonical (s.verify stage gs).2 := by
  unfold State.verify
  split
  · exact h
  split
  · exact h
  · exact .foldl h fun _ _ h => h.quiet

theorem Canonical.stageDone {s : State} {stage : Nat} {x : StageLoad} (h : Canonical s) : Canonical (stageDone s stage x) := by
  unfold Machine.stageDone
  dsimp only
  split
  · exact h.quiet
  · exact h.quiet
  · exact .foldl h fun _ _ h => h.setStack
  · exact .foldl h fun _ _ h => h.setCluster
  · exact ⟨memWfFrom_filter _ h.1, h.2⟩
  · exact h.quiet
  · exact h.quiet
  · exact (Canonical.foldl h fun _ _ h => .ite h h.setFport).quiet
  · exact .newKey (.foldl h fun _ _ h => h.setCluster)
  · exact h

theorem Canonical.execBringUp {ok : Bool} {load : StageLoad} {s : State} (h : Canonical s) : CanonicalOut (execBringUp ok load s) := by
  unfold Machine.execBringUp
  extract_lets again u stage
  have hu : Canonical u := .ite canonical_afterReset h
  have hv := hu.verify (stage := stage) (gs := load.images)
  exact Canonical.ite (.stageDone hv.quiet) hv.quiet

/-! ### The fabric and outside accesses -/

theorem Canonical.portDown {s : State} {port : Nat} (h : Canonical s) : Canonical (s.portDown port) := .ite h.quiet h

theorem Canonical.execRetrainTimeout {s : State} {port : Nat} (h : Canonical s) : CanonicalOut (execRetrainTimeout port s) := by
  unfold Machine.execRetrainTimeout
  split
  · exact h
  · exact Canonical.ite h h.portDown

theorem Canonical.execPauseTimeout {s : State} {port cls : Nat} (h : Canonical s) : CanonicalOut (execPauseTimeout port cls s) := by
  unfold Machine.execPauseTimeout
  split
  · exact h
  · exact Canonical.ite h h.portDown

theorem Canonical.bringIn {s : State} {ctx : Nat} {cs : List LaneChk} (h : Canonical s) : Canonical (s.bringIn ctx cs).2 := by
  induction cs generalizing s with
  | nil => exact h
  | cons c r ih =>
    unfold State.bringIn
    refine Canonical.ite_snd h.requestBlk ?_
    dsimp only
    split
    · split
      · exact ih h.makeRoom.install
      · exact .ite h.makeRoom (.quiet h.makeRoom)
    · exact ih h.makeRoom.hold

theorem Canonical.answer {s : State} {reason v : Nat} (h : Canonical s) : Canonical (s.answer reason v) := h.quiet

theorem Canonical.outside {s : State} {view : Nat} {fabric : Bool} {q : RemoteReq} (h : Canonical s) :
    Canonical (Machine.outside s view fabric q) := by
  unfold Machine.outside
  dsimp only
  split
  · exact h
  · exact h.bringUp
  · exact h.answer
  next cs _ =>
  have hb := h.bringIn (ctx := q.ctx) (cs := cs)
  split
  · next e => exact .of_snd hb e
  · next e => exact (Canonical.of_snd hb e).answer
  next t e =>
  have ht : Canonical t := .of_snd hb e
  have hp (v) : Canonical (match t.agentPut q.ctx q.addr view (bytesOf q.size v) with | some (_, t) => t | none => t) := by
    split
    · next e => exact ht.agentPut e
    · exact ht
  refine .ite ht.answer (.ite (.answer ?_) (.ite (hp _).answer ht.answer))
  split
  · exact hp _
  · exact ht

theorem Canonical.exec {s : State} {i : Instr} (h : Canonical s) : CanonicalOut (exec i s) := by
  unfold Machine.exec
  cases i with
  | nop f => exact h.issue fun _ _ h => h
  | wait f => exact h.issue fun _ _ h => .ite h h.quiet
  | yield f | wsync f | xswap f => exact h.issue fun _ _ h => h.upd
  | trap f | brk f => exact h.issueSplit fun _ _ h => trivial
  | fence f => exact h.issue fun _ _ h => .ite h.quiet (.ite h (Canonical.ite (.upd (.ite h.pushMarker h)) (.ite h.pushMarker h)))
  | ifence f => exact h.issue fun _ _ h => .ite h.quiet h.quiet
  | rdsr f => exact h.issueSplit fun _ _ h => .ite h.quiet h.writeEff
  | wrsr f => exact h.issue fun _ _ h => .ite h.quiet h.upd
  | exit f => exact h.issue fun _ _ h => .ite trivial (.ite h.quiet (Canonical.ite h.commitLanes h.commitLanes.exitThreads))
  | trig f => exact h.issue fun _ _ h => h.pushMarker
  | post f | postEnd f => exact h.issueSplit fun _ _ h => h.postBody
  | fresResume f | fresKill f | fresRebind f => exact h.issueSplit fun _ _ h => h.fresBody
  | ep f => exact h.execEp
  | migL f | migD f => exact h.issue fun _ _ h => h.migBody
  | emu f => exact h.execEmu
  | bra f | call f | callx f => exact h.issue fun _ _ h => h.transfer
  | brx f | ret f => exact h.issue fun _ _ h => h.leaveEmu
  | brs f => exact h.issueSplit fun _ _ h => .ite h.transfer h
  | add f | sub f | mul f | mulhi f | mad f | min f | max f | abs f | and f | or f | xor f | andn f | shl f | shr f | sar f
  | addsh f | rot f | clamp f => exact h.issueInt
  | cmp f | sel f | mov f | movi f | popc f | clz f | brev f | bfe f | bfi f | plog f | pmovGet f | perm f => exact h.issueValue
  | idiv f | cvt f => exact h.issueSplit fun _ _ h => h.enqueue
  | pmovSet f => exact h.issue fun _ _ h => h.writeEff
  | rng f | fdot4 f => exact h.issueSplit fun _ _ h => h.commit
  | fadd f | fsub f | fmul f | fma f | fmin f | fmax f | fsgn f | frnd f | fclass f | fscl f | famax f => exact h.issueFp
  | fcmp f => exact h.issue fun _ _ h => h.commit
  | pack f | unpack f => exact h.issue fun _ _ h => h.enqueue
  | rcp f | rsq f | sqrt f | exp2 f | log2 f | sin f | cos f | tanh f => exact h.issueSpecial
  | act f => exact h.issueSplit fun _ _ h => .ite trivial h.enqueue
  | shfl f | vote f | ballot f | wred f | scan f | matchl f | elect f | rdlane f | wrlane f => exact h.issueLane fun _ _ h => h.commit
  | ld f | lds f => exact h.issueSplit fun _ _ h => h.loadBody
  | st f | sts f => exact h.issueSplit fun _ _ h => h.storeBody
  | pf f =>
    exact h.issueSplit fun _ _ h => Canonical.foldl h fun _ _ h => .ite h (.ite h.requestBlock.notePf h.requestBlock.notePf.dataCache)
  | cwb f | cwbSync f => exact h.issueSplit fun _ _ h => h.cwbBody
  | mkptr f | ptrq f | pgq f => exact h.issueSplit fun _ _ h => h.writeEff
  | atom f | cas f | redm f | fatom f | fredm f | amxr f => exact h.issueSplit fun _ _ h => h.atomicBody
  | binit f | barrive f | bexpect f | bexpectArrive f => exact h.issueSplit fun _ _ h => h.barBody
  | bwait f => exact h.execBwait
  | btest f => exact h.execBtest
  | nbarSync f | nbarArrive f => exact h.issueSplit fun _ _ h => h.nbarBody
  | qinit f => exact h.execQinit
  | qpush f | qpop f => exact h.issueSplit fun _ _ h => h.queueBody
  | kick f => exact h.execKick
  | tdef f => exact h.execTdef
  | tstat f => exact h.execTstat
  | trel f => exact h.execTrel
  | tld f | tstr f => exact h.issueSplit fun _ _ h => h.tileBody
  | atab f => exact h.execAtab
  | mres f => exact h.execMres
  | mrel f => exact h.execMrel
  | mfence f => exact h.execMfence
  | mgo f => exact h.execMgo
  | mwait f => exact h.execMwait
  | pgadv f => exact h.issueSplit fun _ _ h => .ite (Canonical.ite h h.quiet) (Canonical.foldl h fun _ _ h => h.setLeaf)
  | bop f => exact h.execBop
  | tcommit f => exact h.execTcommit
  | tabort f => exact h.execTabort
  | uret f => exact h.issue fun _ _ h => .ite trivial (.ite trivial h.upd)
  | tspawn f => exact h.execTspawn
  | ctload f => exact h.execCtload
  | cbind f => exact h.execCbind
  | cbuild f => exact h.execCbuild
  | imx f | pol f => exact h.issuePrefix
  | dadd f | dmul f | dfma f | ddiv f | dsqrt f | dcvt f => exact h.issue fun _ _ h => trivial
  | shortPair first second => exact h.execShortPair
  | txGetImm d n | txGetReg d b | txPeekImm d n | txPeekReg d b | txPutImm a n | txPutReg a b | txLi d imm | txMov d a
  | txAddImm d a n | txAddReg d a b | txSubImm d a n | txSubReg d a b | txXorImm d a n | txXorReg d a b | txAndImm d a n
  | txAndReg d a b | txOrImm d a n | txOrReg d a b | txShlImm d a n | txShlReg d a b | txShrImm d a n | txShrReg d a b
  | txSarImm d a n | txSarReg d a b | txSextImm d a n | txSextReg d a b | txZze d a w | txZzd d a w | txTbl d a
  | txTblImm d a m | txPdec d | txPenc a | txBfw c a b skip | txRepImm n | txRepReg a | txEndr | txEob d | txDone | txFail c =>
    exact h.txOn
  | warpResort w | wsyncRelease w => exact h.withWarp
  | warpFree w => exact h.execWarpFree
  | queueOpComplete w queue => exact h.execQueueOpComplete
  | tileOpComplete w => exact h.execTileOpComplete
  | forward w load lane => exact h.execForward
  | read w load lane => exact h.execRead
  | drain w => exact h.execDrain
  | propagate wid view | layerAlert stack layer | lifetimeSave => exact h.quiet
  | homeRmw w => exact h.execHomeRmw
  | engineRead core engine rec_ piece => exact Canonical.ite h.copyRead (.ite h.matrixRead (.ite h.cpRead h))
  | engineWrite core engine rec_ piece => exact Canonical.ite h.copyWrite (.ite h.matrixWrite (.ite h.cpWrite h))
  | kickGate core => exact h.execKickGate
  | copyRecordStart core => exact h.execCopyRecordStart
  | byteArrive core rec_ piece => exact h.execByteArrive
  | barrierUpdate w => exact h.execBarrierUpdate
  | bwaitTimeout w lane => exact h.execBwaitTimeout
  | queueStep core queue => exact h.execQueueStep
  | queueTimeout w lane => exact h.execQueueTimeout
  | swap block => exact h.execSwap
  | trigStep w => exact h.execTrigStep
  | matrixOpStart core => exact h.execMatrixOpStart
  | matrixOpFinish core => exact h.execMatrixOpFinish
  | snareCheckpoint w => exact h.execSnareCheckpoint
  | snareBatch w => exact h.execSnareBatch
  | batchPromotion batch outcome => exact Canonical.batchPromotion (fun _ _ _ h => h.cpBatch) h
  | cowBreak ctx va => exact h.execCowBreak
  | tlbInvalidation index => exact h.execTlbInvalidation
  | pageMap ctx va level leaf => exact h.execPageMap
  | pageUnmap ctx va => exact h.execPageUnmap
  | agingSweep ctx => exact Canonical.foldl h fun _ _ h => .ite h.setLeaf.invalidate h.setLeaf
  | demotion ctx tier target => exact h.execDemotion
  | chunkOpen frame chunk => exact h.execChunkOpen
  | chunkCommit frame chunk => exact h.execChunkCommit
  | rebind ctx va bind => exact h.execRebind
  | burstReply port tag status => exact h.execBurstReply
  | codecFill ctx va => exact h.execCodecFill
  | writeBack ctx va => exact h.execWriteBack
  | cacheSoftError ctx va => exact h.execCacheSoftError
  | mapout stack => exact .ite h (.ite h.quiet h.evacuate)
  | mapoutComplete stack | qerrClear ctx queue => exact .ite h h.quiet
  | boostGrant port index => exact h.execBoostGrant
  | abortSignal w lane => exact h.execAbortSignal
  | undoReplay w lane => exact h.execUndoReplay
  | taskRestart w lane => exact h.execTaskRestart
  | spawnEnqueue w lane => exact h.execSpawnEnqueue
  | migrationRequest w => exact h.execMigrationRequest
  | migrationGrant cluster w => exact h.execMigrationGrant
  | decline cluster w => exact h.execDecline
  | migrationSequence w => exact h.execMigrationSequence
  | faultRecord rec_ => exact h.execFaultRecord
  | tocsin region => exact h.execTocsin
  | queueDoorbell ctx queue tail => exact h.execQueueDoorbell
  | launch ctx queue => exact h.execLaunch
  | graph ctx queue | copy ctx queue => exact h.startCmd fun _ _ h => h.setCmd
  | graphNode ctx queue => exact h.execGraphNode
  | waitCommand ctx queue => exact h.startCmd fun _ _ h => h
  | waitSatisfied ctx queue => exact h.execWaitSatisfied
  | signal ctx queue => exact h.execSignal
  | blockDispatch region => exact h.execBlockDispatch
  | dependentLaunchStart region => exact h.execDependentLaunchStart
  | endRequest region => exact h.execEndRequest
  | regionComplete region => exact h.execRegionComplete
  | timeSliceEnd part next => exact .ite h (Canonical.foldl h.setPartition.swapMig.mapCmds.mapCmds.applyLater fun _ _ h => h.quiet)
  | quantumExpiry region cluster => exact h.execQuantumExpiry
  | preemption region cluster => exact h.execPreemption
  | preemptSave region cluster => exact h.execPreemptSave
  | restore index => exact h.execRestore
  | currentArbitration inow shares temps => exact Canonical.foldl h.quiet fun _ _ h => .ite h.quiet h.quiet
  | islandStep cluster target => exact Canonical.ite h (.ite h.quiet (.ite h.quiet (.ite h.quiet h)))
  | cageUpdate cluster guardband flimit eoldays => exact .ite h (Canonical.setCluster (.ite h.quiet h))
  | hostFresResume ctx | hostFresKill ctx | hostFresRebind ctx => exact h.hostFres
  | hostKill ctx => exact h.execHostKill
  | functionReset ctx => exact Canonical.foldl h fun _ _ h => h.hostKill
  | cdbgctlRun ctx => exact Canonical.setContext (.foldl h fun _ _ h => h.resolve)
  | registerWrite reg value => exact h.execRegisterWrite
  | dxtLoad cluster dxt sig => exact Canonical.ite h (.ite h.quiet.takeDxt h.quiet)
  | attestationReport nonce => exact h.execAttestationReport
  | bringUp ok load => exact h.execBringUp
  | recoveryImage sig => exact .ite h (Canonical.ite canonical_afterReset h.quiet)
  | flitResend port => exact .ite h (Canonical.ite h.quiet h.quiet)
  | retrainTimeout port => exact h.execRetrainTimeout
  | portDown port => exact h.portDown
  | pauseFlit port cls | resumeFlit port cls | cxlLinkReturn link => exact Canonical.ite h h.quiet
  | pauseTimeout port cls => exact h.execPauseTimeout
  | remoteAccess req | hostMemoryAccess req => exact Canonical.ite h.outside h
  | bankFlip core => exact h.execBankFlip
  | packCommand ctx va bind frame => exact h.execPackCommand
  | cxlLinkLoss link => exact Canonical.foldl h.quiet fun _ _ h => h.undoMove

/-! ### Every instruction -/

theorem Canonical.nextMove {s : State} (h : Canonical s) : Canonical (nextMove s).2 := by
  unfold Machine.nextMove
  split <;> exact h.quiet

/-! ### One step -/

theorem Canonical.reloadCredits {s : State} {run : Instr → State → Out} {w : Warp} (h : Canonical s) :
    Canonical (reloadCredits run s w) :=
  .ite h.quiet h

theorem Canonical.takeTurn {run : Instr → State → Out} {s t : State} {w : Warp} (h : Canonical s) (e : takeTurn run s w = some t) :
    Canonical t := by
  unfold Machine.takeTurn at e
  dsimp only at e
  split at e
  · cases e
    exact h.quiet
  split at e
  · cases e
    exact h.quiet
  · cases e

/-- An issue up to its instruction keeps the canonical form where `run` does. -/
theorem Canonical.issueOfWarp {run : Instr → State → Out} {w : Nat} {s : State} (hr : ∀ i s, Canonical s → CanonicalOut (run i s))
    (h : Canonical s) : CanonicalNext (issueOfWarp run w s) := by
  unfold Machine.issueOfWarp
  dsimp only
  have ht := h.withWarp (key := w) (g := Warp.sortDue)
  split
  · exact ht
  refine .ite ht ?_
  have ht (x) := ht.reloadCredits (run := run) (w := x)
  split
  · exact ht _
  next x u e =>
  have hu : Canonical u := by
    obtain ⟨y, _, ey⟩ := Option.bind_eq_some_iff.mp e
    obtain ⟨v, ev, ev'⟩ := Option.map_eq_some_iff.mp ey
    cases ev'
    exact (ht _).takeTurn ev
  split
  · exact Canonical.runAhead hr hu
  split
  · next e => exact hu.fetchGate e
  have hv := hu.fetchNext (w := x)
  split
  · next v e => exact (e ▸ hv : CanonicalNext (.done v))
  · next v i e =>
    have hv : Canonical v := (e ▸ hv : CanonicalNext (.instr v i))
    exact hv.quiet

theorem Canonical.clockTicks {n : Nat} {s : State} (h : Canonical s) : Canonical (clockTicks n s) := by
  unfold Machine.clockTicks
  extract_lets regions s1 s2 s3 x
  have h1 : Canonical s1 := h.quiet
  have h2 : Canonical s2 := .foldl h1 fun _ _ h => h.setCluster
  have h3 : Canonical s3 := .foldl h2 fun _ _ h => h.writeShare
  exact .foldl h3.quiet fun _ _ h => h.countHour

theorem Canonical.retireFrame {s : State} {pa : Nat} (h : Canonical s) : Canonical (retireFrame pa s) := .ite h.quiet h
theorem Canonical.poisonWord {s : State} {loc : Nat} (h : Canonical s) : Canonical (poisonWord loc s) := .ite h h.quiet
theorem Canonical.farAnswer {s : State} {page status : Nat} (h : Canonical s) : Canonical (farAnswer page status s) := h.quiet
theorem Canonical.softWord {s : State} {loc : Nat} (h : Canonical s) : Canonical (softWord loc s) := .ite h h.quiet

theorem Canonical.issueStep {w : Nat} {s : State} (h : Canonical s) : CanonicalOut (issueStep w s) := by
  unfold Machine.issueStep
  have ht := Canonical.issueOfWarp (w := w) (fun i s h => h.exec (i := i)) h
  split
  · next t e => exact (e ▸ ht : CanonicalNext (.done t))
  · next t i e => exact Canonical.exec (e ▸ ht : CanonicalNext (.instr t i))

theorem Canonical.transduceStep {s : State} {lane : Nat} (h : Canonical s) : CanonicalOut (transduceStep lane s) := by
  unfold Machine.transduceStep
  dsimp only
  split
  · exact h.quiet
  split
  · exact h.quiet
  · exact h.quiet.exec

theorem Canonical.move {m : Agenda} {s : State} (h : Canonical s) : CanonicalOut (move m s) := by
  cases m with
  | issue w => exact h.issueStep
  | transduce lane => exact h.transduceStep
  | event i => exact h.exec
  | clock n => exact h.clockTicks
  | evictLine core => exact h.evictLine
  | evictTlb core => exact h.evictTlb
  | softWord loc => exact h.softWord
  | poison loc => exact h.poisonWord
  | fabricWrite port => exact h.fabricWrite
  | farPage page status => exact h.farAnswer
  | retireFrame pa => exact h.retireFrame
  | parityFail w =>
    unfold Machine.move
    dsimp only
    split
    · exact h
    · exact Canonical.ite h.parityFails h

theorem Canonical.step {s : State} (h : Canonical s) : CanonicalOut (step s) := h.nextMove.move

/-- Settles O59: every write of memory is a `memPutAll` of the old memory, but for bring-up, which clears a range (R492), and for reset;
both keep the form. -/
theorem memoryStaysCanonical : Obligations.MemoryStaysCanonical := by
  intro s t h e
  exact (e ▸ h.step : CanonicalOut (.next t))

end Sys2Proof.Claims
end

section
namespace Sys2Proof.Claims

set_option Elab.async false

open Sys2Proof Sys2Proof.Machine

/-!
### Words and instructions (02 R18, R25 to R31, R38, R46; 13 R362)

A word is its fields side by side, so that reading a field of the packed word gives the field back (`fieldsAt_packFields`,
`shortAt_packShort`, `decodeTx_of_encodeTx`), and packing the fields read from a word gives the word back (`packFields_fieldsAt`,
`packShort_shortAt`, `encodeTx_of_decodeTx`). The opcode tables of both directions agree row by row; rows that share an opcode are told
apart by what their checks accept (`Selected`).
-/

theorem ofNat_eq_of_toNat {n x : Nat} {b : BitVec n} (h : x = b.toNat) : BitVec.ofNat n x = b := by
  rw [h, BitVec.ofNat_toNat, BitVec.setWidth_eq]

theorem packFields_lt {op : Nat} (h : op < 256) (f : Fields) : packFields op f < 2 ^ 96 := by
  unfold packFields
  omega

theorem bitsOf_packFields {op : Nat} (h : op < 256) (f : Fields) : bitsOf (packFields op f) 88 8 = op := by
  unfold bitsOf packFields
  omega

theorem fieldsAt_packFields (op : Nat) (f : Fields) : fieldsAt (packFields op f) = f := by
  unfold fieldsAt packFields bitsOf
  congr 1 <;> apply ofNat_eq_of_toNat <;> omega

/-- Neighbouring parts of a word join. -/
theorem bitsOf_join (w lo a b : Nat) : bitsOf w (lo + a) b * 2 ^ a + bitsOf w lo a = bitsOf w lo (a + b) := by
  unfold bitsOf
  rw [Nat.pow_add, Nat.pow_add, Nat.mod_mul, ← Nat.div_div_eq_div_mul, Nat.mul_comm, Nat.add_comm]

theorem toNat_ofNat_bitsOf (w lo len : Nat) : (BitVec.ofNat len (bitsOf w lo len)).toNat = bitsOf w lo len := by
  rw [BitVec.toNat_ofNat, bitsOf, Nat.mod_mod]

theorem packFields_eq (op : Nat) (f : Fields) : packFields op f =
    (((((((op * 2 ^ 4 + f.g.toNat) * 2 ^ 4 + f.sub.toNat) * 2 ^ 8 + f.d.toNat) * 2 ^ 8 + f.a.toNat) * 2 ^ 8 + f.b.toNat) * 2 ^ 8 +
      f.c.toNat) * 2 ^ 16 + f.mid.toNat) * 2 ^ 32 + f.imm.toNat := by
  unfold packFields
  ring

theorem packFields_fieldsAt {w : Nat} (h : w < 2 ^ 96) : packFields (bitsOf w 88 8) (fieldsAt w) = w := by
  have hg : bitsOf w 88 8 * 2 ^ 4 + bitsOf w 84 4 = bitsOf w 84 12 := bitsOf_join w 84 4 8
  have hs : bitsOf w 84 12 * 2 ^ 4 + bitsOf w 80 4 = bitsOf w 80 16 := bitsOf_join w 80 4 12
  have hd : bitsOf w 80 16 * 2 ^ 8 + bitsOf w 72 8 = bitsOf w 72 24 := bitsOf_join w 72 8 16
  have ha : bitsOf w 72 24 * 2 ^ 8 + bitsOf w 64 8 = bitsOf w 64 32 := bitsOf_join w 64 8 24
  have hb : bitsOf w 64 32 * 2 ^ 8 + bitsOf w 56 8 = bitsOf w 56 40 := bitsOf_join w 56 8 32
  have hc : bitsOf w 56 40 * 2 ^ 8 + bitsOf w 48 8 = bitsOf w 48 48 := bitsOf_join w 48 8 40
  have hm : bitsOf w 48 48 * 2 ^ 16 + bitsOf w 32 16 = bitsOf w 32 64 := bitsOf_join w 32 16 48
  have hi : bitsOf w 32 64 * 2 ^ 32 + bitsOf w 0 32 = bitsOf w 0 96 := bitsOf_join w 0 32 64
  have hw : bitsOf w 0 96 = w := by rw [bitsOf, Nat.pow_zero, Nat.div_one, Nat.mod_eq_of_lt h]
  rw [packFields_eq]
  simp only [fieldsAt, toNat_ofNat_bitsOf, hg, hs, hd, ha, hb, hc, hm, hi, hw]

theorem packShort_lt (o : ShortOp) : packShort o < 2 ^ 48 := by
  unfold packShort
  omega

/-- Bits above a short operation's 48 are not read. -/
theorem shortAt_packShort (hi : Nat) (o : ShortOp) : shortAt (hi * 2 ^ 48 + packShort o) = o := by
  unfold shortAt packShort bitsOf
  congr 1 <;> apply ofNat_eq_of_toNat <;> omega

theorem packShort_eq (o : ShortOp) : packShort o =
    ((((((o.sop.toNat * 2 ^ 3 + o.pred.toNat) * 2 ^ 7 + o.d.toNat) * 2 ^ 7 + o.a.toNat) * 2 ^ 7 + o.b.toNat) * 2 ^ 7 +
      o.c.toNat) * 2 ^ 3 + o.type.toNat) * 2 ^ 8 + o.zero.toNat := by
  unfold packShort
  ring

theorem packShort_shortAt (w : Nat) : packShort (shortAt w) = w % 2 ^ 48 := by
  have hp : bitsOf w 42 6 * 2 ^ 3 + bitsOf w 39 3 = bitsOf w 39 9 := bitsOf_join w 39 3 6
  have hd : bitsOf w 39 9 * 2 ^ 7 + bitsOf w 32 7 = bitsOf w 32 16 := bitsOf_join w 32 7 9
  have ha : bitsOf w 32 16 * 2 ^ 7 + bitsOf w 25 7 = bitsOf w 25 23 := bitsOf_join w 25 7 16
  have hb : bitsOf w 25 23 * 2 ^ 7 + bitsOf w 18 7 = bitsOf w 18 30 := bitsOf_join w 18 7 23
  have hc : bitsOf w 18 30 * 2 ^ 7 + bitsOf w 11 7 = bitsOf w 11 37 := bitsOf_join w 11 7 30
  have ht : bitsOf w 11 37 * 2 ^ 3 + bitsOf w 8 3 = bitsOf w 8 40 := bitsOf_join w 8 3 37
  have hz : bitsOf w 8 40 * 2 ^ 8 + bitsOf w 0 8 = bitsOf w 0 48 := bitsOf_join w 0 8 40
  have hw : bitsOf w 0 48 = w % 2 ^ 48 := by rw [bitsOf, Nat.pow_zero, Nat.div_one]
  rw [packShort_eq]
  simp only [shortAt, toNat_ofNat_bitsOf, hp, hd, ha, hb, hc, ht, hz, hw]

theorem fieldsOf_of_decodeOp {op : Nat} {f : Fields} {i : Instr} (h : decodeOp op f = some i) : fieldsOf i = some (op, f) := by
  unfold decodeOp at h
  split at h <;> cases h
  all_goals (repeat' split) <;> rfl

/-- The choice of R46 between the rows that share an opcode. -/
def Selected : Instr → Prop
  | .post f | .migL f | .pmovGet f | .bexpect f | .nbarSync f => f.sub ≠ 1
  | .postEnd f | .migD f | .pmovSet f | .bexpectArrive f | .nbarArrive f | .fresKill f => f.sub = 1
  | .fresRebind f => f.sub = 2
  | .fresResume f => f.sub ≠ 1 ∧ f.sub ≠ 2
  | .cwb f => f.mid >>> 12 ≠ 1
  | .cwbSync f => f.mid >>> 12 = 1
  | _ => True

theorem decodeOp_of_fieldsOf {op : Nat} {f : Fields} {i : Instr} (h : fieldsOf i = some (op, f)) (hs : Selected i) :
    decodeOp op f = some i := by
  cases i with
  | post | migL | pmovGet | cwb | bexpect | nbarSync =>
    cases h
    exact congrArg some (if_neg hs)
  | postEnd | fresKill | migD | pmovSet | cwbSync | bexpectArrive | nbarArrive =>
    cases h
    exact congrArg some (if_pos hs)
  | fresResume =>
    cases h
    obtain ⟨h1, h2⟩ := hs
    exact congrArg some ((if_neg h1).trans (if_neg h2))
  | fresRebind =>
    cases h
    have h1 : f.sub ≠ 1 := by rw [show f.sub = 2 from hs]; decide
    exact congrArg some ((if_neg h1).trans (if_pos hs))
  | _ => cases h <;> rfl

/-- What passes the decode checks has a listed SUB and modifiers that its entry accepts. -/
theorem checkFields_none {e : Entry} {f : Fields} {v r : Nat} (h : checkFields e f v r = none) : e.subOk = true ∧ e.modOk = true := by
  unfold checkFields at h
  dsimp only at h
  split at h
  · cases h
  split at h
  · cases h
  · next hs =>
    split at h
    · cases h
    · split_ifs at h with _ _ _ _ hm
      simp only [Bool.not_eq_true', Bool.not_eq_false] at hs hm
      exact ⟨hs, hm⟩

theorem checks_of_wellFormed {i : Instr} {op : Nat} {f : Fields} {e : Entry} (h : wellFormed i = true) (hf : fieldsOf i = some (op, f))
    (he : entryOf i = some e) (ha : e.absent = false) : e.subOk = true ∧ e.modOk = true := by
  unfold wellFormed at h
  split at h
  · cases hf
  · rw [he, hf] at h
    simp only [ha, Bool.false_or, Option.isNone_iff_eq_none] at h
    exact checkFields_none h

theorem sub_of_wellFormed {i : Instr} {op k : Nat} {f : Fields} {e : Entry} (h : wellFormed i = true) (hf : fieldsOf i = some (op, f))
    (he : entryOf i = some e) (ha : e.absent = false) (hk : e.subOk = (f.ty == k)) : f.sub = BitVec.ofNat 4 k :=
  (ofNat_eq_of_toNat (beq_iff_eq.mp (hk ▸ (checks_of_wellFormed h hf he ha).1)).symm).symm

theorem pol_eq (f : Fields) : f.pol = (f.mid >>> 12).toNat := by
  have := f.mid.isLt
  simp only [Fields.pol, bitsOf, BitVec.toNat_ushiftRight, Nat.shiftRight_eq_div_pow]
  omega

theorem mid_of_pol {f : Fields} {k : Nat} (h : (f.pol == k) = true) : f.mid >>> 12 = BitVec.ofNat 16 k :=
  (ofNat_eq_of_toNat (((beq_iff_eq.mp h).symm).trans (pol_eq f))).symm

/-- The checks of an opcode's rows accept the SUB, or the POL, that the decoder chooses them by. -/
theorem selected_of_wellFormed {i : Instr} (h : wellFormed i = true) : Selected i := by
  have ne {f : Fields} {k : Nat} (hk : f.sub = BitVec.ofNat 4 k) (h1 : BitVec.ofNat 4 k ≠ 1 := by decide) : f.sub ≠ 1 := hk ▸ h1
  cases i with
  | post | migL | pmovGet | bexpect | nbarSync => exact ne (sub_of_wellFormed (k := 0) h rfl rfl rfl rfl)
  | postEnd | migD | pmovSet | bexpectArrive | nbarArrive | fresKill => exact sub_of_wellFormed (k := 1) h rfl rfl rfl rfl
  | fresRebind => exact sub_of_wellFormed (k := 2) h rfl rfl rfl rfl
  | fresResume =>
    have hs := sub_of_wellFormed (k := 0) h rfl rfl rfl rfl
    exact ⟨ne hs, hs ▸ by decide⟩
  | cwb f =>
    have hm := (checks_of_wellFormed h rfl rfl rfl).2
    simp only [Bool.and_eq_true] at hm
    obtain ⟨⟨⟨hp, _⟩, _⟩, _⟩ := hm
    exact (mid_of_pol hp).trans_ne (by decide)
  | cwbSync f =>
    have hm := (checks_of_wellFormed h rfl rfl rfl).2
    simp only [Bool.and_eq_true] at hm
    obtain ⟨⟨⟨hp, _⟩, _⟩, _⟩ := hm
    exact mid_of_pol hp
  | _ => trivial

/-! ### The words of a transducer lane -/

theorem bitOf_lt (i : Bool) : bitOf i < 2 := by cases i <;> decide

section
variable {op d a b n : Nat} {i : Bool}

theorem packTx_lt (ho : op < 32) (hd : d < 8) (ha : a < 8) (hb : b < 8) (hn : n < 4096) : packTx op d a b i n < 4294967296 := by
  have := bitOf_lt i; unfold packTx; omega
theorem packTx_op (ho : op < 32) (hd : d < 8) (ha : a < 8) (hb : b < 8) (hn : n < 4096) : bitsOf (packTx op d a b i n) 27 5 = op := by
  have := bitOf_lt i; unfold bitsOf packTx; omega
theorem packTx_d (hd : d < 8) (ha : a < 8) (hb : b < 8) (hn : n < 4096) : bitsOf (packTx op d a b i n) 24 3 = d := by
  have := bitOf_lt i; unfold bitsOf packTx; omega
theorem packTx_a (ha : a < 8) (hb : b < 8) (hn : n < 4096) : bitsOf (packTx op d a b i n) 21 3 = a := by
  have := bitOf_lt i; unfold bitsOf packTx; omega
theorem packTx_b (hb : b < 8) (hn : n < 4096) : bitsOf (packTx op d a b i n) 18 3 = b := by
  have := bitOf_lt i; unfold bitsOf packTx; omega
theorem packTx_ab (ha : a < 8) (hb : b < 8) (hn : n < 4096) : bitsOf (packTx op d a b i n) 18 6 = 8 * a + b := by
  have := bitOf_lt i; unfold bitsOf packTx; omega
theorem packTx_i (hn : n < 4096) : bitsOf (packTx op d a b i n) 17 1 = bitOf i := by
  have := bitOf_lt i; unfold bitsOf packTx; omega
theorem packTx_gap (hn : n < 4096) : bitsOf (packTx op d a b i n) 12 5 = 0 := by
  have := bitOf_lt i; unfold bitsOf packTx; omega
theorem packTx_n (hn : n < 4096) : bitsOf (packTx op d a b i n) 0 12 = n := by
  have := bitOf_lt i; unfold bitsOf packTx; omega
theorem packTx_low6 (hn : n < 64) : bitsOf (packTx op d a b i n) 0 6 = n := by
  have := bitOf_lt i; unfold bitsOf packTx; omega
theorem packTx_mid12 (hn : n < 64) : bitsOf (packTx op d a b i n) 6 12 = bitOf i * 2048 := by
  have := bitOf_lt i; unfold bitsOf packTx; omega
theorem packTx_low18 (hn : n < 4096) : bitsOf (packTx op d a b i n) 0 18 = bitOf i * 131072 + n := by
  have := bitOf_lt i; unfold bitsOf packTx; omega
theorem packTx_low21 (hb : b < 8) (hn : n < 4096) :
    bitsOf (packTx op d a b i n) 0 21 = b * 262144 + bitOf i * 131072 + n := by
  have := bitOf_lt i; unfold bitsOf packTx; omega
theorem packTx_low24 (ha : a < 8) (hb : b < 8) (hn : n < 4096) :
    bitsOf (packTx op d a b i n) 0 24 = a * 2097152 + b * 262144 + bitOf i * 131072 + n := by
  have := bitOf_lt i; unfold bitsOf packTx; omega
theorem packTx_low27 (hd : d < 8) (ha : a < 8) (hb : b < 8) (hn : n < 4096) :
    bitsOf (packTx op d a b i n) 0 27 = d * 16777216 + a * 2097152 + b * 262144 + bitOf i * 131072 + n := by
  have := bitOf_lt i; unfold bitsOf packTx; omega

end

/-- The word of `li`, whose immediate takes the place of A, B, I and n. -/
theorem decodeTx_li (d : BitVec 3) (n : BitVec 24) : decodeTx (0x03 * 2 ^ 27 + d.toNat * 2 ^ 24 + n.toNat) = .ok (.txLi d n) := by
  generalize hw : 0x03 * 2 ^ 27 + d.toNat * 2 ^ 24 + n.toNat = w
  have hlt : ¬ 2 ^ 32 ≤ w := by omega
  have hop : bitsOf w 27 5 = 0x03 := by unfold bitsOf; omega
  have hd : txD w = d := ofNat_eq_of_toNat (by unfold bitsOf; omega)
  have hn : BitVec.ofNat 24 (bitsOf w 0 24) = n := ofNat_eq_of_toNat (by unfold bitsOf; omega)
  unfold decodeTx
  simp only [if_neg hlt, hop, hd, hn]

theorem decodeTx_of_encodeTx {i : Instr} {w : Nat} (h : encodeTx i = some w) : decodeTx w = .ok i := by
  cases i with
  | txLi d n =>
    obtain rfl := Option.some.inj h
    exact decodeTx_li d n
  | txGetImm | txGetReg | txPeekImm | txPeekReg | txPutImm | txPutReg | txMov | txAddImm | txAddReg | txSubImm | txSubReg | txXorImm
  | txXorReg | txAndImm | txAndReg | txOrImm | txOrReg | txShlImm | txShlReg | txShrImm | txShrReg | txSarImm | txSarReg | txSextImm
  | txSextReg | txZze | txZzd | txTbl | txTblImm | txPdec | txPenc | txBfw | txRepImm | txRepReg | txEndr | txEob | txDone | txFail =>
    obtain rfl := Option.some.inj h
    simp (disch := omega) [decodeTx, txD, txA, txB, txN, packTx_lt, packTx_op, packTx_d, packTx_a, packTx_b, packTx_ab, packTx_i,
      packTx_gap, packTx_n, packTx_low6, packTx_mid12, packTx_low18, packTx_low21, packTx_low24, packTx_low27, bitOf]
  | _ => cases h

theorem lt_of_decodeTx {w : Nat} {i : Instr} (h : decodeTx w = .ok i) : w < 2 ^ 32 := by
  unfold decodeTx at h
  dsimp only at h
  split at h
  · cases h
  · next hw => exact Nat.lt_of_not_le hw

section
variable {w op : Nat} (hw : ¬ 2 ^ 32 ≤ w) (ho : bitsOf w 27 5 = op)

theorem txD_zero (h : (bitsOf w 24 3 == 0) = true) : (txD w).toNat = 0 := by
  simpa [txD, bitsOf] using h
theorem txA_zero (h : (bitsOf w 21 3 == 0) = true) : (txA w).toNat = 0 := by
  simpa [txA, bitsOf] using h

include hw ho

/-- Each form of R362, by the zero fields that the decoder asks for. -/
theorem packTx_imm (h : (bitsOf w 17 1 == 1 && bitsOf w 12 5 == 0 && bitsOf w 18 3 == 0) = true) :
    packTx op (txD w).toNat (txA w).toNat 0 true (txN w).toNat = w := by
  simp only [Bool.and_eq_true, beq_iff_eq, bitsOf] at h ho
  simp only [packTx, txD, txA, txN, bitsOf, bitOf, BitVec.toNat_ofNat, Nat.mod_mod, if_true]
  omega
theorem packTx_immD (h : (bitsOf w 17 1 == 1 && bitsOf w 12 5 == 0 && bitsOf w 18 6 == 0) = true) :
    packTx op (txD w).toNat 0 0 true (txN w).toNat = w := by
  simp only [Bool.and_eq_true, beq_iff_eq, bitsOf] at h ho
  simp only [packTx, txD, txN, bitsOf, bitOf, BitVec.toNat_ofNat, Nat.mod_mod, if_true]
  omega
theorem packTx_reg (h : ((!(bitsOf w 17 1 == 1)) && bitsOf w 0 18 == 0) = true) :
    packTx op (txD w).toNat (txA w).toNat (txB w).toNat false 0 = w := by
  simp only [Bool.and_eq_true, beq_iff_eq, bitsOf] at h ho
  simp only [packTx, txD, txA, txB, bitsOf, bitOf, BitVec.toNat_ofNat, Nat.mod_mod, Bool.false_eq_true, if_false]
  omega
theorem packTx_da (h : (bitsOf w 0 21 == 0) = true) : packTx op (txD w).toNat (txA w).toNat 0 false 0 = w := by
  simp only [beq_iff_eq, bitsOf] at h ho
  simp only [packTx, txD, txA, bitsOf, bitOf, BitVec.toNat_ofNat, Nat.mod_mod, Bool.false_eq_true, if_false]
  omega
theorem packTx_only_d (h : (bitsOf w 0 24 == 0) = true) : packTx op (txD w).toNat 0 0 false 0 = w := by
  simp only [beq_iff_eq, bitsOf] at h ho
  simp only [packTx, txD, bitsOf, bitOf, BitVec.toNat_ofNat, Nat.mod_mod, Bool.false_eq_true, if_false]
  omega
theorem packTx_only_op (h : (bitsOf w 0 27 == 0) = true) : packTx op 0 0 0 false 0 = w := by
  simp only [beq_iff_eq, bitsOf] at h ho
  simp only [packTx, bitOf, Bool.false_eq_true, if_false]
  omega
theorem packTx_bfw (h : (bitsOf w 6 12 == 0) = true) :
    packTx op (txD w).toNat (txA w).toNat (txB w).toNat false (BitVec.ofNat 6 (bitsOf w 0 6)).toNat = w := by
  simp only [beq_iff_eq, bitsOf] at h ho
  simp only [packTx, txD, txA, txB, bitsOf, bitOf, BitVec.toNat_ofNat, Nat.mod_mod, Bool.false_eq_true, if_false]
  omega
theorem packTx_li : op * 2 ^ 27 + (txD w).toNat * 2 ^ 24 + (BitVec.ofNat 24 (bitsOf w 0 24)).toNat = w := by
  simp only [bitsOf] at ho
  simp only [txD, bitsOf, BitVec.toNat_ofNat, Nat.mod_mod]
  omega

theorem packTx_reg_noA (h : ((!(bitsOf w 17 1 == 1)) && bitsOf w 0 18 == 0 && bitsOf w 21 3 == 0) = true) :
    packTx op (txD w).toNat 0 (txB w).toNat false 0 = w := by
  obtain ⟨hf, hz⟩ := (Bool.and_eq_true ..).mp h
  have hp := packTx_reg hw ho hf
  rwa [txA_zero hz] at hp
theorem packTx_imm_noD (h : (bitsOf w 17 1 == 1 && bitsOf w 12 5 == 0 && bitsOf w 18 3 == 0 && bitsOf w 24 3 == 0) = true) :
    packTx op 0 (txA w).toNat 0 true (txN w).toNat = w := by
  obtain ⟨hf, hz⟩ := (Bool.and_eq_true ..).mp h
  have hp := packTx_imm hw ho hf
  rwa [txD_zero hz] at hp
theorem packTx_reg_noD (h : ((!(bitsOf w 17 1 == 1)) && bitsOf w 0 18 == 0 && bitsOf w 24 3 == 0) = true) :
    packTx op 0 (txA w).toNat (txB w).toNat false 0 = w := by
  obtain ⟨hf, hz⟩ := (Bool.and_eq_true ..).mp h
  have hp := packTx_reg hw ho hf
  rwa [txD_zero hz] at hp
theorem packTx_only_n (h : (bitsOf w 17 1 == 1 && bitsOf w 12 5 == 0 && bitsOf w 18 6 == 0 && bitsOf w 24 3 == 0) = true) :
    packTx op 0 0 0 true (txN w).toNat = w := by
  obtain ⟨hf, hz⟩ := (Bool.and_eq_true ..).mp h
  have hp := packTx_immD hw ho hf
  rwa [txD_zero hz] at hp
theorem packTx_only_a (h : (bitsOf w 0 21 == 0 && bitsOf w 24 3 == 0) = true) : packTx op 0 (txA w).toNat 0 false 0 = w := by
  obtain ⟨hf, hz⟩ := (Bool.and_eq_true ..).mp h
  have hp := packTx_da hw ho hf
  rwa [txD_zero hz] at hp
end

theorem encodeTx_of_decodeTx {w : Nat} {i : Instr} (h : decodeTx w = .ok i) : encodeTx i = some w := by
  unfold decodeTx at h
  dsimp only at h
  split at h
  · cases h
  next hw =>
    split at h
    all_goals (repeat' split at h)
    all_goals cases h
    all_goals refine congrArg some ?_
    case h_1.isTrue.refl | h_2.isTrue.refl => exact packTx_immD hw ‹_› ‹_›
    case h_1.isFalse.isTrue.refl | h_2.isFalse.isTrue.refl => exact packTx_reg_noA hw ‹_› ‹_›
    case h_3.isTrue.refl => exact packTx_imm_noD hw ‹_› ‹_›
    case h_3.isFalse.isTrue.refl => exact packTx_reg_noD hw ‹_› ‹_›
    case h_4.refl => exact packTx_li hw ‹_›
    case h_5.isTrue.refl | h_17.isFalse.isTrue.refl => exact packTx_da hw ‹_› ‹_›
    case h_18.isTrue.refl | h_23.isTrue.refl => exact packTx_only_d hw ‹_› ‹_›
    case h_19.isTrue.refl | h_21.isFalse.isTrue.refl => exact packTx_only_a hw ‹_› ‹_›
    case h_20.isTrue.refl => exact packTx_bfw hw ‹_› ‹_›
    case h_21.isTrue.refl | h_25.isTrue.refl => exact packTx_only_n hw ‹_› ‹_›
    case h_22.isTrue.refl | h_24.isTrue.refl => exact packTx_only_op hw ‹_› ‹_›
    case h_15.isTrue.refl | h_16.isTrue.refl | h_17.isTrue.refl => exact packTx_imm hw ‹_› ‹_›
    case h_6.isTrue.refl | h_7.isTrue.refl | h_8.isTrue.refl | h_9.isTrue.refl | h_10.isTrue.refl | h_11.isTrue.refl | h_12.isTrue.refl
      | h_13.isTrue.refl | h_14.isTrue.refl => exact packTx_imm hw ‹_› ‹_›
    all_goals exact packTx_reg hw ‹_› ‹_›

/-! ### Every word -/

theorem fieldsOf_op_lt {i : Instr} {op : Nat} {f : Fields} (h : fieldsOf i = some (op, f)) : op < 256 := by
  cases i with
  | _ => cases h <;> decide

/-- No instruction has both forms of word. -/
theorem encodeTx_of_fieldsOf {i : Instr} {x : Nat × Fields} (h : fieldsOf i = some x) : encodeTx i = none := by
  cases i with
  | _ => cases h <;> rfl

theorem encode_of_fieldsOf {i : Instr} {op : Nat} {f : Fields} (h : fieldsOf i = some (op, f)) : encode i = some (96, packFields op f) := by
  unfold encode
  split
  · cases h
  · rw [h]

theorem encode_of_encodeTx {i : Instr} {w : Nat} (h : encodeTx i = some w) : encode i = some (32, w) := by
  unfold encode
  split
  · cases h
  · cases hf : fieldsOf i with
    | none => rw [h]; rfl
    | some x => rw [encodeTx_of_fieldsOf hf] at h; cases h

/-- The three forms of words. -/
theorem encode_forms {i : Instr} {n w : Nat} (h : encode i = some (n, w)) :
    (∃ p q, i = .shortPair p q ∧ n = 96 ∧ w = packShort p * 2 ^ 48 + packShort q) ∨
    (∃ op f, fieldsOf i = some (op, f) ∧ n = 96 ∧ w = packFields op f) ∨ (encodeTx i = some w ∧ n = 32) := by
  unfold encode at h
  split at h
  · next p q =>
    cases h
    exact .inl ⟨p, q, rfl, rfl, rfl⟩
  split at h
  · next op f hf =>
    cases h
    exact .inr (.inl ⟨op, f, hf, rfl, rfl⟩)
  · obtain ⟨v, hv, he⟩ := Option.map_eq_some_iff.mp h
    cases he
    exact .inr (.inr ⟨hv, rfl⟩)

theorem decodeSlot_pair (p q : ShortOp) : decodeSlot true (packShort p * 2 ^ 48 + packShort q) = .ok (.shortPair p q) := by
  have hp : (packShort p * 2 ^ 48 + packShort q) / 2 ^ 48 = 0 * 2 ^ 48 + packShort p := by
    have := packShort_lt q
    omega
  simp only [decodeSlot, if_true, hp, shortAt_packShort]

theorem decodeSlot_packFields {i : Instr} {op : Nat} {f : Fields} (h : fieldsOf i = some (op, f)) (hs : Selected i) :
    decodeSlot false (packFields op f) = .ok i := by
  simp only [decodeSlot, Bool.false_eq_true, if_false, bitsOf_packFields (fieldsOf_op_lt h), fieldsAt_packFields,
    decodeOp_of_fieldsOf h hs]

/-- Settles O54: the fields of a word's encoding are the instruction's own, and its checks tell the rows of one opcode apart. -/
theorem decodeOfEncode : Obligations.DecodeOfEncode := by
  intro i n w hwf he
  rcases encode_forms he with ⟨p, q, rfl, rfl, rfl⟩ | ⟨op, f, hf, rfl, rfl⟩ | ⟨ht, rfl⟩
  · have := packShort_lt p
    have := packShort_lt q
    refine ⟨by omega, fun _ _ e => ?_, fun h => absurd rfl (h p q)⟩
    exact ⟨rfl, decodeSlot_pair p q⟩
  · refine ⟨packFields_lt (fieldsOf_op_lt hf) f, fun p q e => ?_, fun _ => ?_⟩
    · subst e; cases hf
    · exact congrArg Except.toOption (decodeSlot_packFields hf (selected_of_wellFormed hwf))
  · have hd := decodeTx_of_encodeTx ht
    refine ⟨lt_of_decodeTx hd, fun p q e => ?_, fun _ => congrArg Except.toOption hd⟩
    subst e; cases ht

/-- Settles O55: the fields read from a word make up all of it. -/
theorem encodeOfDecode : Obligations.EncodeOfDecode := by
  refine ⟨fun pair w i hw h => ?_, fun w i h => encode_of_encodeTx (encodeTx_of_decodeTx h)⟩
  cases pair with
  | true =>
    cases h
    refine congrArg (fun x => some (96, x)) ?_
    rw [packShort_shortAt, packShort_shortAt]
    omega
  | false =>
    unfold decodeSlot at h
    split at h
    · contradiction
    split at h
    · next j hj =>
      cases h
      rw [encode_of_fieldsOf (fieldsOf_of_decodeOp hj), packFields_fieldsAt hw]
    · cases h

/-- Settles O56: the decoder runs on each printed word. -/
theorem printedWords : Obligations.PrintedWords :=
  ⟨rfl, rfl, rfl, rfl, rfl, rfl, rfl, rfl, rfl, rfl, rfl, rfl, rfl, rfl, rfl, rfl, rfl, rfl, rfl, rfl, rfl, rfl, rfl, rfl, rfl⟩

end Sys2Proof.Claims
end

section
namespace Sys2Proof.Claims

set_option Elab.async false

open Sys2Proof Sys2Proof.Machine

/-!
### Guards, decode checks and stalls (02 R44, R45, R54; 03 R71, R79)

Every full instruction but the two prefixes is an `issueSplit` (`exec_framed`), so each of these is a lemma about that frame.
-/

/-! ### The frame of a full instruction -/

theorem entryOf_of_fieldsOf {i : Instr} {op : Nat} {f : Fields} (h : fieldsOf i = some (op, f)) : ∃ e, entryOf i = some e := by
  cases i with
  | _ => cases h <;> exact ⟨_, rfl⟩

/-- An instruction that issues by the common frame, and does nothing under an all-false guard where `quiet`. -/
def Framed (i : Instr) (s : State) (quiet : Prop) : Prop :=
  ∃ split blank body, exec i s = issueSplit i s split blank body ∧ (quiet → blank.writes = [] ∧ ∀ j t, blank.eff j t = t)

theorem framed_plain {i : Instr} {s : State} {q : Prop} {split : Bool} {body : Iss → State → Eff} (h : exec i s = issueSplit i s split {} body) :
    Framed i s q := ⟨split, {}, body, h, fun _ => ⟨rfl, fun _ _ => rfl⟩⟩

theorem framed_lane {i : Instr} {f : Fields} {s : State} {op : Nat} {wide : Bool} {v : Nat} {body : Iss → State → Eff}
    (h : exec i s = issueLane i f s wide v body) (hop : 0x60 ≤ op ∧ op ≤ 0x68) :
    Framed i s (0x60 ≤ op → op ≤ 0x68 → isScal f.d = false) := by
  refine ⟨true, _, body, h, fun hs => ?_⟩
  simp [hs hop.1 hop.2]

/-- Every instruction but the prefixes has the common frame; under an all-false guard only a cross-lane one acts, on a scalar D. -/
theorem exec_framed {i : Instr} {op : Nat} {f : Fields} (hf : fieldsOf i = some (op, f)) (s : State) :
    Framed i s (0x60 ≤ op → op ≤ 0x68 → isScal f.d = false) ∨ (op = 0xF0 ∧ i = .imx f) ∨ (op = 0xF1 ∧ i = .pol f) := by
  cases i with
  | imx =>
    cases hf
    exact .inr (.inl ⟨rfl, rfl⟩)
  | pol =>
    cases hf
    exact .inr (.inr ⟨rfl, rfl⟩)
  | shfl | vote | ballot | wred | scan | matchl | elect | rdlane | wrlane =>
    cases hf
    exact .inl (framed_lane rfl (by decide))
  | _ => cases hf <;> exact .inl (framed_plain rfl)

theorem isEmpty_false {α : Type} {l : List α} (h : l ≠ []) : l.isEmpty = false := by
  cases l with
  | nil => exact absurd rfl h
  | cons => rfl

theorem bundle_of_guarded {w : Warp} {g : BitVec 4} (h : guarded w g w.bundle ≠ []) : w.bundle ≠ [] := by
  intro hb
  exact h (by rw [hb]; rfl)

theorem whole_false (w : Warp) : Whole w false := fun h => by cases h

theorem whole_of_true {w : Warp} (h : Whole w true) (split : Bool) : Whole w split := fun _ => h rfl

theorem unran_of_fresh {w : Warp} (h : Fresh w) : w.unran = w.bundle :=
  List.filter_eq_self.mpr fun l hl => by rw [h l hl]; rfl

theorem ranPcs_of_fresh {w : Warp} (h : Fresh w) : w.ranPcs = [] :=
  List.filterMap_eq_nil_iff.mpr fun l hl => by rw [h l hl]; rfl

theorem warp?_self {s : State} {k : Nat} {w : Warp} (h : s.warp? k = some w) : s.warp? w.key = some w :=
  (State.warp?_key h).symm ▸ h

@[simp] theorem counted_regions (s : State) (w : Warp) : (counted s w).regions = s.regions := by simp [counted]
theorem vregsOf_counted (s : State) (w x : Warp) : (counted s w).vregsOf x = s.vregsOf x := by simp [State.vregsOf, State.regionOf?]
theorem sregsOf_counted (s : State) (w x : Warp) : (counted s w).sregsOf x = s.sregsOf x := by simp [State.sregsOf, State.regionOf?]

section
variable {s : State} {w : Warp} {i : Instr} {op : Nat} {f : Fields} {e : Entry} {split : Bool} {blank : Blank} {body : Iss → State → Eff}
  (hf : fieldsOf i = some (op, f)) (he : entryOf i = some e) (hw : s.warp? s.cur = some w)
include hf he hw

/-- Under an all-false guard an instruction has its blank effect and goes on (R45, R79). -/
theorem issueSplit_blank (hb : w.bundle ≠ []) (hg : guarded w f.g w.bundle = []) (hs : Whole w split)
    (hr : ∀ r ∈ blank.writes, r ∉ w.pendingRegs) :
    issueSplit i s split blank body = .next (ends w (blank.eff (issueOf w f) (counted s w))) := by
  have hst : (blank.writes.any w.pendingRegs.contains) = false := by simpa [List.any_eq_false] using hr
  unfold issueSplit
  simp only [hw, hf, he, isEmpty_false hb, splits_whole hs, hg, subBundles_whole hs, List.isEmpty_nil, Bool.false_eq_true, if_false, if_true]
  have hl : (issueOf w f).lanes.isEmpty = true := by rw [show (issueOf w f).lanes = [] from hg]; rfl
  have hi : ({ issOf w f.g w.bundle with pfx := w.pfx } : Iss) = issueOf w f := rfl
  simp only [runBundles, warp?_self hw, hi, hl, hst, Bool.false_eq_true, if_false, if_true]
  rfl

/-- A decode check that fails is the instruction's fault, before a half-group executes it (R44). -/
theorem issueSplit_trap (hg : guarded w f.g w.bundle ≠ []) (hn : Fresh w) {c : Nat} (hc : checkFields e f (s.vregsOf w) (s.sregsOf w) = some c) :
    issueSplit i s split blank body = .next (takeTrap s (issueOf w f) { cause := c, lanes := guarded w f.g w.bundle }) := by
  unfold issueSplit
  simp only [hw, hf, he, isEmpty_false (bundle_of_guarded hg), unran_of_fresh hn, ite_self, isEmpty_false hg, hc, Bool.false_eq_true, if_false]

/-- A stall at the first bundle that has a lane to execute: nothing issues, and half-groups that have executed wait (R66, R71). -/
theorem issueSplit_stalled (hg : guarded w f.g w.bundle ≠ []) (hc : checkFields e f (s.vregsOf w) (s.sregsOf w) = none)
    (hst : stalled s w i = true) {b : List Nat} {r : List (List Nat)} (hb : groupsOf w split = b :: r) (hgb : guarded w f.g b ≠ []) :
    issueSplit i s split blank body = .next (s.leave w.key w.pfx (ranOf w split)) := by
  unfold issueSplit
  have hl : ({ issOf w f.g b with pfx := w.pfx } : Iss).lanes.isEmpty = false := isEmpty_false hgb
  simp only [hw, hf, he, isEmpty_false (bundle_of_guarded hg), hc, ite_self, Bool.false_eq_true, if_false]
  unfold groupsOf at hb
  rw [hb]
  simp only [runBundles, warp?_self hw, hl, hst, Bool.false_eq_true, if_false, if_true]

end

/-- An `imx` or `pol` whose guard is true in some lane issues by the common frame too. -/
theorem issuePrefix_guarded {s : State} {w : Warp} {f : Fields} (hw : s.warp? s.cur = some w) (hg : guarded w f.g w.bundle ≠ [])
    (x : Instr) (isImx : Bool) : issuePrefix x f s isImx = issue x s (prefixBody isImx f) := by
  unfold issuePrefix
  simp only [hw, isEmpty_false hg, Bool.and_false, Bool.false_eq_true, if_false]

theorem issuePrefix_blank {s : State} {w : Warp} {f : Fields} (hw : s.warp? s.cur = some w) (hb : w.bundle ≠ [])
    (hg : guarded w f.g w.bundle = []) (x : Instr) (isImx : Bool) :
    issuePrefix x f s isImx = .next (takeTrap s (issueOf w f) { cause := 0x007, lanes := w.bundle }) := by
  unfold issuePrefix
  simp only [hw, isEmpty_false hb, hg, List.isEmpty_nil, Bool.not_false, Bool.and_true, if_true]

theorem exec_issueSplit {s : State} {w : Warp} {i : Instr} {op : Nat} {f : Fields} (hf : fieldsOf i = some (op, f))
    (hw : s.warp? s.cur = some w) (hg : guarded w f.g w.bundle ≠ []) : ∃ split blank body, exec i s = issueSplit i s split blank body := by
  rcases exec_framed hf s with ⟨split, blank, body, h, _⟩ | ⟨_, rfl⟩ | ⟨_, rfl⟩
  · exact ⟨split, blank, body, h⟩
  · exact ⟨false, {}, _, issuePrefix_guarded hw hg (.imx f) true⟩
  · exact ⟨false, {}, _, issuePrefix_guarded hw hg (.pol f) false⟩

/-- The empty-set result of a cross-lane instruction for a scalar D (06 R168). -/
theorem issueLane_empty {s : State} {w : Warp} {i : Instr} {op : Nat} {f : Fields} {wide : Bool} {v : Nat} {body : Iss → State → Eff}
    (hf : fieldsOf i = some (op, f)) (hw : s.warp? s.cur = some w) (hb : w.bundle ≠ []) (hg : guarded w f.g w.bundle = [])
    (hs : Whole w true) (hd : isScal f.d = true) (hc : ∃ e, entryOf i = some e ∧ checkFields e f (s.vregsOf w) (s.sregsOf w) = none)
    (hr : ∀ r ∈ regsAt f.d 1, r ∉ w.pendingRegs) :
    issueLane i f s wide v body = .next (ends w ((counted s w).withWarp w.key fun y => y.putAll (destWrites f.d wide 0 v))) := by
  obtain ⟨e, he, hc⟩ := hc
  unfold issueLane
  rw [issueSplit_blank hf he hw hb hg hs (by simpa [hd] using hr)]
  have hc' : (isScal f.d && (entryOf i).any fun e =>
      (checkFields e f ((counted s w).vregsOf w) ((counted s w).sregsOf w)).isNone) = true := by
    rw [hd, he, vregsOf_counted, sregsOf_counted, Option.any_some, hc]
    rfl
  exact congrArg (fun t => Host.Outcome.next (ends w t)) (if_pos hc')

theorem guarded_true (w : Warp) (ls : List Nat) : guarded w 7 ls = ls := by
  simp [guarded, guardTrue, Thread.pred]

/-- What a short pair answers that its checks and hazards do not stop: its body's effect, and the advance (R43). -/
theorem execShortPair_eq {s : State} {w : Warp} {p q : ShortOp} (hw : s.warp? s.cur = some w) (hb : w.bundle ≠ [])
    (h : (sopLanes w p w.bundle = [] ∧ sopLanes w q w.bundle = []) ∨
      (checkPair p q (s.vregsOf w) = none ∧ stalled s w (.shortPair p q) = false)) :
    exec (.shortPair p q) s = .next (match pairBody p q (issOf w 7 w.bundle) (counted s w) with
      | .done t => ends w t
      | .jump t pcs => endsAt w t pcs
      | .trap t => takeTrap s (issOf w 7 w.bundle) t
      | .hold t => t) := by
  change execShortPair p q s = _
  generalize hnone : ((sopLanes w p w.bundle).isEmpty && (sopLanes w q w.bundle).isEmpty) = none_
  have hc : (if none_ then none else checkPair p q (s.vregsOf w)) = none := by
    rcases h with ⟨hp, hq⟩ | ⟨hc, _⟩
    · rw [← hnone, hp, hq]; rfl
    · rw [hc, ite_self]
  have hst : (!none_ && stalled s w (.shortPair p q)) = false := by
    rcases h with ⟨hp, hq⟩ | ⟨_, hst⟩
    · rw [← hnone, hp, hq]; rfl
    · rw [hst, Bool.and_false]
  have hi : ({ issOf w 7 w.bundle with pfx := w.pfx } : Iss) = issOf w 7 w.bundle := rfl
  have hl : (issOf w 7 w.bundle).lanes.isEmpty = false := isEmpty_false (by rw [show (issOf w 7 w.bundle).lanes = _ from guarded_true ..]; exact hb)
  unfold execShortPair
  simp only [hw, isEmpty_false hb, hnone, hc, Bool.false_eq_true, if_false]
  simp only [runBundles, warp?_self hw, hi, hl, hst, Bool.false_eq_true, if_false]
  rw [show (s.withWarp w.key fun v => v.countIssue w.bundle) = counted s w from rfl]
  cases pairBody p q (issOf w 7 w.bundle) (counted s w) <;> rfl

/-- The frame of a short pair is its own: both guards false, and no check is made (R43, R45). -/
theorem shortPair_blank {s : State} {w : Warp} {p q : ShortOp} (hw : s.warp? s.cur = some w) (hb : w.bundle ≠ [])
    (hp : sopLanes w p w.bundle = []) (hq : sopLanes w q w.bundle = []) :
    exec (.shortPair p q) s = .next (ends w (counted s w)) := by
  rw [execShortPair_eq hw hb (.inl ⟨hp, hq⟩)]
  have : pairBody p q (issOf w 7 w.bundle) (counted s w) = .done (counted s w) := if_pos (by rw [show (issOf w 7 w.bundle).w = w from rfl, show (issOf w 7 w.bundle).all = w.bundle from rfl, hp, hq]; rfl)
  rw [this]

theorem falseGuards : FalseGuards := by
  intro s w hw hb
  refine ⟨fun i op f hf hg hs h0 h1 hd => ?_, fun f hg hs hd x hx hc hr => ?_, fun p q hp hq => shortPair_blank hw hb hp hq,
    fun f hg i hi => ?_⟩
  · obtain ⟨e, he⟩ := entryOf_of_fieldsOf hf
    rcases exec_framed hf s with ⟨split, blank, body, h, hq⟩ | ⟨h, _⟩ | ⟨h, _⟩
    · obtain ⟨hbw, hbe⟩ := hq hd
      rw [h, issueSplit_blank hf he hw hb hg (whole_of_true hs split) (by simp [hbw]), hbe]
    · exact absurd h h0
    · exact absurd h h1
  · simp only [List.mem_cons, List.not_mem_nil, or_false] at hx
    rcases hx with rfl | rfl | rfl | rfl | rfl
    all_goals exact issueLane_empty rfl hw hb hg hs hd hc hr
  · simp only [List.mem_cons, List.not_mem_nil, or_false] at hi
    rcases hi with rfl | rfl
    · exact issuePrefix_blank hw hb hg (.imx f) true
    · exact issuePrefix_blank hw hb hg (.pol f) false

theorem decodeTraps : DecodeTraps := by
  intro s w i op f e c hf he hw hg hn hc
  obtain ⟨split, blank, body, h⟩ := exec_issueSplit hf hw hg
  rw [h, issueSplit_trap hf he hw hg hn hc]

theorem issueSplit_absent {s : State} {w : Warp} {i : Instr} {op : Nat} {f : Fields} {e : Entry} {body : Iss → State → Eff}
    (hf : fieldsOf i = some (op, f)) (he : entryOf i = some e) (ha : e.absent = true) (hw : s.warp? s.cur = some w)
    (hg : guarded w f.g w.bundle ≠ []) :
    issue i s body = .next (takeTrap s (issueOf w f) { cause := 0x001, lanes := guarded w f.g w.bundle }) := by
  have hc : ∀ v r, checkFields e f v r = some 0x001 := fun v r => if_pos ha
  unfold issue issueSplit
  have hsp : w.splits false = false := rfl
  simp only [hw, hf, he, isEmpty_false (bundle_of_guarded hg), hsp, isEmpty_false hg, hc, Bool.false_eq_true, if_false]

theorem absentInstructions : AbsentInstructions := by
  intro s w f hw hg i hi
  simp only [List.mem_cons, List.not_mem_nil, or_false] at hi
  rcases hi with rfl | rfl | rfl | rfl | rfl | rfl
  all_goals exact issueSplit_absent rfl rfl rfl hw hg

theorem groupsOf_whole {w : Warp} {split : Bool} (h : Whole w split) : groupsOf w split = [w.bundle] := by
  unfold groupsOf
  rw [subBundles_whole h, splits_whole h]
  rfl

theorem leave_eq (s : State) (w : Warp) (split : Bool) :
    (Whole w true ∨ Fresh w → s.leave w.key w.pfx (ranOf w split) = s) ∧
    (s.leave w.key w.pfx (ranOf w split) = s ∨ s.leave w.key w.pfx (ranOf w split) = s.leave w.key w.pfx w.ranPcs) := by
  unfold ranOf
  cases hsp : w.splits split with
  | false => exact ⟨fun _ => rfl, .inl rfl⟩
  | true =>
    refine ⟨fun h => ?_, .inr rfl⟩
    rcases h with h | h
    · rw [splits_whole (whole_of_true h split)] at hsp
      cases hsp
    · rw [ranPcs_of_fresh h]
      rfl

theorem stalls : Stalls := by
  intro s w i op f e hf he hw hg hc hst hb
  obtain ⟨split, blank, body, h⟩ := exec_issueSplit hf hw hg
  have hb' : ∃ b r, groupsOf w split = b :: r ∧ guarded w f.g b ≠ [] := by
    have hw1 (hs : Whole w split) : ∃ b r, groupsOf w split = b :: r ∧ guarded w f.g b ≠ [] := ⟨w.bundle, [], groupsOf_whole hs, hg⟩
    cases split with
    | false => exact hw1 fun hs => by cases hs
    | true =>
      rcases hb with hs | ⟨b, hbh, hgb⟩
      · exact hw1 hs
      · obtain ⟨r, hr⟩ := List.head?_eq_some_iff.mp hbh
        exact ⟨b, r, hr, hgb⟩
  obtain ⟨b, r, hbr, hgb⟩ := hb'
  exact ⟨_, h.trans (issueSplit_stalled hf he hw hg hc hst hbr hgb), leave_eq s w split⟩

/-- Settles O7: each part is a lemma about the frame that every full instruction has. -/
theorem issueChecks : Obligations.IssueChecks := ⟨falseGuards, decodeTraps, absentInstructions, stalls⟩

end Sys2Proof.Claims
end

section
namespace Sys2Proof.Claims

set_option Elab.async false

open Sys2Proof Sys2Proof.Machine

/-! ### What a step executes (02 R18 to R22, 03 R71, R72, 13 R361) -/

theorem step_agenda {s : State} {m : Agenda} {rest : List Agenda} (h : s.agenda = m :: rest) : step s = move m { s with agenda := rest } := by
  unfold step nextMove
  rw [h]

/-- The slot of a line that passes its checks (R18 to R22). -/
theorem slotAt_instr {line : Nat} {pc : W64} {i : Instr} (hk : slotOf pc ≤ 4) (hz : pc &&& 7 = 0) (hp : parityOk line = true)
    (hr : bitsOf (lineWordOf line) 16 16 = 0)
    (hd : decodeSlot (bitsOf (lineWordOf line) (5 + slotOf pc) 1 == 1) (slotBits line (slotOf pc)) = .ok i) : slotAt line pc = .instr i := by
  unfold slotAt
  have hc : (decide (4 < slotOf pc) || pc &&& 7 != 0) = false := by
    rw [hz, decide_eq_false (by omega)]
    rfl
  simp only [hc, hp, hr, hd, Bool.not_true, bne_self_eq_false, Bool.false_eq_true, if_false]

theorem fetchNext_instr {s t : State} {w : Warp} {line : Nat} {i : Instr}
    (hf : fetchLine s w (w.thread (w.bundle.headD 0)).pc w.bundle = .line t line)
    (hs : slotAt line (w.thread (w.bundle.headD 0)).pc = .instr i)
    (he : w.entryCause line (w.thread (w.bundle.headD 0)).pc = none) (hu : w.unitCause (.instr i) = none) :
    fetchNext s w = .instr t i := by
  unfold fetchNext
  simp only [hf, hs, he, hu]

section
variable {k : Nat} {s : State} {x y : Warp}

/-- A warp that may not issue does nothing but its re-sort (R62, R71). -/
theorem issueStep_ineligible (hx : (s.withWarp k Warp.sortDue).warp? k = some x) (he : eligible x = false) :
    issueStep k s = .next (s.withWarp k Warp.sortDue) := by
  unfold issueStep issueOfWarp
  simp [hx, he]

variable (hx : (s.withWarp k Warp.sortDue).warp? k = some x) (he : eligible x = true)
  (hy : (reloadCredits exec (s.withWarp k Warp.sortDue) x).warp? k = some y)
include hx he hy

/-- A warp whose turn has not come (R72). -/
theorem issueStep_noTurn (ht : takeTurn exec (reloadCredits exec (s.withWarp k Warp.sortDue) x) y = none) :
    issueStep k s = .next (reloadCredits exec (s.withWarp k Warp.sortDue) x) := by
  unfold issueStep issueOfWarp
  simp [hx, he, hy, ht]

/-- A warp that may issue and whose turn has come executes what it fetches. -/
theorem issueStep_instr {v t : State} {i : Instr} (ht : takeTurn exec (reloadCredits exec (s.withWarp k Warp.sortDue) x) y = some v)
    (hn : y.snare = none) (hg : fetchGate v y = none) (hf : fetchNext v y = .instr t i) : issueStep k s = exec i { t with cur := k } := by
  unfold issueStep issueOfWarp
  simp [hx, he, hy, ht, hn, hg, hf]

end

theorem fetchLine_hit {s : State} {w : Warp} {pc : W64} {ls : List Nat} {e : Nat × Nat × List Byte}
    (h : ((s.core w.core).icache.find? fun e => e.1 == w.ctx && e.2.1 == (lineOf pc).toNat && parityOk (natOfBytes e.2.2)) = some e) :
    fetchLine s w pc ls = .line s (natOfBytes e.2.2) := by
  unfold fetchLine
  simp only [h]

/-- A miss whose line comes in with its parity right. -/
theorem fetchLine_miss {s : State} {w : Warp} {pc : W64} {ls : List Nat}
    (h : ((s.core w.core).icache.find? fun e => e.1 == w.ctx && e.2.1 == (lineOf pc).toNat && parityOk (natOfBytes e.2.2)) = none)
    (hc : (codeChk s w (ls.headD 0) pc).why = none) :
    let c := codeChk s w (ls.headD 0) pc
    let bytes := memBytes s.mem (s.homeLoc (c.loc - c.loc % 64)) 64
    let t := s.fill w.core w.ctx (lineOf pc).toNat
    let rest := (t.core w.core).icache.filter fun e => !(e.1 == w.ctx && e.2.1 == (lineOf pc).toNat)
    parityOk (natOfBytes bytes) = true →
    fetchLine s w pc ls = .line (t.setCore w.core { t.core w.core with
      icache := ((w.ctx, (lineOf pc).toNat, bytes) :: rest).take (icacheLines w.core) }) (natOfBytes bytes) := by
  intro c bytes t rest hp
  unfold fetchLine
  simp only [h, hc]
  exact congrArg (fun x => Fetched.line (t.setCore w.core { t.core w.core with icache := x }) (natOfBytes bytes)) (if_pos hp)

theorem transduceStep_instr {s : State} {k : Nat} {wd : BitVec 32} {i : Instr}
    (hw : let v : State := { s with txCur := k }; v.lane.prog[v.lane.index]? = some wd) (hd : decodeTx wd.toNat = .ok i) :
    transduceStep k s = exec i { s with txCur := k } := by
  unfold transduceStep
  dsimp only at hw ⊢
  simp only [hw, hd]
  rfl

/-- Settles O57: the move at the head of the agenda is the one made, and each of these moves executes what its agent finds. -/
theorem stepRunsDecoded : Obligations.StepRunsDecoded := by
  intro s rest i u
  refine ⟨fun w line x y v ha => ?_, fun k wd ha => ?_, fun ha => step_agenda ha⟩
  · intro u0 hx
    have hs : step s = issueStep w u := step_agenda ha
    refine ⟨fun he => ?_, fun he hy ht => ?_, fun he hy ht hn hg hk hz hp hr hd hec huc => ⟨fun e hit hl => ?_, fun hit hw hl => ?_⟩⟩
    · exact hs.trans (issueStep_ineligible hx he)
    · exact hs.trans (issueStep_noTurn hx he hy ht)
    · rw [hs]
      subst hl
      exact issueStep_instr hx he hy ht hn hg (fetchNext_instr (fetchLine_hit hit) (slotAt_instr hk hz hp hr hd) hec huc)
    · rw [hs]
      subst hl
      exact issueStep_instr hx he hy ht hn hg (fetchNext_instr (fetchLine_miss hit hw hp) (slotAt_instr hk hz hp hr hd) hec huc)
  · intro v hw hd
    exact (step_agenda ha).trans (transduceStep_instr hw hd)

end Sys2Proof.Claims
end

section
namespace Sys2Proof.Claims

set_option Elab.async false

open Sys2Proof Sys2Proof.Machine

/-! ### Short pairs (02 R38 to R43) -/

section
variable (w : Warp) (p q : ShortOp)

/-- What a pair's operations raise in their lanes (R43, R107). -/
abbrev sopFlags (o : ShortOp) : List (Nat × Flags) := flagsOf (sopLanes w o w.bundle) false (sopOuts w o (sopLanes w o w.bundle))
/-- The trap that one of them takes (R108). -/
abbrev sopTrap (o : ShortOp) : Option Trap := fpTrap w (sopLanes w o w.bundle) false (sopFlags w o)
/-- The results of both, from the registers before either writes. -/
abbrev pairOuts : List LaneOut := sopOuts w p (sopLanes w p w.bundle) ++ sopOuts w q (sopLanes w q w.bundle)

theorem pairOuts_rng : ∀ o ∈ pairOuts w p q, o.rng = none := by
  intro o ho
  simp only [pairOuts, sopOuts, List.mem_append, List.mem_map] at ho
  rcases ho with ⟨l, _, rfl⟩ | ⟨l, _, rfl⟩ <;> rfl

end

theorem sopTrap_nil {w : Warp} {o : ShortOp} (h : sopLanes w o w.bundle = []) : sopTrap w o = none := by
  unfold sopTrap sopFlags
  rw [h]
  rfl

/-- An entry that can take no trap does not hold the warp (R109). -/
theorem enqueueWith_free (i : Iss) (s : State) (q : Nat) (fl : List (Nat × Flags)) (bank : Option Nat) {outs : List LaneOut}
    (hr : ∀ o ∈ outs, o.rng = none) :
    enqueueWith i s q false none fl bank outs = .done (s.upd i fun w => { w with queue := w.queue ++ [
      { queue := q, writes := outs.flatMap (·.writes), flags := fl, trapMask := 0, trapCause := 0, bank := bank, pc := i.pcCur, lanes := [] }] }) := by
  unfold enqueueWith
  simp only [stepRngs_none _ _ hr, ite_self, Bool.false_eq_true, if_false]
  rfl

section
variable {w : Warp} {p q : ShortOp} (s : State) (hl : sopLanes w p w.bundle ≠ [] ∨ sopLanes w q w.bundle ≠ [])
include hl

theorem pairLanes_isEmpty : ((sopLanes w p w.bundle).isEmpty && (sopLanes w q w.bundle).isEmpty) = false := by
  rcases hl with h | h
  · rw [isEmpty_false h, Bool.false_and]
  · rw [isEmpty_false h, Bool.and_false]

/-- A pair of the vector ALU: the first trap of an operation, or both results (R43). -/
theorem pairBody_alu (hp : sopClassX p.sop.toNat = false) (hq : sopClassX q.sop.toNat = false) :
    pairBody p q (issOf w 7 w.bundle) s = match (sopTrap w p).orElse fun _ => (sopTrap w q).map fun t => { t with half := true } with
      | some t => .trap t
      | none => .done (s.withWarp w.key fun x => (x.putAll ((pairOuts w p q).flatMap (·.writes))).raiseFlags (sopFlags w p ++ sopFlags w q)) := by
  have he := pairLanes_isEmpty hl
  unfold pairBody
  simp only [issOf, hp, hq, he, Bool.false_eq_true, if_false, List.append_nil]
  rfl

/-- A pair with an operation of class X that takes no trap waits in the conversion queue (R130). -/
theorem pairBody_queue {x : ShortOp} (hx : sopClassX p.sop.toNat = true ∧ x = p ∨ sopClassX p.sop.toNat = false ∧ sopClassX q.sop.toNat = true ∧ x = q)
    (htp : sopTrap w p = none) (htq : sopTrap w q = none) (hc : canTrap w (sopLanes w x w.bundle) (sopRaises x.sop.toNat) = false) :
    pairBody p q (issOf w 7 w.bundle) s = .done (s.withWarp w.key fun y => { y with queue := y.queue ++ [
        { queue := 1, writes := (pairOuts w p q).flatMap (·.writes), flags := sopFlags w p ++ sopFlags w q, trapMask := 0, trapCause := 0
          bank := none, pc := (issOf w 7 w.bundle).pc, lanes := [] }] }) := by
  have he := pairLanes_isEmpty hl
  have hen := enqueueWith_free { issOf w 7 w.bundle with pfx := none } s 1 (sopFlags w p ++ sopFlags w q) none (pairOuts_rng w p q)
  unfold pairBody
  rcases hx with ⟨hp, rfl⟩ | ⟨hp, hq, rfl⟩
  · simp only [issOf, he, hp, htp, htq, hc, Bool.false_eq_true, if_false, if_true, List.cons_append, List.nil_append,
      Bool.not_true, Bool.false_and, Option.isSome_none, Option.map_none]
    exact hen
  · simp only [issOf, he, hp, hq, htp, htq, hc, Bool.false_eq_true, if_false, if_true, List.nil_append,
      Bool.not_false, Bool.true_and, Option.isSome_none, Option.map_none]
    exact hen
end

theorem shortPairs : ShortPairs := by
  intro s w p q hw hb hc hst lp lq hl outs fl htp htq
  have he := execShortPair_eq hw hb (.inr ⟨hc, hst⟩)
  change sopTrap w p = none at htp
  change sopTrap w q = none at htq
  refine ⟨fun hp hq => ?_, fun x hx hct => ?_⟩
  · rw [he, pairBody_alu _ hl hp hq, htp, htq]
    rfl
  · rw [he, pairBody_queue _ hl hx htp htq hct]

theorem shortPairTraps : ShortPairTraps := by
  intro s w p q t hw hb hc hst hp hq lp lq tp tq
  have he := execShortPair_eq hw hb (.inr ⟨hc, hst⟩)
  have lanes {o : ShortOp} (h : sopTrap w o = some t) : sopLanes w o w.bundle ≠ [] := fun hn => by
    rw [sopTrap_nil hn] at h
    cases h
  refine ⟨fun (h : sopTrap w p = some t) => ?_, fun (h1 : sopTrap w p = none) (h2 : sopTrap w q = some t) => ?_⟩
  · rw [he, pairBody_alu _ (.inl (lanes h)) hp hq, h]
    rfl
  · rw [he, pairBody_alu _ (.inr (lanes h2)) hp hq, h1, h2]
    rfl

/-- Settles O16: what the body of a pair does when its checks, hazards and guards let it (R43, R130). -/
theorem pairResults : Obligations.PairResults := ⟨shortPairs, shortPairTraps⟩

end Sys2Proof.Claims
end

section
namespace Sys2Proof.Claims

set_option Elab.async false

open Sys2Proof Sys2Proof.Machine

/-! ### Emulation calls and software traps -/

@[simp] theorem regionOf?_counted (s : State) (w : Warp) (ctx k : Nat) : (counted s w).regionOf? ctx k = s.regionOf? ctx k := by
  simp [State.regionOf?]

theorem emulationCalls : EmulationCalls := by
  intro s w f r h hr j
  change (_ → execEmu f s = _) ∧ (_ → _ → ∀ t, _ → _ → execEmu f s = _)
  have hr' : (counted s w).regionOf? (issueOf w f).w.ctx (issueOf w f).w.region = some r := (regionOf?_counted ..).trans hr
  unfold execEmu issue
  rw [issueSplit_of_issues rfl h (whole_false w)]
  simp only [hr']
  refine ⟨fun ha => ?_, fun h1 h2 t ht hx => ?_⟩
  · have hc : (!r.emu || decide (r.emuCnt ≤ f.aux)) = true := by simpa using ha
    simp only [hc, if_true]
    rfl
  · have hc : (!r.emu || decide (r.emuCnt ≤ f.aux)) = false := by simpa using And.intro h1 h2
    have ht' : emuTarget (counted s w) (issueOf w f).w r f.aux = some t := ht
    have hx' : transferTrap (counted s w) (issueOf w f).w ((issueOf w f).lanes.map fun l => (l, t)) = none := hx
    simp only [hc, ht', hx', vregsOf_counted, Bool.false_eq_true, if_false]
    rfl

/-- The first half-group's trap, before any other has executed (06 R179). -/
theorem issueSplit_firstTrap {s : State} {w : Warp} {i : Instr} {op : Nat} {f : Fields} {split : Bool} {blank : Blank}
    {body : Iss → State → Eff} {b : List Nat} {r : List (List Nat)} {t : Trap} (hf : fieldsOf i = some (op, f)) (h : Issues s w i f)
    (hn : Fresh w) (hb : groupsOf w split = b :: r) (hg : guarded w f.g b ≠ [])
    (ht : body (groupIss w w f b) (s.withWarp w.key fun x => x.countIssue b) = .trap t) :
    issueSplit i s split blank body = .next (takeTrap s (groupIss w w f b) t) := by
  obtain ⟨hw, hgb, ⟨e, he, hc⟩, hst⟩ := h
  unfold groupsOf at hb
  unfold issueSplit
  have hp : (if w.splits split then w.ranPcs else []) = [] := by rw [ranPcs_of_fresh hn, ite_self]
  simp only [hw, hf, he, isEmpty_false (bundle_of_guarded hgb), hc, ite_self, Bool.false_eq_true, if_false, hp]
  rw [hb]
  have hi : ({ issOf w f.g b with pfx := w.pfx } : Iss) = groupIss w w f b := rfl
  have hl : (issOf w f.g b).lanes.isEmpty = false := isEmpty_false hg
  simp only [runBundles, warp?_self hw, hi, hl, hst, ht, Bool.false_eq_true, if_false]
  rfl

theorem softwareTraps : SoftwareTraps := by
  intro s w f b r hb hg hn j
  refine ⟨fun h => ?_, fun h => ?_⟩
  · have ha : f.aux % 16 = f.aux := by
      obtain ⟨_, _, ⟨e, he, hc⟩, _⟩ := h
      cases he
      obtain ⟨_, hm⟩ := checkFields_none hc
      simp only [eE, Bool.and_eq_true, decide_eq_true_eq] at hm
      exact Nat.mod_eq_of_lt hm.1
    exact issueSplit_firstTrap rfl h hn hb hg (by rw [ha]; rfl)
  · have ha : f.aux % 65536 = f.aux := Nat.mod_eq_of_lt f.mid.isLt
    exact issueSplit_firstTrap rfl h hn hb hg (by simp only [ha, State.context, State.withWarp_ctxs]; rfl)

/-- Settles O13: the body of `emu` on the whole bundle, and the first half-group of `trap` and `brk`. -/
theorem emulationAndTraps : Obligations.EmulationAndTraps := ⟨emulationCalls, softwareTraps⟩

end Sys2Proof.Claims
end

section
namespace Sys2Proof.Claims

set_option Elab.async false

open Sys2Proof Sys2Proof.Machine

/-! ### Prefixes -/

section
variable {s : State} {w : Warp} {f : Fields} {i : Instr} {isImx : Bool} {op : Nat}
  (hf : fieldsOf i = some (op, f)) (h : Issues s w i f)
include hf h

/-- An `imx` or `pol` whose next slot cannot take it is a fault at its own PC (R50). -/
theorem issuePrefix_trap {x : Slotted} {c : Nat} (hx : peekSlot (counted s w) w (nextPc (issueOf w f).pc) = some x)
    (hc : prefixCause isImx x = some c) :
    issuePrefix i f s isImx = .next (takeTrap s (issueOf w f) { cause := c, lanes := (issueOf w f).lanes }) := by
  obtain ⟨hw, hg, _⟩ := id h
  have hp : (peekSlot (counted s w) (issueOf w f).w (issueOf w f).nxt).bind (prefixCause isImx) = some c :=
    (congrArg (·.bind (prefixCause isImx)) hx).trans hc
  rw [issuePrefix_guarded hw hg, issue, issueSplit_of_issues hf h (whole_false w)]
  simp only [prefixBody, hp]
  rfl

/-- An `imx` or `pol` is kept, with its own PC, where nothing that can be seen forbids it (R48 to R51). -/
theorem issuePrefix_kept (hp : (peekSlot (counted s w) w (nextPc (issueOf w f).pc)).bind (prefixCause isImx) = none) :
    issuePrefix i f s isImx = .next (ends w ((counted s w).withWarp w.key fun x => { x with pfx := some {
      isImx := isImx, hi := f.imm, pol := BitVec.ofNat 4 f.pol, scope := BitVec.ofNat 4 f.scope, ord := BitVec.ofNat 4 f.ord
      pc := (issueOf w f).pc } })) := by
  obtain ⟨hw, hg, _⟩ := id h
  have hp' : (peekSlot (counted s w) (issueOf w f).w (issueOf w f).nxt).bind (prefixCause isImx) = none := hp
  rw [issuePrefix_guarded hw hg, issue, issueSplit_of_issues hf h (whole_false w)]
  simp only [prefixBody, hp']
  rfl

end

/-- What an `imx` or `pol` finds in front of it that it may not stand before (R50). -/
theorem prefixCause_instr {isImx : Bool} {n : Instr} (hp : ∀ p q, n ≠ .shortPair p q) (hi : ∀ h, n ≠ .imx h) (hq : ∀ h, n ≠ .pol h) :
    prefixCause isImx (.instr n) = if (if isImx then imxTarget n else polTarget n) then none else some 0x00C := by
  unfold prefixCause
  split
  · next e => cases e; exact absurd rfl (hp _ _)
  · next e => cases e; exact absurd rfl (hi _)
  · next e => cases e; exact absurd rfl (hq _)
  · next e => cases e; rfl
  · next e => cases e
  · next e => cases e

theorem prefixCause_target {isImx : Bool} {n : Instr} (h : (if isImx then imxTarget n else polTarget n) = true) :
    prefixCause isImx (.instr n) = none := by
  rw [prefixCause_instr, if_pos h]
  · rintro _ _ rfl
    cases isImx <;> exact Bool.noConfusion h
  · rintro _ rfl
    cases isImx <;> exact Bool.noConfusion h
  · rintro _ rfl
    cases isImx <;> exact Bool.noConfusion h

/-- Anything that may not follow `imx`, or `pol`, where it is neither a pair nor that unit again (R50). -/
theorem prefixCause_other {isImx : Bool} {n : Instr} (hs : (fieldsOf n).isSome) (hi : isImx = true → ∀ h, n ≠ .imx h)
    (hq : isImx = false → ∀ h, n ≠ .pol h) (h : (if isImx then imxTarget n else polTarget n) = false) :
    prefixCause isImx (.instr n) = some 0x00C := by
  by_cases h1 : ∃ f, n = .imx f
  · obtain ⟨f, rfl⟩ := h1
    cases isImx with
    | true => exact absurd rfl (hi rfl f)
    | false => rfl
  by_cases h2 : ∃ f, n = .pol f
  · obtain ⟨f, rfl⟩ := h2
    cases isImx with
    | true => rfl
    | false => exact absurd rfl (hq rfl f)
  rw [prefixCause_instr, h]
  · rfl
  · rintro _ _ rfl
    cases hs
  · exact fun f e => h1 ⟨f, e⟩
  · exact fun f e => h2 ⟨f, e⟩

theorem prefixes : Prefixes := by
  intro s w f n pc
  have free {isImx : Bool} (hn : peekSlot (counted s w) w (nextPc pc) = none ∨
      (peekSlot (counted s w) w (nextPc pc) = some (.instr n) ∧ (if isImx then imxTarget n else polTarget n) = true)) :
      (peekSlot (counted s w) w (nextPc pc)).bind (prefixCause isImx) = none := by
    rcases hn with h | ⟨h, ht⟩
    · rw [h]; rfl
    · rw [h]; exact prefixCause_target ht
  exact ⟨fun h hn => issuePrefix_kept rfl h (free (isImx := true) hn), fun h hn => issuePrefix_kept rfl h (free (isImx := false) hn)⟩

/-- A fetched slot that does not fit the `imx` or `pol` before it is a fault at the PC of that one (R50, R51). -/
theorem fetchNext_misuse {s r : State} {w : Warp} {p : Pfx} {line c : Nat} (hp : w.pfx = some p)
    (hf : fetchLine s w (w.thread (w.bundle.headD 0)).pc w.bundle = .line r line)
    (he : w.entryCause line (w.thread (w.bundle.headD 0)).pc = none)
    (hc : prefixCause p.isImx (slotAt line (w.thread (w.bundle.headD 0)).pc) = some c) :
    fetchNext s w = .done (takeTrap r { issOf w 7 w.bundle with pc := (w.thread (w.bundle.headD 0)).pc } { cause := c, lanes := w.bundle }) := by
  have hu : w.unitCause (slotAt line (w.thread (w.bundle.headD 0)).pc) = some c := by rw [Warp.unitCause, hp]; exact hc
  unfold fetchNext
  simp only [hf, he, hu]

theorem prefixMisuse : PrefixMisuse := by
  intro s w f g n pc traps
  refine ⟨fun p hp r line hf he c hc => fetchNext_misuse hp hf he hc, fun hn => ⟨fun h => ?_, fun h => ?_⟩⟩
  · have trap {c : Nat} (hc : prefixCause true (.instr n) = some c) : traps (.imx f) c := issuePrefix_trap rfl h hn hc
    refine ⟨?_, ?_, ?_, fun hs hi ht => trap (prefixCause_other hs (fun _ => hi) (fun e => by cases e) ht)⟩
    · rintro ⟨p, q, rfl⟩
      exact trap rfl
    · rintro rfl
      exact trap rfl
    · rintro rfl
      exact trap rfl
  · have trap {c : Nat} (hc : prefixCause false (.instr n) = some c) : traps (.pol f) c := issuePrefix_trap rfl h hn hc
    refine ⟨?_, ?_, ?_, fun hs hq ht => trap (prefixCause_other hs (fun e => by cases e) (fun _ => hq) ht)⟩
    · rintro ⟨p, q, rfl⟩
      exact trap rfl
    · rintro rfl
      exact trap rfl
    · rintro rfl
      exact trap rfl

/-- Settles O15: what the next slot shows decides whether `imx` and `pol` are kept. -/
theorem prefixUnits : Obligations.PrefixUnits := ⟨prefixes, prefixMisuse⟩

end Sys2Proof.Claims
end

section
namespace Sys2Proof.Claims

set_option Elab.async false

open Sys2Proof Sys2Proof.Machine

/-! ### Operand fields and predicates (02 R26, R32, 06 R165) -/

theorem isVec_ofNat {k : Nat} (h : k < 128) : isVec (BitVec.ofNat 8 k) = true := by
  simp [isVec]; omega

theorem isScal_ofNat {k : Nat} (h : k < 64) : isVec (BitVec.ofNat 8 (0x80 + k)) = false ∧ isScal (BitVec.ofNat 8 (0x80 + k)) = true := by
  simp [isVec, isScal]; omega

theorem isPred_ofNat {k : Nat} (h : k < 8) : isVec (BitVec.ofNat 8 (0xC0 + k)) = false ∧ isScal (BitVec.ofNat 8 (0xC0 + k)) = false ∧
    isPred (BitVec.ofNat 8 (0xC0 + k)) = true := by
  simp [isVec, isScal, isPred]; omega

theorem getD_listAt {α : Type} (l : List α) (i n : Nat) (g : α → α) (d : α) (hi : i < l.length) :
    (listAt l i g).getD n d = if n = i then g (l.getD i d) else l.getD n d := by
  induction l generalizing i n with
  | nil => simp at hi
  | cons x r ih =>
    cases i with
    | zero => cases n <;> simp [listAt]
    | succ i =>
      cases n with
      | zero => simp [listAt]
      | succ n => simpa [listAt] using ih i n (by simpa using hi)

theorem thread_setThread {w : Warp} {l : Nat} (g : Thread → Thread) (h : l < w.threads.length) (m : Nat) :
    (w.setThread l g).thread m = if m = l then g (w.thread l) else w.thread m :=
  getD_listAt w.threads l m g {} h

theorem readReg_vec (w : Warp) {k : Nat} (imm l : Nat) (wide : Bool) (h : k < 128) :
    readReg w (BitVec.ofNat 8 k) imm wide l =
      if wide then ((w.thread l).vreg k).toNat + 2 ^ 32 * ((w.thread l).vreg (k + 1)).toNat else ((w.thread l).vreg k).toNat := by
  have hk : k % 256 = k := by omega
  simp only [readReg, isVec_ofNat h, BitVec.toNat_ofNat, if_true, hk]

theorem readReg_scal (w : Warp) {k : Nat} (imm l : Nat) (h : k < 64) :
    readReg w (BitVec.ofNat 8 (0x80 + k)) imm true l = (w.sreg k).toNat := by
  have hk : (0x80 + k) % 256 - 0x80 = k := by omega
  obtain ⟨hv, hs⟩ := isScal_ofNat h
  simp only [readReg, hv, hs, BitVec.toNat_ofNat, Bool.false_eq_true, if_true, if_false, hk]

theorem destWrites_vec {k : Nat} (l v : Nat) (h : k < 128) :
    destWrites (BitVec.ofNat 8 k) false l v = [⟨.v l k, BitVec.ofNat 64 v &&& 0xFFFFFFFF⟩] := by
  have hk : k % 256 = k := by omega
  simp only [destWrites, isVec_ofNat h, BitVec.toNat_ofNat, Bool.false_eq_true, if_true, if_false, hk]

theorem destWrites_pred {k : Nat} (wide : Bool) (l v : Nat) (h : k < 8) :
    destWrites (BitVec.ofNat 8 (0xC0 + k)) wide l v = [⟨.p l k, BitVec.ofNat 64 v⟩] := by
  have hk : (0xC0 + k) % 256 - 0xC0 = k := by omega
  obtain ⟨hv, hs, hp⟩ := isPred_ofNat h
  simp only [destWrites, hv, hs, hp, BitVec.toNat_ofNat, Bool.false_eq_true, if_true, if_false, hk]

/-- A write to p7 leaves no trace: it is discarded, and no load waits to write a predicate (R165, R197). -/
theorem putAll_p7 (w : Warp) (l : Nat) (v : W64) : w.putAll [⟨.p l 7, v⟩] = w := by
  have ho : w.overwrites none [⟨.p l 7, v⟩] = [] := by
    unfold Warp.overwrites
    exact List.flatMap_eq_nil_iff.mpr fun x _ => rfl
  unfold Warp.putAll Warp.putFrom
  rw [ho, List.append_nil]
  rfl

theorem putAll_thread (w : Warp) (rs : List RegWrite) (l : Nat) : (w.putAll rs).thread l = (rs.foldl Warp.put w).thread l := rfl

theorem getLsbD_putBit (p : BitVec 8) (b : Bool) {k : Nat} (hk : k < 8) (n : Nat) :
    (if b then p ||| BitVec.ofNat 8 (2 ^ k) else p &&& ~~~BitVec.ofNat 8 (2 ^ k)).getLsbD n = if n = k then b else p.getLsbD n := by
  have hm : (BitVec.ofNat 8 (2 ^ k)).getLsbD n = (decide (n < 8) && decide (k = n)) := by
    rw [BitVec.getLsbD_ofNat, Nat.testBit_two_pow]
  generalize BitVec.ofNat 8 (2 ^ k) = m at hm ⊢
  by_cases hn : n = k
  · subst hn
    cases b <;> simp [hm, hk]
  · have hz : m.getLsbD n = false := by rw [hm, decide_eq_false (Ne.symm hn), Bool.and_false]
    have hlt : p.getLsbD n = true → n < 8 := BitVec.lt_of_getLsbD
    cases b
    · simpa [hz, hn] using hlt
    · simp [hz, hn]

theorem putAll_pred {w : Warp} {l k : Nat} (v : W64) (hk : k < 7) (hl : l < w.threads.length) (n : Nat) :
    ((w.putAll [⟨.p l k, v⟩]).thread l).pred n = if n = k then v.getLsbD 0 else (w.thread l).pred n := by
  have h7 : k ≠ 7 := by omega
  rw [putAll_thread, List.foldl_cons, List.foldl_nil, Warp.put]
  simp only [h7, if_false, thread_setThread _ hl, if_true, Thread.pred, getLsbD_putBit _ _ (show k < 8 by omega)]
  by_cases hn : n = k
  · simp [hn, h7]
  · simp only [hn, if_false]

theorem truncate_low32 (v : Nat) : (BitVec.ofNat 64 v &&& 0xFFFFFFFF).truncate 32 = BitVec.ofNat 32 v := by
  apply BitVec.eq_of_toNat_eq
  have h := Nat.and_two_pow_sub_one_eq_mod (v % 2 ^ 32) 32
  simpa using h

theorem putAll_vreg {w : Warp} {l k : Nat} (v : W64) (hk : k < (w.thread l).v.length) (hl : l < w.threads.length) (n m : Nat) :
    ((w.putAll [⟨.v l k, v⟩]).thread m).v.getD n 0 = if n = k ∧ m = l then v.truncate 32 else (w.thread m).v.getD n 0 := by
  rw [putAll_thread, List.foldl_cons, List.foldl_nil, Warp.put]
  rw [thread_setThread _ hl]
  by_cases hm : m = l
  · subst hm
    simp only [if_true, and_true]
    exact getD_listAt _ _ _ _ _ hk
  · simp only [hm, and_false, if_false]

/-- Settles O53: reads and writes by the four ranges of a field, and the guard lane by lane. -/
theorem operandReads : Obligations.OperandReads := by
  intro w l imm v wide
  refine ⟨fun k hk => ⟨readReg_vec w imm l false hk, readReg_vec w imm l true hk⟩, fun k hk => readReg_scal w imm l hk, rfl, rfl, rfl, rfl,
    ?_, fun k hk n hl => ?_, fun k hk hv hl n m => ?_, fun g ls k => ?_, fun ls => ⟨?_, ?_⟩⟩
  · exact (congrArg w.putAll (destWrites_pred (k := 7) wide l v (by decide))).trans (putAll_p7 w l _)
  · rw [destWrites_pred wide l v (by omega), putAll_pred _ hk hl n, BitVec.getLsbD_ofNat, Nat.testBit_zero]
    rfl
  · rw [destWrites_vec l v hk, putAll_vreg _ hv hl n m]
    rw [truncate_low32]
  · simp [guarded, guardTrue]
  · simp [guarded, guardTrue, Thread.pred]
  · simp [guarded, guardTrue, Thread.pred]

end Sys2Proof.Claims
end

section
namespace Sys2Proof.Claims

set_option Elab.async false

open Sys2Proof Sys2Proof.Machine

/-! ### A warp and its threads

What a change of one warp leaves of the state, and what a change of one thread, an advance and the count of an issue leave of the others.
-/

theorem setWarp_setWarp {s : State} {u v : Warp} (h : v.key = u.key) : (s.setWarp v).setWarp u = s.setWarp u := by
  unfold State.setWarp
  simp only [List.map_map]
  congr 2
  funext x
  by_cases hx : x.key = u.key
  · simp [hx, h]
  · simp [hx, h]

theorem withWarp_withWarp {s : State} {k : Nat} {g h : Warp → Warp} (hg : ∀ x, (g x).key = x.key) (hh : ∀ x, (h x).key = x.key) :
    (s.withWarp k g).withWarp k h = s.withWarp k fun x => h (g x) := by
  cases hw : s.warp? k with
  | none => simp only [State.withWarp, hw]
  | some w =>
    have hk := State.warp?_key hw
    rw [State.withWarp_eq _ (State.warp?_withWarp hw ((hg w).trans hk)), State.withWarp_eq _ hw, State.withWarp_eq _ hw]
    exact setWarp_setWarp (hh _).symm

theorem listAt_of_le {α : Type} {l : List α} {i : Nat} (g : α → α) (h : l.length ≤ i) : listAt l i g = l := by
  induction l generalizing i with
  | nil => rfl
  | cons x r ih =>
    cases i with
    | zero => simp at h
    | succ i => rw [listAt, ih (by simpa using h)]

/-- The thread of a lane that a warp has, whichever lane is changed. -/
theorem thread_setThread_of_lt {w : Warp} {m : Nat} (l : Nat) (g : Thread → Thread) (h : m < w.threads.length) :
    (w.setThread l g).thread m = if m = l then g (w.thread m) else w.thread m := by
  by_cases hl : l < w.threads.length
  · rw [thread_setThread g hl]
    split
    next e => rw [e]
    next => rfl
  · have hne : m ≠ l := by omega
    rw [if_neg hne]
    unfold Warp.thread Warp.setThread
    rw [listAt_of_le g (by omega)]

/-- What a change of a thread leaves alone is left alone in every thread. -/
theorem setThread_keeps {α : Type} (π : Thread → α) {w : Warp} {l m : Nat} {g : Thread → Thread} (h : ∀ t, π (g t) = π t) :
    π ((w.setThread l g).thread m) = π (w.thread m) := by
  by_cases hl : l < w.threads.length
  · rw [thread_setThread g hl]
    split
    next e => rw [h, e]
    next => rfl
  · unfold Warp.thread Warp.setThread
    rw [listAt_of_le g (by omega)]

/-- A lane at a PC of its own, as an advance leaves it (R63). -/
def atPc (w : Warp) (p : Nat × W64) : Warp := w.setThread p.1 fun t => { t with pc := p.2, ran := none }

theorem advance_threads (w : Warp) (pcs : List (Nat × W64)) : (w.advance pcs).threads = (pcs.foldl atPc w).threads := by
  unfold Warp.advance
  dsimp only
  split <;> rfl

theorem foldl_atPc_key (w : Warp) (pcs : List (Nat × W64)) : (pcs.foldl atPc w).key = w.key :=
  List.foldlRecOn (motive := fun x : Warp => x.key = w.key) pcs atPc rfl fun _ h _ _ => h

@[simp] theorem advance_key (w : Warp) (pcs : List (Nat × W64)) : (w.advance pcs).key = w.key := by
  refine Eq.trans ?_ (foldl_atPc_key w pcs)
  unfold Warp.advance
  dsimp only
  split <;> rfl

/-- An advance changes PCs alone in the threads. -/
theorem advance_keeps {α : Type} (π : Thread → α) (w : Warp) (pcs : List (Nat × W64)) (m : Nat)
    (h : ∀ t pc, π { t with pc := pc, ran := none } = π t := by intros; rfl) : π ((w.advance pcs).thread m) = π (w.thread m) := by
  unfold Warp.thread
  rw [advance_threads]
  exact List.foldlRecOn (motive := fun x => π (x.threads.getD m {}) = π (w.threads.getD m {})) pcs atPc rfl
    fun x hx p _ => (setThread_keeps π fun t => h t p.2).trans hx

/-- Counting an issue changes of a thread what counts it alone. -/
theorem countIssue_keeps {α : Type} (π : Thread → α) (w : Warp) (b : List Nat) (m : Nat)
    (h : ∀ t n u k, π { t with age := n, unchecked := u, task := k } = π t := by intros; rfl) :
    π ((w.countIssue b).thread m) = π (w.thread m) := by
  unfold Warp.thread Warp.countIssue
  rcases Nat.lt_or_ge m w.threads.length with hm | hm
  · simp only [List.getD_eq_getElem?_getD, List.getElem?_zipWith, List.getElem?_range hm, List.getElem?_eq_getElem hm, Option.getD_some]
    split
    · exact h _ _ _ _
    · exact h _ _ _ _
  · simp [hm]

@[simp] theorem setThread_length (w : Warp) (l : Nat) (g : Thread → Thread) : (w.setThread l g).threads.length = w.threads.length := by
  unfold Warp.setThread
  generalize w.threads = ts
  induction ts generalizing l with
  | nil => rfl
  | cons x r ih =>
    cases l with
    | zero => rfl
    | succ l => exact congrArg (· + 1) (ih l)

@[simp] theorem setLanes_key (w : Warp) (ls : List Nat) (g : Nat → Thread → Thread) : (w.setLanes ls g).key = w.key :=
  List.foldlRecOn (motive := fun x : Warp => x.key = w.key) ls _ rfl fun _ h _ _ => h

/-- Threads changed lane by lane, each lane once. -/
theorem thread_setLanes {w : Warp} {ls : List Nat} (g : Nat → Thread → Thread) (hn : ls.Nodup) {m : Nat} (hm : m < w.threads.length) :
    (w.setLanes ls g).thread m = if m ∈ ls then g m (w.thread m) else w.thread m := by
  unfold Warp.setLanes
  induction ls generalizing w with
  | nil => rfl
  | cons l r ih =>
    obtain ⟨hl, hr⟩ := List.nodup_cons.mp hn
    rw [List.foldl_cons, ih hr (by rwa [setThread_length]), thread_setThread_of_lt l (g l) hm]
    by_cases he : m = l
    · subst he
      simp [hl]
    · simp [he]

/-! ### Registers, PCs and lanes of a warp -/

@[simp] theorem put_key (w : Warp) (r : RegWrite) : (w.put r).key = w.key := by
  unfold Warp.put
  split
  · rfl
  · rfl
  · split <;> rfl

@[simp] theorem putAll_key (w : Warp) (rs : List RegWrite) : (w.putAll rs).key = w.key :=
  List.foldlRecOn (motive := fun x : Warp => x.key = w.key) rs Warp.put rfl fun x h r _ => (put_key x r).trans h

@[simp] theorem putAll_nil (w : Warp) : w.putAll [] = w := by
  have h : w.overwrites none [] = [] := by simp [Warp.overwrites]
  unfold Warp.putAll Warp.putFrom
  rw [h, List.append_nil]
  rfl

theorem mem_live {w : Warp} {l : Nat} : l ∈ w.live ↔ l < w.width ∧ (w.thread l).st ≠ .exited := by
  simp [Warp.live]

theorem mem_lanesIn {w : Warp} {st : TState} {l : Nat} : l ∈ w.lanesIn st ↔ l < w.width ∧ (w.thread l).st = st := by
  simp [Warp.lanesIn]

section
variable {α : Type} (g : α → Nat)

theorem foldl_min_le (ls : List α) (a : Nat) :
    ls.foldl (fun m x => min m (g x)) a ≤ a ∧ ∀ x ∈ ls, ls.foldl (fun m x => min m (g x)) a ≤ g x := by
  induction ls generalizing a with
  | nil => simp
  | cons x r ih =>
    obtain ⟨h0, h1⟩ := ih (min a (g x))
    simp only [List.foldl_cons, List.mem_cons, forall_eq_or_imp]
    exact ⟨by omega, by omega, h1⟩

theorem foldl_min_mem (ls : List α) (a : Nat) :
    ls.foldl (fun m x => min m (g x)) a = a ∨ ∃ x ∈ ls, g x = ls.foldl (fun m x => min m (g x)) a := by
  induction ls generalizing a with
  | nil => exact .inl rfl
  | cons x r ih =>
    simp only [List.foldl_cons, List.mem_cons, exists_eq_or_imp]
    rcases ih (min a (g x)) with h | h
    · rw [h]
      omega
    · exact .inr (.inr h)

end

theorem lowestPc_cons (w : Warp) (x : Nat) (r : List Nat) :
    w.lowestPc (x :: r) = some (r.foldl (fun m l => min m (w.thread l).pc.toNat) (w.thread x).pc.toNat) := by
  unfold Warp.lowestPc
  rw [List.foldl_cons]
  generalize (w.thread x).pc.toNat = p
  induction r generalizing p with
  | nil => rfl
  | cons y r ih => exact ih (min p (w.thread y).pc.toNat)

/-- The lowest PC of some lanes is that of one of them, and no PC of theirs lies below it. -/
theorem lowestPc_some {w : Warp} {ls : List Nat} (h : ls ≠ []) :
    ∃ p, w.lowestPc ls = some p ∧ (∃ l ∈ ls, (w.thread l).pc.toNat = p) ∧ ∀ l ∈ ls, p ≤ (w.thread l).pc.toNat := by
  cases ls with
  | nil => exact absurd rfl h
  | cons x r =>
    let pc (l : Nat) : Nat := (w.thread l).pc.toNat
    refine ⟨_, lowestPc_cons w x r, ?_, List.forall_mem_cons.mpr (foldl_min_le pc r (pc x))⟩
    rcases foldl_min_mem pc r (pc x) with hx | ⟨l, hl, hm⟩
    · exact ⟨x, List.mem_cons_self .., hx.symm⟩
    · exact ⟨l, List.mem_cons_of_mem _ hl, hm⟩

/-- A lane stands at the lowest PC of some lanes where none of theirs lies below it. -/
theorem lowestPc_eq_iff {w : Warp} {ls : List Nat} {l : Nat} (h : l ∈ ls) :
    w.lowestPc ls = some (w.thread l).pc.toNat ↔ ∀ k ∈ ls, (w.thread l).pc.toNat ≤ (w.thread k).pc.toNat := by
  obtain ⟨p, hp, ⟨m, hm, hmp⟩, hle⟩ := lowestPc_some (w := w) (List.ne_nil_of_mem h)
  rw [hp, Option.some.injEq]
  refine ⟨fun h k hk => h ▸ hle k hk, fun hl => ?_⟩
  have h1 := hl m hm
  have h2 := hle l h
  omega

/-! ### How the body of an instruction that nothing stops ends it -/

section
variable {s t : State} {w : Warp} {i : Instr} {op : Nat} {f : Fields} {split : Bool} {blank : Blank} {body : Iss → State → Eff}
  (hf : fieldsOf i = some (op, f)) (h : Issues s w i f) (hs : Whole w split)
include hf h hs

theorem issueSplit_done (hb : body (issueOf w f) (counted s w) = .done t) : issueSplit i s split blank body = .next (ends w t) := by
  rw [issueSplit_of_issues hf h hs, hb]

theorem issueSplit_jump {q : List (Nat × W64)} (hb : body (issueOf w f) (counted s w) = .jump t q) :
    issueSplit i s split blank body = .next (endsAt w t q) := by
  rw [issueSplit_of_issues hf h hs, hb]

theorem issueSplit_trapped {x : Trap} (hb : body (issueOf w f) (counted s w) = .trap x) :
    issueSplit i s split blank body = .next (takeTrap s (issueOf w f) x) := by
  rw [issueSplit_of_issues hf h hs, hb]

theorem issueSplit_held (hb : body (issueOf w f) (counted s w) = .hold t) : issueSplit i s split blank body = .next t := by
  rw [issueSplit_of_issues hf h hs, hb]

end

/-- Counting an issue changes the warps alone. -/
theorem counted_eq (s : State) (w : Warp) : counted s w = { s with warps := (counted s w).warps } := by
  unfold counted State.withWarp
  split <;> rfl

/-- The warp that an issue leaves whose body changes its own warp alone: its issue counted, changed, and moved on. -/
theorem ends_withWarp (s : State) (w : Warp) {g : Warp → Warp} (hg : ∀ x, (g x).key = x.key) :
    ends w ((counted s w).withWarp w.key g) = s.withWarp w.key fun x => (g (x.countIssue w.bundle)).advance (fall w) := by
  have hc (x : Warp) : (x.countIssue w.bundle).key = x.key := Warp.countIssue_key ..
  unfold ends goTo counted
  rw [withWarp_withWarp hc hg, withWarp_withWarp (fun x => (hg _).trans (hc x)) fun _ => advance_key ..]

end Sys2Proof.Claims
end

section
namespace Sys2Proof.Claims

set_option Elab.async false

open Sys2Proof Sys2Proof.Machine

/-! ### Special registers, pointers and predicates (03 R73 to R83, 06 R167, 07 R204, R205) -/

theorem waitOk_iff (w : Warp) (aux : Nat) : waitOk w aux = true ↔
    ∀ p ∈ [(0, w.ld), (4, w.st), (8, w.cp), (12, w.tm)], bitsOf aux p.1 4 = 15 ∨ p.2 ≤ bitsOf aux p.1 4 := by
  simp [waitOk, and_assoc]

theorem issueOnly : IssueOnly := by
  intro s w f
  have hs := whole_false w
  refine ⟨fun h => issueSplit_done rfl h hs rfl, fun h => issueSplit_done rfl h hs rfl, fun h => ⟨fun hok => ?_, fun hok => ?_⟩⟩
  · exact issueSplit_done rfl h hs (if_pos ((waitOk_iff w f.aux).mpr hok))
  · exact issueSplit_held rfl h hs (if_neg fun hw => hok ((waitOk_iff w f.aux).mp hw))

theorem special_counted (s : State) (w x : Warp) (n l : Nat) : special (counted s w) x n l = special s x n l := by
  rw [counted_eq]
  rfl

/-- What `ptrq` finds about a pointer does not depend on the warps. -/
theorem ptrqWord_counted (s : State) (w x : Warp) (l : Nat) (p : W64) (d : Int) : ptrqWord (counted s w) x l p d = ptrqWord s x l p d := by
  rw [counted_eq]
  rfl

/-- The wait of R110: for `%fpflags` alone, and while a queue of the warp holds an entry. -/
theorem flagsWait_iff (w : Warp) (n : Nat) : (decide (n = 0x0F) && !w.queue.isEmpty) = true ↔ n = 0x0F ∧ w.queue ≠ [] := by
  simp

theorem readResults : ReadResults := by
  intro s w i f wide v hr h hw
  unfold readRule at hr
  split at hr
  case h_1 =>
    cases hr
    split
    next hq => exact issueSplit_held rfl h hw (if_pos ((flagsWait_iff w f.im).mpr hq.2))
    next hq =>
      simp only [← special_counted s w]
      exact issueSplit_done rfl h hw (if_neg fun hb => hq ⟨rfl, (flagsWait_iff w f.im).mp hb⟩)
  case h_2 =>
    cases hr
    rw [if_neg fun hq => nomatch hq.1]
    exact issueSplit_done rfl h hw rfl
  case h_3 =>
    cases hr
    rw [if_neg fun hq => nomatch hq.1]
    simp only [← ptrqWord_counted s w]
    exact issueSplit_done rfl h hw rfl
  case h_4 => cases hr

theorem setSpecial_eq (t : Thread) (n v : Nat) : t.setSpecial n v =
    if n = 0x0E then { t with fpctl := BitVec.ofNat 32 (v % 32) }
    else if n = 0x0F then { t with fpflags := BitVec.ofNat 32 (v % 32) }
    else if n = 0x10 then { t with rngs := if BitVec.ofNat 64 v = 0 then 1 else BitVec.ofNat 64 v }
    else { t with ustk := BitVec.ofNat 64 v } := by
  unfold Thread.setSpecial
  split <;> simp_all

theorem specialWrites : SpecialWrites := by
  intro s w f h hq v
  simp only [v, ← setSpecial_eq]
  refine issueSplit_done rfl h (whole_false w) (if_neg fun hb => ?_)
  obtain ⟨h15, hne⟩ := (flagsWait_iff w f.im).mp hb
  exact hne (hq h15)

/-! ### Predicates written together (06 R165, R167) -/

theorem put_pred {w : Warp} {l m k : Nat} (v : W64) (hk : k < 7) (hl : l < w.threads.length) (j : Nat) :
    ((w.put ⟨.p m k, v⟩).thread l).pred j = if l = m ∧ j = k then v.getLsbD 0 else (w.thread l).pred j := by
  have h7 : k ≠ 7 := by omega
  unfold Warp.put
  simp only [h7, if_false, thread_setThread_of_lt _ _ hl]
  by_cases hm : l = m
  · simp only [hm, if_true, true_and, Thread.pred, getLsbD_putBit _ _ (show k < 8 by omega)]
    by_cases hj : j = k
    · simp [hj, h7]
    · simp only [hj, if_false]
  · simp only [hm, if_false, false_and]

/-- Writes of predicates whose values depend on lane and number alone leave each predicate named with its value. -/
theorem putAll_preds {b : Nat → Nat → Bool} {rs : List RegWrite}
    (h : ∀ r ∈ rs, ∃ l k, k < 7 ∧ r.ref = .p l k ∧ r.val.getLsbD 0 = b l k) (w : Warp) {l : Nat} (hl : l < w.threads.length) (j : Nat) :
    ((w.putAll rs).thread l).pred j = if RegRef.p l j ∈ rs.map (·.ref) then b l j else (w.thread l).pred j := by
  rw [putAll_thread]
  induction rs generalizing w with
  | nil => rfl
  | cons r rs ih =>
    obtain ⟨m, k, hk, hr, hv⟩ := h r (List.mem_cons_self ..)
    obtain ⟨ref, v⟩ := r
    cases hr
    have hlen : (w.put ⟨.p m k, v⟩).threads.length = w.threads.length := by
      unfold Warp.put
      dsimp only
      rw [if_neg (by omega), setThread_length]
    rw [List.foldl_cons, ih (fun r hr => h r (List.mem_cons_of_mem _ hr)) _ (by rwa [hlen]), put_pred v hk hl]
    simp only [List.map_cons, List.mem_cons, RegRef.p.injEq]
    by_cases hp : l = m ∧ j = k
    · obtain ⟨rfl, rfl⟩ := hp
      simp only [and_self, true_or, if_true, hv, ite_self]
    · simp only [hp, false_or, if_false]

/-- The writes of `pmov.set` (R167). -/
def pmovWrites (w : Warp) (f : Fields) (ls : List Nat) : List RegWrite :=
  ls.flatMap fun l => ((List.range 7).filter fun j => bitsOf f.im j 1 == 1).map fun j =>
    ⟨.p l j, BitVec.ofNat 64 (bitsOf (readReg w f.a f.im false l) j 1)⟩

theorem exec_pmovSet {s : State} {w : Warp} {f : Fields} (h : Issues s w (.pmovSet f) f) :
    exec (.pmovSet f) s = .next (ends w ((counted s w).withWarp w.key fun x => x.putAll (pmovWrites w f (issueOf w f).lanes))) :=
  issueSplit_done rfl h (whole_false w) rfl

theorem pmovWrites_value {w : Warp} {f : Fields} {ls : List Nat} {r : RegWrite} (h : r ∈ pmovWrites w f ls) :
    ∃ l k, k < 7 ∧ r.ref = .p l k ∧ r.val.getLsbD 0 = (bitsOf (readReg w f.a f.im false l) k 1 == 1) := by
  simp only [pmovWrites, List.mem_flatMap, List.mem_map, List.mem_filter, List.mem_range] at h
  obtain ⟨l, _, k, ⟨hk, _⟩, rfl⟩ := h
  refine ⟨l, k, hk, rfl, ?_⟩
  have hb : bitsOf (readReg w f.a f.im false l) k 1 < 2 := Nat.mod_lt _ (by decide)
  generalize bitsOf (readReg w f.a f.im false l) k 1 = b at hb ⊢
  interval_cases b <;> simp

theorem mem_pmovWrites {w : Warp} {f : Fields} {ls : List Nat} {l j : Nat} (hj : j < 7) :
    RegRef.p l j ∈ (pmovWrites w f ls).map (·.ref) ↔ l ∈ ls ∧ bitsOf f.im j 1 = 1 := by
  simp [pmovWrites, hj]

theorem predicateMoves : PredicateMoves := by
  intro s w f h
  have hw := warp?_self h.1
  have ht := (exec_pmovSet h).trans (congrArg Host.Outcome.next (ends_withWarp s w fun x => putAll_key x _))
  refine ⟨_, _, ht, State.warp?_withWarp hw ((advance_key ..).trans (putAll_key ..)), ?_, fun l hl j hj => ?_⟩
  · rw [State.withWarp_eq _ hw]
    rfl
  · have hc : (w.countIssue w.bundle).threads.length = w.threads.length := by simp [Warp.countIssue]
    rw [advance_keeps (·.pred j), putAll_preds (fun r hr => pmovWrites_value hr) _ (by rwa [hc]), countIssue_keeps (·.pred j)]
    simp only [mem_pmovWrites hj]

/-- Settles O9: each instruction's body on the whole bundle; of the state, a special register and a pointer's word read nothing that
counting the issue changes. -/
theorem specialRegisters : Obligations.SpecialRegisters := ⟨issueOnly, readResults, specialWrites, predicateMoves⟩

end Sys2Proof.Claims
end

section
namespace Sys2Proof.Claims

set_option Elab.async false

open Sys2Proof Sys2Proof.Machine

/-! ### Branches, calls and returns (02 R23, R55, 03 R85 to R87) -/

section
variable {f : Fields} {link : Bool} {target : Iss → Nat → W64} {i : Iss} {s : State}

/-- The link of a transfer, or no write (R86). -/
def putLink (f : Fields) (link : Bool) (i : Iss) (x : Warp) : Warp :=
  if link then x.putAll (i.lanes.flatMap fun l => destWrites f.d true l i.nxt.toNat) else x

theorem transfer_jump (h : transferTrap s i.w (i.lanes.map fun l => (l, target i l)) = none) :
    transfer f link target i s = .jump (s.upd i (putLink f link i)) (i.lanes.map fun l => (l, target i l)) := by
  unfold transfer putLink
  simp only [h]
  cases link <;> simp

theorem transfer_trap {t : Trap} (h : transferTrap s i.w (i.lanes.map fun l => (l, target i l)) = some t) :
    transfer f link target i s = .trap t := by
  unfold transfer
  simp only [h]

/-- The end of an emulation routine, where the transfer goes through the link of `emu` (R55). -/
def endEmu (f : Fields) (n : Nat) (i : Iss) (x : Warp) : Warp :=
  if f.a.toNat + 2 = n then x.setLanes i.lanes fun _ t => { t with inEmu := false } else x

theorem leaveEmu_jump (h : transferTrap s i.w (i.lanes.map fun l => (l, targetA i f l)) = none) :
    leaveEmu f i s = .jump (s.upd i (endEmu f (s.vregsOf i.w) i)) (i.lanes.map fun l => (l, targetA i f l)) := by
  unfold leaveEmu endEmu
  rw [transfer_jump h]
  dsimp only
  have hu : (s.upd i (putLink f false i)).upd i (fun w => w.setLanes i.lanes fun _ t => { t with inEmu := false }) =
      s.upd i fun w => w.setLanes i.lanes fun _ t => { t with inEmu := false } :=
    withWarp_withWarp (fun _ => rfl) fun _ => setLanes_key ..
  split
  · rw [hu]
  · rfl

theorem leaveEmu_trap {t : Trap} (h : transferTrap s i.w (i.lanes.map fun l => (l, targetA i f l)) = some t) :
    leaveEmu f i s = .trap t := by
  unfold leaveEmu
  rw [transfer_trap h]

end

theorem transfers : Transfers := by
  intro s w i f link emu target hr h j ts hx
  unfold transferRule at hr
  split at hr
  case h_6 => cases hr
  case h_1 | h_2 | h_3 =>
    cases hr
    exact issueSplit_jump rfl h (whole_false w) (transfer_jump hx)
  case h_4 | h_5 =>
    cases hr
    refine (issueSplit_jump rfl h (whole_false w) (leaveEmu_jump hx)).trans ?_
    simp only [vregsOf_counted, Bool.true_and, beq_iff_eq, Bool.false_eq_true, if_false]
    rfl

/-! ### What the target checks find (02 R23) -/

section
variable {s : State} {w : Warp} {l : Nat} {pc : W64} {b : Nat × Trap}

/-- A lane's target meets a failure of its own: one of R23 with the cause of its check, or a fetch fault of a rank behind them. -/
theorem targetFault_some (h : targetFault s w l pc = some b) :
    b.2.lanes = [l] ∧ (b.1 ≤ 3 → b.2.cause = targetCause b.1 ∧ b.2.pages = none) := by
  unfold targetFault at h
  split at h
  · cases h
    exact ⟨rfl, fun _ => ⟨rfl, rfl⟩⟩
  · dsimp only at h
    split at h
    · cases h
      exact ⟨rfl, fun hk => absurd hk (by omega)⟩
    · split at h
      · cases h
        exact ⟨rfl, fun hk => absurd (show 10 ≤ 3 from hk) (by decide)⟩
      · simp only [Option.map_eq_some_iff] at h
        obtain ⟨k, _, rfl⟩ := h
        exact ⟨rfl, fun _ => ⟨rfl, rfl⟩⟩

theorem targetCause_mem (k : Nat) : targetCause k ∈ [0x00F, 0x010, 0x011] := by
  unfold targetCause
  split
  · decide
  · split <;> decide

end

/-- The failures of a transfer's lanes. -/
abbrev failures (s : State) (w : Warp) (ts : List (Nat × W64)) : List (Nat × Trap) := ts.filterMap fun t => targetFault s w t.1 t.2

theorem mem_failures {s : State} {w : Warp} {ts : List (Nat × W64)} {b : Nat × Trap} :
    b ∈ failures s w ts ↔ ∃ t ∈ ts, targetFault s w t.1 t.2 = some b := List.mem_filterMap

/-- The rank of the first failing check. -/
abbrev firstRank (bad : List (Nat × Trap)) : Nat := bad.foldl (fun m b => min m b.1) 11

theorem firstRank_le {bad : List (Nat × Trap)} {b : Nat × Trap} (h : b ∈ bad) : firstRank bad ≤ b.1 :=
  (foldl_min_le Prod.fst bad 11).2 b h

/-- The lanes that take a transfer's fault: all that fail a check of R23 where one does, else those of the worst fetch fault (R86). -/
abbrev takers (bad : List (Nat × Trap)) : List (Nat × Trap) :=
  bad.filter fun b => if firstRank bad ≤ 3 then decide (b.1 ≤ 3) else b.1 == firstRank bad

theorem transferTrap_some {s : State} {w : Warp} {ts : List (Nat × W64)} {t : Trap} (h : transferTrap s w ts = some t) :
    ∃ x ∈ takers (failures s w ts), x.1 = firstRank (failures s w ts) ∧ t.cause = x.2.cause ∧
      t.lanes = (takers (failures s w ts)).flatMap (fun b => b.2.lanes) ∧ (x.2.pages = none → t.pages = none) := by
  unfold transferTrap at h
  dsimp only at h
  split at h
  · next x y r hx hm =>
    cases h
    have hp := List.find?_some hx
    refine ⟨x, List.mem_of_find?_eq_some hx, by simpa using hp, rfl, rfl, fun hn => ?_⟩
    simp only [hn, Option.map_none]
  · cases h

theorem exec_transfer_trap {s : State} {w : Warp} {i : Instr} {f : Fields} {link emu : Bool} {target : Iss → Nat → W64} {t : Trap}
    (hr : transferRule i = some (f, link, emu, target)) (h : Issues s w i f)
    (hx : transferTrap (counted s w) w ((issueOf w f).lanes.map fun l => (l, target (issueOf w f) l)) = some t) :
    exec i s = .next (takeTrap s (issueOf w f) t) := by
  unfold transferRule at hr
  split at hr
  case h_6 => cases hr
  case h_1 | h_2 | h_3 =>
    cases hr
    exact issueSplit_trapped rfl h (whole_false w) (transfer_trap hx)
  case h_4 | h_5 =>
    cases hr
    exact issueSplit_trapped rfl h (whole_false w) (leaveEmu_trap hx)

section
variable {s : State} {w : Warp} {ls : List Nat} {target : Nat → W64} {t : Trap}
  (h : transferTrap s w (ls.map fun l => (l, target l)) = some t)
include h

/-- The fault of a transfer is that of some lanes of B whose targets fail. -/
theorem transferTrap_lanes : t.lanes ≠ [] ∧ ∀ l ∈ t.lanes, l ∈ ls ∧ targetFault s w l (target l) ≠ none := by
  obtain ⟨x, hx, _, _, hl, _⟩ := transferTrap_some h
  have own {b : Nat × Trap} (hb : b ∈ takers (failures s w (ls.map fun l => (l, target l)))) :
      ∃ l ∈ ls, targetFault s w l (target l) = some b ∧ b.2.lanes = [l] := by
    obtain ⟨p, hp, hf⟩ := mem_failures.mp (List.mem_of_mem_filter hb)
    obtain ⟨l, hl, rfl⟩ := List.mem_map.mp hp
    exact ⟨l, hl, hf, (targetFault_some hf).1⟩
  rw [hl]
  refine ⟨fun hn => ?_, fun l hm => ?_⟩
  · obtain ⟨l, _, _, hs⟩ := own hx
    have := List.flatMap_eq_nil_iff.mp hn x hx
    rw [hs] at this
    cases this
  · obtain ⟨b, hb, hm⟩ := List.mem_flatMap.mp hm
    obtain ⟨k, hk, hf, hs⟩ := own hb
    rw [hs, List.mem_singleton] at hm
    subst hm
    exact ⟨hk, by rw [hf]; exact Option.some_ne_none b⟩

/-- Where some target fails a check of R23, the fault is one of theirs, of every lane whose target fails one. -/
theorem transferTrap_checks (hk : ∃ l ∈ ls, ∃ k x, k ≤ 3 ∧ targetFault s w l (target l) = some (k, x)) :
    t.cause ∈ [0x00F, 0x010, 0x011] ∧ t.pages = none ∧
      ∀ l ∈ ls, (∃ k x, k ≤ 3 ∧ targetFault s w l (target l) = some (k, x)) → l ∈ t.lanes := by
  obtain ⟨x, hx, hr, hc, hl, hp⟩ := transferTrap_some h
  have fails {l k : Nat} {y : Trap} (hm : l ∈ ls) (hf : targetFault s w l (target l) = some (k, y)) :
      (k, y) ∈ failures s w (ls.map fun l => (l, target l)) :=
    mem_failures.mpr ⟨(l, target l), List.mem_map.mpr ⟨l, hm, rfl⟩, hf⟩
  have h3 : firstRank (failures s w (ls.map fun l => (l, target l))) ≤ 3 := by
    obtain ⟨l, hm, k, y, hk, hf⟩ := hk
    exact (firstRank_le (fails hm hf)).trans hk
  obtain ⟨p, _, hxf⟩ := mem_failures.mp (List.mem_of_mem_filter hx)
  obtain ⟨hcause, hpages⟩ := (targetFault_some hxf).2 (hr ▸ h3)
  refine ⟨hc ▸ hcause ▸ targetCause_mem x.1, hp hpages, fun l hm ⟨k, y, hk, hf⟩ => ?_⟩
  rw [hl]
  refine List.mem_flatMap.mpr ⟨(k, y), List.mem_filter.mpr ⟨fails hm hf, ?_⟩, ?_⟩
  · rw [if_pos h3]
    exact decide_eq_true hk
  · rw [(targetFault_some hf).1]
    exact List.mem_singleton_self l

end

theorem transferTraps : TransferTraps := by
  intro s w i f link emu target t hr h hx
  obtain ⟨hne, hl⟩ := transferTrap_lanes hx
  exact ⟨exec_transfer_trap hr h hx, hne, hl, transferTrap_checks hx⟩

/-! ### `brs` (R87) -/

/-- Whether a scalar branch is taken: one comparison of A and B in the lowest lane of B. -/
def brsTaken (w : Warp) (f : Fields) (l : Nat) : Bool :=
  let rd (x : BitVec 8) : Int := val (elW f.ty) (elS f.ty) (readReg w x 0 (w64 f.ty) l)
  cmpInt f.aux (rd f.a) (rd f.b)

theorem cmpInt_iff (c : Nat) (a b : Int) : cmpInt c a b = true ↔ match c with
    | 0 => a = b
    | 1 => a ≠ b
    | 2 => a < b
    | 3 => a ≤ b
    | 4 => b < a
    | _ => b ≤ a := by
  unfold cmpInt
  split <;> simp

/-- The decode checks leave `brs` the word and long types alone. -/
theorem brs_type {s : State} {w : Warp} {f : Fields} (h : Issues s w (.brs f) f) : f.ty ≤ 3 := by
  obtain ⟨_, _, ⟨e, he, hc⟩, _⟩ := h
  cases he
  simpa [eE] using (checkFields_none hc).1

theorem val_type {t : Nat} (h : t ≤ 3) (x : Nat) :
    val (elW t) (elS t) x = if t % 2 = 0 then signedOf (if w64 t then 64 else 32) x else (x : Int) := by
  interval_cases t <;> rfl

theorem exec_brs {s : State} {w : Warp} {f : Fields} (h : Issues s w (.brs f) f) (hw : Whole w true) :
    exec (.brs f) s = .next (match (if brsTaken w f (issueOf w f).low then
        transfer f false (fun i _ => directTarget i.pc f) (issueOf w f) (counted s w) else .done (counted s w)) with
      | .done t => ends w t
      | .jump t q => endsAt w t q
      | .trap t => takeTrap s (issueOf w f) t
      | .hold t => t) :=
  issueSplit_of_issues rfl h hw

theorem endsAt_withWarp_id {s : State} {w : Warp} {q : List (Nat × W64)} :
    endsAt w (s.withWarp w.key fun x => x) q = endsAt w s q :=
  withWarp_withWarp (fun _ => rfl) fun _ => advance_key ..

theorem scalarBranches : ScalarBranches := by
  intro s w f h hw j n v taken ts
  have hv (x : BitVec 8) : v x = val (elW f.ty) (elS f.ty) (readReg w x 0 (w64 f.ty) j.low) := (val_type (brs_type h) _).symm
  have ht : taken ↔ brsTaken w f j.low = true := by
    unfold brsTaken
    simp only [← hv]
    exact (cmpInt_iff f.aux (v f.a) (v f.b)).symm
  refine ⟨fun hn => ?_, fun hy hx => ?_⟩
  · rw [exec_brs h hw, if_neg fun hb => hn (ht.mpr hb)]
  · rw [exec_brs h hw, if_pos (ht.mp hy), transfer_jump (target := fun i _ => directTarget i.pc f) (i := issueOf w f) hx]
    exact congrArg Host.Outcome.next endsAt_withWarp_id

/-- Settles O10: the body of each transfer, by whether its target checks find a fault, and the one comparison of `brs`. -/
theorem controlTransfers : Obligations.ControlTransfers := ⟨transfers, transferTraps, scalarBranches⟩

end Sys2Proof.Claims
end

section
namespace Sys2Proof.Claims

set_option Elab.async false

open Sys2Proof Sys2Proof.Machine

/-! ### The release of parked threads (03 R90) -/

/-- No release while a live thread is not parked. -/
theorem wsyncRelease_waits {w : Warp} (h : ∃ l ∈ w.live, (w.thread l).st ≠ .parked) : w.wsyncRelease = w := by
  obtain ⟨l, hl, hst⟩ := h
  have hp : w.lanesIn .parked = w.live.filter fun l => (w.thread l).st == .parked := by
    unfold Warp.lanesIn Warp.live
    rw [List.filter_filter]
    refine List.filter_congr fun k _ => ?_
    cases (w.thread k).st <;> rfl
  have hlt : (w.lanesIn .parked).length < w.live.length := by
    rw [hp]
    exact List.length_filter_lt_length_iff_exists.mpr ⟨l, hl, by simpa using hst⟩
  have hne : ((w.lanesIn .parked).length != w.live.length) = true := by simpa using Nat.ne_of_lt hlt
  unfold Warp.wsyncRelease
  simp only [hne, Bool.or_true, if_true]

/-- The threads that a release lets go on: those at the lowest PC among the live. -/
def released (w : Warp) : List Nat := w.live.filter fun l => w.lowestPc w.live == some (w.thread l).pc.toNat

theorem mem_released {w : Warp} {l : Nat} : l ∈ released w ↔ l ∈ w.live ∧ ∀ k ∈ w.live, (w.thread l).pc.toNat ≤ (w.thread k).pc.toNat := by
  rw [released, List.mem_filter, beq_iff_eq]
  exact and_congr_right lowestPc_eq_iff

theorem wsyncRelease_eq {w : Warp} (h : ∀ l ∈ w.live, (w.thread l).st = .parked) (hl : w.live ≠ []) :
    w.wsyncRelease = { w.setLanes (released w) (fun _ t => t.wake) with bundle := released w } := by
  have hp : w.lanesIn .parked = w.live := by
    unfold Warp.lanesIn Warp.live
    refine List.filter_congr fun k hk => ?_
    have hk := fun hx => h k (mem_live.mpr ⟨List.mem_range.mp hk, hx⟩)
    cases hst : (w.thread k).st <;> simp_all
  obtain ⟨p, hlow, _⟩ := lowestPc_some (w := w) hl
  have hr : (w.live.filter fun l => (w.thread l).pc.toNat == p) = released w := by
    unfold released
    simp only [hlow]
    refine List.filter_congr fun l _ => ?_
    simp [eq_comm]
  unfold Warp.wsyncRelease
  simp only [hp, isEmpty_false hl, bne_self_eq_false, Bool.or_self, hlow, hr, Bool.false_eq_true, if_false]

theorem released_nodup (w : Warp) : (released w).Nodup := (List.nodup_range.filter _).filter _

theorem wsyncReleases : WsyncReleases := by
  intro s x hx
  have he : exec (.wsyncRelease x.key) s = .next (s.setWarp x.wsyncRelease) := congrArg Host.Outcome.next (State.withWarp_eq _ hx)
  refine ⟨fun hp hw hl => ?_, fun h => by rw [he, wsyncRelease_waits h]⟩
  have hk : x.wsyncRelease.key = x.key := by
    rw [wsyncRelease_eq hp hl]
    exact setLanes_key ..
  refine ⟨_, x.wsyncRelease, he, rfl, ?_, ?_⟩
  · rw [← hk]
    exact State.warp?_setWarp (hk ▸ hx)
  rw [wsyncRelease_eq hp hl]
  refine ⟨fun l hm => (mem_released.mp hm).1, fun l hm => ?_⟩
  have ht : Warp.thread { x.setLanes (released x) (fun _ t => t.wake) with bundle := released x } l =
      if l ∈ released x then (x.thread l).wake else x.thread l :=
    thread_setLanes _ (released_nodup x) ((mem_live.mp hm).1.trans_le hw)
  rw [ht]
  have hr : l ∈ released x ↔ ∀ k ∈ x.live, (x.thread l).pc.toNat ≤ (x.thread k).pc.toNat := mem_released.trans (and_iff_right hm)
  split
  next h =>
    rw [if_pos (hr.mpr h)]
    exact ⟨hr.mpr h, rfl, rfl⟩
  next h =>
    rw [if_neg fun hb => h (hr.mp hb)]
    exact ⟨fun hb => h (hr.mp hb), rfl⟩

/-- Settles O11: the lanes released are the live lanes at the lowest PC, each woken once. -/
theorem warpReconvergence : Obligations.WarpReconvergence := wsyncReleases

end Sys2Proof.Claims
end

section
namespace Sys2Proof.Claims

set_option Elab.async false

open Sys2Proof Sys2Proof.Machine

/-! ### Parking and the re-sort (03 R62, R64, R88, 08 R235) -/

theorem parks : Parks := by
  intro s w f
  exact ⟨fun h => issueSplit_jump rfl h (whole_false w) rfl, fun h => issueSplit_jump rfl h (whole_false w) rfl⟩

/-- The lanes that a re-sort chooses among. -/
abbrev choosable (w : Warp) : List Nat := (w.lanesIn .ready).filter (mayRun w)

theorem mem_choosable {w : Warp} {l : Nat} : l ∈ choosable w ↔ l < w.width ∧ (w.thread l).st = .ready ∧ mayRun w l = true := by
  rw [List.mem_filter, mem_lanesIn, and_assoc]

theorem choosable_sorted (w : Warp) : (choosable w).Pairwise (· < ·) := (List.pairwise_lt_range.filter _).filter _

/-- The older of the thread found so far and the next lane's, none below age 256 (R64). -/
def older (w : Warp) : Option Nat → Nat → Option Nat
  | none, l => if 256 ≤ (w.thread l).age then some l else none
  | some k, l => if (w.thread k).age < (w.thread l).age then some l else some k

/-- The lane of the oldest thread of some, the lowest such lane. -/
def Oldest (w : Warp) (ls : List Nat) (k : Nat) : Prop :=
  k ∈ ls ∧ ∀ q ∈ ls, (w.thread q).age < (w.thread k).age ∨ ((w.thread q).age = (w.thread k).age ∧ k ≤ q)

theorem Oldest.unique {w : Warp} {ls : List Nat} {j k : Nat} (hj : Oldest w ls j) (hk : Oldest w ls k) : j = k := by
  have h1 := hj.2 k hk.1
  have h2 := hk.2 j hj.1
  omega

/-- Going through lanes in order finds the oldest thread that has reached age 256. -/
theorem foldl_older (w : Warp) {ls : List Nat} (hs : ls.Pairwise (· < ·)) : match ls.foldl (older w) none with
    | none => ∀ q ∈ ls, (w.thread q).age < 256
    | some k => Oldest w ls k ∧ 256 ≤ (w.thread k).age := by
  induction ls using List.reverseRecOn with
  | nil => simp
  | append_singleton r x ih =>
    obtain ⟨hr, _, hx⟩ := List.pairwise_append.mp hs
    have hx : ∀ q ∈ r, q < x := fun q hq => hx q hq x (List.mem_singleton_self x)
    have ih := ih hr
    have hm : ∀ q ∈ r ++ [x], q ∈ r ∨ q = x := by simp
    rw [List.foldl_append, List.foldl_cons, List.foldl_nil]
    cases hf : r.foldl (older w) none with
    | none =>
      rw [hf] at ih
      dsimp only at ih
      by_cases ha : 256 ≤ (w.thread x).age
      · rw [show older w none x = some x from if_pos ha]
        refine ⟨⟨by simp, fun q hq => ?_⟩, ha⟩
        rcases hm q hq with hq | rfl
        · exact .inl ((ih q hq).trans_le ha)
        · exact .inr ⟨rfl, le_rfl⟩
      · rw [show older w none x = none from if_neg ha]
        intro q hq
        rcases hm q hq with hq | rfl
        · exact ih q hq
        · omega
    | some k =>
      rw [hf] at ih
      obtain ⟨⟨hk, hold⟩, ha⟩ := ih
      by_cases hlt : (w.thread k).age < (w.thread x).age
      · rw [show older w (some k) x = some x from if_pos hlt]
        refine ⟨⟨by simp, fun q hq => ?_⟩, by omega⟩
        rcases hm q hq with hq | rfl
        · have := hold q hq
          omega
        · exact .inr ⟨rfl, le_rfl⟩
      · rw [show older w (some k) x = some k from if_neg hlt]
        refine ⟨⟨by simp [hk], fun q hq => ?_⟩, ha⟩
        rcases hm q hq with hq | rfl
        · exact hold q hq
        · have := hx k hk
          omega

/-- The PC that a re-sort chooses: that of the oldest thread where one has reached age 256, else the lowest. -/
theorem resortPc_cases (w : Warp) :
    (∃ k, Oldest w (choosable w) k ∧ 256 ≤ (w.thread k).age ∧ resortPc w = some (w.thread k).pc.toNat) ∨
    ((∀ q ∈ choosable w, (w.thread q).age < 256) ∧ resortPc w = w.lowestPc (choosable w)) := by
  have h := foldl_older w (choosable_sorted w)
  have hr : resortPc w = match (choosable w).foldl (older w) none with
      | some l => some (w.thread l).pc.toNat
      | none => w.lowestPc (choosable w) := by
    have ho : older w = fun m l => match m with
        | none => if 256 ≤ (w.thread l).age then some l else none
        | some k => if (w.thread k).age < (w.thread l).age then some l else some k := by
      funext m l
      cases m <;> rfl
    rw [ho]
    rfl
  cases hf : (choosable w).foldl (older w) none with
  | none =>
    rw [hf] at h hr
    exact .inr ⟨h, hr⟩
  | some k =>
    rw [hf] at h hr
    exact .inl ⟨k, h.1, h.2, hr⟩

theorem resort_keeps {w : Warp} (h : w.pfx.isSome = true ∨ w.hold ≠ .free ∨ w.stopped ≠ []) : w.resort = w := by
  unfold Warp.resort
  refine if_pos ?_
  rcases h with h | h | h <;> simp [h]

/-- The bundle of a re-sort: the lanes it may choose at the PC it chooses. -/
theorem resort_eq {w : Warp} (hp : w.pfx = none) (hh : w.hold = .free) (hs : w.stopped = [])
    (hn : (w.snare.any fun n => !n.running) = false) :
    w.resort = { w with sorted := 0, bundle := (choosable w).filter fun l => resortPc w == some (w.thread l).pc.toNat } := by
  unfold Warp.resort
  simp only [hp, hh, hs, hn, Option.isSome_none, bne_self_eq_false, List.isEmpty_nil, Bool.not_true, Bool.or_self, Bool.false_eq_true, if_false]
  cases resortPc w with
  | none => simp
  | some p =>
    have hc (n : Nat) : (n == p) = (some p == some n) := by
      rw [Option.some_beq_some]
      exact BEq.comm
    simp only [hc]

theorem mem_resort_bundle (w : Warp) (l : Nat) :
    l ∈ (choosable w).filter (fun l => resortPc w == some (w.thread l).pc.toNat) ↔ l ∈ choosable w ∧
      ((∀ k ∈ choosable w, (w.thread k).age < 256) → ∀ k ∈ choosable w, (w.thread l).pc.toNat ≤ (w.thread k).pc.toNat) ∧
      ((∃ k ∈ choosable w, 256 ≤ (w.thread k).age) → ∃ k, Oldest w (choosable w) k ∧ (w.thread k).pc = (w.thread l).pc) := by
  rw [List.mem_filter, beq_iff_eq]
  refine and_congr_right fun hl => ?_
  rcases resortPc_cases w with ⟨k, hk, ha, hr⟩ | ⟨hy, hr⟩
  · rw [hr, Option.some.injEq]
    refine ⟨fun h => ⟨fun hy => absurd (hy k hk.1) (by omega), fun _ => ⟨k, hk, BitVec.eq_of_toNat_eq h⟩⟩, fun h => ?_⟩
    obtain ⟨j, hj, hpc⟩ := h.2 ⟨k, hk.1, ha⟩
    rw [hk.unique hj, hpc]
  · rw [hr, lowestPc_eq_iff hl]
    refine ⟨fun h => ⟨fun _ => h, fun ⟨k, hk, ha⟩ => absurd (hy k hk) (by omega)⟩, fun h => h.1 hy⟩

theorem warpResorts : WarpResorts := by
  intro s x hx ready
  have he : exec (.warpResort x.key) s = .next (s.setWarp x.resort) := congrArg Host.Outcome.next (State.withWarp_eq _ hx)
  refine ⟨fun hp hh hs hn => ?_, fun h => by rw [he, resort_keeps h]⟩
  have hr := resort_eq hp hh hs hn
  have hk : x.resort.key = x.key := by rw [hr]
  refine ⟨_, x.resort, he, rfl, hk ▸ State.warp?_setWarp (hk ▸ hx), by rw [hr], by rw [hr], by rw [hr], fun l => ?_⟩
  rw [hr, mem_resort_bundle]
  have hm (k : Nat) : k ∈ choosable x ↔ ready k := mem_choosable
  simp only [Oldest, hm]
  refine and_congr_right fun _ => and_congr_right fun _ => imp_congr_right fun _ => exists_congr fun k => ?_
  rw [and_assoc, and_comm (b := _ = _)]

/-! ### What is resident (03 R92)

The memory-side cache, the home ports and the region tree change no block, and no warp but in its threads: each lemma follows the
branches of its operation.
-/

/-- The keys of the resident warps, in order, and the resident blocks. -/
def Resident (ks : List Nat) (bs : List Block) (s : State) : Prop := s.warps.map (·.key) = ks ∧ s.blocks = bs

section
variable {ks : List Nat} {bs : List Block} {s : State}

/-- A change of the state beside its warps and blocks. -/
theorem Resident.quiet {t : State} (h : Resident ks bs s) (hw : t.warps = s.warps := by rfl) (hb : t.blocks = s.blocks := by rfl) :
    Resident ks bs t :=
  ⟨hw ▸ h.1, hb ▸ h.2⟩

theorem Resident.ite {c : Prop} [Decidable c] {t : State} (hs : Resident ks bs s) (ht : Resident ks bs t) : Resident ks bs (if c then s else t) :=
  iteInduction (fun _ => hs) fun _ => ht

theorem Resident.foldl {α : Type} {f : State → α → State} {l : List α} (h : Resident ks bs s)
    (hf : ∀ s a, Resident ks bs s → Resident ks bs (f s a)) : Resident ks bs (l.foldl f s) :=
  List.foldlRecOn l f h fun s hs a _ => hf s a hs

theorem Resident.foldl_fst {α β : Type} {f : State × β → α → State × β} {x : State × β} {l : List α} (h : Resident ks bs x.1)
    (hf : ∀ x a, Resident ks bs x.1 → Resident ks bs (f x a).1) : Resident ks bs (l.foldl f x).1 :=
  List.foldlRecOn (motive := fun x => Resident ks bs x.1) l f h fun x hx a _ => hf x a hx

/-- Warps changed with their keys kept. -/
theorem Resident.mapWarps {g : Warp → Warp} (h : Resident ks bs s) (hg : ∀ w, (g w).key = w.key) :
    Resident ks bs { s with warps := s.warps.map g } := by
  refine ⟨?_, h.2⟩
  simp only [List.map_map, Function.comp_def, hg]
  exact h.1

/-! ### The memory-side cache -/

theorem Resident.allocate {l : Line} (h : Resident ks bs s) : Resident ks bs (s.allocate l) :=
  .ite h.quiet (.foldl h.quiet fun _ _ h => .ite h h.quiet)

theorem Resident.hold {k : Blk} (h : Resident ks bs s) : Resident ks bs (s.hold k) :=
  .ite h.quiet h.allocate

theorem Resident.putLine {l : Line} (h : Resident ks bs s) : Resident ks bs (s.putLine l) := h.quiet

theorem Resident.storeForm {pa size state used : Nat} {bytes : List Byte} (h : Resident ks bs s) :
    Resident ks bs (s.storeForm pa size state used bytes) := by
  unfold State.storeForm
  extract_lets old m1 m2 s1 s2 s3
  have h1 : Resident ks bs s1 := .ite h.quiet h.quiet
  have h2 : Resident ks bs s2 := .foldl h1 fun _ _ h => .ite h h.quiet
  exact h2.quiet

theorem Resident.storePlain {l : Line} {bound : Bool} (h : Resident ks bs s) : Resident ks bs (s.storePlain l bound) :=
  .ite h.storeForm (.foldl h.quiet fun _ _ h => h.quiet)

theorem Resident.touchLine {k : Blk} {locs : List Nat} {tag : WriterTag} (h : Resident ks bs s) :
    Resident ks bs (s.touchLine k locs tag) := by
  unfold State.touchLine
  refine .foldl h.hold fun _ _ h => ?_
  split
  · exact h.quiet
  · exact h

theorem Resident.repair {locs : List Nat} {loc : Nat} (h : Resident ks bs s) : Resident ks bs (s.repair locs loc) := by
  unfold State.repair
  extract_lets word burst u
  have hu : Resident ks bs u := by
    dsimp only [u]
    split
    · exact .ite h.putLine h
    · exact h
  exact .ite hu.quiet hu

theorem Resident.storeDamaged {l : Line} (h : Resident ks bs s) : Resident ks bs (s.storeDamaged l) :=
  .putLine (.ite h.storePlain h.storePlain.quiet)

theorem Resident.failWb {l : Line} {dec : Bool} {r index : Nat} {m : Option Nat} (h : Resident ks bs s) :
    Resident ks bs (s.failWb l dec r index m).1 := by
  unfold State.failWb
  dsimp only
  split
  · exact h.quiet.storePlain.putLine
  · exact h.quiet

theorem Resident.writeBackBlock {l : Line} (h : Resident ks bs s) : Resident ks bs (s.writeBackBlock l).1 := by
  unfold State.writeBackBlock
  split
  · exact h.storeDamaged
  split
  · exact h.storePlain.putLine
  split
  · exact h.storeForm.putLine
  · exact h.storeForm.putLine
  · exact .putLine (.ite h.storePlain.quiet h.storePlain)
  · exact h.failWb

theorem Resident.recut {t : State} {l : Line} {ls : List Line} (h : Resident ks bs s) (e : s.recut l = .ok (t, ls)) : Resident ks bs t := by
  unfold State.recut at e
  refine List.foldlRecOn (motive := fun x : Except (Nat × Nat × Option Nat) (State × List Line) => ∀ c, x = .ok c → Resident ks bs c.1)
     (s.blocksOfLine l) _ ?_ (fun x hx k _ c ec => ?_) _ e
  · intro c ec
    cases ec
    exact h
  · split at ec
    · cases ec
    next u us =>
    have hu : Resident ks bs u := hx _ rfl
    split at ec
    · cases ec
      exact hu
    split at ec
    · cases ec
    · cases ec
      exact hu.quiet

theorem Resident.writeBack {l : Line} (h : Resident ks bs s) : Resident ks bs (s.writeBack l).1 := by
  unfold State.writeBack
  split
  · exact h.writeBackBlock
  split
  · exact h.failWb
  next e => exact .foldl_fst (h.recut e).quiet fun _ _ h => h.putLine.writeBackBlock

theorem Resident.raiseWb {f : WbFail} (h : Resident ks bs s) : Resident ks bs (s.raiseWb f) := by
  unfold State.raiseWb
  split
  · exact h
  · exact h.quiet

theorem Resident.writeBackDeferred {l : Line} (h : Resident ks bs s) : Resident ks bs (s.writeBackDeferred l).1 := by
  unfold State.writeBackDeferred
  split
  · exact h
  split
  · exact h
  exact .foldl h.writeBack fun _ _ h => h.raiseWb

theorem Resident.evict {l : Line} (h : Resident ks bs s) : Resident ks bs (s.evict l) :=
  .ite (.foldl (.foldl_fst h fun _ _ h => h.writeBackDeferred) fun _ _ h => h.quiet) (.foldl_fst h fun _ _ h => h.writeBackDeferred)

theorem Resident.makeRoom {k : Blk} (h : Resident ks bs s) : Resident ks bs (s.makeRoom k) := by
  unfold State.makeRoom
  refine .foldl h fun _ _ h => .ite h ?_
  split
  · exact h.evict
  · exact h

/-! ### The control blocks of the region tree -/

theorem Resident.enterOrder {wid : Nat} {cells : List Host.Cell} {view : Nat} (h : Resident ks bs s) :
    Resident ks bs (enterOrder s wid cells view) := h.quiet

theorem Resident.agentPut {t : State} {ctx va view wid : Nat} {bytes : List Byte} (h : Resident ks bs s)
    (e : s.agentPut ctx va view bytes = some (wid, t)) : Resident ks bs t := by
  unfold State.agentPut at e
  split at e
  · cases e
  dsimp only at e
  split at e
  · cases e
  next u eu =>
  have hu : Resident ks bs u := by
    split at eu
    · split at eu
      · cases eu
        exact h.makeRoom.quiet.allocate
      · cases eu
    · cases eu
      exact h.makeRoom
  cases e
  exact .touchLine (.enterOrder (.foldl hu.quiet fun _ _ h => h.repair))

theorem Resident.cpWord {ctx va n val : Nat} (h : Resident ks bs s) : Resident ks bs (s.cpWord ctx va n val) := by
  unfold State.cpWord
  split
  next e => exact h.agentPut e
  next => exact h

theorem Resident.writeShare {r : Region} (h : Resident ks bs s) : Resident ks bs (s.writeShare r) := .foldl h fun _ _ h => h.cpWord

theorem Resident.leaveCluster {ctx rcb cl : Nat} (h : Resident ks bs s) : Resident ks bs (s.leaveCluster ctx rcb cl) := by
  unfold State.leaveCluster
  split
  · exact h
  · exact .ite h.quiet.writeShare h

theorem Resident.countBlock {b : Block} (h : Resident ks bs s) : Resident ks bs (s.countBlock b) := by
  unfold State.countBlock
  split
  · exact h
  · exact h.quiet.writeShare

theorem Resident.matrixSettle {core : Nat} (h : Resident ks bs s) : Resident ks bs (s.matrixSettle core) := by
  unfold State.matrixSettle
  refine .ite h ?_
  split
  · exact h.quiet
  · refine Resident.mapWarps (s := s.setCore core _) h.quiet fun w => ?_
    split <;> rfl

theorem Resident.abandonMatrix {core : Nat} {blocks : List Nat} (h : Resident ks bs s) : Resident ks bs (s.abandonMatrix core blocks) :=
  .matrixSettle (.foldl h.quiet fun _ _ h => .foldl h fun _ _ h => h.quiet)

/-- A block that is freed is the only one that leaves. -/
theorem Resident.freeBlock {b : Block} (h : Resident ks bs s) : Resident ks (bs.filter fun x => x.id != b.id) (s.freeBlock b) := by
  unfold State.freeBlock
  extract_lets u
  have hu : Resident ks bs u := .foldl h fun _ _ h => h.abandonMatrix.quiet
  exact ⟨hu.1, congrArg (List.filter fun x => x.id != b.id) hu.2⟩

end

/-! ### WARP_FREE (03 R92) -/

theorem find?_filter_ne {l : List Warp} {j k : Nat} (h : j ≠ k) :
    (l.filter fun y => y.key != k).find? (fun y => y.key == j) = l.find? fun y => y.key == j := by
  rw [List.find?_filter]
  congr 1
  funext y
  by_cases hy : y.key = j <;> simp [hy, h]

theorem warp?_isSome_eq {ks : List Nat} {bs : List Block} {s : State} (h : Resident ks bs s) (k : Nat) :
    (s.warp? k).isSome = ks.any (· == k) := by
  rw [← h.1, List.any_map, State.warp?, List.isSome_find?]
  rfl

/-- What a region's completion is to cover changes regions alone. -/
theorem coverWarps_eq (s : State) (ws : List Warp) : s.coverWarps ws = { s with regions := (s.coverWarps ws).regions } := by
  unfold State.coverWarps
  refine List.foldlRecOn (motive := fun t : State => t = { s with regions := t.regions }) ws _ rfl fun t ht w _ => ?_
  unfold State.coverRegion
  split
  · rw [ht]
    rfl
  · exact ht

/-- The state that a freed warp leaves, before the last of its block frees it. -/
def withoutWarp (s : State) (x : Warp) : State :=
  { s.coverWarps [x] with
    warps := (s.coverWarps [x]).warps.filter fun y => y.key != x.key
    blocks := (s.coverWarps [x]).blocks.map fun (b : Block) => if b.id == x.block then
      { b with trigd := b.trigd + (x.threads.filter (·.triggered)).length
               swapCov := union b.swapCov (x.threads.foldl (fun c t => union c t.swapCov) []) } else b }

theorem withoutWarp_warps (s : State) (x : Warp) : (withoutWarp s x).warps = s.warps.filter fun y => y.key != x.key := by
  unfold withoutWarp
  rw [coverWarps_eq]

theorem withoutWarp_warp? (s : State) (x : Warp) : (withoutWarp s x).warp? x.key = none ∧
    ∀ k, k ≠ x.key → (withoutWarp s x).warp? k = s.warp? k := by
  unfold State.warp?
  rw [withoutWarp_warps]
  exact ⟨List.find?_eq_none.mpr fun y hy => by simpa using (List.mem_filter.mp hy).2, fun k hk => find?_filter_ne hk⟩

theorem withoutWarp_mem (s : State) (x : Warp) : (withoutWarp s x).mem = s.mem := by
  unfold withoutWarp
  rw [coverWarps_eq]

/-- A freed warp leaves every block but its own as it was, and of its own all but what it has counted. -/
theorem withoutWarp_blocks (s : State) (x : Warp) :
    ((withoutWarp s x).blocks.map fun b => { b with trigd := 0, swapCov := [] }) = s.blocks.map (fun b => { b with trigd := 0, swapCov := [] }) ∧
    ∀ b ∈ (withoutWarp s x).blocks, b.id ≠ x.block → b ∈ s.blocks := by
  unfold withoutWarp
  rw [coverWarps_eq]
  dsimp only
  refine ⟨?_, fun b hb hne => ?_⟩
  · rw [List.map_map]
    refine List.map_congr_left fun b _ => ?_
    simp only [Function.comp_apply]
    split <;> rfl
  · obtain ⟨c, hc, rfl⟩ := List.mem_map.mp hb
    by_cases h : c.id = x.block
    · simp only [h, beq_self_eq_true, if_true, ne_eq, not_true_eq_false] at hne
    · rw [if_neg (by simpa using h)]
      exact hc

theorem block?_of_withoutWarp {s : State} {x : Warp} {k : Nat} (h : (withoutWarp s x).block? k = none) : s.block? k = none := by
  have hid : (withoutWarp s x).blocks.map (·.id) = s.blocks.map (·.id) := by
    simpa [Function.comp_def] using congrArg (List.map Block.id) (withoutWarp_blocks s x).1
  refine List.find?_eq_none.mpr fun b hb => ?_
  obtain ⟨c, hc, he⟩ := List.mem_map.mp (hid ▸ List.mem_map_of_mem (f := Block.id) hb)
  rw [← he]
  exact List.find?_eq_none.mp h c hc

/-- What WARP_FREE does to a warp with nothing left to finish: its block goes where no other warp of it is resident. -/
def freeWarp (s : State) (x : Warp) : State :=
  if (withoutWarp s x).warps.any fun y => y.block == x.block then withoutWarp s x
  else match (withoutWarp s x).block? x.block with
  | none => withoutWarp s x
  | some b => (((withoutWarp s x).freeBlock b).countBlock b).leaveCluster b.ctx b.region b.cluster

/-- Whether an operation of a warp is left, or the warp does not drain (R92). -/
def warpBusy (s : State) (x : Warp) : Bool :=
  !x.draining || x.ld != 0 || x.st != 0 || x.cp != 0 || x.tm != 0 || !x.sb.isEmpty || !x.fifo.isEmpty || !x.failed.isEmpty ||
    !x.loads.isEmpty || !x.queue.isEmpty || !x.tileOps.isEmpty || !x.barOps.isEmpty || !x.stopped.isEmpty || s.holdsWarp x.key

theorem exec_warpFree {s : State} {x : Warp} (h : s.warp? x.key = some x) :
    exec (.warpFree x.key) s = .next (if warpBusy s x then s else freeWarp s x) := by
  change execWarpFree x.key s = _
  unfold execWarpFree
  simp only [h]
  by_cases hb : warpBusy s x = true
  · rw [if_pos hb]
    exact if_pos hb
  rw [if_neg hb]
  refine (if_neg hb).trans ?_
  unfold freeWarp
  by_cases ha : ((withoutWarp s x).warps.any fun y => y.block == x.block) = true
  · rw [if_pos ha]
    exact if_pos ha
  rw [if_neg ha]
  refine (if_neg ha).trans ?_
  change (match (withoutWarp s x).block? x.block with
    | none => Host.Outcome.next (withoutWarp s x)
    | some b => .next (((withoutWarp s x).freeBlock b).countBlock b |>.leaveCluster b.ctx b.region b.cluster)) = _
  split <;> rfl

theorem withoutWarp_others (s : State) (x : Warp) : ((withoutWarp s x).warps.any fun y => y.block == x.block) = true ↔
    ∃ y ∈ s.warps, y.key ≠ x.key ∧ y.block = x.block := by
  rw [withoutWarp_warps]
  simp

theorem resident_withoutWarp (s : State) (x : Warp) :
    Resident ((withoutWarp s x).warps.map (·.key)) (withoutWarp s x).blocks (withoutWarp s x) := ⟨rfl, rfl⟩

theorem resident_freeWarp (s : State) (x : Warp) : ∃ bs, Resident ((withoutWarp s x).warps.map (·.key)) bs (freeWarp s x) := by
  unfold freeWarp
  split
  · exact ⟨_, resident_withoutWarp s x⟩
  · split
    · exact ⟨_, resident_withoutWarp s x⟩
    · exact ⟨_, (resident_withoutWarp s x).freeBlock.countBlock.leaveCluster⟩

/-- Freeing a warp takes it from the resident warps, and no other. -/
theorem freeWarp_warp? (s : State) (x : Warp) :
    (freeWarp s x).warp? x.key = none ∧ ∀ k, k ≠ x.key → ((freeWarp s x).warp? k).isSome = (s.warp? k).isSome := by
  obtain ⟨bs, h⟩ := resident_freeWarp s x
  have hk (k : Nat) : ((freeWarp s x).warp? k).isSome = ((withoutWarp s x).warp? k).isSome := by
    rw [warp?_isSome_eq h, warp?_isSome_eq (resident_withoutWarp s x)]
  obtain ⟨h0, h1⟩ := withoutWarp_warp? s x
  refine ⟨?_, fun k hne => by rw [hk, h1 k hne]⟩
  have := hk x.key
  rwa [h0, Option.isSome_none, Option.isSome_eq_false_iff, Option.isNone_iff_eq_none] at this

/-- The last warp of a block takes its block with it. -/
theorem freeWarp_lastBlock {s : State} {x : Warp} (h : ∀ y ∈ s.warps, y.key ≠ x.key → y.block ≠ x.block) {b : Block}
    (hb : b ∈ (freeWarp s x).blocks) : b.id ≠ x.block ∨ s.block? x.block = none := by
  unfold freeWarp at hb
  rw [if_neg fun ha => by obtain ⟨y, hy, hk, he⟩ := (withoutWarp_others s x).mp ha; exact h y hy hk he] at hb
  split at hb
  · next hn => exact .inr (block?_of_withoutWarp hn)
  · next c hc =>
    rw [(resident_withoutWarp s x).freeBlock.countBlock.leaveCluster.2] at hb
    have hid : c.id = x.block := by simpa using List.find?_some hc
    exact .inl (by simpa [hid] using (List.mem_filter.mp hb).2)

theorem warpBusy_false {s : State} {x : Warp} (hd : x.draining = true) (hld : x.ld = 0) (hst : x.st = 0) (hcp : x.cp = 0) (htm : x.tm = 0)
    (hsb : x.sb = []) (hff : x.fifo = []) (hfl : x.failed = []) (hlo : x.loads = []) (hq : x.queue = []) (hto : x.tileOps = [])
    (hbo : x.barOps = []) (hs : x.stopped = []) (hw : s.holdsWarp x.key = false) : warpBusy s x = false := by
  simp [warpBusy, hd, hld, hst, hcp, htm, hsb, hff, hfl, hlo, hq, hto, hbo, hs, hw]

theorem warpFrees : WarpFrees := by
  intro s x hx
  refine ⟨fun h => ?_, fun hd hld hst hcp htm hsb hff hfl hlo hq hto hbo hs hw => ?_⟩
  · have hb : warpBusy s x = true := by
      rcases h with h | h | h | h | h | h | h <;> simp [warpBusy, h]
    rw [exec_warpFree hx, if_pos hb]
  · have hb := warpBusy_false hd hld hst hcp htm hsb hff hfl hlo hq hto hbo hs hw
    have he : exec (.warpFree x.key) s = .next (freeWarp s x) := by rw [exec_warpFree hx, hb, if_neg Bool.false_ne_true]
    obtain ⟨h0, h1⟩ := freeWarp_warp? s x
    refine ⟨_, he, h0, h1, fun ho => ?_, fun h b hb => freeWarp_lastBlock h hb⟩
    have hf : freeWarp s x = withoutWarp s x := if_pos ((withoutWarp_others s x).mpr ho)
    rw [hf]
    obtain ⟨hm, hbk⟩ := withoutWarp_blocks s x
    exact ⟨hm, hbk, withoutWarp_mem s x, (withoutWarp_warp? s x).2⟩

/-- Settles O12: parking leaves the lanes of B where they are, a re-sort takes the lanes at one PC, and WARP_FREE changes the resident warps
and blocks by the one warp, and by its block behind its last warp. -/
theorem parkingAndFreeing : Obligations.ParkingAndFreeing := ⟨parks, warpResorts, warpFrees⟩

end Sys2Proof.Claims
end

section
namespace Sys2Proof.Claims

set_option Elab.async false

open Sys2Proof Sys2Proof.Machine

/-! ### Steering leaves memory (03 R71 to R92, 17 R456)

The operations that steer a warp, in the order of the model, and the frame of an instruction, change no byte of memory.
-/

section
variable (s : State)

theorem ite_mem {c : Prop} [Decidable c] {t u : State} {m : Memory} (ht : t.mem = m) (hu : u.mem = m) : (if c then t else u).mem = m :=
  iteInduction (motive := fun x : State => x.mem = m) (fun _ => ht) fun _ => hu

/-- A repetition of changes beside memory. -/
theorem foldl_mem {α : Type} {g : State → α → State} (l : List α) (hg : ∀ t a, (g t a).mem = t.mem) : (l.foldl g s).mem = s.mem :=
  List.foldlRecOn (motive := fun t : State => t.mem = s.mem) l g rfl fun t ht a _ => (hg t a).trans ht

@[simp] theorem upd_mem (i : Iss) (g : Warp → Warp) : (s.upd i g).mem = s.mem := State.withWarp_mem ..

theorem takeTrap_mem (i : Iss) (t : Trap) : (takeTrap s i t).mem = s.mem := by
  unfold takeTrap
  extract_lets w back w'
  split
  · rfl
  split
  next entry u e =>
  have hu : u.mem = s.mem := by
    split at e <;> cases e <;> rfl
  exact hu

theorem leave_mem (key : Nat) (pfx : Option Pfx) (pcs : List (Nat × W64)) : (s.leave key pfx pcs).mem = s.mem :=
  ite_mem rfl (State.withWarp_mem ..)

theorem setGone_mem (key : Nat) (pcs : List (Nat × W64)) : (s.setGone key pcs).1.mem = s.mem := by
  unfold State.setGone
  split <;> rfl

/-! #### The frame of an instruction -/

/-- An effect of an instruction's body that leaves memory as it was. -/
def EffKeeps : Eff → Prop
  | .done t | .jump t _ | .hold t => t.mem = s.mem
  | .trap _ => True

theorem EffKeeps.ite {s : State} {c : Prop} [Decidable c] {a b : Eff} (ha : EffKeeps s a) (hb : EffKeeps s b) : EffKeeps s (if c then a else b) :=
  iteInduction (fun _ => ha) fun _ => hb

/-- The bundles of an issue leave memory where the body does in each. -/
theorem runBundles_mem {key : Nat} {pfx : Option Pfx} {g : BitVec 4} {stall : State → Warp → Bool} {body : Iss → State → Eff}
    (hb : ∀ j u, EffKeeps u (body j u)) (bs : List (List Nat)) (pcs : List (Nat × W64)) :
    (runBundles key pfx g stall body {} bs s pcs).mem = s.mem := by
  induction bs generalizing s pcs with
  | nil => exact State.withWarp_mem ..
  | cons b r ih =>
    unfold runBundles
    split
    · rfl
    next w _ =>
    have h1 : (s.withWarp key fun w => w.countIssue b).mem = s.mem := State.withWarp_mem ..
    have ht := hb { issOf w g b with pfx := pfx } (s.withWarp key fun w => w.countIssue b)
    refine ite_mem (leave_mem ..) (ite_mem ((ih ..).trans h1) ?_)
    split
    next t e =>
      rw [e] at ht
      exact (ih ..).trans (ht.trans h1)
    next t q e =>
      rw [e] at ht
      exact ite_mem ((ih ..).trans (ht.trans h1)) ((ih ..).trans ((setGone_mem ..).trans (ht.trans h1)))
    next => exact takeTrap_mem ..
    next t e =>
      rw [e] at ht
      exact (leave_mem ..).trans (ht.trans h1)

/-- An instruction that steers: it has the common frame, does nothing under an all-false guard, and its body leaves memory. -/
def Steers (i : Instr) : Prop := ∃ split body, exec i s = issueSplit i s split {} body ∧ ∀ j u, EffKeeps u (body j u)

theorem Steers.mem {s t : State} {i : Instr} (h : Steers s i) (ht : exec i s = .next t) : t.mem = s.mem := by
  obtain ⟨split, body, he, hb⟩ := h
  rw [he] at ht
  unfold issueSplit at ht
  split at ht
  · split at ht
    · cases ht
    dsimp only at ht
    split at ht
    · cases ht
      exact takeTrap_mem ..
    · cases ht
      exact runBundles_mem s hb _ _
  · cases ht

/-! #### What bodies are made of -/

theorem writeEff_keeps (i : Iss) (rs : List RegWrite) : EffKeeps s (writeEff i s rs) := upd_mem ..

theorem transfer_keeps (f : Fields) (link : Bool) (target : Iss → Nat → W64) (i : Iss) : EffKeeps s (transfer f link target i s) := by
  unfold transfer
  dsimp only
  split
  · trivial
  · exact upd_mem ..

theorem leaveEmu_keeps (f : Fields) (i : Iss) : EffKeeps s (leaveEmu f i s) := by
  have h := transfer_keeps s f false (fun i l => targetA i f l) i
  unfold leaveEmu
  split
  next t q e =>
    rw [e] at h
    exact .ite ((upd_mem ..).trans h) h
  next => exact h

theorem pushMarker_mem (key : Nat) (kind : FifoKind) (lanes : List Nat) (scope : Nat) (pc : W64) : (pushMarker key kind lanes scope pc s).mem = s.mem := by
  unfold pushMarker
  split <;> rfl

theorem decline_mem (key : Nat) : (s.decline key).mem = s.mem := by
  unfold State.decline
  split <;> rfl

theorem exitThreads_mem (key : Nat) (lanes : List Nat) (pc : W64) : (s.exitThreads key lanes pc).mem = s.mem := by
  unfold State.exitThreads
  extract_lets u
  have hu : u.mem = s.mem := (State.withWarp_mem ..).trans (pushMarker_mem ..)
  split
  · exact ite_mem hu hu
  · exact hu

theorem enterUndo_mem (key lane : Nat) (killed : Bool) : (s.enterUndo key lane killed).mem = s.mem := by
  unfold State.enterUndo
  extract_lets u
  have hu : u.mem = s.mem := ite_mem (decline_mem ..) rfl
  split
  · exact hu
  · exact (State.withWarp_mem ..).trans hu

theorem releaseTask_mem (key lane : Nat) : (releaseTask s key lane).mem = s.mem := by
  unfold releaseTask
  split
  · rfl
  · exact ite_mem rfl (State.withWarp_mem ..)

theorem passSpawns_mem {s t : State} {key lane : Nat} (h : passSpawns s key lane = some t) : t.mem = s.mem := by
  unfold passSpawns at h
  split at h
  · cases h
  dsimp only at h
  split at h
  · cases h
    rfl
  split at h
  · cases h
  split at h
  · cases h
    exact State.withWarp_mem ..
  split at h
  · cases h
    exact State.withWarp_mem ..
  · cases h

theorem commitLane_mem (key lane : Nat) : (commitLane s key lane).1.mem = s.mem := by
  unfold commitLane
  dsimp only
  split
  next => exact releaseTask_mem ..
  next e => exact (passSpawns_mem e).trans (releaseTask_mem ..)

theorem commitLanes_mem (i : Iss) (leaving : Bool) : (commitLanes i leaving s).1.mem = s.mem := by
  unfold commitLanes
  refine List.foldlRecOn (motive := fun a : State × List Nat => a.1.mem = s.mem) i.lanes _ rfl fun a ha l _ => ?_
  dsimp only
  split
  · exact ha
  split
  · exact (enterUndo_mem ..).trans ha
  split
  · exact (commitLane_mem ..).trans ha
  · exact (State.withWarp_mem ..).trans ((commitLane_mem ..).trans ha)

theorem formRequest_mem (key id : Nat) (toL : Bool) : (s.formRequest key id toL).mem = s.mem := by
  unfold State.formRequest
  split
  · rfl
  · exact ite_mem (decline_mem ..) rfl

theorem matrixSettle_mem (core : Nat) : (s.matrixSettle core).mem = s.mem := by
  unfold State.matrixSettle
  refine ite_mem rfl ?_
  split <;> rfl

/-! #### The instructions -/

variable (f : Fields)

theorem steers_nop : Steers s (.nop f) := ⟨false, _, rfl, fun _ _ => rfl⟩
theorem steers_wait : Steers s (.wait f) := ⟨false, _, rfl, fun _ _ => .ite rfl rfl⟩
theorem steers_yield : Steers s (.yield f) := ⟨false, _, rfl, fun _ _ => upd_mem ..⟩
theorem steers_trap : Steers s (.trap f) := ⟨allScalar f, _, rfl, fun _ _ => trivial⟩
theorem steers_brk : Steers s (.brk f) := ⟨allScalar f, _, rfl, fun _ _ => trivial⟩
theorem steers_trig : Steers s (.trig f) := ⟨false, _, rfl, fun _ _ => pushMarker_mem ..⟩
theorem steers_ifence : Steers s (.ifence f) := ⟨false, _, rfl, fun _ _ => .ite rfl rfl⟩
theorem steers_rdsr : Steers s (.rdsr f) := ⟨allScalar f, _, rfl, fun _ _ => .ite rfl (writeEff_keeps ..)⟩
theorem steers_wrsr : Steers s (.wrsr f) := ⟨false, _, rfl, fun _ _ => .ite rfl (upd_mem ..)⟩

theorem steers_fence : Steers s (.fence f) := by
  refine ⟨false, _, rfl, fun j u => .ite rfl (.ite rfl ?_)⟩
  have hm {b : Bool} {t : State} (ht : t.mem = u.mem) : (if b then t else u).mem = u.mem := ite_mem ht rfl
  exact ite_mem ((upd_mem ..).trans (hm (pushMarker_mem ..))) (hm (pushMarker_mem ..))

theorem steers_exit : Steers s (.exit f) := by
  refine ⟨false, _, rfl, fun j u => .ite trivial (.ite rfl ?_)⟩
  exact ite_mem (commitLanes_mem ..) ((exitThreads_mem ..).trans (commitLanes_mem ..))

theorem steers_ep : Steers s (.ep f) := by
  refine ⟨allScalar f, _, rfl, fun j u => .ite trivial ?_⟩
  dsimp only
  split
  · exact upd_mem ..
  · exact .ite ((formRequest_mem ..).trans ((upd_mem ..).trans (upd_mem ..))) (upd_mem ..)

theorem migBody_keeps (toL : Bool) (j : Iss) : EffKeeps s (migBody f toL j s) := by
  unfold migBody
  dsimp only
  split
  · exact rfl
  refine .ite trivial (.ite trivial (.ite (upd_mem ..) (.ite (upd_mem ..) ?_)))
  exact (upd_mem ..).trans (upd_mem ..)

theorem steers_migL : Steers s (.migL f) := ⟨false, _, rfl, fun j u => migBody_keeps u f true j⟩
theorem steers_migD : Steers s (.migD f) := ⟨false, _, rfl, fun j u => migBody_keeps u f false j⟩

theorem steers_emu : Steers s (.emu f) := by
  refine ⟨false, _, rfl, fun j u => ?_⟩
  dsimp only
  split
  · trivial
  refine .ite trivial ?_
  split
  · trivial
  split
  · trivial
  · exact upd_mem ..

theorem steers_bra : Steers s (.bra f) := ⟨false, _, rfl, fun _ _ => transfer_keeps ..⟩
theorem steers_call : Steers s (.call f) := ⟨false, _, rfl, fun _ _ => transfer_keeps ..⟩
theorem steers_callx : Steers s (.callx f) := ⟨false, _, rfl, fun _ _ => transfer_keeps ..⟩
theorem steers_brx : Steers s (.brx f) := ⟨false, _, rfl, fun _ _ => leaveEmu_keeps ..⟩
theorem steers_ret : Steers s (.ret f) := ⟨false, _, rfl, fun _ _ => leaveEmu_keeps ..⟩
theorem steers_brs : Steers s (.brs f) := ⟨true, _, rfl, fun _ _ => .ite (transfer_keeps ..) rfl⟩
theorem steers_wsync : Steers s (.wsync f) := ⟨false, _, rfl, fun _ _ => upd_mem ..⟩

theorem nbarBody_keeps (sync : Bool) (j : Iss) : EffKeeps s (nbarBody f sync j s) := by
  unfold nbarBody
  split
  · trivial
  refine .ite trivial (.ite rfl (.ite ?_ ?_))
  · exact ite_mem (upd_mem ..) rfl
  · exact .ite (upd_mem ..) rfl

theorem steers_nbarSync : Steers s (.nbarSync f) := ⟨allScalar f, _, rfl, fun j u => nbarBody_keeps u f true j⟩
theorem steers_nbarArrive : Steers s (.nbarArrive f) := ⟨allScalar f, _, rfl, fun j u => nbarBody_keeps u f false j⟩

theorem steers_tdef : Steers s (.tdef f) := by
  refine ⟨allScalar f, _, rfl, fun j u => ?_⟩
  dsimp only
  split
  · trivial
  refine .ite trivial (.ite trivial ?_)
  split
  · exact .ite (writeEff_keeps ..) trivial
  · exact upd_mem ..

theorem steers_tstat : Steers s (.tstat f) := by
  refine ⟨allScalar f, _, rfl, fun j u => ?_⟩
  dsimp only
  split
  · trivial
  · exact writeEff_keeps ..

theorem steers_trel : Steers s (.trel f) := by
  refine ⟨allScalar f, _, rfl, fun j u => ?_⟩
  dsimp only
  split
  · trivial
  split
  · trivial
  · rfl

theorem steers_mres : Steers s (.mres f) := by
  refine ⟨allScalar f, _, rfl, fun j u => ?_⟩
  dsimp only
  split
  · trivial
  exact .ite (writeEff_keeps ..) (.ite (upd_mem ..) (.ite (writeEff_keeps ..) (upd_mem ..)))

theorem steers_mrel : Steers s (.mrel f) := by
  refine ⟨allScalar f, _, rfl, fun j u => ?_⟩
  dsimp only
  split
  · trivial
  · exact .ite trivial (matrixSettle_mem ..)

theorem steers_tspawn : Steers s (.tspawn f) := by
  refine ⟨false, _, rfl, fun j u => ?_⟩
  dsimp only
  split
  · trivial
  · exact upd_mem ..

theorem steers_tcommit : Steers s (.tcommit f) := by
  refine ⟨false, _, rfl, fun j u => ?_⟩
  dsimp only
  split
  · trivial
  · exact .ite rfl (commitLanes_mem ..)

theorem steers_tabort : Steers s (.tabort f) := by
  refine ⟨false, _, rfl, fun j u => ?_⟩
  split
  · trivial
  · exact foldl_mem u j.lanes fun t l => enterUndo_mem ..

theorem steers_uret : Steers s (.uret f) := ⟨false, _, rfl, fun _ _ => .ite trivial (.ite trivial (upd_mem ..))⟩

end

/-- Settles O60: each of these instructions has the common frame, which leaves memory where its body does. -/
theorem steeringLeavesMemory : Obligations.SteeringLeavesMemory := by
  intro s t f i hi ht a
  have hs : Steers s i := by
    clear ht
    revert i
    simp only [List.forall_mem_cons, List.not_mem_nil, false_implies, implies_true, and_true]
    exact ⟨steers_nop s f, steers_wait s f, steers_yield s f, steers_trap s f, steers_brk s f, steers_fence s f, steers_ifence s f,
      steers_rdsr s f, steers_wrsr s f, steers_exit s f, steers_trig s f, steers_ep s f, steers_migL s f, steers_migD s f, steers_emu s f,
      steers_bra s f, steers_brx s f, steers_call s f, steers_callx s f, steers_ret s f, steers_brs s f, steers_wsync s f, steers_nbarSync s f,
      steers_nbarArrive s f, steers_tdef s f, steers_tstat s f, steers_trel s f, steers_mres s f, steers_mrel s f, steers_tspawn s f,
      steers_tcommit s f, steers_tabort s f, steers_uret s f⟩
  rw [hs.mem ht]

end Sys2Proof.Claims
end

section
namespace Sys2Proof.Claims

set_option Elab.async false

open Sys2Proof Sys2Proof.Machine

/-! ### Floating results and traps (04 R107, R108, 05 R150 to R157) -/

/-- A floating instruction of the vector ALU, and `rng`, commits the lanes' results that the rules give it; it executes by half-groups in
legacy mode only where all its register operands are scalar (R34, R179). -/
theorem exec_of_floatRule {i : Instr} {f : Fields} {scal : Bool} {outs : Iss → List LaneOut} (h : floatRule i = some (f, scal, outs)) (s : State) :
    ∃ op split, fieldsOf i = some (op, f) ∧ (split = true → allScalar f = true) ∧
      exec i s = issueSplit i s split {} fun j u => commit j u scal (outs j) := by
  cases i with
  | fcmp =>
    cases h
    exact ⟨_, false, rfl, nofun, rfl⟩
  | fadd | fsub | fmul | fma | fscl | fmin | fmax | famax | frnd | fclass | fsgn | fdot4 | rng =>
    cases h
    exact ⟨_, _, rfl, id, rfl⟩
  | _ => cases h

theorem floatResults : FloatResults := by
  intro s w i f scal outs hr h hs ht
  obtain ⟨op, split, hf, hsc, he⟩ := exec_of_floatRule hr s
  rw [he]
  exact issueCommit_of hf h (fun h => hs (hsc h)) ht

theorem floatTraps : FloatTraps := by
  intro s w i f scal outs t hr h hs ht
  obtain ⟨op, split, hf, hsc, he⟩ := exec_of_floatRule hr s
  rw [he]
  exact issueTrap_of hf h (fun h => hs (hsc h)) ht

/-- Settles O2: each of these instructions commits its lanes' results, which are written where no lane traps, and are else the trap. -/
theorem floatingResults : Obligations.FloatingResults := ⟨floatResults, floatTraps⟩

end Sys2Proof.Claims
end

section
namespace Sys2Proof.Claims

set_option Elab.async false

open Sys2Proof Sys2Proof.Machine

/-! ### Entries of the queues (05 R109, R132, R134) -/

/-- The oldest entry of a queue is of that queue, and what is left is the warp's entries without it. -/
theorem takeFirst_some {q : Nat} {l rest : List QueueOp} {op : QueueOp} (h : takeFirst q l = some (op, rest)) :
    op.queue = q ∧ rest = l.erase op := by
  induction l generalizing rest with
  | nil => cases h
  | cons e r ih =>
    unfold takeFirst at h
    split at h
    next he =>
      cases h
      exact ⟨he, (List.erase_cons_head ..).symm⟩
    next he =>
      obtain ⟨p, ht, hp⟩ := Option.map_eq_some_iff.mp h
      cases hp
      obtain ⟨hq, hr⟩ := ih ht
      have hne : e ≠ p.1 := fun hx => he (hx ▸ hq)
      exact ⟨hq, hr ▸ (List.erase_cons_tail (by simpa using hne)).symm⟩

/-! #### What leaves all of a warp but its threads and its bundle -/

/-- A warp with other threads and another bundle, and all else as it was. -/
def SameButThreads (w y : Warp) : Prop := y = { w with threads := y.threads, bundle := y.bundle }

theorem SameButThreads.refl (w : Warp) : SameButThreads w w := rfl

theorem SameButThreads.trans {w x y : Warp} (h : SameButThreads w x) (hy : SameButThreads x y) : SameButThreads w y := by
  unfold SameButThreads at h hy ⊢
  rw [hy, h]

theorem SameButThreads.field {α : Type} {w y : Warp} (π : Warp → α) (h : SameButThreads w y)
    (hπ : ∀ ts b, π { w with threads := ts, bundle := b } = π w := by intros; rfl) : π y = π w :=
  (congrArg π h).trans (hπ _ _)

theorem SameButThreads.foldl {α : Type} {w : Warp} {g : Warp → α → Warp} (l : List α) (hg : ∀ x a, SameButThreads x (g x a)) :
    SameButThreads w (l.foldl g w) :=
  List.foldlRecOn (motive := SameButThreads w) l g rfl fun x h a _ => h.trans (hg x a)

theorem advance_sameButThreads (w : Warp) (pcs : List (Nat × W64)) : SameButThreads w (w.advance pcs) := by
  have h : SameButThreads w (pcs.foldl atPc w) := .foldl pcs fun _ _ => rfl
  refine h.trans ?_
  unfold Warp.advance
  dsimp only
  split <;> rfl

/-- One lane that has executed its bundle's instruction before the others (R66). -/
def ranAt (w : Warp) (p : Nat × W64) : Warp :=
  w.setThread p.1 fun t => if t.mayIssue then { t with ran := some p.2 } else { t with pc := p.2, ran := none }

theorem markRan_sameButThreads (w : Warp) (pcs : List (Nat × W64)) : SameButThreads w (w.markRan pcs) :=
  have h : SameButThreads w (pcs.foldl ranAt w) := .foldl pcs fun _ _ => rfl
  h.trans rfl

theorem pass_sameButThreads (w : Warp) (pcs : List (Nat × W64)) : SameButThreads w (w.pass pcs) := by
  unfold Warp.pass
  dsimp only
  split
  · exact markRan_sameButThreads ..
  · exact advance_sameButThreads ..

theorem raiseFlags_sameButThreads (w : Warp) (fl : List (Nat × Flags)) : SameButThreads w (w.raiseFlags fl) :=
  .foldl fl fun _ _ => rfl

/-! #### What leaves all of a thread but its PC -/

theorem markRan_keeps {α : Type} (π : Thread → α) (w : Warp) (pcs : List (Nat × W64)) (m : Nat)
    (h : ∀ t pc r, π { t with pc := pc, ran := r } = π t) : π ((w.markRan pcs).thread m) = π (w.thread m) :=
  List.foldlRecOn (motive := fun x : Warp => π (x.thread m) = π (w.thread m)) pcs ranAt rfl fun x hx p _ =>
    (setThread_keeps π fun t => by
      split
      · exact h t t.pc _
      · exact h t p.2 none).trans hx

/-- Lanes that go on change PCs alone in the threads. -/
theorem pass_keeps {α : Type} (π : Thread → α) (w : Warp) (pcs : List (Nat × W64)) (m : Nat)
    (h : ∀ t pc r, π { t with pc := pc, ran := r } = π t := by intros; rfl) : π ((w.pass pcs).thread m) = π (w.thread m) := by
  unfold Warp.pass
  dsimp only
  split
  · exact markRan_keeps π w pcs m h
  · exact advance_keeps π w _ m fun t pc => h t pc none

/-- Raised flags change the sticky flags alone in the threads. -/
theorem raiseFlags_keeps {α : Type} (π : Thread → α) (w : Warp) (fl : List (Nat × Flags)) (m : Nat)
    (h : ∀ t v, π { t with fpflags := v } = π t := by intros; rfl) : π ((w.raiseFlags fl).thread m) = π (w.thread m) :=
  List.foldlRecOn (motive := fun x : Warp => π (x.thread m) = π (w.thread m)) fl _ rfl
    fun _ hx _ _ => (setThread_keeps π fun t => h t _).trans hx

/-! #### The warp whose oldest entry has left its queue -/

/-- A warp with these entries in its queues, and held so. -/
def dequeued (x : Warp) (rest : List QueueOp) (hold : Hold) : Warp := { x with queue := rest, hold := hold }

section
variable (x : Warp) (rest : List QueueOp) (hold : Hold)

theorem put_dequeued (r : RegWrite) : (dequeued x rest hold).put r = dequeued (x.put r) rest hold := by
  unfold Warp.put
  split
  · rfl
  · rfl
  · split <;> rfl

/-- Register writes and the queues are parts of a warp that do not touch each other. -/
theorem putAll_dequeued (rs : List RegWrite) : (dequeued x rest hold).putAll rs = dequeued (x.putAll rs) rest hold := by
  have h : rs.foldl Warp.put (dequeued x rest hold) = dequeued (rs.foldl Warp.put x) rest hold :=
    List.foldl_hom (dequeued · rest hold) fun x r => put_dequeued x rest hold r
  unfold Warp.putAll Warp.putFrom
  rw [h]
  rfl

theorem raiseFlags_dequeued (fl : List (Nat × Flags)) : (dequeued x rest hold).raiseFlags fl = dequeued (x.raiseFlags fl) rest hold :=
  List.foldl_hom (dequeued · rest hold) fun _ _ => rfl

end

section
variable {s : State} {x : Warp} {q : Nat} {op : QueueOp} {rest : List QueueOp}

/-- The warp behind its oldest entry in a queue: no longer held, if it was held at it (R109). -/
def behindEntry (x : Warp) (op : QueueOp) (rest : List QueueOp) : Warp :=
  dequeued x rest (if op.lanes.isEmpty then x.hold else .free)

/-- A bundle that waited at an entry's instruction goes on behind it (R109). -/
def goesOn (z : Warp) (op : QueueOp) : Warp :=
  if op.lanes.isEmpty then z else z.pass (op.lanes.map fun l => (l, nextPc op.pc))

/-- The warp whose oldest entry has written its results and its flags. -/
def completed (x : Warp) (op : QueueOp) (rest : List QueueOp) : Warp :=
  goesOn (((behindEntry x op rest).putAll op.writes).raiseFlags op.flags) op

theorem goesOn_sameButThreads (z : Warp) (op : QueueOp) : SameButThreads z (goesOn z op) := by
  unfold goesOn
  split
  · exact .refl z
  · exact pass_sameButThreads ..

theorem goesOn_keeps {α : Type} (π : Thread → α) (z : Warp) (op : QueueOp) (m : Nat)
    (h : ∀ t pc r, π { t with pc := pc, ran := r } = π t := by intros; rfl) : π ((goesOn z op).thread m) = π (z.thread m) := by
  unfold goesOn
  split
  · rfl
  · exact pass_keeps π z _ m h

/-- But for threads and bundle, the warp is the one with the results written and the entry taken out. -/
theorem completed_sameButThreads (x : Warp) (op : QueueOp) (rest : List QueueOp) :
    SameButThreads (dequeued (x.putAll op.writes) rest (behindEntry x op rest).hold) (completed x op rest) := by
  rw [← putAll_dequeued]
  exact (raiseFlags_sameButThreads ..).trans (goesOn_sameButThreads ..)

/-- The threads have the results and the flags of the entry. -/
theorem completed_keeps {α : Type} (π : Thread → α) (x : Warp) (op : QueueOp) (rest : List QueueOp) (m : Nat)
    (h : ∀ t pc r, π { t with pc := pc, ran := r } = π t := by intros; rfl) :
    π ((completed x op rest).thread m) = π (((x.putAll op.writes).raiseFlags op.flags).thread m) := by
  refine (goesOn_keeps π _ op m h).trans ?_
  unfold behindEntry
  rw [putAll_dequeued, raiseFlags_dequeued]
  rfl

theorem completed_hold (h : op.lanes ≠ []) : (completed x op rest).hold = .free := by
  refine ((completed_sameButThreads x op rest).field (·.hold)).trans ?_
  exact if_neg fun he => h (List.isEmpty_iff.mp he)

/-- The issue of an entry's instruction as its trap names it: its PC and bundle, and the lanes that trap (R109). -/
def entryIss (x : Warp) (op : QueueOp) (rest : List QueueOp) : Iss :=
  { w := { behindEntry x op rest with since := x.since - 1 }, pc := op.pc, all := op.lanes, lanes := lanesOf op.trapMask
    nxt := nextPc op.pc, pfx := none }

/-- A fault without an address that no prefix precedes: one record, at which the warp stops with its registers as they are (R456). -/
theorem takeTrap_raises {i : Iss} (hp : i.pfx = none) (hw : s.warp? i.w.key = some x) (cause : Nat) (ls : List Nat) :
    ∃ y r, (takeTrap s i { cause := cause, lanes := ls }).warp? i.w.key = some y ∧
      (takeTrap s i { cause := cause, lanes := ls }).recs = s.recs ++ [r] ∧ y.queue = i.w.queue ∧ y.stopped = i.w.stopped ++ [s.recCt] ∧
      SameRegs i.w y := by
  unfold takeTrap
  simp only [hp]
  exact ⟨_, _, State.warp?_setWarp hw, rfl, rfl, rfl, rfl, fun _ => ⟨rfl, rfl⟩⟩

variable (hx : s.warp? x.key = some x) (ht : takeFirst q x.queue = some (op, rest))
include hx ht

theorem exec_queueOpComplete (h : op.trapMask = 0) : exec (.queueOpComplete x.key q) s = .next (s.setWarp (completed x op rest)) := by
  change execQueueOpComplete x.key q s = _
  unfold execQueueOpComplete
  simp only [hx, ht]
  exact if_neg (by simp [h])

theorem exec_queueOpComplete_trap (h : op.trapMask ≠ 0) : exec (.queueOpComplete x.key q) s =
    .next (takeTrap (s.setWarp (behindEntry x op rest)) (entryIss x op rest) { cause := op.trapCause, lanes := lanesOf op.trapMask }) := by
  change execQueueOpComplete x.key q s = _
  unfold execQueueOpComplete
  simp only [hx, ht]
  exact if_pos (by simpa using h)

end

theorem queueCompletions : QueueCompletions := by
  intro s x q op rest hx ht
  refine ⟨(takeFirst_some ht).2, fun h => ?_, fun h => ?_⟩
  · have hc := completed_sameButThreads x op rest
    have hk : (completed x op rest).key = x.key := (hc.field (·.key)).trans (putAll_key x op.writes)
    have hs : s.warp? (completed x op rest).key = some x := hk.symm ▸ hx
    refine ⟨_, _, exec_queueOpComplete hx ht h, hk ▸ State.warp?_setWarp hs, hc.field (·.queue), rfl, rfl, hc.field (·.s),
      fun l => ⟨?_, completed_keeps (·.fpflags) x op rest l⟩, completed_hold⟩
    exact (completed_keeps (·.v) x op rest l).trans (raiseFlags_keeps (·.v) _ op.flags l)
  · have hw : (s.setWarp (behindEntry x op rest)).warp? x.key = some (behindEntry x op rest) :=
      State.warp?_setWarp (v := behindEntry x op rest) hx
    obtain ⟨y, r, hy, hr, hq, hst, hsr⟩ :=
      takeTrap_raises (i := entryIss x op rest) rfl hw op.trapCause (lanesOf op.trapMask)
    exact ⟨_, y, r, exec_queueOpComplete_trap hx ht h, hy, hq, hr, hst, hsr⟩

/-- Settles O5: the oldest entry of a queue leaves it with its results and flags written, or with its trap taken. -/
theorem queueEntryCompletions : Obligations.QueueEntryCompletions := queueCompletions

end Sys2Proof.Claims
end

section
namespace Sys2Proof.Claims

set_option Elab.async false

open Sys2Proof Sys2Proof.Machine

/-! ### Values (05 R142 to R148, 06 R166, R167) -/

/-- An instruction that writes a value computes it for each lane from the issue. -/
theorem exec_of_valueRule {i : Instr} {f : Fields} {wide : Bool} {v : Iss → Nat → Nat} (h : valueRule i = some (f, wide, v)) (s : State) :
    ∃ op, fieldsOf i = some (op, f) ∧ exec i s = issueValue i f s wide v := by
  cases i with
  | add | sub | mul | mulhi | mad | min | max | abs | and | or | xor | andn | shl | shr | sar | rot | clamp | addsh | mov | sel | movi | cmp |
    popc | clz | brev | bfe | bfi | perm | plog | pmovGet =>
    cases h
    exact ⟨_, rfl, rfl⟩
  | _ => cases h

/-- Settles O1: each of these instructions commits a value for each lane, with no flag that could trap. -/
theorem valueResults : Obligations.ValueResults := by
  intro s w i f wide v hr h hs
  obtain ⟨op, hf, he⟩ := exec_of_valueRule hr s
  rw [he]
  exact issueValue_of hf h hs

/-! ### Instructions of the queues (05 R130 to R135, R149, R158 to R163) -/

/-- A body that puts its lanes' results into a queue; where the activation bank that it binds is invalid it traps instead (R163). -/
def Enters (s : State) (q : Nat) (scal : Bool) (raises : Flags) (bank : Warp → Option Nat) (outs : Iss → List LaneOut)
    (body : Iss → State → Eff) : Prop :=
  (∀ j u, body j u = trapAll j 0x045 ∨ ∃ b os, body j u = enqueue j u q scal raises b os) ∧
  ∀ j u, u.cores = s.cores → (bank j.w ≠ none → (s.core j.w.homeCore).actBank.valid = true) →
    body j u = enqueue j u q scal raises (bank j.w) (outs j)

theorem enters_always (s : State) (q : Nat) (scal : Bool) (raises : Flags) (bank : Warp → Option Nat) (outs : Iss → List LaneOut) :
    Enters s q scal raises bank outs fun j u => enqueue j u q scal raises (bank j.w) (outs j) :=
  ⟨fun _ _ => .inr ⟨_, _, rfl⟩, fun _ _ _ _ => rfl⟩

/-- What `act` does in a bundle (R163). -/
def actBody (f : Fields) (j : Iss) (u : State) : Eff :=
  if !(u.core j.w.homeCore).actBank.valid then trapAll j 0x045
  else enqueue j u 0 (allScalar f) 0x1D (some (bitOf (u.core j.w.homeCore).actCur)) (fpOuts j f f.d (allScalar f) fun l _ =>
    actEval (u.core j.w.homeCore).actBank.bytes { sat := f.sat, ftz := f.ftz } (src32 j f f.a l))

theorem enters_act (s : State) (f : Fields) :
    Enters s 0 (allScalar f) 0x1D (fun w => some (bitOf (s.core w.homeCore).actCur))
      (fun j => fpOuts j f f.d (allScalar f) fun l _ =>
        actEval (s.core j.w.homeCore).actBank.bytes { sat := f.sat, ftz := f.ftz } (src32 j f f.a l)) (actBody f) := by
  refine ⟨fun j u => ?_, fun j u hu hv => ?_⟩
  · unfold actBody
    split
    · exact .inl rfl
    · exact .inr ⟨_, _, rfl⟩
  · have hc : u.core j.w.homeCore = s.core j.w.homeCore := by rw [State.core, State.core, hu]
    have hv := hv (Option.some_ne_none _)
    rw [actBody, hc, hv]
    exact if_neg nofun

/-- An instruction of a queue enters it with the results that the rules give; it executes by half-groups in legacy mode only where all its
register operands are scalar (R34, R179). -/
theorem exec_of_queueRule {s : State} {i : Instr} {f : Fields} {q : Nat} {scal : Bool} {raises : Flags} {bank : Warp → Option Nat}
    {outs : Iss → List LaneOut} (h : queueRule s i = some (f, q, scal, raises, bank, outs)) :
    ∃ op split body, fieldsOf i = some (op, f) ∧ (split = true → allScalar f = true) ∧ exec i s = issueSplit i s split {} body ∧
      Enters s q scal raises bank outs body := by
  cases i with
  | act f =>
    cases h
    exact ⟨_, _, actBody f, rfl, id, rfl, enters_act s f⟩
  | pack | unpack =>
    cases h
    exact ⟨_, false, _, rfl, nofun, rfl, enters_always ..⟩
  | idiv | cvt | rcp | rsq | sqrt | exp2 | log2 | sin | cos | tanh =>
    cases h
    exact ⟨_, _, _, rfl, id, rfl, enters_always ..⟩
  | _ => cases h

theorem queueResults : QueueResults := by
  intro s w i f q scal raises bank outs hr h hs hv j fl t may op put
  obtain ⟨n, split, body, hf, hsc, he, _, hb⟩ := exec_of_queueRule hr
  have hb := hb j (counted s w) (counted_cores s w) hv
  have hs : Whole w split := fun h => hs (hsc h)
  rw [he]
  by_cases hm : may = true
  · rw [if_pos hm]
    exact issueSplit_held hf h hs (hb.trans (if_pos hm))
  · rw [if_neg hm]
    exact issueSplit_done hf h hs (hb.trans (if_neg hm))

/-- Settles O4: the body of each of these instructions is the entry it takes, `act` with a valid bank among them. -/
theorem queueEntries : Obligations.QueueEntries := queueResults

end Sys2Proof.Claims
end

section
namespace Sys2Proof.Claims

set_option Elab.async false

open Sys2Proof Sys2Proof.Machine

/-! ### Reset (05 R137, 13 R348, R350, 14 R396, 15 R426, 16 R428, R451, 17 R471, R472, R475, 18 R486, R488, R492)

After reset every keyed part of the machine reads its reset value, which its type gives.
-/

theorem core_reset (k : Nat) : State.reset.core k = {} := rfl
theorem cluster_reset (k : Nat) : State.reset.cluster k = {} := rfl
theorem stack_reset (k : Nat) : State.reset.stack k = {} := rfl
theorem context_reset (k : Nat) : State.reset.context k = { asn := BitVec.ofNat 8 k } := rfl
theorem cqueue_reset (ctx q : Nat) : State.reset.cqueue ctx q = {} := rfl
theorem metaBits_reset (pa : Nat) : State.reset.metaBits pa = 0 := rfl

theorem resetValues : ResetValues := by
  refine ⟨rfl, rfl, rfl, rfl, rfl, rfl, rfl, rfl, rfl, rfl, rfl, rfl, rfl, fun k => ?_, fun cl => ?_, fun k => stack_reset k, fun x => ?_,
    metaBits_reset⟩
  · simp [core_reset]
  · simp [cluster_reset]
  · simp [context_reset, cqueue_reset]

theorem canonicalReset : CanonicalReset := ⟨rfl, rfl⟩

/-- Settles O58: the keyed parts read their reset values, and both memories are empty. -/
theorem resetState : Obligations.ResetState := ⟨resetValues, canonicalReset⟩

end Sys2Proof.Claims
end

section
namespace Sys2Proof.Claims

set_option Elab.async false

open Sys2Proof Sys2Proof.Machine

/-! ### The frame of the instructions that only write registers (05 R138, 17 R456)

What they are made of changes of a warp the registers of D and the machinery of issue alone; so does the common frame around it.
-/

/-- What of a thread, beside its registers, no instruction that only writes registers changes. -/
def threadRest (t : Thread) : W32 × W64 × TState × Waiting := (t.fpctl, t.ustk, t.st, t.wait)

/-- What a warp has started. -/
def started (w : Warp) : List Load × List FifoEnt × List TileOp × List (Nat × BitVec 8 × Bool) × W32 × Nat × Nat × Nat × Nat :=
  (w.loads, w.fifo, w.tileOps, w.sb, w.ep, w.ld, w.st, w.cp, w.tm)

/-- The warp keeps all of the frame but the registers of a list, numbered as the hazard checks number them. -/
structure KeepsBut (rs : List Nat) (w y : Warp) : Prop where
  key : y.key = w.key
  vreg : ∀ l r, r ∉ rs → (y.thread l).vreg r = (w.thread l).vreg r
  sreg : ∀ r, 128 + r ∉ rs → y.sreg r = w.sreg r
  pred : ∀ l r, 192 + r ∉ rs → (y.thread l).pred r = (w.thread l).pred r
  rest : ∀ l, threadRest (y.thread l) = threadRest (w.thread l)
  started : started y = started w

section
variable {rs : List Nat} {w x y : Warp}

theorem KeepsBut.refl (rs : List Nat) (w : Warp) : KeepsBut rs w w :=
  ⟨rfl, fun _ _ _ => rfl, fun _ _ => rfl, fun _ _ _ => rfl, fun _ => rfl, rfl⟩

theorem KeepsBut.symm (h : KeepsBut rs w y) : KeepsBut rs y w :=
  ⟨h.key.symm, fun l r hr => (h.vreg l r hr).symm, fun r hr => (h.sreg r hr).symm, fun l r hr => (h.pred l r hr).symm,
    fun l => (h.rest l).symm, h.started.symm⟩

theorem KeepsBut.trans (h : KeepsBut rs w x) (hy : KeepsBut rs x y) : KeepsBut rs w y :=
  ⟨hy.key.trans h.key, fun l r hr => (hy.vreg l r hr).trans (h.vreg l r hr), fun r hr => (hy.sreg r hr).trans (h.sreg r hr),
    fun l r hr => (hy.pred l r hr).trans (h.pred l r hr), fun l => (hy.rest l).trans (h.rest l), hy.started.trans h.started⟩

/-- Registers and rest of a thread. -/
def threadFrame (t : Thread) : List W32 × BitVec 8 × W32 × W64 × TState × Waiting := (t.v, t.p, threadRest t)

/-- A warp that keeps its scalar registers, what it has started, and of each thread registers and rest. -/
theorem KeepsBut.of_threads (hk : y.key = w.key) (hs : y.s = w.s) (hw : Claims.started y = Claims.started w)
    (ht : ∀ l, threadFrame (y.thread l) = threadFrame (w.thread l)) : KeepsBut rs w y where
  key := hk
  vreg l r _ := congrArg (fun p => p.1.getD r 0) (ht l)
  sreg r _ := congrArg (·.getD r 0) hs
  pred l r _ := congrArg (fun p : List W32 × BitVec 8 × W32 × W64 × TState × Waiting => r == 7 || p.2.1.getLsbD r) (ht l)
  rest l := congrArg (·.2.2) (ht l)
  started := hw

theorem KeepsBut.of_sameButThreads (h : SameButThreads w y) (ht : ∀ l, threadFrame (y.thread l) = threadFrame (w.thread l)) :
    KeepsBut rs w y :=
  .of_threads (h.field (·.key)) (h.field (·.s)) (h.field Claims.started) ht

theorem KeepsBut.foldl {α : Type} {g : Warp → α → Warp} {l : List α} (hg : ∀ x, ∀ a ∈ l, KeepsBut rs x (g x a)) :
    KeepsBut rs w (l.foldl g w) :=
  List.foldlRecOn (motive := KeepsBut rs w) l g (.refl rs w) fun x hx a ha => hx.trans (hg x a ha)

/-! #### What the frame of issue does to a warp -/

variable (rs w)

theorem keepsBut_countIssue (b : List Nat) : KeepsBut rs w (w.countIssue b) :=
  .of_threads rfl rfl rfl fun l => countIssue_keeps threadFrame w b l

theorem keepsBut_advance (pcs : List (Nat × W64)) : KeepsBut rs w (w.advance pcs) :=
  .of_sameButThreads (advance_sameButThreads w pcs) fun l => advance_keeps threadFrame w pcs l

theorem keepsBut_markRan (pcs : List (Nat × W64)) : KeepsBut rs w (w.markRan pcs) :=
  .of_sameButThreads (markRan_sameButThreads w pcs) fun l => markRan_keeps threadFrame w pcs l fun _ _ _ => rfl

theorem keepsBut_setThread (l : Nat) {g : Thread → Thread} (h : ∀ t, threadFrame (g t) = threadFrame t) : KeepsBut rs w (w.setThread l g) :=
  .of_threads rfl rfl rfl fun _ => setThread_keeps threadFrame h

theorem keepsBut_setLanes (ls : List Nat) {g : Nat → Thread → Thread} (h : ∀ l t, threadFrame (g l t) = threadFrame t) :
    KeepsBut rs w (w.setLanes ls g) :=
  .foldl fun x l _ => keepsBut_setThread rs x l (h l)

/-! #### What results do to a warp -/

theorem keepsBut_raiseFlags (fl : List (Nat × Flags)) : KeepsBut rs w (w.raiseFlags fl) :=
  .foldl fun x p _ => keepsBut_setThread rs x p.1 fun _ => rfl

theorem keepsBut_stepRngs (outs : List LaneOut) : KeepsBut rs w (w.stepRngs outs) := by
  refine .foldl fun x o _ => ?_
  split
  · exact .refl rs x
  · exact keepsBut_setThread rs x _ fun _ => rfl

end

theorem getD_listAt_ne {α : Type} (l : List α) {i n : Nat} (g : α → α) (d : α) (h : n ≠ i) : (listAt l i g).getD n d = l.getD n d := by
  rcases Nat.lt_or_ge i l.length with hi | hi
  · rw [getD_listAt l i n g d hi, if_neg h]
  · rw [listAt_of_le g hi]

theorem getLsbD_putBit_ne (p : BitVec 8) (b : Bool) {k n : Nat} (h : n ≠ k) :
    (if b then p ||| BitVec.ofNat 8 (2 ^ k) else p &&& ~~~BitVec.ofNat 8 (2 ^ k)).getLsbD n = p.getLsbD n := by
  have hz : (BitVec.ofNat 8 (2 ^ k)).getLsbD n = false := by
    rw [BitVec.getLsbD_ofNat, Nat.testBit_two_pow_of_ne h.symm, Bool.and_false]
  have hlt : p.getLsbD n = true → n < 8 := BitVec.lt_of_getLsbD
  generalize BitVec.ofNat 8 (2 ^ k) = m at hz ⊢
  cases b
  · simpa [hz] using hlt
  · simp [hz]

section
variable {rs : List Nat} (w : Warp)

/-- A register write changes the register it names alone. -/
theorem keepsBut_put {r : RegWrite} (h : refNum r.ref ∈ rs) : KeepsBut rs w (w.put r) := by
  obtain ⟨ref, val⟩ := r
  cases ref with
  | v l k =>
    refine ⟨rfl, fun m n hn => ?_, fun _ _ => rfl, fun m n _ => ?_, fun m => ?_, rfl⟩
    · have hk : n ≠ k := fun e => hn (e ▸ h)
      exact setThread_keeps (·.vreg n) fun t => getD_listAt_ne t.v _ 0 hk
    · exact setThread_keeps (·.pred n) fun _ => rfl
    · exact setThread_keeps threadRest fun _ => rfl
  | s k =>
    refine ⟨rfl, fun _ _ _ => rfl, fun n hn => ?_, fun _ _ _ => rfl, fun _ => rfl, rfl⟩
    have hk : n ≠ k := fun e => hn (e ▸ h)
    exact getD_listAt_ne w.s _ 0 hk
  | p l k =>
    unfold Warp.put
    dsimp only
    split
    · exact .refl rs w
    · refine ⟨rfl, fun m n _ => ?_, fun _ _ => rfl, fun m n hn => ?_, fun m => ?_, rfl⟩
      · exact setThread_keeps (·.vreg n) fun _ => rfl
      · have hk : n ≠ k := fun e => hn (e ▸ h)
        exact setThread_keeps (·.pred n) fun t => congrArg (n == 7 || ·) (getLsbD_putBit_ne t.p _ hk)
      · exact setThread_keeps threadRest fun _ => rfl

theorem keepsBut_putAll {ws : List RegWrite} (h : ∀ r ∈ ws, refNum r.ref ∈ rs) : KeepsBut rs w (w.putAll ws) :=
  have hp : KeepsBut rs w (ws.foldl Warp.put w) := .foldl fun x r hr => keepsBut_put x (h r hr)
  hp.trans (.of_threads rfl rfl rfl fun _ => rfl)

end

/-! #### The state around the warp -/

/-- All of a state but its records stays, every warp but this one, and of this one all but the registers of a list. -/
def FrameBut (rs : List Nat) (s t : State) (w : Warp) : Prop :=
  t = { s with warps := t.warps, recs := t.recs, recCt := t.recCt } ∧ (∀ k, k ≠ w.key → t.warp? k = s.warp? k) ∧
  ∃ y, t.warp? w.key = some y ∧ KeepsBut rs w y

theorem warp?_setWarp_ne (s : State) {v : Warp} {k : Nat} (h : k ≠ v.key) : (s.setWarp v).warp? k = s.warp? k := by
  unfold State.warp? State.setWarp
  dsimp only
  induction s.warps with
  | nil => rfl
  | cons x r ih =>
    rw [List.map_cons, List.find?_cons, List.find?_cons, ih]
    by_cases hx : x.key = v.key
    · simp [hx, beq_false_of_ne h.symm]
    · simp [hx]

section
variable {rs : List Nat} {s t u : State} {w y : Warp}

theorem FrameBut.refl (h : s.warp? w.key = some w) : FrameBut rs s s w := ⟨rfl, fun _ _ => rfl, w, h, .refl rs w⟩

theorem FrameBut.trans (h : FrameBut rs s t w)
    (hu : ∀ y, t.warp? w.key = some y → KeepsBut rs w y → FrameBut rs t u y) : FrameBut rs s u w := by
  obtain ⟨ht, hn, y, hy, hk⟩ := h
  obtain ⟨hut, hun, z, hz, hzk⟩ := hu y hy hk
  rw [hk.key] at hun hz
  refine ⟨?_, fun k hne => (hun k hne).trans (hn k hne), z, hz, hk.trans hzk⟩
  rw [ht] at hut
  exact hut

theorem FrameBut.ite {c : Prop} [Decidable c] (ht : c → FrameBut rs s t w) (hu : ¬ c → FrameBut rs s u w) :
    FrameBut rs s (if c then t else u) w :=
  iteInduction (motive := fun v => FrameBut rs s v w) ht hu

theorem FrameBut.setWarp (h : s.warp? w.key = some w) (hy : KeepsBut rs w y) : FrameBut rs s (s.setWarp y) w := by
  refine ⟨rfl, fun k hk => warp?_setWarp_ne s (hy.key ▸ hk), y, ?_, hy⟩
  rw [← hy.key] at h ⊢
  exact State.warp?_setWarp h

theorem FrameBut.withWarp {k : Nat} {g : Warp → Warp} (h : s.warp? k = some w) (hg : KeepsBut rs w (g w)) :
    FrameBut rs s (s.withWarp k g) w := by
  rw [State.withWarp_eq g h]
  exact .setWarp (warp?_self h) hg

theorem FrameBut.leave {k : Nat} (h : s.warp? k = some w) (pfx : Option Pfx) (pcs : List (Nat × W64)) :
    FrameBut rs s (s.leave k pfx pcs) w := by
  unfold State.leave
  split
  · exact .refl (warp?_self h)
  · exact .withWarp h ((keepsBut_markRan rs w pcs).trans (.of_threads rfl rfl rfl fun _ => rfl))

/-- A trap that no pages to gather and no entry of an error log come with: of the state it changes a record and its warp alone. -/
def PlainTrap (t : Trap) : Prop := t.pages = none ∧ t.log = none

/-- A fault leaves registers as they are (R456). -/
theorem FrameBut.takeTrap {i : Iss} {x : Trap} (h : s.warp? w.key = some w) (hi : KeepsBut rs w i.w) (hx : PlainTrap x) :
    FrameBut rs s (takeTrap s i x) w := by
  obtain ⟨hp, hl⟩ := hx
  have hw {ls : List Nat} {st : List Nat} : KeepsBut rs w
      { (i.w.setLanes ls fun _ t => { t with pc := i.pcCur }) with pfx := none, hold := .free, stopped := st } :=
    hi.trans ((keepsBut_setLanes rs i.w ls (g := fun _ t => { t with pc := i.pcCur }) fun _ _ => rfl).trans
      (.of_threads rfl rfl rfl fun _ => rfl))
  unfold Machine.takeTrap
  simp only [hp, hl]
  refine FrameBut.trans (t := s.raise ..) ⟨rfl, fun _ _ => rfl, w, h, .refl rs w⟩ fun y hy hk => .setWarp (warp?_self hy) (hk.symm.trans hw)

/-! #### The frame of an instruction -/

/-- The effect of an instruction's body on the warp that has counted its issue. -/
def EffFrame (rs : List Nat) (x : Warp) (u : State) : Eff → Prop
  | .done t | .hold t => FrameBut rs u t x
  | .jump .. => False
  | .trap t => PlainTrap t

/-- The bundles of an issue keep what the body keeps in each that has lanes to execute in. -/
theorem FrameBut.runBundles {P : Prop} {key : Nat} {pfx : Option Pfx} {g : BitVec 4} {stall : State → Warp → Bool}
    {body : Iss → State → Eff} {blank : Blank} (he : ∀ j u x, u.warp? j.w.key = some x → FrameBut rs u (blank.eff j u) x)
    (hb : P → ∀ j u, u.warp? j.w.key = some (j.w.countIssue j.all) → EffFrame rs (j.w.countIssue j.all) u (body j u))
    (bs : List (List Nat)) (pcs : List (Nat × W64)) (hw : s.warp? key = some w)
    (hP : ∀ x, KeepsBut rs w x → ∀ b ∈ bs, guarded x g b ≠ [] → P) :
    FrameBut rs s (runBundles key pfx g stall body blank bs s pcs) w := by
  induction bs generalizing s w pcs with
  | nil => exact .withWarp hw (keepsBut_advance rs w pcs)
  | cons b r ih =>
    have hk := State.warp?_key hw
    have hc := keepsBut_countIssue rs w b
    have h1 : FrameBut rs s (s.withWarp key fun w => w.countIssue b) w := .withWarp hw hc
    have hxk : (s.withWarp key fun w => w.countIssue b).warp? w.key = some (w.countIssue b) := hk.symm ▸ State.warp?_withWarp hw hk
    have next {t : State} (ht : FrameBut rs s t w) (pcs) : FrameBut rs s (Machine.runBundles key pfx g stall body blank r t pcs) w :=
      ht.trans fun y hy hwy => ih pcs (hk ▸ hy) fun x hyx c hc => hP x (hwy.trans hyx) c (List.mem_cons_of_mem _ hc)
    have after {t : State} (ht : FrameBut rs (s.withWarp key fun w => w.countIssue b) t (w.countIssue b)) : FrameBut rs s t w := by
      refine h1.trans fun y hy _ => ?_
      rw [hxk] at hy
      cases hy
      exact ht
    unfold Machine.runBundles
    simp only [hw]
    refine .ite (fun _ => .leave hw ..) fun _ => .ite (fun _ => next (after (he { issOf w g b with pfx := pfx } _ _ hxk)) _) fun hne => ?_
    have hg : guarded w g b ≠ [] := fun e => hne (by rw [show ({ issOf w g b with pfx := pfx } : Iss).lanes = _ from e]; rfl)
    have hbody := hb (hP w (.refl rs w) b (List.mem_cons_self ..) hg) { issOf w g b with pfx := pfx } _ hxk
    split
    next e =>
      rw [e] at hbody
      exact next (after hbody) _
    next e =>
      rw [e] at hbody
      exact hbody.elim
    next e =>
      rw [e] at hbody
      refine .takeTrap (warp?_self hw) ?_ hbody
      split
      · exact .refl rs w
      · exact keepsBut_markRan rs w pcs
    next e =>
      rw [e] at hbody
      exact (after hbody).trans fun y hy hwy => .leave (hk ▸ hy) ..
end

/-- The instruction's decode checks pass for some register file. -/
def Checked (i : Instr) (f : Fields) : Prop := ∃ e vregs sregs, entryOf i = some e ∧ checkFields e f vregs sregs = none

/-- What an instruction whose D is checked, or names a predicate, may do. -/
def MayWrite (i : Instr) (f : Fields) : Prop := Checked i f ∨ ∃ r, 192 + r ∈ destRegs i f

/-- An instruction of the common frame whose effects keep all but the registers that its D names. -/
def WritesOnlyD (i : Instr) (f : Fields) (s : State) : Prop :=
  ∃ op split blank body, fieldsOf i = some (op, f) ∧ exec i s = issueSplit i s split blank body ∧
    (∀ j u x, u.warp? j.w.key = some x → FrameBut (destRegs i f) u (blank.eff j u) x) ∧
    (MayWrite i f → ∀ j u, u.warp? j.w.key = some (j.w.countIssue j.all) →
      EffFrame (destRegs i f) (j.w.countIssue j.all) u (body j u))

/-- An instruction that does nothing under an all-false guard, and whose body keeps the frame whatever its D. -/
theorem WritesOnlyD.of_body {i : Instr} {op : Nat} {f : Fields} {s : State} {split : Bool} {body : Iss → State → Eff}
    (hf : fieldsOf i = some (op, f)) (he : exec i s = issueSplit i s split {} body)
    (hb : ∀ j u, u.warp? j.w.key = some (j.w.countIssue j.all) → EffFrame (destRegs i f) (j.w.countIssue j.all) u (body j u)) :
    WritesOnlyD i f s :=
  ⟨op, split, {}, body, hf, he, fun _ _ _ hx => .refl (warp?_self hx), fun _ => hb⟩

theorem guarded_of_keepsBut {rs : List Nat} {w x : Warp} (h : KeepsBut rs w x) (hp : ∀ r, 192 + r ∉ rs) (g : BitVec 4) (ls : List Nat) :
    guarded x g ls = guarded w g ls :=
  List.filter_congr fun l _ => congrArg (· != g.getLsbD 3) (h.pred l _ (hp _))

theorem subset_of_mem_subBundles {w : Warp} {split : Bool} {ls b : List Nat} (h : b ∈ subBundles w split ls) : b ⊆ ls := by
  unfold subBundles at h
  split at h
  · obtain ⟨hb, _⟩ := List.mem_filter.mp h
    obtain ⟨n, _, rfl⟩ := List.mem_map.mp hb
    exact List.filter_sublist.subset
  · rw [List.mem_singleton.mp h]
    exact List.Subset.refl ls

theorem guarded_eq_nil_of_subset {w : Warp} {g : BitVec 4} {ls b : List Nat} (h : b ⊆ ls) (hg : guarded w g ls = []) : guarded w g b = [] := by
  simp only [guarded, List.filter_eq_nil_iff] at hg ⊢
  exact fun l hl => hg l (h hl)

/-- Whether it goes on, waits or traps, such an instruction keeps the frame. -/
theorem WritesOnlyD.frame {i : Instr} {f : Fields} {s t : State} {w : Warp} (h : WritesOnlyD i f s) (hw : s.warp? s.cur = some w)
    (ht : exec i s = .next t) : FrameBut (destRegs i f) s t w := by
  obtain ⟨op, split, blank, body, hf, hx, hblank, hbody⟩ := h
  rw [hx] at ht
  unfold issueSplit at ht
  simp only [hw, hf] at ht
  cases he : entryOf i with
  | none => simp only [he, reduceCtorEq] at ht
  | some e =>
    simp only [he] at ht
    generalize (if w.splits split then w.unran else w.bundle) = ls at ht
    split at ht
    · cases ht
    split at ht
    · cases ht
      exact .takeTrap (warp?_self hw) (.refl _ w) ⟨rfl, rfl⟩
    next hc =>
    cases ht
    refine .runBundles hblank hbody _ _ (warp?_self hw) fun x hwx b hb hg => ?_
    by_contra hn
    obtain ⟨hnc, hnp⟩ := not_or.mp hn
    rw [guarded_of_keepsBut hwx fun r hr => hnp ⟨r, hr⟩] at hg
    split at hc
    next ha => exact hg (guarded_eq_nil_of_subset (subset_of_mem_subBundles hb) (List.isEmpty_iff.mp ha))
    next => exact hnc ⟨e, _, _, he, hc⟩

/-! #### What bodies are made of -/

section
variable {rs : List Nat} {u : State} {x : Warp}

theorem fpTrap_plain {w : Warp} {ls : List Nat} {scal : Bool} {fl : List (Nat × Flags)} {t : Trap} (h : fpTrap w ls scal fl = some t) :
    PlainTrap t := by
  unfold fpTrap at h
  split at h
  · cases h
  · cases h
    exact ⟨rfl, rfl⟩

theorem EffFrame.ite {c : Prop} [Decidable c] {a b : Eff} (ha : EffFrame rs x u a) (hb : EffFrame rs x u b) :
    EffFrame rs x u (if c then a else b) :=
  iteInduction (fun _ => ha) fun _ => hb

theorem commit_frame {j : Iss} {scal : Bool} {outs : List LaneOut} (hx : u.warp? j.w.key = some x)
    (h : ∀ o ∈ outs, ∀ r ∈ o.writes, refNum r.ref ∈ rs) : EffFrame rs x u (commit j u scal outs) := by
  have hr : ∀ r ∈ outs.flatMap (·.writes), refNum r.ref ∈ rs := by simpa [List.mem_flatMap] using fun r o ho => h o ho r
  unfold commit
  dsimp only
  split
  next ht => exact fpTrap_plain ht
  next => exact FrameBut.withWarp hx (((keepsBut_putAll x hr).trans (keepsBut_raiseFlags ..)).trans (keepsBut_stepRngs ..))

theorem writeEff_frame {j : Iss} {ws : List RegWrite} (hx : u.warp? j.w.key = some x) (h : ∀ r ∈ ws, refNum r.ref ∈ rs) :
    EffFrame rs x u (writeEff j u ws) :=
  FrameBut.withWarp hx (keepsBut_putAll x h)

/-- An entry of a queue is no register yet (R109). -/
theorem enqueue_frame {j : Iss} (hx : u.warp? j.w.key = some x) (q : Nat) (scal : Bool) (raises : Flags) (bank : Option Nat)
    (outs : List LaneOut) : EffFrame rs x u (enqueue j u q scal raises bank outs) := by
  have hq (op : QueueOp) (b : Bool) : KeepsBut rs x
      (if b then { x with queue := x.queue ++ [op] } else { x with queue := x.queue ++ [op] }.stepRngs outs) := by
    have h0 : KeepsBut rs x { x with queue := x.queue ++ [op] } := .of_threads rfl rfl rfl fun _ => rfl
    split
    · exact h0
    · exact h0.trans (keepsBut_stepRngs ..)
  unfold enqueue enqueueWith
  dsimp only
  split
  · exact FrameBut.withWarp hx ((hq _ _).trans (.of_threads rfl rfl rfl fun _ => rfl))
  · exact FrameBut.withWarp hx (hq _ _)

/-- A warp that waits has not issued. -/
theorem hold_frame {j : Iss} (hx : u.warp? j.w.key = some (j.w.countIssue j.all)) : EffFrame rs (j.w.countIssue j.all) u (.hold (j.back u)) :=
  FrameBut.setWarp (w := j.w.countIssue j.all) hx (keepsBut_countIssue rs j.w j.all).symm

end

/-! #### Writes of a destination field -/

/-- The registers of a field that D's entry lets an instruction write hold a result so wide. -/
def Fits (i : Instr) (f : Fields) (wide : Bool) : Prop :=
  ∃ e, entryOf i = some e ∧ 1 ≤ e.d.n ∧ (wide = true → isVec f.d = true → 2 ≤ e.d.n)

theorem destRegs_eq {i : Instr} {op : Nat} {f : Fields} {e : Entry} (hf : fieldsOf i = some (op, f)) (he : entryOf i = some e) :
    destRegs i f = regsAt f.d (max (if e.d.n = 4 && isScal f.d then 2 else if isScal f.d then 1 else e.d.n) e.d.span) := by
  unfold destRegs usesOf
  split
  · cases hf
  · simp only [he, hf]
    rfl

theorem mem_regsAt {x : BitVec 8} {n r : Nat} (hx : x.toNat < 0xC8) (h1 : x.toNat ≤ r) (h2 : r < x.toNat + n) : r ∈ regsAt x n := by
  rw [regsAt, if_pos hx, List.mem_map]
  exact ⟨r - x.toNat, List.mem_range.mpr (by omega), by omega⟩

/-- The registers written for a value are those that the field names: two of a vector field where the value is wide (R32, R138). -/
theorem mem_destWrites {d : BitVec 8} {wide : Bool} {l v : Nat} {r : RegWrite} (h : r ∈ destWrites d wide l v) :
    d.toNat < 0xC8 ∧ d.toNat ≤ refNum r.ref ∧ refNum r.ref < d.toNat + (if wide && isVec d then 2 else 1) := by
  unfold destWrites at h
  dsimp only at h
  split at h
  next hv =>
    have hd : d.toNat < 0x80 := by simpa [isVec] using hv
    rw [List.mem_cons] at h
    rcases h with rfl | h
    · simp only [refNum]
      split <;> omega
    · cases wide with
      | true =>
        rw [List.mem_singleton.mp h]
        simp only [refNum, hv, Bool.and_self, if_true]
        omega
      | false => cases h
  next hv =>
  split at h
  next hs =>
    have hd : 0x80 ≤ d.toNat ∧ d.toNat < 0xC0 := by simpa [isScal] using hs
    rw [List.mem_singleton.mp h]
    simp only [refNum, hv, Bool.and_false, Bool.false_eq_true, if_false]
    omega
  split at h
  next hp =>
    have hd : 0xC0 ≤ d.toNat ∧ d.toNat < 0xC8 := by simpa [isPred] using hp
    rw [List.mem_singleton.mp h]
    simp only [refNum, hv, Bool.and_false, Bool.false_eq_true, if_false]
    omega
  · cases h

theorem isScal_of_isVec {x : BitVec 8} (h : isVec x = true) : isScal x = false := by
  simp only [isVec, decide_eq_true_eq] at h
  simp [isScal, h]

theorem Fits.mem_destRegs {i : Instr} {op : Nat} {f : Fields} {wide : Bool} (hf : fieldsOf i = some (op, f)) (h : Fits i f wide)
    {l v : Nat} {r : RegWrite} (hr : r ∈ destWrites f.d wide l v) : refNum r.ref ∈ destRegs i f := by
  obtain ⟨e, he, h1, h2⟩ := h
  obtain ⟨hd, hlo, hhi⟩ := mem_destWrites hr
  rw [destRegs_eq hf he]
  refine mem_regsAt hd hlo (hhi.trans_le (Nat.add_le_add_left (le_max_of_le_left ?_) _))
  cases hv : isVec f.d with
  | true =>
    rw [isScal_of_isVec hv]
    cases wide with
    | true => simpa using h2 rfl hv
    | false => simpa using h1
  | false =>
    cases isScal f.d with
    | true =>
      simp only [Bool.and_false, Bool.and_true, Bool.false_eq_true, if_false, if_true]
      split <;> decide
    | false => simpa using h1

theorem regsOf_pos (t : Nat) : 1 ≤ regsOf t := by
  unfold regsOf
  split <;> decide

theorem two_le_regsOf {t : Nat} (h : w64 t = true) : 2 ≤ regsOf t := by
  rw [regsOf, if_pos h]

theorem fits_regsOf {i : Instr} {f : Fields} {e : Entry} (he : entryOf i = some e) (hn : e.d.n = regsOf f.ty) : Fits i f (w64 f.ty) :=
  ⟨e, he, hn ▸ regsOf_pos _, fun hw _ => hn ▸ two_le_regsOf hw⟩

theorem fits_narrow {i : Instr} {f : Fields} {e : Entry} (he : entryOf i = some e) (hn : 1 ≤ e.d.n) : Fits i f false :=
  ⟨e, he, hn, nofun⟩

theorem fits_two {i : Instr} {f : Fields} {e : Entry} (he : entryOf i = some e) (hn : 2 ≤ e.d.n) (wide : Bool) : Fits i f wide :=
  ⟨e, he, one_le_two.trans hn, fun _ _ => hn⟩

/-! #### The instructions -/

/-- Lanes' results that are values in a destination field. -/
def ValuesIn (d : BitVec 8) (wide : Bool) (outs : List LaneOut) : Prop := ∀ o ∈ outs, ∃ l v, o.writes = destWrites d wide l v

theorem valuesIn_map {d : BitVec 8} {wide : Bool} {ls : List Nat} {g : Nat → LaneOut}
    (h : ∀ l, ∃ m v, (g l).writes = destWrites d wide m v) : ValuesIn d wide (ls.map g) := by
  intro o ho
  obtain ⟨l, _, rfl⟩ := List.mem_map.mp ho
  exact h l

theorem commit_values_frame {i : Instr} {op : Nat} {f : Fields} {wide scal : Bool} {outs : List LaneOut} {j : Iss} {u : State} {x : Warp}
    (hf : fieldsOf i = some (op, f)) (hn : Fits i f wide) (ho : ValuesIn f.d wide outs) (hx : u.warp? j.w.key = some x) :
    EffFrame (destRegs i f) x u (commit j u scal outs) := by
  refine commit_frame hx fun o h r hr => ?_
  obtain ⟨l, v, hw⟩ := ho o h
  rw [hw] at hr
  exact hn.mem_destRegs hf hr

/-- An instruction that commits values into D, and does nothing under an all-false guard. -/
theorem writesOnlyD_of_commit {i : Instr} {op : Nat} {f : Fields} {s : State} {split wide scal : Bool} {outs : Iss → List LaneOut}
    (hf : fieldsOf i = some (op, f)) (he : exec i s = issueSplit i s split {} fun j u => commit j u scal (outs j))
    (hn : Fits i f wide) (ho : ∀ j, ValuesIn f.d wide (outs j)) : WritesOnlyD i f s :=
  .of_body hf he fun j _ hx => commit_values_frame hf hn (ho j) hx

theorem valueRule_fits {i : Instr} {f : Fields} {wide : Bool} {v : Iss → Nat → Nat} (h : valueRule i = some (f, wide, v)) :
    Fits i f wide := by
  cases i with
  | cmp | popc | clz | plog | pmovGet =>
    cases h
    exact fits_narrow rfl (le_refl 1)
  | perm =>
    cases h
    exact fits_narrow rfl (regsOf_pos _)
  | add | sub | mul | mulhi | mad | min | max | abs | and | or | xor | andn | shl | shr | sar | rot | clamp | addsh | mov | sel | movi |
    brev | bfe | bfi =>
    cases h
    exact fits_regsOf rfl rfl
  | _ => cases h

theorem writesOnlyD_of_valueRule {i : Instr} {f : Fields} {wide : Bool} {v : Iss → Nat → Nat} (h : valueRule i = some (f, wide, v))
    (s : State) : WritesOnlyD i f s := by
  obtain ⟨op, hf, he⟩ := exec_of_valueRule h s
  exact writesOnlyD_of_commit hf he (valueRule_fits h) fun j => valuesIn_map fun l => ⟨_, _, rfl⟩

theorem floatRule_fits {i : Instr} {f : Fields} {scal : Bool} {outs : Iss → List LaneOut} (h : floatRule i = some (f, scal, outs)) :
    ∃ wide, Fits i f wide ∧ ∀ j, ValuesIn f.d wide (outs j) := by
  cases i with
  | rng =>
    cases h
    refine ⟨_, ⟨_, rfl, regsOf_pos _, fun hw _ => two_le_regsOf ?_⟩, fun j => valuesIn_map fun l => ⟨_, _, rfl⟩⟩
    rw [w64, hw, Bool.or_true]
  | fcmp | fadd | fsub | fmul | fma | fscl | fmin | fmax | famax | frnd | fclass | fsgn | fdot4 =>
    cases h
    exact ⟨false, fits_narrow rfl (le_refl 1), fun j => valuesIn_map fun l => ⟨_, _, rfl⟩⟩
  | _ => cases h

theorem writesOnlyD_of_floatRule {i : Instr} {f : Fields} {scal : Bool} {outs : Iss → List LaneOut} (h : floatRule i = some (f, scal, outs))
    (s : State) : WritesOnlyD i f s := by
  obtain ⟨op, split, hf, _, he⟩ := exec_of_floatRule h s
  obtain ⟨wide, hn, ho⟩ := floatRule_fits h
  exact writesOnlyD_of_commit hf he hn ho

/-! #### Cross-lane instructions (06 R168, R173 to R178) -/

theorem shflSource_eq (ls : List Nat) (l : Nat) (o : Option Nat) :
    (match o with
      | some t => if ls.contains t then t else l
      | none => l) = (o.filter ls.contains).getD l := by
  cases o with
  | none => rfl
  | some t =>
    rw [Option.filter_some]
    dsimp only
    split <;> rfl

theorem exec_shfl (f : Fields) (s : State) : ∃ outs, laneRule (.shfl f) = some (f, false, outs) ∧
    exec (.shfl f) s = issueLane (.shfl f) f s false 0 fun j u => commit j u false (outs j) := by
  refine ⟨_, rfl, ?_⟩
  simp only [← shflSource_eq]
  rfl

/-- A cross-lane instruction commits the lanes' results that the rules give it, in each bundle that has lanes to execute in. -/
theorem exec_of_laneRule {i : Instr} {f : Fields} {scal : Bool} {outs : Iss → List LaneOut} (h : laneRule i = some (f, scal, outs))
    (s : State) : ∃ op wide v, fieldsOf i = some (op, f) ∧ exec i s = issueLane i f s wide v fun j u => commit j u scal (outs j) := by
  cases i with
  | shfl f =>
    obtain ⟨os, hr, he⟩ := exec_shfl f s
    cases h.symm.trans hr
    exact ⟨_, _, _, rfl, he⟩
  | vote | ballot | wred | scan | matchl | elect | rdlane | wrlane =>
    cases h
    exact ⟨_, _, _, rfl, rfl⟩
  | _ => cases h

theorem valuesIn_oneResult {j : Iss} {d : BitVec 8} {wide : Bool} {v : Nat} {fl : Flags} : ValuesIn d wide (oneResult j d wide v fl) :=
  valuesIn_map fun _ => ⟨_, _, rfl⟩

theorem valuesIn_ite {d : BitVec 8} {wide : Bool} {c : Prop} [Decidable c] {xs ys : List LaneOut} (hx : c → ValuesIn d wide xs)
    (hy : ¬ c → ValuesIn d wide ys) : ValuesIn d wide (if c then xs else ys) :=
  iteInduction hx hy

theorem isVec_of_isScal {x : BitVec 8} (h : isScal x = true) : isVec x = false := by
  cases hv : isVec x with
  | false => rfl
  | true => rw [isScal_of_isVec hv] at h; cases h

/-- Where an instruction's decode checks pass, its D is legal (R33, R44). -/
theorem dest_ok_of_checkFields {e : Entry} {f : Fields} {vregs sregs : Nat} (h : checkFields e f vregs sregs = none) :
    e.d.ok vregs sregs f.d = true := by
  cases hd : e.d.ok vregs sregs f.d with
  | true => rfl
  | false =>
    simp only [checkFields, hd, Bool.not_false, Bool.true_or, if_true] at h
    split at h
    · cases h
    split at h
    · cases h
    split at h <;> cases h

/-- `rdlane` writes no vector register: its decode checks refuse one, and an unchecked D that names a predicate is none. -/
theorem rdlane_notVec {f : Fields} (h : MayWrite (.rdlane f) f) : isVec f.d = false := by
  cases hv : isVec f.d with
  | false => rfl
  | true =>
    have hd : f.d.toNat < 128 := by simpa [isVec] using hv
    rcases h with ⟨e, vregs, sregs, he, hc⟩ | ⟨r, hr⟩
    · cases he
      have ho : oScal.ok vregs sregs f.d = true := dest_ok_of_checkFields hc
      simp [Opnd.ok, oScal, hv] at ho
    · rw [destRegs_eq rfl rfl, regsAt, if_pos (by omega), isScal_of_isVec hv] at hr
      obtain ⟨k, hk, hr⟩ := List.mem_map.mp hr
      have hk : k < 1 := List.mem_range.mp hk
      omega

theorem laneRule_fits {i : Instr} {f : Fields} {scal : Bool} {outs : Iss → List LaneOut} (h : laneRule i = some (f, scal, outs)) :
    (∃ e, entryOf i = some e ∧ 1 ≤ e.d.n) ∧ (MayWrite i f → ∃ wide, Fits i f wide ∧ ∀ j, ValuesIn f.d wide (outs j)) := by
  cases i with
  | shfl =>
    cases h
    exact ⟨⟨_, rfl, le_refl 1⟩, fun _ => ⟨false, fits_narrow rfl (le_refl 1), fun j => valuesIn_map fun l => ⟨_, _, rfl⟩⟩⟩
  | vote =>
    cases h
    exact ⟨⟨_, rfl, le_refl 1⟩, fun _ => ⟨false, fits_narrow rfl (le_refl 1), fun j => valuesIn_oneResult⟩⟩
  | ballot =>
    cases h
    exact ⟨⟨_, rfl, one_le_two⟩, fun _ => ⟨true, fits_two rfl (le_refl 2) _, fun j => valuesIn_oneResult⟩⟩
  | matchl =>
    cases h
    exact ⟨⟨_, rfl, one_le_two⟩, fun _ => ⟨true, fits_two rfl (le_refl 2) _, fun j => valuesIn_map fun l => ⟨_, _, rfl⟩⟩⟩
  | wred =>
    cases h
    exact ⟨⟨_, rfl, regsOf_pos _⟩, fun _ => ⟨_, fits_regsOf rfl rfl, fun j => valuesIn_oneResult⟩⟩
  | scan =>
    cases h
    exact ⟨⟨_, rfl, regsOf_pos _⟩, fun _ => ⟨_, fits_regsOf rfl rfl, fun j => valuesIn_map fun l => ⟨_, _, rfl⟩⟩⟩
  | wrlane =>
    cases h
    refine ⟨⟨_, rfl, regsOf_pos _⟩, fun _ => ⟨_, fits_regsOf rfl rfl, fun j => valuesIn_ite (fun _ => ?_) fun _ => nofun⟩⟩
    rw [ValuesIn, List.forall_mem_singleton]
    exact ⟨_, _, rfl⟩
  | elect =>
    cases h
    refine ⟨⟨_, rfl, le_refl 1⟩, fun _ => ⟨isScal f.d, ⟨_, rfl, le_refl 1, fun hs hv => ?_⟩, fun j => ?_⟩⟩
    · rw [isScal_of_isVec hv] at hs
      cases hs
    · refine valuesIn_ite (fun hs => ?_) fun hs => ?_
      · rw [hs]
        exact valuesIn_oneResult
      · rw [Bool.not_eq_true] at hs
        rw [hs]
        exact valuesIn_map fun l => ⟨_, _, rfl⟩
  | rdlane =>
    cases h
    refine ⟨⟨_, rfl, le_refl 1⟩, fun hm => ⟨_, ⟨_, rfl, le_refl 1, fun _ hv => ?_⟩, fun j => valuesIn_oneResult⟩⟩
    rw [rdlane_notVec hm] at hv
    cases hv
  | _ => cases h

/-- The empty-set result goes to a scalar D (R168). -/
theorem laneBlank_frame {i : Instr} {op : Nat} {f : Fields} {e : Entry} (hf : fieldsOf i = some (op, f)) (he : entryOf i = some e)
    (hn : 1 ≤ e.d.n) (wide : Bool) (v : Nat) {c : Bool} {j : Iss} {u : State} {x : Warp} (hx : u.warp? j.w.key = some x) :
    FrameBut (destRegs i f) u (if isScal f.d && c then u.upd j fun w => w.putAll (destWrites f.d wide 0 v) else u) x := by
  split
  next h =>
    obtain ⟨hs, _⟩ := (Bool.and_eq_true ..).mp h
    have hfit : Fits i f wide := ⟨e, he, hn, fun _ hv => by rw [isVec_of_isScal hs] at hv; cases hv⟩
    exact .withWarp hx (keepsBut_putAll x fun r hr => hfit.mem_destRegs hf hr)
  next => exact .refl (warp?_self hx)

theorem writesOnlyD_of_laneRule {i : Instr} {f : Fields} {scal : Bool} {outs : Iss → List LaneOut} (h : laneRule i = some (f, scal, outs))
    (s : State) : WritesOnlyD i f s := by
  obtain ⟨op, wide, v, hf, hx⟩ := exec_of_laneRule h s
  obtain ⟨⟨e, he, hn⟩, hw⟩ := laneRule_fits h
  refine ⟨op, true, _, _, hf, hx, fun j u x hx => laneBlank_frame hf he hn wide v hx, fun hm j u hx => ?_⟩
  obtain ⟨wide, hfit, ho⟩ := hw hm
  exact commit_values_frame hf hfit (ho j) hx

/-! #### Instructions of the queues, and reads (05 R109, 03 R83, 07 R204, R205) -/

theorem writesOnlyD_of_queueRule {s : State} {i : Instr} {f : Fields} {q : Nat} {scal : Bool} {raises : Flags} {bank : Warp → Option Nat}
    {outs : Iss → List LaneOut} (h : queueRule s i = some (f, q, scal, raises, bank, outs)) : WritesOnlyD i f s := by
  obtain ⟨op, split, body, hf, _, he, hb, _⟩ := exec_of_queueRule h
  refine .of_body hf he fun j u hx => ?_
  rcases hb j u with h | ⟨b, os, h⟩
  · rw [h]
    exact ⟨rfl, rfl⟩
  · rw [h]
    exact enqueue_frame hx ..

theorem writeEff_values_frame {i : Instr} {op : Nat} {f : Fields} {wide : Bool} (hf : fieldsOf i = some (op, f)) (hn : Fits i f wide)
    (ls : List Nat) (v : Nat → Nat) {j : Iss} {u : State} {x : Warp} (hx : u.warp? j.w.key = some x) :
    EffFrame (destRegs i f) x u (writeEff j u (ls.flatMap fun l => destWrites f.d wide l (v l))) := by
  refine writeEff_frame hx fun r hr => ?_
  obtain ⟨l, _, hr⟩ := List.mem_flatMap.mp hr
  exact hn.mem_destRegs hf hr

theorem writesOnlyD_of_readRule {s : State} {i : Instr} {f : Fields} {wide : Bool} {v : Iss → Nat → Nat}
    (h : readRule s i = some (f, wide, v)) : WritesOnlyD i f s := by
  cases i with
  | rdsr f =>
    cases h
    have hn : Fits (.rdsr f) f (f.ty == 3) := ⟨_, rfl, regsOf_pos _, fun hw _ => two_le_regsOf (by rw [w64, hw, Bool.or_true])⟩
    exact .of_body rfl rfl fun j u hx => .ite (hold_frame hx) (writeEff_values_frame rfl hn _ _ hx)
  | mkptr f =>
    cases h
    exact .of_body rfl rfl fun j u hx => writeEff_values_frame rfl (fits_two rfl (le_refl 2) _) _ _ hx
  | ptrq f =>
    cases h
    exact .of_body rfl rfl fun j u hx => writeEff_values_frame rfl (fits_narrow rfl (le_refl 1)) _ _ hx
  | _ => cases h

/-! #### Instructions that write nothing (03 R80, R81) -/

theorem writesOnlyD_nop (f : Fields) (s : State) : WritesOnlyD (.nop f) f s :=
  .of_body rfl rfl fun j _ hx => FrameBut.refl (w := j.w.countIssue j.all) hx

theorem writesOnlyD_yield (f : Fields) (s : State) : WritesOnlyD (.yield f) f s :=
  .of_body rfl rfl fun _ _ hx => FrameBut.withWarp hx (.of_threads rfl rfl rfl fun _ => rfl)

theorem writesOnlyD_wait (f : Fields) (s : State) : WritesOnlyD (.wait f) f s :=
  .of_body rfl rfl fun j _ hx => .ite (FrameBut.refl (w := j.w.countIssue j.all) hx) (hold_frame hx)

/-- An instruction that only writes registers has its fields from the rule that gives its results. -/
theorem writesOnlyD_of_registerOnly {s : State} {i : Instr} {f : Fields} (h : registerOnly s i = some f) : WritesOnlyD i f s := by
  unfold registerOnly at h
  split at h
  · cases h
    exact writesOnlyD_nop f s
  · cases h
    exact writesOnlyD_yield f s
  · cases h
    exact writesOnlyD_wait f s
  simp only [Option.orElse_eq_or, Option.or_eq_some_iff, Option.map_eq_some_iff] at h
  rcases h with ⟨r, hr, rfl⟩ | ⟨-, ⟨r, hr, rfl⟩ | ⟨-, ⟨r, hr, rfl⟩ | ⟨-, ⟨r, hr, rfl⟩ | ⟨-, r, hr, rfl⟩⟩⟩⟩
  · exact writesOnlyD_of_valueRule hr s
  · exact writesOnlyD_of_floatRule hr s
  · exact writesOnlyD_of_laneRule hr s
  · exact writesOnlyD_of_queueRule hr
  · exact writesOnlyD_of_readRule hr

theorem registerFrames : RegisterFrames := by
  intro s t w i f hr hw ht
  obtain ⟨he, hn, y, hy, hk⟩ := (writesOnlyD_of_registerOnly hr).frame hw ht
  refine ⟨he, hn, y, hy, hk.vreg, hk.sreg, hk.pred, fun l => ?_, ?_⟩
  · simpa [threadRest] using hk.rest l
  · simpa [started] using hk.started

/-- Settles O6: each of these instructions has the common frame, and the bodies of its bundles write D's registers alone. -/
theorem registerOnlyFrames : Obligations.RegisterOnlyFrames := registerFrames

end Sys2Proof.Claims
end

section
namespace Sys2Proof.Claims

set_option Elab.async false

open Sys2Proof Sys2Proof.Machine

/-! ### The bundles of an issue that write results at once (06 R168, R173 to R179)

The bundles run one after another. What one of them does to the warp leaves all that the next one's issue reads of it but registers: so no
bundle stalls where the first does not, and each computes from the registers that those before it leave.
-/

/-- The warp keeps all that an issue reads of it but registers, flags, generators and its counts. -/
structure SameIssuer (w y : Warp) : Prop where
  key : y.key = w.key
  ctx : y.ctx = w.ctx
  region : y.region = w.region
  onL : y.onL = w.onL
  lw : y.lw = w.lw
  width : y.width = w.width
  pending : y.pendingRegs = w.pendingRegs
  pc : ∀ l, (y.thread l).pc = (w.thread l).pc

section
variable {w x y : Warp}

theorem SameIssuer.refl (w : Warp) : SameIssuer w w := ⟨rfl, rfl, rfl, rfl, rfl, rfl, rfl, fun _ => rfl⟩

theorem SameIssuer.trans (h : SameIssuer w x) (hy : SameIssuer x y) : SameIssuer w y :=
  ⟨hy.key.trans h.key, hy.ctx.trans h.ctx, hy.region.trans h.region, hy.onL.trans h.onL, hy.lw.trans h.lw, hy.width.trans h.width,
    hy.pending.trans h.pending, fun l => (hy.pc l).trans (h.pc l)⟩

theorem SameIssuer.foldl {α : Type} {g : Warp → α → Warp} (l : List α) (hg : ∀ x a, SameIssuer x (g x a)) : SameIssuer w (l.foldl g w) :=
  List.foldlRecOn (motive := SameIssuer w) l g (.refl w) fun x hx a _ => hx.trans (hg x a)

variable (w)

theorem sameIssuer_countIssue (b : List Nat) : SameIssuer w (w.countIssue b) :=
  ⟨rfl, rfl, rfl, rfl, rfl, rfl, rfl, fun l => countIssue_keeps (·.pc) w b l⟩

theorem sameIssuer_setThread (l : Nat) {g : Thread → Thread} (h : ∀ t, (g t).pc = t.pc) : SameIssuer w (w.setThread l g) :=
  ⟨rfl, rfl, rfl, rfl, rfl, rfl, rfl, fun _ => setThread_keeps (·.pc) h⟩

theorem sameIssuer_put (r : RegWrite) : SameIssuer w (w.put r) := by
  unfold Warp.put
  split
  · exact sameIssuer_setThread w _ fun _ => rfl
  · exact ⟨rfl, rfl, rfl, rfl, rfl, rfl, rfl, fun _ => rfl⟩
  · split
    · exact .refl w
    · exact sameIssuer_setThread w _ fun _ => rfl

theorem sameIssuer_putAll (rs : List RegWrite) : SameIssuer w (w.putAll rs) :=
  have h : SameIssuer w (rs.foldl Warp.put w) := .foldl rs sameIssuer_put
  h.trans ⟨rfl, rfl, rfl, rfl, rfl, rfl, rfl, fun _ => rfl⟩

theorem sameIssuer_raiseFlags (fl : List (Nat × Flags)) : SameIssuer w (w.raiseFlags fl) :=
  .foldl fl fun x p => sameIssuer_setThread x p.1 fun _ => rfl

theorem sameIssuer_stepRngs (outs : List LaneOut) : SameIssuer w (w.stepRngs outs) := by
  refine .foldl outs fun x o => ?_
  split
  · exact .refl x
  · exact sameIssuer_setThread x _ fun _ => rfl

end

section
variable {w : Warp} {f : Fields} {scal : Bool} {outs : Iss → List LaneOut} {blank : List RegWrite} {x : Warp} {b : List Nat}

/-- A bundle in which the guard is false in every lane writes the empty-set result (R168). -/
theorem groupStep_of_nil (h : (groupIss w x f b).lanes = []) : groupStep w f scal outs blank x b = (x.countIssue b).putAll blank := if_pos h

theorem groupStep_of_ne_nil (h : (groupIss w x f b).lanes ≠ []) :
    groupStep w f scal outs blank x b = (((x.countIssue b).putAll ((outs (groupIss w x f b)).flatMap (·.writes))).raiseFlags
      (flagsOf (groupIss w x f b).lanes scal (outs (groupIss w x f b)))).stepRngs (outs (groupIss w x f b)) := if_neg h

theorem sameIssuer_groupStep (w : Warp) (f : Fields) (scal : Bool) (outs : Iss → List LaneOut) (blank : List RegWrite) (x : Warp)
    (b : List Nat) : SameIssuer x (groupStep w f scal outs blank x b) := by
  have hc := sameIssuer_countIssue x b
  by_cases h : (groupIss w x f b).lanes = []
  · rw [groupStep_of_nil h]
    exact hc.trans (sameIssuer_putAll ..)
  · rw [groupStep_of_ne_nil h]
    exact ((hc.trans (sameIssuer_putAll ..)).trans (sameIssuer_raiseFlags ..)).trans (sameIssuer_stepRngs ..)

end

section
variable {s u : State} {w x : Warp} (hr : u.regions = s.regions) (h : SameIssuer w x)
include hr h

theorem vregsOf_of_sameIssuer : u.vregsOf x = s.vregsOf w := by
  simp only [State.vregsOf, State.regionOf?, hr, h.ctx, h.region, h.onL]

theorem sregsOf_of_sameIssuer : u.sregsOf x = s.sregsOf w := by
  simp only [State.sregsOf, State.regionOf?, hr, h.ctx, h.region]

/-- An instruction that takes no resource stalls at registers alone that wait for a result (R71, R76). -/
theorem stalled_of_sameIssuer {i : Instr} (ht : takesOf i = .none) : stalled u x i = stalled s w i := by
  simp only [stalled, touches, vregsOf_of_sameIssuer hr h, h.pending, ht, noRoom]

end

/-! #### The state with the warp changed -/

/-- The state reads this warp under its key, and is the first state but for the warp of that key. -/
structure Places (s u : State) (x : Warp) : Prop where
  warp : u.warp? x.key = some x
  set : ∀ v : Warp, v.key = x.key → u.setWarp v = s.setWarp v

section
variable {s u : State} {x : Warp}

theorem Places.refl (h : s.warp? x.key = some x) : Places s s x := ⟨h, fun _ _ => rfl⟩

theorem Places.regions (h : Places s u x) : u.regions = s.regions := congrArg (·.regions) (h.set x rfl)

theorem Places.withWarp (h : Places s u x) {k : Nat} (hk : k = x.key) {g : Warp → Warp} (hg : (g x).key = x.key) :
    Places s (u.withWarp k g) (g x) := by
  rw [hk, State.withWarp_eq g h.warp]
  refine ⟨State.warp?_setWarp (w := x) (hg ▸ h.warp), fun v hv => ?_⟩
  rw [setWarp_setWarp hv.symm, h.set v (hv.trans hg)]

end

/-! #### What such an instruction does under an all-false guard -/

/-- Under an all-false guard an instruction stalls at registers of its own only, and writes the empty-set result (R79, R168). -/
structure EmptySet (i : Instr) (f : Fields) (blank : Blank) : Prop where
  writes : ∀ s w, ∀ r ∈ blank.writes, r ∈ touches s w i
  eff : ∀ j u e, entryOf i = some e → checkFields e f (u.vregsOf j.w) (u.sregsOf j.w) = none →
    (blank.eff j u = u ∧ emptyResult i = []) ∨ blank.eff j u = u.upd j fun x => x.putAll (emptyResult i)

theorem emptySet_none {i : Instr} (f : Fields) (h : emptyResult i = []) : EmptySet i f {} :=
  ⟨fun _ _ => nofun, fun _ _ _ _ _ => .inl ⟨rfl, h⟩⟩

/-- An instruction that no hazard stalls does not stall under an all-false guard either. -/
theorem EmptySet.not_pending {i : Instr} {f : Fields} {blank : Blank} (h : EmptySet i f blank) {s : State} {w : Warp}
    (hs : stalled s w i = false) : (blank.writes.any w.pendingRegs.contains) = false := by
  have ht : ((touches s w i).any w.pendingRegs.contains) = false := (Bool.or_eq_false_iff.mp hs).1
  rw [List.any_eq_false] at ht ⊢
  exact fun r hr => ht r (h.writes s w r hr)

/-! #### The bundles one after another -/

/-- Where the lanes of a bundle go on (R22, R63). -/
abbrev groupNext (w : Warp) (b : List Nat) : List (Nat × W64) := b.map fun l => (l, nextPc (w.thread (b.headD 0)).pc)

section
variable {s u : State} {w x : Warp} {i : Instr} {f : Fields} {e : Entry} {scal : Bool} {outs : Iss → List LaneOut} {blank : Blank}
  {b : List Nat}

/-- The bundle's effect under an all-false guard. -/
theorem EmptySet.places (hb : EmptySet i f blank) (he : entryOf i = some e)
    (hc : checkFields e f (s.vregsOf w) (s.sregsOf w) = none) (hu : Places s u x) (hx : SameIssuer w x)
    (hl : (groupIss w x f b).lanes = []) :
    Places s (blank.eff (groupIss w x f b) (u.withWarp w.key fun v => v.countIssue b)) (groupStep w f scal outs (emptyResult i) x b) := by
  have h1 := hu.withWarp hx.key.symm (g := fun v => v.countIssue b) rfl
  rw [groupStep_of_nil hl]
  have hc1 : checkFields e f ((u.withWarp w.key fun v => v.countIssue b).vregsOf x)
      ((u.withWarp w.key fun v => v.countIssue b).sregsOf x) = none := by
    rw [vregsOf_of_sameIssuer h1.regions hx, sregsOf_of_sameIssuer h1.regions hx, hc]
  rcases hb.eff (groupIss w x f b) _ e he hc1 with ⟨hr, hn⟩ | hr
  · rw [hr, hn, putAll_nil]
    exact h1
  · rw [hr]
    exact h1.withWarp rfl (putAll_key ..)

/-- The bundle's results, of which no lane traps. -/
theorem commit_places (hu : Places s u x) (hx : SameIssuer w x) (hl : (groupIss w x f b).lanes ≠ [])
    (ht : fpTrap x (groupIss w x f b).lanes scal (flagsOf (groupIss w x f b).lanes scal (outs (groupIss w x f b))) = none) :
    ∃ t, commit (groupIss w x f b) (u.withWarp w.key fun v => v.countIssue b) scal (outs (groupIss w x f b)) = .done t ∧
      ∀ empty, Places s t (groupStep w f scal outs empty x b) := by
  have h1 := hu.withWarp hx.key.symm (g := fun v => v.countIssue b) rfl
  refine ⟨_, commit_some (groupIss w x f b) _ scal _ ht, fun empty => ?_⟩
  have hk := (sameIssuer_groupStep w f scal outs empty x b).key
  rw [groupStep_of_ne_nil hl] at hk ⊢
  exact h1.withWarp rfl hk

/-- The bundles of an issue of an instruction that writes results at once, where no bundle traps: each computes from the warp as those
before it leave it, and they go on together (R179). -/
theorem runBundles_commit (hst : stalled s w i = false) (htk : takesOf i = .none) (he : entryOf i = some e)
    (hc : checkFields e f (s.vregsOf w) (s.sregsOf w) = none) (hb : EmptySet i f blank) (bs : List (List Nat)) (pcs : List (Nat × W64))
    (hu : Places s u x) (hx : SameIssuer w x)
    (ht : ∀ pre b post, bs = pre ++ b :: post → let j := groupIss w (pre.foldl (groupStep w f scal outs (emptyResult i)) x) f b
      fpTrap j.w j.lanes scal (flagsOf j.lanes scal (outs j)) = none) :
    runBundles w.key w.pfx f.g (fun s w => stalled s w i) (fun j u => commit j u scal (outs j)) blank bs u pcs =
      s.setWarp ((bs.foldl (groupStep w f scal outs (emptyResult i)) x).advance (pcs ++ bs.flatMap (groupNext w))) := by
  have hxu : u.warp? w.key = some x := hx.key ▸ hu.warp
  induction bs generalizing u x pcs with
  | nil =>
    rw [List.flatMap_nil, List.append_nil]
    exact (State.withWarp_eq _ hxu).trans (hu.set _ (advance_key ..))
  | cons b r ih =>
    have hy := hx.trans (sameIssuer_groupStep w f scal outs (emptyResult i) x b)
    have next {t : State} (h : Places s t (groupStep w f scal outs (emptyResult i) x b)) :=
      ih (pcs ++ groupNext w b) h hy (fun pre c post hp => ht (b :: pre) c post (by rw [hp, List.cons_append])) (hy.key ▸ h.warp)
    have hnxt : (b.map fun l => (l, (issOf x f.g b).nxt)) = groupNext w b := by
      simp only [issOf, hx.pc]
    have hsx : stalled u x i = false := (stalled_of_sameIssuer hu.regions hx htk).trans hst
    have hj : ({ issOf x f.g b with pfx := w.pfx } : Iss) = groupIss w x f b := rfl
    unfold runBundles
    simp only [hxu, hj, hnxt, hb.not_pending hsx, hsx, ite_self, Bool.false_eq_true, if_false]
    rw [List.foldl_cons, List.flatMap_cons, ← List.append_assoc]
    by_cases hl : (issOf x f.g b).lanes = []
    · rw [if_pos (List.isEmpty_iff.mpr hl)]
      exact next (hb.places he hc hu hx hl)
    · obtain ⟨t, hd, hp⟩ := commit_places hu hx hl (ht [] b r rfl)
      rw [if_neg (hl ∘ List.isEmpty_iff.mp), hd]
      exact next (hp _)

/-- What such an instruction answers that nothing stops: its bundles in order, from those that have not executed it yet (R66, R179). -/
theorem issueSplit_commit {op : Nat} {split : Bool} (hf : fieldsOf i = some (op, f)) (h : Issues s w i f) (htk : takesOf i = .none)
    (hb : EmptySet i f blank)
    (ht : ∀ pre b post, groupsOf w split = pre ++ b :: post →
      let j := groupIss w (pre.foldl (groupStep w f scal outs (emptyResult i)) w) f b
      fpTrap j.w j.lanes scal (flagsOf j.lanes scal (outs j)) = none) :
    issueSplit i s split blank (fun j u => commit j u scal (outs j)) =
      .next (s.setWarp (((groupsOf w split).foldl (groupStep w f scal outs (emptyResult i)) w).advance
        (ranOf w split ++ (groupsOf w split).flatMap (groupNext w)))) := by
  obtain ⟨hw, hg, ⟨e, he, hc⟩, hst⟩ := h
  unfold issueSplit
  simp only [hw, hf, he, isEmpty_false (bundle_of_guarded hg), hc, ite_self, Bool.false_eq_true, if_false]
  exact congrArg _ (runBundles_commit hst htk he hc hb _ _ (.refl (warp?_self hw)) (.refl w) ht)

end

/-! #### The instructions that write results at once -/

theorem exec_value_split {i : Instr} {f : Fields} {wide : Bool} {v : Iss → Nat → Nat} (h : valueRule i = some (f, wide, v)) (s : State) :
    ∃ op, fieldsOf i = some (op, f) ∧ takesOf i = .none ∧ emptyResult i = [] ∧
      exec i s = issueSplit i s (allScalar f) {} fun j u => commit j u (allScalar f) (valueOuts j f.d wide (allScalar f) (v j)) := by
  obtain ⟨op, hf, he⟩ := exec_of_valueRule h s
  have hq : takesOf i = .none ∧ emptyResult i = [] := by
    cases i with
    | add | sub | mul | mulhi | mad | min | max | abs | and | or | xor | andn | shl | shr | sar | rot | clamp | addsh | mov | sel | movi | cmp |
      popc | clz | brev | bfe | bfi | perm | plog | pmovGet => exact ⟨rfl, rfl⟩
    | _ => cases h
  exact ⟨op, hf, hq.1, hq.2, he⟩

theorem isPred_of_oPred {vregs sregs : Nat} {x : BitVec 8} (h : oPred.ok vregs sregs x = true) : isPred x = true := by
  by_contra hn
  simp [Opnd.ok, oPred, hn] at h

theorem allScalar_of_isPred {f : Fields} (h : isPred f.d = true) : allScalar f = false := by
  simp [allScalar, h]

theorem exec_float_split {i : Instr} {f : Fields} {scal : Bool} {outs : Iss → List LaneOut} (h : floatRule i = some (f, scal, outs)) (s : State)
    (hc : Checked i f) : ∃ op, fieldsOf i = some (op, f) ∧ takesOf i = .none ∧ emptyResult i = [] ∧
      exec i s = issueSplit i s (allScalar f) {} fun j u => commit j u scal (outs j) := by
  cases i with
  | fcmp f =>
    cases h
    obtain ⟨e, v, r, he, hc⟩ := hc
    cases he
    rw [allScalar_of_isPred (isPred_of_oPred (dest_ok_of_checkFields hc))]
    exact ⟨_, rfl, rfl, rfl, rfl⟩
  | fadd | fsub | fmul | fma | fscl | fmin | fmax | famax | frnd | fclass | fsgn | fdot4 | rng =>
    cases h
    exact ⟨_, rfl, rfl, rfl, rfl⟩
  | _ => cases h

/-- A field that may hold no scalar register holds none where its check passes (R33). -/
theorem not_scal_of_ok {o : Opnd} {vregs sregs : Nat} {x : BitVec 8} (hs : o.s = false) (ha : o.any = false) (h : o.ok vregs sregs x = true) :
    isScal x = false := by
  by_contra hn
  have hv := isVec_of_isScal (eq_true_of_ne_false hn)
  simp [Opnd.ok, ha, hv, hn, hs] at h

theorem destWrites_zero_of_isScal {x : BitVec 8} (h : isScal x = true) (wide : Bool) (l : Nat) : destWrites x wide l 0 = destWrites x true l 0 := by
  cases wide <;> simp [destWrites, isVec_of_isScal h, h]

theorem exec_lane_split {i : Instr} {f : Fields} {scal : Bool} {outs : Iss → List LaneOut} (h : laneRule i = some (f, scal, outs)) (s : State)
    (hc : Checked i f) : ∃ op wide v, fieldsOf i = some (op, f) ∧ takesOf i = .none ∧
      (emptyResult i = if isScal f.d then destWrites f.d wide 0 v else []) ∧
      exec i s = issueLane i f s wide v fun j u => commit j u scal (outs j) := by
  obtain ⟨e, vregs, sregs, he, hc⟩ := hc
  have hd := dest_ok_of_checkFields hc
  cases i with
  | shfl f =>
    obtain ⟨os, hr, hx⟩ := exec_shfl f s
    cases h.symm.trans hr
    cases he
    have hn := not_scal_of_ok rfl rfl hd
    exact ⟨_, false, 0, rfl, rfl, (if_neg (by simp [hn])).symm, hx⟩
  | scan | matchl | wrlane =>
    cases h
    cases he
    have hn := not_scal_of_ok rfl rfl hd
    exact ⟨_, _, 0, rfl, rfl, (if_neg (by simp [hn])).symm, rfl⟩
  | rdlane f =>
    cases h
    refine ⟨_, w64 f.ty, 0, rfl, rfl, ?_, rfl⟩
    change (if isScal f.d then destWrites f.d true 0 0 else []) = _
    split
    next hs => exact (destWrites_zero_of_isScal hs ..).symm
    next => rfl
  | vote | ballot | wred | elect =>
    cases h
    exact ⟨_, _, _, rfl, rfl, rfl, rfl⟩
  | _ => cases h

theorem regsAt_mono (x : BitVec 8) {m n : Nat} (h : m ≤ n) : regsAt x m ⊆ regsAt x n := by
  unfold regsAt
  split
  · exact List.map_subset _ (List.range_subset.mpr h)
  · exact List.Subset.refl _

/-- The hazard checks see D's registers. -/
theorem destRegs_subset_touches {i : Instr} {op : Nat} {f : Fields} {e : Entry} (hf : fieldsOf i = some (op, f)) (he : entryOf i = some e)
    (s : State) (w : Warp) : destRegs i f ⊆ touches s w i := by
  have hu : ∃ n us, usesOf i = (f.d, n) :: us := by
    unfold usesOf
    split
    · cases hf
    · simp only [he, hf]
      exact ⟨_, _, rfl⟩
  obtain ⟨n, us, hu⟩ := hu
  unfold destRegs touches
  rw [hu]
  exact fun r hr => List.mem_append_left _ (List.mem_append_left _ hr)

/-- The frame of a cross-lane instruction gives a scalar D the empty-set result, once nothing pending will write it (R168). -/
theorem emptySet_lane {i : Instr} {op : Nat} {f : Fields} {wide : Bool} {v : Nat} (hf : fieldsOf i = some (op, f)) (he : Checked i f)
    (hv : emptyResult i = if isScal f.d then destWrites f.d wide 0 v else []) (s : State) (body : Iss → State → Eff) :
    ∃ blank, EmptySet i f blank ∧ issueLane i f s wide v body = issueSplit i s true blank body := by
  obtain ⟨e, _, _, he, _⟩ := he
  refine ⟨_, ⟨fun s w r hr => ?_, fun j u e' he' hc => ?_⟩, rfl⟩
  · refine destRegs_subset_touches hf he s w ?_
    split at hr
    next hs =>
      rw [destRegs_eq hf he]
      refine regsAt_mono _ (le_max_of_le_left ?_) hr
      rw [if_pos hs]
      split <;> decide
    next => cases hr
  · cases hs : isScal f.d with
    | false => exact .inl ⟨rfl, by rw [hv, hs]; rfl⟩
    | true =>
      rw [hs, if_pos rfl] at hv
      exact .inr (by simp [he', hc, hv])

/-! #### What each of them answers -/

theorem exec_of_resultRule {i : Instr} {f : Fields} {split scal : Bool} {outs : Iss → List LaneOut}
    (h : resultRule i = some (f, split, scal, outs)) (s : State) (hc : Checked i f) : ∃ op blank, fieldsOf i = some (op, f) ∧
      takesOf i = .none ∧ EmptySet i f blank ∧ exec i s = issueSplit i s split blank fun j u => commit j u scal (outs j) := by
  unfold resultRule at h
  simp only [Option.orElse_eq_or, Option.or_eq_some_iff, Option.map_eq_some_iff, Prod.mk.injEq] at h
  rcases h with ⟨⟨f, wide, v⟩, hr, rfl, rfl, rfl, rfl⟩ |
    ⟨-, ⟨⟨f, scal, outs⟩, hr, rfl, rfl, rfl, rfl⟩ | ⟨-, ⟨f, scal, outs⟩, hr, rfl, rfl, rfl, rfl⟩⟩
  · obtain ⟨op, hf, ht, hn, hx⟩ := exec_value_split hr s
    exact ⟨op, {}, hf, ht, emptySet_none _ hn, hx⟩
  · obtain ⟨op, hf, ht, hn, hx⟩ := exec_float_split hr s hc
    exact ⟨op, {}, hf, ht, emptySet_none _ hn, hx⟩
  · obtain ⟨op, wide, v, hf, ht, hn, hx⟩ := exec_lane_split hr s hc
    obtain ⟨blank, hb, hs⟩ := emptySet_lane hf hc hn s fun j u => commit j u scal (outs j)
    exact ⟨op, blank, hf, ht, hb, hx.trans hs⟩

theorem checked_of_issues {s : State} {w : Warp} {i : Instr} {f : Fields} (h : Issues s w i f) : Checked i f := by
  obtain ⟨_, _, ⟨e, he, hc⟩, _⟩ := h
  exact ⟨e, _, _, he, hc⟩

theorem laneResults : LaneResults := by
  intro s w i f split scal outs hr h run ht
  obtain ⟨op, blank, hf, htk, hb, hx⟩ := exec_of_resultRule hr s (checked_of_issues h)
  rw [hx]
  exact issueSplit_commit hf h htk hb ht

end Sys2Proof.Claims
end

section
namespace Sys2Proof.Claims

set_option Elab.async false

open Sys2Proof Sys2Proof.Machine

/-! ### The half-groups of legacy mode (06 R179) -/

theorem splits_legacy {w : Warp} (hl : w.lw = true) (hw : 16 < w.width) : w.splits true = true := by
  simp [Warp.splits, hl, hw]

theorem subBundles_split {w : Warp} {split : Bool} (h : w.splits split = true) (ls : List Nat) :
    subBundles w split ls = ((List.range 4).map fun k => ls.filter fun l => l / 16 == k).filter fun b => !b.isEmpty := if_pos h

theorem subBundles_unsplit {w : Warp} {split : Bool} (h : w.splits split = false) (ls : List Nat) : subBundles w split ls = [ls] :=
  if_neg (by simp [h])

/-- A half-group of a split bundle is the lanes of the bundle that one group of 16 holds, and is not empty. -/
theorem mem_subBundles_split {w : Warp} {split : Bool} (h : w.splits split = true) {ls b : List Nat} (hb : b ∈ subBundles w split ls) :
    b ≠ [] ∧ ∃ k, ∀ l ∈ b, l / 16 = k := by
  rw [subBundles_split h, List.mem_filter, List.mem_map] at hb
  obtain ⟨⟨k, _, rfl⟩, hne⟩ := hb
  refine ⟨fun e => by simp [e] at hne, k, fun l hl => ?_⟩
  simpa using (List.mem_filter.mp hl).2

/-- A lane is in the half-groups as often as in the bundle: a warp has no lane past the fourth group. -/
theorem count_subBundles (w : Warp) (split : Bool) {ls : List Nat} (h64 : ∀ l ∈ ls, l < 64) (l : Nat) :
    ((subBundles w split ls).flatten).count l = ls.count l := by
  cases h : w.splits split with
  | false => simp [subBundles_unsplit h]
  | true =>
    have hc (k : Nat) : (ls.filter fun l => l / 16 == k).count l = if l / 16 = k then ls.count l else 0 := by
      split
      next hk => exact List.count_filter (by simpa using hk)
      next hk => exact List.count_eq_zero_of_not_mem fun hm => hk (by simpa using (List.mem_filter.mp hm).2)
    rw [subBundles_split h, List.flatten_filter_not_isEmpty, List.count_flatten, List.map_map]
    simp only [List.range_succ, List.range_zero, List.nil_append, List.cons_append, List.map_cons, List.map_nil, List.sum_cons, List.sum_nil,
      Function.comp_apply, hc]
    by_cases hl : l ∈ ls
    · have := h64 l hl
      have : l / 16 = 0 ∨ l / 16 = 1 ∨ l / 16 = 2 ∨ l / 16 = 3 := by omega
      rcases this with h | h | h | h <;> simp [h]
    · simp [List.count_eq_zero_of_not_mem hl]

theorem halfGroups : HalfGroups := fun _ _ hl hw h64 =>
  ⟨count_subBundles _ true h64, fun _ hb => mem_subBundles_split (splits_legacy hl hw) hb⟩

/-! ### match (06 R171, R176) -/

/-! #### Lane masks -/

/-- A sum of powers of two, no power twice, has the bits of its exponents. -/
theorem testBit_sum_two_pow {ks : List Nat} (h : ks.Nodup) (k : Nat) : ((ks.map fun i => 2 ^ i).sum).testBit k = true ↔ k ∈ ks := by
  rw [← List.sum_toFinset _ h, ← Nat.mem_bitIndices, ← List.mem_toFinset, Finset.toFinset_bitIndices_sum_two_pow, List.mem_toFinset]

/-- Lanes whose places in their group are apart, as those of one group are, each have their bit in the mask (R171). -/
theorem testBit_laneMask {w : Warp} {ls : List Nat} (h : (ls.map (· % groupSize w)).Nodup) (k : Nat) :
    (laneMask w ls).testBit k = true ↔ ∃ l ∈ ls, l % groupSize w = k := by
  have hm : laneMask w ls = ((ls.map (· % groupSize w)).map fun i => 2 ^ i).sum := by
    rw [List.map_map]
    rfl
  rw [hm, testBit_sum_two_pow h, List.mem_map]

theorem laneMask_lt {w : Warp} {ls : List Nat} (h : (ls.map (· % groupSize w)).Nodup) {n : Nat} (hn : ∀ l ∈ ls, l % groupSize w < n) :
    laneMask w ls < 2 ^ n := by
  refine Nat.lt_pow_two_of_testBit _ fun k hk => ?_
  by_contra hb
  obtain ⟨l, hl, rfl⟩ := (testBit_laneMask h k).mp (eq_true_of_ne_false hb)
  exact absurd (hn l hl) (by omega)

/-- The lanes that a bundle's issue has left to execute are lanes of the bundle. -/
theorem mem_bundle_of_mem_groups {w : Warp} {b : List Nat} (hb : b ∈ groupsOf w true) {l : Nat} (hl : l ∈ b) : l ∈ w.bundle := by
  have h := subset_of_mem_subBundles hb hl
  split at h
  · exact (List.mem_filter.mp h).1
  · exact h

/-- No lane is in two bundles of an issue, or in one of them twice. -/
theorem groups_nodup {w : Warp} (hn : w.bundle.Nodup) (h64 : ∀ l ∈ w.bundle, l < 64) : (groupsOf w true).flatten.Nodup := by
  have hls : (if w.splits true then w.unran else w.bundle).Sublist w.bundle := by
    split
    · exact List.filter_sublist
    · exact List.Sublist.refl _
  rw [List.nodup_iff_count_le_one]
  intro l
  rw [count_subBundles w true fun l hl => h64 l (hls.subset hl)]
  exact List.nodup_iff_count_le_one.mp (hn.sublist hls) l

/-- The lanes of one bundle of an issue have places of their own in their group. -/
theorem place_injective {w : Warp} (hw : ∀ l ∈ w.bundle, l < w.width) {b : List Nat} (hb : b ∈ groupsOf w true) :
    ∀ x ∈ b, ∀ y ∈ b, x % groupSize w = y % groupSize w → x = y := by
  intro x hx y hy he
  cases hs : w.splits true with
  | true =>
    have hl : w.lw = true := by
      simp only [Warp.splits, Bool.true_and, Bool.and_eq_true] at hs
      exact hs.1
    obtain ⟨_, k, hk⟩ := mem_subBundles_split hs hb
    rw [groupSize, if_pos hl] at he
    have := hk x hx
    have := hk y hy
    omega
  | false =>
    have hxw := hw x (mem_bundle_of_mem_groups hb hx)
    have hyw := hw y (mem_bundle_of_mem_groups hb hy)
    unfold groupSize at he
    split at he
    next hl =>
      have : w.width ≤ 16 := by simpa [Warp.splits, hl] using hs
      omega
    next => rwa [Nat.mod_eq_of_lt hxw, Nat.mod_eq_of_lt hyw] at he

theorem place_lt {w : Warp} (h64 : w.width ≤ 64) {l : Nat} (hl : l < w.width) : l % groupSize w < 64 := by
  have : 0 < groupSize w ∧ groupSize w ≤ 64 := by
    unfold groupSize
    split <;> omega
  exact (Nat.mod_lt _ this.1).trans_le this.2

/-! #### Writes of vector registers -/

/-- The warp keeps its scalar registers and predicates, and the vector registers of all lanes but some. -/
structure VecFrame (ls : List Nat) (w y : Warp) : Prop where
  s : y.s = w.s
  p : ∀ m, (y.thread m).p = (w.thread m).p
  v : ∀ m, m ∉ ls → (y.thread m).v = (w.thread m).v
  lanes : y.threads.length = w.threads.length
  regs : ∀ m, (y.thread m).v.length = (w.thread m).v.length

section
variable {ls : List Nat} {w x y : Warp}

theorem VecFrame.refl (ls : List Nat) (w : Warp) : VecFrame ls w w := ⟨rfl, fun _ => rfl, fun _ _ => rfl, rfl, fun _ => rfl⟩

theorem VecFrame.trans (h : VecFrame ls w x) (hy : VecFrame ls x y) : VecFrame ls w y :=
  ⟨hy.s.trans h.s, fun m => (hy.p m).trans (h.p m), fun m hm => (hy.v m hm).trans (h.v m hm), hy.lanes.trans h.lanes,
    fun m => (hy.regs m).trans (h.regs m)⟩

theorem VecFrame.foldl {α : Type} {g : Warp → α → Warp} {l : List α} (hg : ∀ x, ∀ a ∈ l, VecFrame ls x (g x a)) :
    VecFrame ls w (l.foldl g w) :=
  List.foldlRecOn (motive := VecFrame ls w) l g (.refl ls w) fun x hx a ha => hx.trans (hg x a ha)

theorem VecFrame.mono {ms : List Nat} (h : VecFrame ls w y) (hs : ls ⊆ ms) : VecFrame ms w y :=
  ⟨h.s, h.p, fun m hm => h.v m fun hl => hm (hs hl), h.lanes, h.regs⟩

theorem VecFrame.guarded (h : VecFrame ls w y) (g : BitVec 4) (b : List Nat) : guarded y g b = guarded w g b :=
  List.filter_congr fun l _ => by rw [guardTrue, guardTrue, Thread.pred, Thread.pred, h.p]

/-- A lane whose vector registers stay reads what it did. -/
theorem VecFrame.readReg (h : VecFrame ls w y) {l : Nat} (hl : l ∉ ls) (x : BitVec 8) (imm : Nat) (wide : Bool) :
    readReg y x imm wide l = readReg w x imm wide l := by
  simp only [Machine.readReg, Thread.vreg, Thread.pred, Warp.sreg, h.s, h.p, h.v l hl]

variable (ls w)

theorem vecFrame_countIssue (b : List Nat) : VecFrame ls w (w.countIssue b) :=
  ⟨rfl, fun m => countIssue_keeps (·.p) w b m, fun m _ => countIssue_keeps (·.v) w b m, by simp [Warp.countIssue],
    fun m => countIssue_keeps (·.v.length) w b m⟩

end

theorem listAt_length {α : Type} (l : List α) (i : Nat) (g : α → α) : (listAt l i g).length = l.length := by
  induction l generalizing i with
  | nil => rfl
  | cons x r ih =>
    cases i with
    | zero => rfl
    | succ i => exact congrArg (· + 1) (ih i)

theorem thread_setThread_ne {w : Warp} {l m : Nat} (g : Thread → Thread) (h : m ≠ l) : (w.setThread l g).thread m = w.thread m := by
  rcases Nat.lt_or_ge l w.threads.length with hl | hl
  · rw [thread_setThread g hl, if_neg h]
  · unfold Warp.thread Warp.setThread
    rw [listAt_of_le g hl]

theorem vecFrame_put {ls : List Nat} (w : Warp) {r : RegWrite} {l k : Nat} (hr : r.ref = .v l k) (hl : l ∈ ls) :
    VecFrame ls w (w.put r) := by
  obtain ⟨ref, val⟩ := r
  cases hr
  refine ⟨rfl, fun m => setThread_keeps (·.p) fun _ => rfl, fun m hm => ?_, setThread_length .., fun m => ?_⟩
  · exact congrArg (·.v) (thread_setThread_ne _ (ne_of_mem_of_not_mem hl hm).symm)
  · exact setThread_keeps (·.v.length) fun t => listAt_length ..

theorem vecFrame_putAll {ls : List Nat} (w : Warp) {rs : List RegWrite} (h : ∀ r ∈ rs, ∃ l ∈ ls, ∃ k, r.ref = .v l k) :
    VecFrame ls w (w.putAll rs) := by
  have hp : VecFrame ls w (rs.foldl Warp.put w) := .foldl fun x r hr => by
    obtain ⟨l, hl, k, hk⟩ := h r hr
    exact vecFrame_put x hk hl
  exact hp.trans ⟨rfl, fun _ => rfl, fun _ _ => rfl, rfl, fun _ => rfl⟩

/-- Writes of vector registers whose values depend on lane and number alone leave each register named with its value. -/
theorem putAll_vregs {b : Nat → Nat → W32} {rs : List RegWrite} (h : ∀ r ∈ rs, ∃ l k, r.ref = .v l k ∧ r.val.truncate 32 = b l k)
    (w : Warp) {l j : Nat} (hl : l < w.threads.length) (hj : j < (w.thread l).v.length) :
    ((w.putAll rs).thread l).vreg j = if RegRef.v l j ∈ rs.map (·.ref) then b l j else (w.thread l).vreg j := by
  rw [putAll_thread]
  induction rs generalizing w with
  | nil => rfl
  | cons r rs ih =>
    obtain ⟨m, k, hr, hv⟩ := h r (List.mem_cons_self ..)
    have hp := vecFrame_put w hr (List.mem_singleton_self m)
    rw [List.foldl_cons, ih (fun r hr => h r (List.mem_cons_of_mem _ hr)) _ (by rwa [hp.lanes]) (by rwa [hp.regs])]
    obtain ⟨ref, v⟩ := r
    cases hr
    simp only [List.map_cons, List.mem_cons, RegRef.v.injEq]
    by_cases hm : l = m ∧ j = k
    · obtain ⟨rfl, rfl⟩ := hm
      have hb : ((w.put ⟨.v l j, v⟩).thread l).vreg j = b l j := by
        unfold Warp.put Thread.vreg
        dsimp only
        rw [thread_setThread _ hl, if_pos rfl]
        exact (getD_listAt _ _ _ _ _ hj).trans ((if_pos rfl).trans hv)
      simp only [hb, ite_self, and_self, true_or, if_true]
    · have hb : ((w.put ⟨.v m k, v⟩).thread l).vreg j = (w.thread l).vreg j := by
        unfold Warp.put
        dsimp only
        rw [thread_setThread_of_lt m _ hl]
        split
        next e => exact getD_listAt_ne _ _ _ fun hk => hm ⟨e, hk⟩
        next => rfl
      simp only [hb, hm, false_or]

/-! #### The result of a bundle -/

/-- The lanes of P whose A has the bits of a lane's. -/
def sameBits (w : Warp) (f : Fields) (ls : List Nat) (l : Nat) : List Nat :=
  ls.filter fun k => readReg w f.a 0 (w64 f.ty) k == readReg w f.a 0 (w64 f.ty) l

/-- What `match` writes into the lanes of P (R176). -/
def matchWrites (w : Warp) (f : Fields) (ls : List Nat) : List RegWrite :=
  ls.flatMap fun l => destWrites f.d true l (laneMask w (sameBits w f ls l))

/-- The lanes' results that the rules give `match`. -/
def matchOuts (f : Fields) (j : Iss) : List LaneOut :=
  j.lanes.map fun l => { lane := l, writes := destWrites f.d true l (laneMask j.w (sameBits j.w f j.lanes l)) }

theorem resultRule_matchl (f : Fields) : resultRule (.matchl f) = some (f, true, false, matchOuts f) := rfl

theorem matchOuts_quiet (f : Fields) (j : Iss) : ∀ o ∈ matchOuts f j, o.flags = 0 ∧ o.rng = none := by
  intro o ho
  obtain ⟨l, _, rfl⟩ := List.mem_map.mp ho
  exact ⟨rfl, rfl⟩

/-- A bundle of `match` raises no flag and writes its masks. -/
theorem groupStep_matchl (w : Warp) (f : Fields) (x : Warp) (b : List Nat) :
    groupStep w f false (matchOuts f) [] x b = (x.countIssue b).putAll (matchWrites x f (guarded x f.g b)) := by
  by_cases h : (groupIss w x f b).lanes = []
  · rw [groupStep_of_nil h, show guarded x f.g b = [] from h]
    rfl
  · have hq := matchOuts_quiet f (groupIss w x f b)
    have hf := flagsOf_zero (groupIss w x f b).lanes false _ fun o ho => (hq o ho).1
    rw [groupStep_of_ne_nil h, raiseFlags_zero _ _ hf, stepRngs_none _ _ fun o ho => (hq o ho).2, matchOuts, List.flatMap_map]
    rfl

/-! #### Results of 64 bits in vector registers -/

section
variable {d : BitVec 8} (hd : isVec d = true)
include hd

theorem destWrites_wide (l v : Nat) :
    destWrites d true l v = [⟨.v l d.toNat, BitVec.ofNat 64 v &&& 0xFFFFFFFF⟩, ⟨.v l (d.toNat + 1), BitVec.ofNat 64 v >>> 32⟩] := by
  simp [destWrites, hd]

theorem readReg_wide (w : Warp) (imm l : Nat) :
    readReg w d imm true l = ((w.thread l).vreg d.toNat).toNat + 2 ^ 32 * ((w.thread l).vreg (d.toNat + 1)).toNat := by
  simp [readReg, hd]

theorem vecFrame_putWide (w : Warp) (ls : List Nat) (v : Nat → Nat) : VecFrame ls w (w.putAll (ls.flatMap fun l => destWrites d true l (v l))) := by
  refine vecFrame_putAll w fun r hr => ?_
  obtain ⟨l, hl, hr⟩ := List.mem_flatMap.mp hr
  rw [destWrites_wide hd, List.mem_cons, List.mem_singleton] at hr
  rcases hr with rfl | rfl
  · exact ⟨l, hl, _, rfl⟩
  · exact ⟨l, hl, _, rfl⟩

/-- The low and the high half of a value of 64 bits, as a pair of registers holds them (R32). -/
theorem readReg_putWide {w : Warp} {ls : List Nat} {v : Nat → Nat} {l : Nat} (imm : Nat) (hl : l ∈ ls) (ht : l < w.threads.length)
    (hv : d.toNat + 1 < (w.thread l).v.length) (h64 : v l < 2 ^ 64) :
    readReg (w.putAll (ls.flatMap fun l => destWrites d true l (v l))) d imm true l = v l := by
  have hb : ∀ r ∈ ls.flatMap fun l => destWrites d true l (v l), ∃ m k, r.ref = .v m k ∧
      r.val.truncate 32 = if k = d.toNat then BitVec.ofNat 32 (v m) else (BitVec.ofNat 64 (v m) >>> 32).truncate 32 := by
    intro r hr
    obtain ⟨m, _, hr⟩ := List.mem_flatMap.mp hr
    rw [destWrites_wide hd, List.mem_cons, List.mem_singleton] at hr
    rcases hr with rfl | rfl
    · exact ⟨m, _, rfl, (truncate_low32 _).trans (if_pos rfl).symm⟩
    · exact ⟨m, _, rfl, (if_neg (by omega)).symm⟩
  have hm : RegRef.v l d.toNat ∈ (ls.flatMap fun l => destWrites d true l (v l)).map (·.ref) ∧
      RegRef.v l (d.toNat + 1) ∈ (ls.flatMap fun l => destWrites d true l (v l)).map (·.ref) := by
    have hin : ∀ r ∈ destWrites d true l (v l), r.ref ∈ (ls.flatMap fun l => destWrites d true l (v l)).map (·.ref) :=
      fun r hr => List.mem_map_of_mem (List.mem_flatMap.mpr ⟨l, hl, hr⟩)
    rw [destWrites_wide hd] at hin
    exact ⟨hin _ (List.mem_cons_self ..), hin _ (List.mem_cons_of_mem _ (List.mem_cons_self ..))⟩
  rw [readReg_wide hd, putAll_vregs hb w ht (by omega), putAll_vregs hb w ht hv, if_pos hm.1, if_pos hm.2, if_pos rfl, if_neg (by omega)]
  simp [Nat.shiftRight_eq_div_pow]
  omega

end

/-! #### The bundles of match -/

theorem isVec_of_checked_matchl {f : Fields} (h : Checked (.matchl f) f) : isVec f.d = true := by
  obtain ⟨e, vregs, sregs, he, hc⟩ := h
  cases he
  have ho : Opnd.ok { v := true, n := 2 } vregs sregs f.d = true := dest_ok_of_checkFields hc
  by_contra hn
  simp [Opnd.ok, hn] at ho

section
variable {w x : Warp} {f : Fields} (hd : isVec f.d = true)

include hd in
theorem vecFrame_groupStep (w x : Warp) (b : List Nat) : VecFrame b x (groupStep w f false (matchOuts f) [] x b) := by
  rw [groupStep_matchl]
  exact (vecFrame_countIssue b x b).trans
    ((vecFrame_putWide hd _ (guarded x f.g b) _).mono List.filter_sublist.subset)

include hd in
theorem vecFrame_groups (w x : Warp) (bs : List (List Nat)) : VecFrame bs.flatten x (bs.foldl (groupStep w f false (matchOuts f) []) x) :=
  .foldl fun y b hb => (vecFrame_groupStep hd w y b).mono fun _ hl => List.mem_flatten_of_mem hb hl

theorem sameIssuer_groups (w : Warp) (f : Fields) (scal : Bool) (outs : Iss → List LaneOut) (blank : List RegWrite) (bs : List (List Nat)) :
    SameIssuer w (bs.foldl (groupStep w f scal outs blank) w) :=
  .foldl bs fun x b => sameIssuer_groupStep w f scal outs blank x b

theorem laneMask_of_sameIssuer (h : SameIssuer w x) (ls : List Nat) : laneMask x ls = laneMask w ls := by
  simp only [laneMask, groupSize, h.lw, h.width]

/-- Lanes whose registers stay compare as they did. -/
theorem VecFrame.sameBits {ls : List Nat} (h : VecFrame ls w x) {P : List Nat} (hP : ∀ q ∈ P, q ∉ ls) {l : Nat} (hl : l ∈ P) :
    sameBits x f P l = sameBits w f P l :=
  List.filter_congr fun q hq => by rw [h.readReg (hP q hq), h.readReg (hP l hl)]

include hd in
/-- A bundle writes its masks from the registers that the warp had before the instruction, and no later bundle writes its lanes: the
bundles of an issue have no lane in common. -/
theorem readReg_groups {pre post : List (List Nat)} {b : List Nat} (hn : (pre ++ b :: post).flatten.Nodup) {l : Nat}
    (hl : l ∈ guarded w f.g b) (ht : l < w.threads.length) (hv : f.d.toNat + 1 < (w.thread l).v.length)
    (h64 : laneMask w (sameBits w f (guarded w f.g b) l) < 2 ^ 64) :
    readReg ((pre ++ b :: post).foldl (groupStep w f false (matchOuts f) []) w) f.d 0 true l =
      laneMask w (sameBits w f (guarded w f.g b) l) := by
  rw [List.flatten_append, List.flatten_cons, List.nodup_append', List.nodup_append'] at hn
  obtain ⟨_, ⟨_, _, hbp⟩, hpre⟩ := hn
  have hlb : guarded w f.g b ⊆ b := List.filter_sublist.subset
  have hx := vecFrame_groups hd w w pre
  have hs := sameIssuer_groups w f false (matchOuts f) [] pre
  rw [List.foldl_append, List.foldl_cons]
  generalize pre.foldl (groupStep w f false (matchOuts f) []) w = x at hx hs ⊢
  have hout : ∀ q ∈ guarded w f.g b, q ∉ pre.flatten := fun q hq hp => hpre hp (List.mem_append_left _ (hlb hq))
  have hmask : laneMask x (Claims.sameBits x f (guarded x f.g b) l) = laneMask w (Claims.sameBits w f (guarded w f.g b) l) := by
    rw [hx.guarded, laneMask_of_sameIssuer hs, hx.sameBits hout hl]
  have hc := vecFrame_countIssue [] x b
  rw [(vecFrame_groups hd w _ post).readReg (hbp (hlb hl)), groupStep_matchl, matchWrites,
    readReg_putWide hd 0 (by rwa [hx.guarded]) (by rwa [hc.lanes, hx.lanes]) (by rwa [hc.regs, hx.regs]) (by rwa [hmask]), hmask]

end

theorem warp?_setWarp_of_key {s : State} {k : Nat} {w v : Warp} (h : s.warp? k = some w) (hv : v.key = k) : (s.setWarp v).warp? k = some v := by
  subst hv
  exact State.warp?_setWarp h

/-- What `match` leaves in D is what its bundles leave there, one after another: to go on changes no register. -/
theorem exec_matchl {s : State} {w : Warp} {f : Fields} (h : Issues s w (.matchl f) f) :
    ∃ t y, exec (.matchl f) s = .next t ∧ t.warp? w.key = some y ∧ ∀ l, readReg y f.d 0 true l =
      readReg ((groupsOf w true).foldl (groupStep w f false (matchOuts f) []) w) f.d 0 true l := by
  have hd := isVec_of_checked_matchl (checked_of_issues h)
  have he := laneResults s w (.matchl f) f true false (matchOuts f) rfl h fun _ _ _ _ =>
    fpTrap_zero _ _ false _ (flagsOf_zero _ _ _ fun o ho => (matchOuts_quiet f _ o ho).1)
  have hk := (sameIssuer_groups w f false (matchOuts f) [] (groupsOf w true)).key
  refine ⟨_, _, he, warp?_setWarp_of_key (warp?_self h.1) ((advance_key ..).trans hk), fun l => ?_⟩
  rw [readReg_wide hd, readReg_wide hd, advance_keeps (·.vreg f.d.toNat), advance_keeps (·.vreg (f.d.toNat + 1))]
  rfl

theorem matchMasks : Matches := by
  intro s w f h hn hw h64
  obtain ⟨t, y, he, hy, hread⟩ := exec_matchl h
  refine ⟨t, y, he, hy, fun b hb l hl ht hv => ?_⟩
  have hnd := groups_nodup hn fun l hl => (hw l hl).trans_le h64
  have hsub : sameBits w f (guarded w f.g b) l ⊆ b := fun q hq => (List.mem_filter.mp (List.mem_filter.mp hq).1).1
  have hbits : ((sameBits w f (guarded w f.g b) l).map (· % groupSize w)).Nodup :=
    List.Nodup.map_on (fun x hx y hy => place_injective hw hb x (hsub hx) y (hsub hy))
      ((((List.nodup_flatten.mp hnd).1 b hb).filter _).filter _)
  have hlt : laneMask w (sameBits w f (guarded w f.g b) l) < 2 ^ 64 :=
    laneMask_lt hbits fun q hq => place_lt h64 (hw q (mem_bundle_of_mem_groups hb (hsub hq)))
  have hmask : readReg y f.d 0 true l = laneMask w (sameBits w f (guarded w f.g b) l) := by
    obtain ⟨pre, post, hp⟩ := List.append_of_mem hb
    rw [hread, hp]
    exact readReg_groups (isVec_of_checked_matchl (checked_of_issues h)) (hp ▸ hnd) hl ht hv hlt
  have hmem (q : Nat) : q ∈ sameBits w f (guarded w f.g b) l ↔
      q ∈ guarded w f.g b ∧ readReg w f.a 0 (w64 f.ty) q = readReg w f.a 0 (w64 f.ty) l := by
    rw [sameBits, List.mem_filter, beq_iff_eq]
  dsimp only
  rw [hmask]
  refine ⟨(testBit_laneMask hbits _).mpr ⟨l, (hmem l).mpr ⟨hl, rfl⟩, rfl⟩, hlt, fun k _ => (testBit_laneMask hbits k).trans ?_⟩
  refine exists_congr fun q => ?_
  rw [hmem, and_assoc, and_comm (a := _ = _)]

/-- Settles O3: the bundles of an issue run one after another, and no hazard stops one that did not stop the first; `match` writes from
registers that no other half-group has written. -/
theorem crossLaneResults : Obligations.CrossLaneResults := ⟨laneResults, matchMasks, halfGroups⟩

end Sys2Proof.Claims
end

section
namespace Sys2Proof.Claims

set_option Elab.async false

open Sys2Proof Sys2Proof.Machine

/-! ### Accesses by lanes (07 R192 to R200, 08 R212, R216)

A load, a store and an atomic have one shape: the order that `pol` supplies, the checks of the lanes, and what the instruction is for.
-/

/-- An access by lanes: a refused order is its fault, a check that fails stops it, and it goes on as `go` where neither is (R192, R195). -/
def accessBody (j : Iss) (ords : List Nat) (kind : Nat) (cs : List LaneChk) (u : State) (go : Eff) : Eff :=
  if modsBad j ords then trapAll j 0x007
  else match accessStop j u kind cs with
    | some x => x
    | none => go

section
variable {j : Iss} {ords : List Nat} {kind : Nat} {cs : List LaneChk} {u : State} {go : Eff}

theorem accessBody_refused (h : modsBad j ords = true) : accessBody j ords kind cs u go = trapAll j 0x007 := if_pos h

theorem accessBody_stopped {x : Eff} (h : modsBad j ords = false) (hx : accessStop j u kind cs = some x) :
    accessBody j ords kind cs u go = x := by
  simp only [accessBody, h, hx, Bool.false_eq_true, if_false]

theorem accessBody_goes (h : modsBad j ords = false) (hx : accessStop j u kind cs = none) : accessBody j ords kind cs u go = go := by
  simp only [accessBody, h, hx, Bool.false_eq_true, if_false]

/-- The fault of an access (R192, R338). -/
def accessTrap (u : State) (j : Iss) (kind : Nat) (cs : List LaneChk) (x : Nat × List Nat × W64 × Option Nat) : Trap :=
  { cause := 0x080 + 16 * kind + x.1, lanes := x.2.1, addr := x.2.2.1, level := x.2.2.2
    pages := if x.1 = 0 && x.2.2.2.isNone then some (missingPages u j.w.ctx cs) else none }

theorem accessStop_fault {x : Nat × List Nat × W64 × Option Nat} (h : worstChk cs = some x) :
    accessStop j u kind cs = some (.trap (accessTrap u j kind cs x)) := by
  unfold accessStop
  simp only [h]
  rfl

theorem accessStop_cow (h : worstChk cs = none) (hc : cs.any (·.cow) = true) :
    accessStop j u kind cs = some (.hold ((j.back u).noteCow j.w.ctx cs)) := by
  simp only [accessStop, h, hc, if_true]

theorem worstChk_none (h : ∀ c ∈ cs, c.why = none) : worstChk cs = none := by
  have hn : cs.filterMap (·.why) = [] := List.filterMap_eq_nil_iff.mpr h
  unfold worstChk
  rw [hn]
  rfl

/-- Lanes that meet no reason and wait for no copy-on-write break stop nothing. -/
theorem accessStop_none (h : ∀ c ∈ cs, c.why = none ∧ c.cow = false) : accessStop j u kind cs = none := by
  have hc : cs.any (·.cow) = false := List.any_eq_false.mpr fun c hm => by simp [(h c hm).2]
  simp only [accessStop, worstChk_none fun c hm => (h c hm).1, hc, Bool.false_eq_true, if_false]

end

/-! #### Checks do not depend on the warps of a state -/

theorem checkLane_counted (s : State) (w x : Warp) (kind l : Nat) (b : W64) (d : Int) (pol size : Nat) :
    checkLane (counted s w) x kind l b d pol size = checkLane s x kind l b d pol size := by
  rw [counted_eq]
  rfl

theorem lanesChk_counted (s : State) (w x : Warp) (f : Fields) (spad : Bool) (kind pol size : Nat) (ls : List Nat) :
    lanesChk (counted s w) x f spad kind pol size ls = lanesChk s x f spad kind pol size ls :=
  List.map_congr_left fun l _ => checkLane_counted s w x kind l ..

theorem checksAt_counted (s : State) (w x : Warp) (f : Fields) (spad : Bool) (kind pol size : Nat) :
    checksAt (counted s w) x f spad kind pol size = checksAt s x f spad kind pol size := lanesChk_counted ..

theorem missingPages_counted (s : State) (w : Warp) (ctx : Nat) (cs : List LaneChk) :
    missingPages (counted s w) ctx cs = missingPages s ctx cs := by
  rw [counted_eq]
  rfl

/-! #### The instructions -/

section
variable (w : Warp) (f : Fields) (spad : Bool) (u : State)

theorem loadBody_issueOf : loadBody f spad (issueOf w f) u =
    let cs := checksAt u w f spad 0 f.pol (sizeBytes f.ty)
    accessBody (issueOf w f) [0, 1, 2] 0 cs u (.done (startLoad (issueOf w f) u f (modsAt w f spad f.pol) cs)) := rfl

theorem storeBody_issueOf : storeBody f spad (issueOf w f) u =
    let cs := checksAt u w f spad 1 f.pol (sizeBytes f.ty)
    accessBody (issueOf w f) [0, 1, 3] 1 cs u
      (.done (pushStores (issueOf w f) .store (modsAt w f spad f.pol) (cs.map fun c => (c, storeBytes w f c.lane)) (fillLanes u w cs))) := rfl

end

/-- Every access by lanes is an `accessBody` with the orders and the checks that the rules give it. -/
theorem exec_of_accessRule {i : Instr} {f : Fields} {spad : Bool} {kind : Nat} {ords : List Nat} {pol size : Nat}
    (h : accessRule i = some (f, spad, kind, ords, pol, size)) (s : State) (w : Warp) :
    ∃ op body, fieldsOf i = some (op, f) ∧ exec i s = issueSplit i s (allScalar f) {} body ∧
      ∀ u, ∃ go, body (issueOf w f) u = accessBody (issueOf w f) ords kind (checksAt u w f spad kind pol size) u go := by
  cases i with
  | ld | lds | st | sts | atom | cas | fatom | amxr | redm | fredm =>
    cases h
    exact ⟨_, _, rfl, rfl, fun u => ⟨_, rfl⟩⟩
  | _ => cases h

/-- Settles O17: what the lanes' checks find is the answer of the body of every access by lanes. -/
theorem accessFaults : Obligations.AccessFaults := by
  intro s w i f spad kind ords pol size hr h hs j cs
  obtain ⟨op, body, hf, he, hb⟩ := exec_of_accessRule hr s w
  obtain ⟨go, hb⟩ := hb (counted s w)
  rw [checksAt_counted] at hb
  rw [he]
  refine ⟨fun hm => issueSplit_trapped hf h hs (hb.trans (accessBody_refused hm)), fun hm r ls a l hw => ?_, fun hm hw hc => ?_⟩
  · rw [issueSplit_trapped hf h hs (hb.trans (accessBody_stopped hm (accessStop_fault hw))), accessTrap, missingPages_counted]
    rfl
  · exact issueSplit_held hf h hs (hb.trans (accessBody_stopped hm (accessStop_cow hw hc)))

end Sys2Proof.Claims
end

section
namespace Sys2Proof.Claims

set_option Elab.async false

open Sys2Proof Sys2Proof.Machine

/-! ### What an access does to caches, ports and its warp (03 R75, 07 R182, R196, R199, 12 R323, R330) -/

/-- Memory, cores, clusters and ports aside, a state as another. -/
def SameButCaches (s t : State) : Prop := t = { s with mem := t.mem, cores := t.cores, clusters := t.clusters, ports := t.ports }

section
variable {s t u : State}

theorem SameButCaches.refl (s : State) : SameButCaches s s := rfl

theorem SameButCaches.trans (h : SameButCaches s t) (hu : SameButCaches t u) : SameButCaches s u := by
  unfold SameButCaches at h hu ⊢
  rw [hu, h]

theorem SameButCaches.field {α : Type} (π : State → α) (h : SameButCaches s t)
    (hπ : ∀ m c k p, π { s with mem := m, cores := c, clusters := k, ports := p } = π s := by intros; rfl) : π t = π s :=
  (congrArg π h).trans (hπ _ _ _ _)

theorem SameButCaches.warp? (h : SameButCaches s t) (k : Nat) : t.warp? k = s.warp? k := h.field (·.warp? k)

theorem SameButCaches.ite {c : Prop} [Decidable c] (ht : SameButCaches s t) (hu : SameButCaches s u) : SameButCaches s (if c then t else u) :=
  iteInduction (motive := SameButCaches s) (fun _ => ht) fun _ => hu

theorem SameButCaches.foldl {α : Type} {g : State → α → State} (l : List α) (hg : ∀ t a, SameButCaches t (g t a)) :
    SameButCaches s (l.foldl g s) :=
  List.foldlRecOn (motive := SameButCaches s) l g (.refl s) fun t h a _ => h.trans (hg t a)

end

section
variable (s : State) (w : Warp) (ctx pol : Nat) (c : LaneChk)

theorem requestBlk_caches (k : Blk) : SameButCaches s (s.requestBlk k) := by
  have h : SameButCaches s (if k.busy s then s else s.send .read (s.storedAt k).1 (s.storedAt k).2) := .ite (.refl s) rfl
  exact .ite (.refl s) (h.trans rfl)

theorem requestBlock_caches : SameButCaches s (s.requestBlock ctx pol c) :=
  .ite (.refl s) (.trans (t := s.setPort _ _) rfl (requestBlk_caches ..))

theorem dataCache_caches (store : Bool) : SameButCaches s (s.dataCache w pol store c) := .ite (.refl s) rfl
theorem noteClass_caches : SameButCaches s (s.noteClass ctx pol c) := .ite (.refl s) rfl
theorem notePf_caches : SameButCaches s (s.notePf ctx c) := .ite (.refl s) (.ite (.refl s) rfl)

theorem fill_caches (core va : Nat) : SameButCaches s (s.fill core ctx va) := by
  unfold State.fill
  refine .ite (.refl s) ?_
  split
  · split
    · exact iteInduction (motive := fun t : State => SameButCaches s (t.setCore core _)) (fun _ => rfl) fun _ => rfl
    · rfl
  split
  · exact .ite rfl (.refl s)
  · exact .refl s

theorem fillLanes_caches (cs : List LaneChk) : SameButCaches s (fillLanes s w cs) :=
  .foldl cs fun t _ => .ite (fill_caches ..) (.refl t)

theorem requestBlk_mem (k : Blk) : (s.requestBlk k).mem = s.mem := ite_mem rfl (ite_mem (c := k.busy s) rfl rfl)
theorem requestBlock_mem : (s.requestBlock ctx pol c).mem = s.mem := ite_mem rfl ((requestBlk_mem ..).trans rfl)
theorem dataCache_mem (store : Bool) : (s.dataCache w pol store c).mem = s.mem := ite_mem rfl rfl
theorem noteClass_mem : (s.noteClass ctx pol c).mem = s.mem := ite_mem rfl rfl
theorem notePf_mem : (s.notePf ctx c).mem = s.mem := ite_mem rfl (ite_mem rfl rfl)

end

/-! #### The end of an instruction -/

theorem ends_mem (w : Warp) (t : State) : (ends w t).mem = t.mem := State.withWarp_mem ..

theorem ends_warp? {w x : Warp} {t : State} (h : t.warp? w.key = some x) : (ends w t).warp? w.key = some (x.advance (fall w)) :=
  State.warp?_withWarp h ((advance_key ..).trans (State.warp?_key h))

theorem sameRegs_trans {w x y : Warp} (h : SameRegs w x) (hy : SameRegs x y) : SameRegs w y :=
  ⟨hy.1.trans h.1, fun l => ⟨(hy.2 l).1.trans (h.2 l).1, (hy.2 l).2.trans (h.2 l).2⟩⟩

theorem sameRegs_countIssue (w : Warp) (b : List Nat) : SameRegs w (w.countIssue b) :=
  ⟨rfl, fun l => ⟨countIssue_keeps (·.v) w b l, countIssue_keeps (·.p) w b l⟩⟩

theorem sameRegs_advance (w : Warp) (pcs : List (Nat × W64)) : SameRegs w (w.advance pcs) :=
  ⟨(advance_sameButThreads w pcs).field (·.s), fun l => ⟨advance_keeps (·.v) w pcs l, advance_keeps (·.p) w pcs l⟩⟩

/-- The registers of a warp that has counted its issue and moved on are those that the effect between left. -/
theorem sameRegs_ends {w x : Warp} (h : SameRegs (w.countIssue w.bundle) x) : SameRegs w (x.advance (fall w)) :=
  sameRegs_trans (sameRegs_trans (sameRegs_countIssue w w.bundle) h) (sameRegs_advance ..)

/-! ### Loads (07 R196, 11 R298) -/

/-- A load as it becomes pending. -/
def pendingLoad (i : Iss) (s : State) (f : Fields) (m : Mods) (cs : List LaneChk) : Load :=
  { id := s.order.next, dst := f.d, size := sizeBytes f.ty, acq := m.ord == 2, scope := m.scope, pc := i.pcCur, ep := i.w.ep
    since := i.w.since, signed := f.ty == 5 || f.ty == 6, undo := inUndo i.w (cs.map (·.lane))
    lanes := cs.map fun c =>
      { lane := c.lane, loc := c.loc, va := c.addr, space := ptrSpace c.addr, got := List.replicate (sizeBytes f.ty) none } }

/-- A load that starts changes memory by its fills alone, and of its warp LD and the pending loads. -/
theorem startLoad_spec {i : Iss} {s : State} {x : Warp} (hx : s.warp? i.w.key = some x) (f : Fields) (m : Mods) (cs : List LaneChk) :
    (startLoad i s f m cs).mem = (fillLanes s i.w cs).mem ∧
    (startLoad i s f m cs).warp? i.w.key = some { x with ld := x.ld + 1, loads := x.loads ++ [pendingLoad i s f m cs] } := by
  have hf := fillLanes_caches s i.w cs
  have hid : (fillLanes s i.w cs).order.next = s.order.next := congrArg Ordering.next (hf.field (·.order))
  unfold startLoad
  dsimp only [State.newWid]
  rw [hid]
  generalize hu : ({ fillLanes s i.w cs with order := { (fillLanes s i.w cs).order with next := s.order.next + 1 } } : State) = u
  have hmem : u.mem = (fillLanes s i.w cs).mem := by rw [← hu]
  have hwarp : u.warp? i.w.key = some x := by rw [← hu]; exact (hf.warp? _).trans hx
  have hv : SameButCaches u (cs.foldl (fun s c => (s.requestBlock i.w.ctx m.pol c).dataCache i.w m.pol false c) u) :=
    .foldl cs fun t c => (requestBlock_caches t ..).trans (dataCache_caches ..)
  refine ⟨(upd_mem ..).trans ((foldl_mem u cs fun t c => (dataCache_mem ..).trans (requestBlock_mem ..)).trans hmem), ?_⟩
  exact State.warp?_withWarp ((hv.warp? _).trans hwarp) (show x.key = i.w.key from State.warp?_key hx)

theorem loads : Loads := by
  intro s w f one
  have load {i : Instr} {op : Nat} {spad : Bool} (hf : fieldsOf i = some (op, f))
      (he : exec i s = issueSplit i s (allScalar f) {} (loadBody f spad)) : one i spad := by
    intro ⟨h, hs, hm, hc⟩
    let cs := checksAt s w f spad 0 f.pol (sizeBytes f.ty)
    let ld := pendingLoad (issueOf w f) (counted s w) f (modsAt w f spad f.pol) cs
    have hb : loadBody f spad (issueOf w f) (counted s w) = .done (startLoad (issueOf w f) (counted s w) f (modsAt w f spad f.pol) cs) := by
      rw [loadBody_issueOf, checksAt_counted]
      exact accessBody_goes hm (accessStop_none hc)
    obtain ⟨hmem, hx⟩ := startLoad_spec (i := issueOf w f) (counted_warp? (warp?_self h.1)) f (modsAt w f spad f.pol) cs
    have hy := advance_sameButThreads { w.countIssue w.bundle with ld := w.ld + 1, loads := w.loads ++ [ld] } (fall w)
    refine ⟨_, _, ld, he.trans (issueSplit_done hf h hs hb), ends_warp? hx,
      hy.field (·.ld), hy.field (·.loads), ?_, rfl, rfl, rfl, rfl, rfl, (ends_mem ..).trans hmem, hy.field (·.fifo), hy.field (·.st),
      sameRegs_ends ⟨rfl, fun _ => ⟨rfl, rfl⟩⟩⟩
    exact congrArg Ordering.next (counted_order s w)
  exact ⟨load rfl rfl, load rfl rfl⟩

/-! ### TLB fills (12 R323, R330) -/

theorem cellsAt_cons (a : Nat) (b : Byte) (bs : List Byte) : cellsAt a (b :: bs) = (a, b) :: cellsAt (a + 1) bs := by
  unfold cellsAt
  rw [List.length_cons, List.range_succ_eq_map, List.zipWith_cons_cons, List.zipWith_map_left]
  simp only [Nat.add_zero, Nat.succ_eq_add_one, Nat.add_assoc, Nat.add_comm 1]

/-- Bytes written from a location on. -/
theorem memGet_putAll_cellsAt {m : Memory} (h : m.wf = true) (a : Nat) (bs : List Byte) (x : Nat) :
    memGet (memPutAll m (cellsAt a bs)) x = if a ≤ x ∧ x < a + bs.length then bs.getD (x - a) 0 else memGet m x := by
  induction bs generalizing m a with
  | nil => rw [if_neg (by simp)]; rfl
  | cons b r ih =>
    rw [cellsAt_cons, show memPutAll m ((a, b) :: cellsAt (a + 1) r) = memPutAll (memPut m a b) (cellsAt (a + 1) r) from rfl,
      ih (memPut_wf a b h)]
    rcases Nat.lt_trichotomy x a with hx | rfl | hx
    · rw [if_neg (by omega), if_neg (by omega), memGet_memPut_other b h (by omega)]
    · rw [if_neg (by omega), if_pos (by simp), memGet_memPut_same x b h, Nat.sub_self, List.getD_cons_zero]
    · rw [memGet_memPut_other b h (by omega), show x - a = x - (a + 1) + 1 by omega, List.getD_cons_succ, List.length_cons]
      exact if_congr (by omega) rfl rfl

theorem length_bytesOf (n x : Nat) : (bytesOf n x).length = n := by simp [bytesOf]

theorem getD_bytesOf {n i : Nat} (x : Nat) (h : i < n) : (bytesOf n x).getD i 0 = BitVec.ofNat 8 (x / 256 ^ i) := by
  simp [bytesOf, h]

/-- The bytes of a number in memory are the bytes there. -/
theorem byte_memNat (m : Memory) (a : Nat) {n i : Nat} (h : i < n) : BitVec.ofNat 8 (memNat m a n / 256 ^ i) = memGet m (a + i) := by
  induction n generalizing a i with
  | zero => omega
  | succ n ih =>
    unfold memNat
    have hb : (memGet m a).toNat < 256 := (memGet m a).isLt
    cases i with
    | zero =>
      apply BitVec.eq_of_toNat_eq
      simp only [BitVec.toNat_ofNat, Nat.add_zero, Nat.pow_zero, Nat.div_one]
      omega
    | succ i =>
      have hd : ((memGet m a).toNat + 256 * memNat m (a + 1) n) / 256 = memNat m (a + 1) n := by omega
      rw [Nat.pow_succ', ← Nat.div_div_eq_div_mul, hd, ih (a + 1) (by omega), Nat.add_assoc, Nat.add_comm 1]

/-- An entry with AGE 0 differs in its second byte alone (R318). -/
theorem byte_putAge (e i : Nat) : BitVec.ofNat 8 (putBits e 8 3 0 / 256 ^ i) =
    if i = 1 then BitVec.ofNat 8 (e / 256 ^ i) &&& 0xF8 else BitVec.ofNat 8 (e / 256 ^ i) := by
  have hp : putBits e 8 3 0 = e - e / 256 % 8 * 256 := by simp [putBits, bitsOf]
  have hlow : ∀ b : BitVec 8, b &&& 0xF8 = BitVec.ofNat 8 (b.toNat / 8 * 8) := by decide
  rw [hp]
  rcases i with _ | _ | i
  · apply BitVec.eq_of_toNat_eq
    simp only [Nat.zero_ne_one, if_false, Nat.pow_zero, Nat.div_one, BitVec.toNat_ofNat]
    omega
  · rw [if_pos rfl, hlow]
    apply BitVec.eq_of_toNat_eq
    simp only [BitVec.toNat_ofNat]
    omega
  · rw [if_neg (by omega), show 256 ^ (i + 1 + 1) = 65536 * 256 ^ i by ring, ← Nat.div_div_eq_div_mul, ← Nat.div_div_eq_div_mul]
    congr 2
    omega

/-- A walk that ends at a leaf has read it where it says. -/
theorem walkFrom_leaf {m : Memory} {va n table level l a e : Nat} (h : walkFrom m va n table level = .leaf l a e) : e = memNat m a 8 := by
  induction n generalizing table level with
  | zero => cases h
  | succ n ih =>
    unfold walkFrom at h
    dsimp only at h
    split at h
    · cases h
    split at h
    · cases h
    split at h
    · cases h
      rfl
    · exact ih h

/-- What a TLB fill writes: nothing, or the leaf of its walk with AGE 0. -/
theorem fill_mem (s : State) (core ctx va : Nat) : (s.fill core ctx va).mem = s.mem ∨
    ∃ l a e, s.walk ctx va = .leaf l a e ∧ (s.fill core ctx va).mem = memPutAll s.mem (cellsAt a (bytesOf 8 (putBits e 8 3 0))) := by
  unfold State.fill
  dsimp only
  split
  · exact .inl rfl
  split
  · split
    next l a e hw =>
      split
      · exact .inr ⟨l, a, e, hw, rfl⟩
      · exact .inl rfl
    · exact .inl rfl
  split
  next l a e hw =>
    split
    · exact .inr ⟨l, a, e, hw, rfl⟩
    · exact .inl rfl
  · exact .inl rfl

/-- A leaf written back with AGE 0 changes the byte of AGE alone. -/
theorem memGet_young {m : Memory} (h : m.wf = true) (a x : Nat) :
    memGet (memPutAll m (cellsAt a (bytesOf 8 (putBits (memNat m a 8) 8 3 0)))) x =
      if x = a + 1 then memGet m x &&& 0xF8 else memGet m x := by
  rw [memGet_putAll_cellsAt h, length_bytesOf]
  split
  next hx =>
    obtain ⟨i, rfl⟩ := Nat.exists_eq_add_of_le hx.1
    have hi : i < 8 := by omega
    rw [Nat.add_sub_cancel_left, getD_bytesOf _ hi, byte_putAge, byte_memNat m a hi]
    exact if_congr (by omega) rfl rfl
  next hx => rw [if_neg (by omega)]

theorem fillFrame : FillFrame := by
  intro s core ctx va x hwf
  rcases fill_mem s core ctx va with hm | ⟨l, a, e, hw, hm⟩
  · exact .inl (by rw [hm])
  · rw [hm, walkFrom_leaf hw, memGet_young hwf]
    split
    next hx => exact .inr ⟨l, a, e, hw, hx, rfl⟩
    next => exact .inl rfl

/-- Settles O18: of its warp a load that starts changes LD and the pending loads; a fill writes the leaf of its walk, which differs in
AGE alone. -/
theorem loadIssues : Obligations.LoadIssues := ⟨loads, fillFrame⟩

end Sys2Proof.Claims
end

section
namespace Sys2Proof.Claims

set_option Elab.async false

open Sys2Proof Sys2Proof.Machine

/-! ### Entries of the store FIFO (07 R191, R199, 11 R296)

An instruction asks for entries one after another, each of a lane, with an address and the cells it writes; between them it changes caches
and ports. What it asks for is what stands behind the older entries.
-/

/-- What an entry of a FIFO asks of its home. -/
def requestOf (e : FifoEnt) : Nat × W64 × List Host.Cell := (e.lane, e.va, e.cells)

/-- A warp with these entries behind those of its FIFO, all else as it was but its threads, and of these the registers. -/
structure Queued (es : List FifoEnt) (x y : Warp) : Prop where
  rest : y = { x with threads := y.threads, fifo := x.fifo ++ es }
  regs : SameRegs x y

theorem Queued.refl (x : Warp) : Queued [] x x := ⟨by rw [List.append_nil], rfl, fun _ => ⟨rfl, rfl⟩⟩

theorem Queued.trans {es fs : List FifoEnt} {x y z : Warp} (h : Queued es x y) (hz : Queued fs y z) : Queued (es ++ fs) x z := by
  refine ⟨?_, sameRegs_trans h.regs hz.regs⟩
  rw [hz.rest, h.rest, List.append_assoc]

/-- A change of the state that leaves memory, and puts entries with these requests and a property into the FIFO of a warp. -/
structure Pushes (key : Nat) (P : FifoEnt → Prop) (rs : List (Nat × W64 × List Host.Cell)) (s t : State) : Prop where
  mem : t.mem = s.mem
  warp : ∀ x, s.warp? key = some x → ∃ y es, t.warp? key = some y ∧ Queued es x y ∧ es.map requestOf = rs ∧ ∀ e ∈ es, P e

section
variable {key : Nat} {P : FifoEnt → Prop} {rs qs : List (Nat × W64 × List Host.Cell)} {s t u : State}

theorem Pushes.of_caches (h : SameButCaches s t) (hm : t.mem = s.mem) : Pushes key P [] s t :=
  ⟨hm, fun x hx => ⟨x, [], (h.warp? key).trans hx, .refl x, rfl, nofun⟩⟩

theorem Pushes.trans (h : Pushes key P rs s t) (hu : Pushes key P qs t u) : Pushes key P (rs ++ qs) s u := by
  refine ⟨hu.mem.trans h.mem, fun x hx => ?_⟩
  obtain ⟨y, es, hy, hq, he, hp⟩ := h.warp x hx
  obtain ⟨z, fs, hz, hr, hf, hpf⟩ := hu.warp y hy
  exact ⟨z, es ++ fs, hz, hq.trans hr, by rw [List.map_append, he, hf], List.forall_mem_append.mpr ⟨hp, hpf⟩⟩

theorem Pushes.foldl {α : Type} {g : State → α → State} {r : α → List (Nat × W64 × List Host.Cell)} {l : List α}
    (hg : ∀ t, ∀ a ∈ l, Pushes key P (r a) t (g t a)) (s : State) : Pushes key P (l.flatMap r) s (l.foldl g s) := by
  induction l generalizing s with
  | nil => exact .of_caches (.refl s) rfl
  | cons a l ih =>
    rw [List.flatMap_cons, List.foldl_cons]
    exact (hg s a (List.mem_cons_self ..)).trans (ih (fun t b hb => hg t b (List.mem_cons_of_mem _ hb)) _)

end

/-- What the entries of an instruction have in common. -/
def EntryOf (p : Post) (e : FifoEnt) : Prop :=
  e.kind = p.kind ∧ e.op = p.op ∧ e.release = (p.m.ord == 3 || p.m.ord == 4) ∧ e.scope = p.m.scope ∧ e.space = ptrSpace e.va

/-- To take a number, and perhaps to put by a record of the write, changes the order alone. -/
theorem numbered_eq (s : State) (b : Bool) (m : WMeta) :
    (if b then s.newWid.2 else s.newWid.2.addMeta m) = { s with order := (if b then s.newWid.2 else s.newWid.2.addMeta m).order } := by
  cases b <;> rfl

/-- An entry takes a number and a place in the order, and of its thread's covered sets its own; all else stays. -/
theorem pushEntry_eq {s : State} {key : Nat} {w : Warp} (h : s.warp? key = some w) (p : Post) (lane : Nat) (va : W64)
    (cells : List Host.Cell) : ∃ o g e, pushEntry key p lane va cells s =
      State.setWarp { s with order := o } { (w.setThread lane g) with fifo := w.fifo ++ [e] } ∧
      (∀ t, (g t).v = t.v ∧ (g t).p = t.p) ∧ requestOf e = (lane, va, cells) ∧ EntryOf p e := by
  unfold pushEntry
  simp only [h]
  rw [numbered_eq]
  refine ⟨_, _, _, rfl, ?_, ?_⟩
  · exact fun _ => ⟨rfl, rfl⟩
  · exact ⟨rfl, rfl, rfl, rfl, rfl, rfl⟩

/-- One entry pushed. -/
theorem pushEntry_pushes (key : Nat) (p : Post) (lane : Nat) (va : W64) (cells : List Host.Cell) (s : State) :
    Pushes key (EntryOf p) [(lane, va, cells)] s (pushEntry key p lane va cells s) := by
  cases hw : s.warp? key with
  | none =>
    have he : pushEntry key p lane va cells s = s := by
      unfold pushEntry
      rw [hw]
    exact ⟨by rw [he], fun x hx => by rw [hw] at hx; cases hx⟩
  | some w =>
    obtain ⟨o, g, e, he, hg, hr, hp⟩ := pushEntry_eq hw p lane va cells
    rw [he]
    refine ⟨rfl, fun x hx => ?_⟩
    cases hw.symm.trans hx
    exact ⟨_, [e], warp?_setWarp_of_key (s := { s with order := o }) hw (show w.key = key from State.warp?_key hw),
      ⟨rfl, rfl, fun l => ⟨setThread_keeps (·.v) fun t => (hg t).1, setThread_keeps (·.p) fun t => (hg t).2⟩⟩,
      congrArg (· :: []) hr, List.forall_mem_singleton.mpr hp⟩

/-! ### Write events (07 R191, R199) -/

theorem length_cellsAt (a : Nat) (bs : List Byte) : (cellsAt a bs).length = bs.length := by simp [cellsAt]

theorem length_storeBytes (w : Warp) (f : Fields) (l : Nat) : (storeBytes w f l).length = sizeBytes f.ty := by
  unfold storeBytes
  dsimp only
  split
  next h =>
    rw [h]
    split
    · rfl
    split
    · rfl
    · rfl
  next => rw [length_bytesOf]

theorem sizeBytes_le (n : Nat) : sizeBytes n ≤ 16 := by
  unfold sizeBytes
  split <;> decide

/-- Cells in pieces are the cells, where the pieces are enough. -/
theorem flatten_pieces {n k : Nat} {cs : List Host.Cell} (h : cs.length ≤ n * k) : (pieces n k cs).flatten = cs := by
  induction k generalizing cs with
  | zero => exact (List.eq_nil_of_length_eq_zero (by omega)).symm
  | succ k ih =>
    unfold pieces
    cases cs with
    | nil => rfl
    | cons c r =>
      rw [List.isEmpty_cons, if_neg Bool.false_ne_true, List.flatten_cons, ih (by rw [List.length_drop, Nat.mul_succ] at *; omega),
        List.take_append_drop]

/-- Pieces of a size that divides the number of the cells are all of that size. -/
theorem length_of_mem_pieces {n k : Nat} {cs p : List Host.Cell} (h : n ∣ cs.length) (hp : p ∈ pieces n k cs) : p.length = n := by
  induction k generalizing cs with
  | zero => cases hp
  | succ k ih =>
    unfold pieces at hp
    split at hp
    · cases hp
    next he =>
    have hle : n ≤ cs.length := Nat.le_of_dvd (List.length_pos_iff.mpr fun hn => he (by rw [hn]; rfl)) h
    rcases List.mem_cons.mp hp with rfl | hp
    · rw [List.length_take, Nat.min_eq_left hle]
    · exact ih (by rw [List.length_drop]; exact Nat.dvd_sub h (dvd_refl n)) hp

section
variable {ord : Nat} {cells : List Host.Cell}

theorem flatten_eventsOf (h : cells.length ≤ 16) : (eventsOf ord cells).flatten = cells := by
  unfold eventsOf
  split
  · exact flatten_pieces (by omega)
  split
  · exact flatten_pieces (by omega)
  · exact List.append_nil cells

theorem length_of_mem_eventsOf_b128 (h : cells.length = 16) {p : List Host.Cell} (hp : p ∈ eventsOf ord cells) : p.length = 4 := by
  rw [eventsOf, if_pos h] at hp
  exact length_of_mem_pieces ⟨4, h⟩ hp

theorem length_of_mem_eventsOf_plain (h : cells.length ≠ 16) {p : List Host.Cell} (hp : p ∈ eventsOf 0 cells) : p.length = 1 := by
  rw [eventsOf, if_neg h, if_pos rfl] at hp
  exact length_of_mem_pieces (one_dvd _) hp

theorem eventsOf_single (h : cells.length ≠ 16) (ho : ord ≠ 0) : eventsOf ord cells = [cells] := by
  rw [eventsOf, if_neg h, if_neg ho]

end

/-! ### Stores (07 R199, 03 R75) -/

/-- The requests of one lane of a store: its write events (R191). -/
def laneRequests (ord : Nat) (d : LaneChk × List Byte) : List (Nat × W64 × List Host.Cell) :=
  (eventsOf ord (cellsAt d.1.loc d.2)).flatMap fun e => [(d.1.lane, d.1.addr, e)]

theorem mem_laneRequests {ord : Nat} {d : LaneChk × List Byte} {r : Nat × W64 × List Host.Cell} :
    r ∈ laneRequests ord d ↔ ∃ e ∈ eventsOf ord (cellsAt d.1.loc d.2), r = (d.1.lane, d.1.addr, e) := by
  simp [laneRequests]

theorem cells_laneRequests (ord : Nat) {d : LaneChk × List Byte} (h : d.2.length ≤ 16) :
    (laneRequests ord d).flatMap (·.2.2) = cellsAt d.1.loc d.2 := by
  have he : (laneRequests ord d).flatMap (·.2.2) = (eventsOf ord (cellsAt d.1.loc d.2)).flatten := by
    simp [laneRequests, List.flatMap_assoc, List.flatMap_id']
  rw [he, flatten_eventsOf (by rwa [length_cellsAt])]

/-- What a store leaves: its lanes' requests behind the older entries, ST one up, a number taken. -/
theorem pushStores_spec {i : Iss} {s : State} {x : Warp} (hx : s.warp? i.w.key = some x) (kind : FifoKind) (m : Mods)
    (data : List (LaneChk × List Byte)) : (pushStores i kind m data s).mem = s.mem ∧
    ∃ y es, (pushStores i kind m data s).warp? i.w.key = some { y with st := x.st + 1, nextOp := i.w.nextOp + 1 } ∧
      Queued es x y ∧ es.map requestOf = data.flatMap (laneRequests m.ord) ∧
      ∀ e ∈ es, EntryOf { op := i.w.nextOp, kind := kind, m := m, pc := i.pcCur, ep := i.w.ep, since := i.w.since } e := by
  unfold pushStores
  dsimp only
  generalize hp : ({ op := i.w.nextOp, kind := kind, m := m, pc := i.pcCur, ep := i.w.ep, since := i.w.since } : Post) = p
  have lane (t : State) (d : LaneChk × List Byte) : Pushes i.w.key (EntryOf p) (laneRequests m.ord d) t
      ((eventsOf m.ord (cellsAt d.1.loc d.2)).foldl (fun s e => pushEntry i.w.key p d.1.lane d.1.addr e s)
        ((t.noteClass i.w.ctx m.pol d.1).dataCache i.w m.pol true d.1)) :=
    (Pushes.of_caches ((noteClass_caches ..).trans (dataCache_caches ..)) ((dataCache_mem ..).trans (noteClass_mem ..))).trans
      (.foldl (fun t e _ => pushEntry_pushes i.w.key p d.1.lane d.1.addr e t) _)
  obtain ⟨hm, hw⟩ := Pushes.foldl (l := data) (fun t d _ => lane t d) s
  obtain ⟨y, es, hy, hq, he, hes⟩ := hw x hx
  refine ⟨(upd_mem ..).trans hm, y, es, ?_, hq, he, hes⟩
  have hst : y.st = x.st := by rw [hq.rest]
  rw [← hst]
  exact State.warp?_withWarp hy (show y.key = _ from State.warp?_key hy)

/-- The end of an instruction that is a store: its entries behind the older ones, ST and the operation's number one up, memory as its fills
leave it, and registers and loads as they were. -/
theorem ends_pushStores {s : State} {w : Warp} (h : s.warp? w.key = some w) (f : Fields) (kind : FifoKind) (m : Mods) (cs : List LaneChk)
    (bytes : LaneChk → List Byte) :
    let t := ends w (pushStores (issueOf w f) kind m (cs.map fun c => (c, bytes c)) (fillLanes (counted s w) w cs))
    t.mem = (fillLanes (counted s w) w cs).mem ∧ ∃ y es, t.warp? w.key = some y ∧ y.st = w.st + 1 ∧ y.nextOp = w.nextOp + 1 ∧
      y.fifo = w.fifo ++ es ∧ es.map requestOf = cs.flatMap (fun c => laneRequests m.ord (c, bytes c)) ∧
      (∀ e ∈ es, e.kind = kind ∧ e.op = w.nextOp ∧ e.release = (m.ord == 3 || m.ord == 4) ∧ e.scope = m.scope ∧ e.space = ptrSpace e.va) ∧
      y.loads = w.loads ∧ y.ld = w.ld ∧ SameRegs w y := by
  have hx := ((fillLanes_caches (counted s w) w cs).warp? w.key).trans (counted_warp? h)
  obtain ⟨hmem, x, es, hp, ⟨hrest, hregs⟩, hr, he⟩ := pushStores_spec (i := issueOf w f) hx kind m (cs.map fun c => (c, bytes c))
  rw [List.flatMap_map] at hr
  have hy := advance_sameButThreads { x with st := w.st + 1, nextOp := w.nextOp + 1 } (fall w)
  refine ⟨(ends_mem ..).trans hmem, _, es, ends_warp? hp, hy.field (·.st), hy.field (·.nextOp), (hy.field (·.fifo)).trans ?_, hr, he,
    (hy.field (·.loads)).trans ?_, (hy.field (·.ld)).trans ?_, sameRegs_ends hregs⟩
  all_goals
    dsimp only
    rw [hrest]
    rfl

section
variable {ord : Nat} {cs : List LaneChk} {bytes : LaneChk → List Byte} {es : List FifoEnt}
  (h : es.map requestOf = cs.flatMap fun c => laneRequests ord (c, bytes c))
include h

/-- The entries' cells are the lanes' bytes, in lane order. -/
theorem cells_of_requests (hb : ∀ c, (bytes c).length ≤ 16) : es.flatMap (·.cells) = cs.flatMap fun c => cellsAt c.loc (bytes c) :=
  calc es.flatMap (·.cells)
    _ = (es.map requestOf).flatMap (·.2.2) := (List.flatMap_map requestOf (fun r : Nat × W64 × List Host.Cell => r.2.2) es).symm
    _ = cs.flatMap fun c => (laneRequests ord (c, bytes c)).flatMap (·.2.2) := by rw [h, List.flatMap_assoc]
    _ = cs.flatMap fun c => cellsAt c.loc (bytes c) := List.flatMap_congr fun c _ => cells_laneRequests ord (hb c)

/-- An entry is a write event of a lane. -/
theorem event_of_request {e : FifoEnt} (he : e ∈ es) :
    ∃ c ∈ cs, e.lane = c.lane ∧ e.va = c.addr ∧ e.cells ∈ eventsOf ord (cellsAt c.loc (bytes c)) := by
  have hm : requestOf e ∈ es.map requestOf := List.mem_map_of_mem he
  rw [h] at hm
  obtain ⟨c, hc, hm⟩ := List.mem_flatMap.mp hm
  obtain ⟨p, hp, hr⟩ := mem_laneRequests.mp hm
  obtain ⟨hl, hr⟩ := Prod.mk.inj hr
  obtain ⟨hva, hcells⟩ := Prod.mk.inj hr
  exact ⟨c, hc, hl, hva, hcells ▸ hp⟩

/-- A lane that is one event is one entry. -/
theorem length_of_requests (h1 : ∀ c ∈ cs, eventsOf ord (cellsAt c.loc (bytes c)) = [cellsAt c.loc (bytes c)]) : es.length = cs.length := by
  have hs : (cs.flatMap fun c => laneRequests ord (c, bytes c)) = cs.flatMap fun c => [(c.lane, c.addr, cellsAt c.loc (bytes c))] :=
    List.flatMap_congr fun c hc => by rw [laneRequests, h1 c hc]; rfl
  rw [← List.length_map requestOf, h, hs]
  simp

end

theorem stores : Stores := by
  intro s w f one
  have store {i : Instr} {op : Nat} {spad : Bool} (hf : fieldsOf i = some (op, f))
      (he : exec i s = issueSplit i s (allScalar f) {} (storeBody f spad)) : one i spad := by
    intro ⟨h, hs, hm, hc⟩
    have hb := storeBody_issueOf w f spad (counted s w)
    rw [checksAt_counted] at hb
    have ht := he.trans (issueSplit_done hf h hs (hb.trans (accessBody_goes hm (accessStop_none hc))))
    obtain ⟨hmem, y, es, hy, hst, hop, hfifo, hr, hes, hloads, hld, hregs⟩ := ends_pushStores (warp?_self h.1) f .store
      (modsAt w f spad f.pol) (checksAt s w f spad 1 f.pol (sizeBytes f.ty)) fun c => storeBytes w f c.lane
    have hlen (c : LaneChk) : (cellsAt c.loc (storeBytes w f c.lane)).length = sizeBytes f.ty := by
      rw [length_cellsAt, length_storeBytes]
    have hle (c : LaneChk) : (storeBytes w f c.lane).length ≤ 16 := length_storeBytes w f c.lane ▸ sizeBytes_le f.ty
    refine ⟨_, y, es, ht, hy, hst, hop, hfifo, cells_of_requests hr hle, fun e hm => ?_, fun h16 e hm => ?_, fun h16 h0 e hm => ?_,
      fun h16 h0 => ?_, hmem, hloads, hld, hregs⟩
    · obtain ⟨hk, ho, hrel, hsc, hsp⟩ := hes e hm
      obtain ⟨c, hc, hl, hva, _⟩ := event_of_request hr hm
      exact ⟨hk, ho, hrel, hsc, c, hc, hl, hva, hva ▸ hsp⟩
    · obtain ⟨c, _, _, _, hp⟩ := event_of_request hr hm
      exact length_of_mem_eventsOf_b128 ((hlen c).trans h16) hp
    · obtain ⟨c, _, _, _, hp⟩ := event_of_request hr hm
      rw [h0] at hp
      exact length_of_mem_eventsOf_plain (hlen c ▸ h16) hp
    · exact length_of_requests hr fun c _ => eventsOf_single (hlen c ▸ h16) h0
  exact ⟨store rfl rfl, store rfl rfl⟩

/-! ### Posts (16 R454) -/

theorem chkWalked_lane (s : State) (ctx kind va : Nat) (c : LaneChk) (mis : List Nat) (x : Walked) :
    (s.chkWalked ctx kind va c mis x).lane = c.lane := by
  cases x <;> rfl

theorem globalChk_lane (s : State) (core ctx kind va : Nat) (c : LaneChk) (mis : List Nat) :
    (globalChk s core ctx kind va c mis).lane = c.lane := by
  unfold globalChk
  split
  · split <;> exact chkWalked_lane ..
  · exact chkWalked_lane ..

/-- A check is of the lane it was made for. -/
theorem checkLane_lane (s : State) (w : Warp) (kind l : Nat) (b : W64) (d : Int) (pol size : Nat) :
    (checkLane s w kind l b d pol size).lane = l := by
  unfold checkLane
  dsimp only
  split
  · rfl
  split
  · split
    · rfl
    · exact globalChk_lane ..
  split
  · split <;> rfl
  · split <;> rfl

/-- The check of a post's access: the RESULT word of its region's control block (R454). -/
def resultChk (s : State) (j : Iss) : LaneChk := checkLane s j.w 1 j.low (BitVec.ofNat 64 (regionId j.w.region * 256 + 136)) 0 1 8

theorem resultChk_counted (s : State) (w : Warp) (j : Iss) : resultChk (counted s w) j = resultChk s j := checkLane_counted ..

theorem postBody_goes {f : Fields} {ends_ : Bool} {j : Iss} {u : State} (h : accessStop j u 1 [resultChk u j] = none) :
    postBody f ends_ j u = .done (pushStores j (.post ends_) { pol := 0, scope := 4, ord := 3 }
      ([resultChk u j].map fun c => (c, bytesOf 8 (if f.a = 0xF1 then f.im else readReg j.w f.a 0 true j.low)))
      (fillLanes u j.w [resultChk u j])) := by
  unfold resultChk at h ⊢
  unfold postBody
  simp only [h]

theorem posts : Posts := by
  intro s w f one
  have post {i : Instr} {op : Nat} {ends_ : Bool} (hf : fieldsOf i = some (op, f))
      (he : exec i s = issueSplit i s (allScalar f) {} (postBody f ends_)) : one i ends_ := by
    intro h hs j c hw hc
    let v := if f.a = 0xF1 then f.im else readReg w f.a 0 true j.low
    have hb := postBody_goes (f := f) (ends_ := ends_) (j := j) (u := counted s w)
    rw [resultChk_counted] at hb
    have ht := he.trans (issueSplit_done hf h hs (hb (accessStop_none (List.forall_mem_singleton.mpr ⟨hw, hc⟩))))
    obtain ⟨hmem, y, es, hy, hst, _, hfifo, hr, hes, _, _, hregs⟩ := ends_pushStores (warp?_self h.1) f (.post ends_)
      { pol := 0, scope := 4, ord := 3 } [c] fun _ => bytesOf 8 v
    have hlen : (cellsAt c.loc (bytesOf 8 v)).length = 8 := by rw [length_cellsAt, length_bytesOf]
    have hone : eventsOf 3 (cellsAt c.loc (bytesOf 8 v)) = [cellsAt c.loc (bytesOf 8 v)] := eventsOf_single (by omega) (by decide)
    obtain ⟨e, rfl⟩ := List.length_eq_one_iff.mp (length_of_requests hr (List.forall_mem_singleton.mpr hone))
    obtain ⟨hk, _, hrel, hsc, _⟩ := hes e (List.mem_singleton_self e)
    obtain ⟨d, hd, hl, _, hp⟩ := event_of_request hr (List.mem_singleton_self e)
    rw [List.mem_singleton.mp hd] at hl hp
    rw [hone] at hp
    exact ⟨_, y, e, ht, hy, hst, hfifo, hk, hrel, hsc, hl.trans (checkLane_lane ..),
      List.mem_singleton.mp hp, hmem, hregs⟩
  exact ⟨post rfl rfl, post rfl rfl⟩

/-- Settles O19: the entries that a store pushes are the write events of its lanes, in lane order. -/
theorem storeIssues : Obligations.StoreIssues := ⟨stores, posts⟩

end Sys2Proof.Claims
end

section
namespace Sys2Proof.Claims

set_option Elab.async false

open Sys2Proof Sys2Proof.Machine

/-! ### Prefetches (07 R201) -/

/-- What `pf` asks for in a lane. -/
def prefetchLane (i : Iss) (f : Fields) (s : State) (c : LaneChk) : State :=
  if c.why.isSome || !(ptrSpace c.addr == 0 || (ptrSpace c.addr == 8 && !s.unreachable c.loc)) then s
  else if 3 ≤ policyOf f.pol c then (s.requestBlock i.w.ctx f.pol c).notePf i.w.ctx c
  else ((s.requestBlock i.w.ctx f.pol c).notePf i.w.ctx c).dataCache i.w f.pol false c

section
variable (i : Iss) (f : Fields) (s : State) (c : LaneChk)

theorem prefetchLane_caches : SameButCaches s (prefetchLane i f s c) := by
  have h := (requestBlock_caches s i.w.ctx f.pol c).trans (notePf_caches _ i.w.ctx c)
  exact .ite (.refl s) (.ite h (h.trans (dataCache_caches ..)))

theorem prefetchLane_mem : (prefetchLane i f s c).mem = s.mem := by
  have h := (notePf_mem (s.requestBlock i.w.ctx f.pol c) i.w.ctx c).trans (requestBlock_mem ..)
  exact ite_mem rfl (ite_mem h ((dataCache_mem ..).trans h))

/-- A lane that is dropped, or whose address has no port, asks no port for anything. -/
theorem prefetchLane_ports (h : c.why ≠ none ∨ ptrSpace c.addr ≠ 0) : (prefetchLane i f s c).ports = s.ports := by
  have hd (u : State) : (u.dataCache i.w f.pol false c).ports = u.ports := by
    unfold State.dataCache
    split <;> rfl
  unfold prefetchLane
  split
  · rfl
  next hgo =>
  have hw : c.why = none := by
    cases hw : c.why with
    | none => rfl
    | some r => simp [hw] at hgo
  have hs : (ptrSpace c.addr != 0) = true := bne_iff_ne.mpr (h.resolve_left (· hw))
  rw [State.requestBlock, if_pos hs, State.notePf, if_pos hs]
  split
  · rfl
  · exact hd s

end

/-- The body of `pf` asks lane by lane. -/
theorem exec_pf (f : Fields) (s : State) : exec (.pf f) s = issueSplit (.pf f) s (allScalar f) {} fun i s =>
    .done ((lanesChk s i.w f false 0 f.pol 1 (i.lanesFor (allScalar f))).foldl (prefetchLane i f) s) := rfl

/-- The end of an instruction leaves all but the warps as its effect did, and the warps by those that its effect left. -/
theorem ends_eq (w : Warp) (t : State) : ends w t = { t with warps := (ends w t).warps } := by
  unfold ends goTo State.withWarp
  split <;> rfl

theorem ends_warps {w : Warp} {t u : State} (h : t.warps = u.warps) : (ends w t).warps = (ends w u).warps := by
  have hw : t.warp? w.key = u.warp? w.key := by rw [State.warp?, State.warp?, h]
  unfold ends goTo State.withWarp
  rw [hw]
  split
  · rw [State.setWarp_warps, State.setWarp_warps, h]
  · exact h

theorem prefetches : Prefetches := by
  intro s w f h hs cs
  let t := cs.foldl (prefetchLane (issueOf w f) f) (counted s w)
  have hb : exec (.pf f) s = .next (ends w t) := by
    rw [exec_pf]
    refine issueSplit_done rfl h hs ?_
    rw [lanesChk_counted]
    rfl
  have hc : SameButCaches (counted s w) t := .foldl cs fun u c => prefetchLane_caches _ f u c
  have hm : t.mem = s.mem := (foldl_mem _ cs fun u c => prefetchLane_mem _ f u c).trans (counted_mem s w)
  have he := ends_eq w t
  refine ⟨ends w t, hb, (ends_mem ..).trans hm, ?_, ?_, ends_warps (hc.field (·.warps)), fun hn => ?_⟩
  · rw [he]
    exact (hc.field (·.order)).trans (counted_order s w)
  · rw [he]
    exact (hc.field (·.recs)).trans (by rw [counted_eq])
  · rw [he]
    have hp : t.ports = (counted s w).ports := List.foldlRecOn (motive := fun u : State => u.ports = (counted s w).ports) cs _ rfl
      fun u hu c hcs => (prefetchLane_ports _ f u c (hn c hcs)).trans hu
    exact hp.trans (by rw [counted_eq])

/-! ### Write-backs (07 R202, R203) -/

theorem mem_union {a b : List Nat} {n : Nat} : n ∈ union a b ↔ n ∈ a ∨ n ∈ b := by
  unfold union
  induction b generalizing a with
  | nil => simp
  | cons x r ih =>
    rw [List.foldl_cons, ih, List.mem_cons]
    by_cases hx : a.contains x = true
    · rw [if_pos hx]
      have hm : x ∈ a := by simpa using hx
      exact ⟨fun h => h.imp_right .inr, fun h => h.elim .inl fun h => h.elim (fun e => .inl (e ▸ hm)) .inr⟩
    · rw [if_neg hx, List.mem_append, List.mem_singleton, or_assoc]

theorem nodup_union {a b : List Nat} (h : a.Nodup) : (union a b).Nodup := by
  refine List.foldlRecOn (motive := List.Nodup) b _ h fun l hl x _ => ?_
  by_cases hx : l.contains x = true
  · rwa [if_pos hx]
  · rw [if_neg hx]
    have hm : x ∉ l := by simpa using hx
    exact hl.append (List.nodup_singleton x) (List.disjoint_singleton.mpr hm)

/-- The checks of the lanes of a `cwb` (R202). -/
def granuleChks (s : State) (j : Iss) (f : Fields) : List LaneChk := (j.lanesFor (allScalar f)).map (granuleChk s j.w f)

theorem granuleChks_counted (s : State) (w : Warp) (j : Iss) (f : Fields) : granuleChks (counted s w) j f = granuleChks s j f := by
  rw [counted_eq]
  rfl

/-- The granules of the lanes, each once (R202). -/
theorem granules_spec (cs : List LaneChk) : (granules cs).Nodup ∧
    ∀ g, g ∈ granules cs ↔ ∃ c ∈ cs, (ptrSpace c.addr = 0 ∨ ptrSpace c.addr = 8) ∧ g = c.addr.toNat / 256 * 256 := by
  refine ⟨nodup_union List.nodup_nil, fun g => ?_⟩
  simp only [granules, mem_union, List.not_mem_nil, false_or, List.mem_map, List.mem_filter, Bool.or_eq_true, beq_iff_eq, and_assoc,
    eq_comm (a := g)]

/-- The entry of a `cwb` or `cwb.sync` (R202, R203). -/
def writeBackEntry (sync : Bool) (i : Iss) (s : State) (cs : List LaneChk) : FifoEnt :=
  { wid := s.order.next, op := i.w.nextOp, kind := .cwb sync, lane := i.low, cells := (granules cs).map fun g => (g, 0), va := 0
    release := false, scope := 0, covered := i.lanes, pc := i.pc, space := 0, ep := i.w.ep, since := i.w.since
    undo := inUndo i.w i.lanes }

/-- The state in which a `cwb` or `cwb.sync` has put its entry into the FIFO. -/
def writeBackRequested (sync : Bool) (i : Iss) (s : State) (cs : List LaneChk) : State :=
  s.newWid.2.upd i fun w => { w with st := w.st + 1, nextOp := i.w.nextOp + 1, fifo := w.fifo ++ [writeBackEntry sync i s cs] }

/-- The warp behind the request: its entry is the newest, ST and the operation's number are one up. -/
def requested (sync : Bool) (w : Warp) (i : Iss) (s : State) (cs : List LaneChk) : Warp :=
  { w.countIssue w.bundle with st := w.st + 1, nextOp := w.nextOp + 1, fifo := w.fifo ++ [writeBackEntry sync i s cs] }

theorem writeBackRequested_spec {s : State} {w : Warp} (h : s.warp? w.key = some w) (sync : Bool) (f : Fields) (cs : List LaneChk) :
    let t := writeBackRequested sync (issueOf w f) (counted s w) cs
    t.mem = s.mem ∧ t.order.flight = s.order.flight ∧ t.warp? w.key = some (requested sync w (issueOf w f) (counted s w) cs) := by
  have hc : (counted s w).newWid.2.warp? w.key = some (w.countIssue w.bundle) := counted_warp? h
  have ho : (writeBackRequested sync (issueOf w f) (counted s w) cs).order = (counted s w).newWid.2.order := State.withWarp_order ..
  refine ⟨(upd_mem ..).trans (counted_mem s w), ?_, State.warp?_withWarp hc rfl⟩
  rw [ho, ← counted_order s w]
  rfl

theorem cwbBody_goes {f : Fields} {sync : Bool} {i : Iss} {s : State} (h : accessStop i s 1 (granuleChks s i f) = none) :
    cwbBody f sync i s =
      let t := writeBackRequested sync i s (granuleChks s i f)
      if sync then .hold (t.upd i fun w => { w with hold := .cwbSync i.w.nextOp i.all }) else .done t := by
  unfold granuleChks at h ⊢
  unfold cwbBody
  simp only [h]
  rfl

theorem names_writeBackEntry (sync : Bool) (i : Iss) (s : State) (cs : List LaneChk) :
    (writeBackEntry sync i s cs).cells.map (·.1) = granules cs := by
  rw [writeBackEntry, List.map_map]
  exact List.map_id _

theorem writeBackRequests : WriteBackRequests := by
  intro s w f one
  have writeBack {i : Instr} {op : Nat} {sync : Bool} (hf : fieldsOf i = some (op, f))
      (he : exec i s = issueSplit i s (allScalar f) {} (cwbBody f sync)) : one i sync := by
    intro h hs j cs hc
    have hb := cwbBody_goes (f := f) (sync := sync) (i := j) (s := counted s w)
    rw [granuleChks_counted] at hb
    have hb := hb (accessStop_none hc)
    obtain ⟨hm, hfl, hx⟩ := writeBackRequested_spec (warp?_self h.1) sync f cs
    obtain ⟨hn, hg⟩ := granules_spec cs
    rw [← names_writeBackEntry sync j (counted s w) cs] at hn hg
    cases sync with
    | true =>
      exact ⟨_, { requested true w j (counted s w) cs with hold := .cwbSync w.nextOp w.bundle }, _,
        he.trans (issueSplit_held hf h hs hb), State.warp?_withWarp hx rfl, rfl, rfl, rfl, rfl, rfl, hn, hg,
        fun _ => ⟨rfl, countIssue_keeps (·.pc) w w.bundle⟩, (upd_mem ..).trans hm,
        (congrArg Ordering.flight (State.withWarp_order ..)).trans hfl, sameRegs_countIssue w w.bundle⟩
    | false =>
      have hy := advance_sameButThreads (requested false w j (counted s w) cs) (fall w)
      exact ⟨_, _, _, he.trans (issueSplit_done hf h hs hb), ends_warp? hx, hy.field (·.fifo), hy.field (·.st), hy.field (·.nextOp),
        rfl, rfl, hn, hg, nofun, (ends_mem ..).trans hm, (congrArg Ordering.flight (State.withWarp_order ..)).trans hfl,
        sameRegs_ends ⟨rfl, fun _ => ⟨rfl, rfl⟩⟩⟩
  exact ⟨writeBack rfl rfl, writeBack rfl rfl⟩

/-- Settles O20: a lane of `pf` changes caches and ports alone; the entry of a write-back names the granules of its lanes. -/
theorem hintsAndWriteBacks : Obligations.HintsAndWriteBacks := ⟨prefetches, writeBackRequests⟩

end Sys2Proof.Claims
end

section
namespace Sys2Proof.Claims

set_option Elab.async false

open Sys2Proof Sys2Proof.Machine

/-! ### States that differ in their warps, and threads that an instruction leaves (03 R60, R63)

An instruction of chapter 8 changes threads of its bundle, and wakes threads of other warps; what it says of a thread is read off the last
change of it.
-/

/-- A state with other warps, and all else as it was. -/
def SameButWarps (s t : State) : Prop := t = { s with warps := t.warps }

section
variable {s t u : State}

theorem SameButWarps.refl (s : State) : SameButWarps s s := rfl

theorem SameButWarps.trans (h : SameButWarps s t) (hu : SameButWarps t u) : SameButWarps s u := by
  unfold SameButWarps at h hu ⊢
  rw [hu, h]

theorem SameButWarps.field {α : Type} (π : State → α) (h : SameButWarps s t) (hπ : ∀ ws, π { s with warps := ws } = π s := by intros; rfl) :
    π t = π s :=
  (congrArg π h).trans (hπ _)

theorem withWarp_sameButWarps (s : State) (k : Nat) (g : Warp → Warp) : SameButWarps s (s.withWarp k g) := by
  unfold State.withWarp
  split <;> rfl

theorem counted_sameButWarps (s : State) (w : Warp) : SameButWarps s (counted s w) := counted_eq s w
theorem ends_sameButWarps (w : Warp) (t : State) : SameButWarps t (ends w t) := ends_eq w t
theorem endsAt_sameButWarps (w : Warp) (t : State) (q : List (Nat × W64)) : SameButWarps t (endsAt w t q) := withWarp_sameButWarps ..

end

/-- A warp is found among warps changed with their keys kept. -/
theorem warp?_mapWarps (s : State) {g : Warp → Warp} (hg : ∀ w, (g w).key = w.key) (k : Nat) :
    ({ s with warps := s.warps.map g } : State).warp? k = (s.warp? k).map g := by
  unfold State.warp?
  rw [List.find?_map]
  simp only [Function.comp_def, hg]

theorem endsAt_warp? {w x : Warp} {t : State} (h : t.warp? w.key = some x) (q : List (Nat × W64)) :
    (endsAt w t q).warp? w.key = some (x.advance ((fall w).map fun p => (p.1, kvGet q p.1 p.2))) :=
  State.warp?_withWarp h ((advance_key ..).trans (State.warp?_key h))

/-- An instruction that changes its own warp alone and ends: that warp, changed and moved on. -/
theorem ends_withWarp_warp? {s : State} {w x : Warp} (h : s.warp? w.key = some x) {g : Warp → Warp} (hg : ∀ x, (g x).key = x.key) :
    (ends w (s.withWarp w.key g)).warp? w.key = some ((g x).advance (fall w)) :=
  ends_warp? (State.warp?_withWarp h ((hg x).trans (State.warp?_key h)))

/-- What an instruction that ends leaves of a warp that is not its own. -/
theorem ends_warp?_ne {w : Warp} {t : State} {k : Nat} (h : k ≠ w.key) : (ends w t).warp? k = t.warp? k :=
  State.warp?_withWarp_ne (fun _ => advance_key ..) h

theorem counted_warp?_ne {s : State} {w : Warp} {k : Nat} (h : k ≠ w.key) : (counted s w).warp? k = s.warp? k :=
  State.warp?_withWarp_ne (fun _ => Warp.countIssue_key ..) h

/-! #### Threads -/

@[simp] theorem countIssue_length (w : Warp) (b : List Nat) : (w.countIssue b).threads.length = w.threads.length := by
  simp [Warp.countIssue]

@[simp] theorem setLanes_length (w : Warp) (ls : List Nat) (g : Nat → Thread → Thread) : (w.setLanes ls g).threads.length = w.threads.length :=
  List.foldlRecOn (motive := fun x : Warp => x.threads.length = w.threads.length) ls _ rfl fun _ h _ _ => (setThread_length ..).trans h

@[simp] theorem put_length (w : Warp) (r : RegWrite) : (w.put r).threads.length = w.threads.length := by
  unfold Warp.put
  split
  · exact setThread_length ..
  · rfl
  · split
    · rfl
    · exact setThread_length ..

@[simp] theorem putFrom_length (w : Warp) (limit : Option Nat) (rs : List RegWrite) : (w.putFrom limit rs).threads.length = w.threads.length :=
  List.foldlRecOn (motive := fun x : Warp => x.threads.length = w.threads.length) rs Warp.put rfl fun x h r _ => (put_length x r).trans h

@[simp] theorem putAll_length (w : Warp) (rs : List RegWrite) : (w.putAll rs).threads.length = w.threads.length := putFrom_length ..

theorem setLanes_keeps {α : Type} (π : Thread → α) (w : Warp) (ls : List Nat) {g : Nat → Thread → Thread} (m : Nat)
    (h : ∀ l t, π (g l t) = π t) : π ((w.setLanes ls g).thread m) = π (w.thread m) :=
  List.foldlRecOn (motive := fun x : Warp => π (x.thread m) = π (w.thread m)) ls _ rfl fun _ hx l _ => (setThread_keeps π (h l)).trans hx

/-- The lanes that a change does not name keep their threads. -/
theorem thread_setLanes_of_not_mem (w : Warp) {ls : List Nat} {g : Nat → Thread → Thread} {m : Nat} (h : m ∉ ls) :
    (w.setLanes ls g).thread m = w.thread m :=
  List.foldlRecOn (motive := fun x : Warp => x.thread m = w.thread m) ls _ rfl fun _ hx _ hl =>
    (thread_setThread_ne _ (ne_of_mem_of_not_mem hl h).symm).trans hx

/-- What a change of a lane always brings about holds of each lane changed, also of one named twice. -/
theorem setLanes_reaches {P : Thread → Prop} {w : Warp} {ls : List Nat} {g : Nat → Thread → Thread} {m : Nat} (hl : m ∈ ls)
    (hm : m < w.threads.length) (h : ∀ t, P (g m t)) : P ((w.setLanes ls g).thread m) := by
  unfold Warp.setLanes
  induction ls generalizing w with
  | nil => simp at hl
  | cons l r ih =>
    rw [List.foldl_cons]
    by_cases hr : m ∈ r
    · exact ih hr (by rwa [setThread_length])
    · obtain rfl : m = l := (List.mem_cons.mp hl).resolve_right hr
      have hn := thread_setLanes_of_not_mem (w.setThread m (g m)) (g := g) hr
      unfold Warp.setLanes at hn
      rw [hn, thread_setThread_of_lt m (g m) hm, if_pos rfl]
      exact h _

/-- A lane named once is changed once. -/
theorem thread_setLanes_once {w : Warp} {ls : List Nat} {g : Nat → Thread → Thread} {m : Nat} (h : ls.count m = 1)
    (hm : m < w.threads.length) : (w.setLanes ls g).thread m = g m (w.thread m) := by
  unfold Warp.setLanes
  induction ls generalizing w with
  | nil => simp at h
  | cons l r ih =>
    rw [List.foldl_cons]
    rw [List.count_cons] at h
    by_cases he : l = m
    · subst he
      have hr : l ∉ r := List.count_eq_zero.mp (by simpa using h)
      have hn := thread_setLanes_of_not_mem (w.setThread l (g l)) (g := g) hr
      unfold Warp.setLanes at hn
      rw [hn, thread_setThread_of_lt l (g l) hm, if_pos rfl]
    · rw [ih (by simpa [he] using h) (by rwa [setThread_length]), thread_setThread_ne _ fun e => he e.symm]

/-- A register write changes registers and predicates alone in the threads. -/
theorem put_keeps {α : Type} (π : Thread → α) (w : Warp) (r : RegWrite) (m : Nat) (h : ∀ t v p, π { t with v := v, p := p } = π t) :
    π ((w.put r).thread m) = π (w.thread m) := by
  unfold Warp.put
  split
  · exact setThread_keeps π fun t => h t _ t.p
  · rfl
  · split
    · rfl
    · exact setThread_keeps π fun t => h t t.v _

theorem putFrom_keeps {α : Type} (π : Thread → α) (w : Warp) (limit : Option Nat) (rs : List RegWrite) (m : Nat)
    (h : ∀ t v p, π { t with v := v, p := p } = π t := by intros; rfl) : π ((w.putFrom limit rs).thread m) = π (w.thread m) :=
  List.foldlRecOn (motive := fun x : Warp => π (x.thread m) = π (w.thread m)) rs Warp.put rfl fun x hx r _ => (put_keeps π x r m h).trans hx

theorem putAll_keeps {α : Type} (π : Thread → α) (w : Warp) (rs : List RegWrite) (m : Nat)
    (h : ∀ t v p, π { t with v := v, p := p } = π t := by intros; rfl) : π ((w.putAll rs).thread m) = π (w.thread m) :=
  putFrom_keeps π w none rs m h

theorem thread_mapThreads (w : Warp) (g : Thread → Thread) {l : Nat} (h : l < w.threads.length) :
    ({ w with threads := w.threads.map g } : Warp).thread l = g (w.thread l) := by
  simp [Warp.thread, h]

/-! #### Where the lanes of a bundle go on -/

/-- The PC of a lane that an advance sends to one place. -/
theorem advance_pc {w : Warp} {pcs : List (Nat × W64)} {m : Nat} {q : W64} (hm : m < w.threads.length) (hn : m ∈ pcs.map (·.1))
    (h : ∀ p ∈ pcs, p.1 = m → p.2 = q) : ((w.advance pcs).thread m).pc = q := by
  unfold Warp.thread
  rw [advance_threads]
  change ((pcs.foldl atPc w).thread m).pc = q
  induction pcs generalizing w with
  | nil => simp at hn
  | cons p r ih =>
    have hr : ∀ x ∈ r, x.1 = m → x.2 = q := fun x hx => h x (List.mem_cons_of_mem _ hx)
    by_cases hmr : m ∈ r.map (·.1)
    · exact ih (w := atPc w p) (by unfold atPc; rwa [setThread_length]) hmr hr
    · have hp : p.1 = m := by
        have : m = p.1 ∨ m ∈ r.map (·.1) := by simpa only [List.map_cons, List.mem_cons] using hn
        exact (this.resolve_right hmr).symm
      have hk (x : Warp) : (r.foldl atPc x).thread m = x.thread m :=
        List.foldlRecOn (motive := fun y : Warp => y.thread m = x.thread m) r atPc rfl fun y hy a ha =>
          (thread_setThread_ne _ (ne_of_mem_of_not_mem (List.mem_map_of_mem ha) hmr).symm).trans hy
      rw [List.foldl_cons, hk, atPc, hp, thread_setThread_of_lt m _ hm, if_pos rfl]
      exact h p (List.mem_cons_self ..) hp

theorem mem_lanes {w : Warp} {f : Fields} {l : Nat} (h : l ∈ (issueOf w f).lanes) : l ∈ w.bundle := (List.mem_filter.mp h).1

/-- A lane of the bundle of an instruction that ends stands at the next slot. -/
theorem advance_fall_pc {w x : Warp} (f : Fields) {l : Nat} (hl : l ∈ w.bundle) (hx : l < x.threads.length) :
    ((x.advance (fall w)).thread l).pc = (issueOf w f).nxt := by
  refine advance_pc hx (by simpa [fall] using hl) fun p hp _ => ?_
  obtain ⟨_, _, rfl⟩ := List.mem_map.mp hp
  rfl

theorem kvGet_map_const {α : Type} (ls : List Nat) (l : Nat) (a d : α) : kvGet (ls.map fun l => (l, a)) l d = if l ∈ ls then a else d := by
  induction ls with
  | nil => rfl
  | cons k r ih =>
    rw [List.map_cons, kvGet, ih]
    by_cases h : k = l
    · simp [h]
    · simp [h, Ne.symm h]

/-- A lane of the bundle of an instruction that has some lanes stay at a PC: it stands there if it is one of them, else at the next slot. -/
theorem advance_at_pc {w x : Warp} (f : Fields) {l : Nat} (ls : List Nat) (pc : W64) (hl : l ∈ w.bundle) (hx : l < x.threads.length) :
    ((x.advance ((fall w).map fun p => (p.1, kvGet (ls.map fun l => (l, pc)) p.1 p.2))).thread l).pc =
      if l ∈ ls then pc else (issueOf w f).nxt := by
  refine advance_pc hx (by simpa [fall] using hl) fun p hp he => ?_
  obtain ⟨q, hq, rfl⟩ := List.mem_map.mp hp
  obtain ⟨_, _, rfl⟩ := List.mem_map.mp hq
  dsimp only at he ⊢
  rw [kvGet_map_const, he]
  rfl

end Sys2Proof.Claims
end

section
namespace Sys2Proof.Claims

set_option Elab.async false

open Sys2Proof Sys2Proof.Machine

/-! ### Named barriers (08 R228, R229) -/

theorem nbar_setNbar (s : State) (core k : Nat) (b : NBar) : (s.setNbar core k b).nbar core k = b := by
  simp [State.nbar, State.setNbar]

/-! #### The release of the threads that wait -/

/-- A warp as the release of a named barrier leaves it: its threads that wait there go on and acquire. -/
def nbarWoken (core block bar : Nat) (cov : List Nat) (w : Warp) : Warp :=
  if w.core != core || w.block != block then w
  else { w with threads := w.threads.map fun t => match t.wait with
    | .nbar k _ => if t.st == .waiting && k == bar then (threadAcquires cov t).wake else t
    | _ => t }

theorem nbarRelease_eq (s : State) (core block bar : Nat) (cov : List Nat) :
    s.nbarRelease core block bar cov = { s with warps := s.warps.map (nbarWoken core block bar cov) } := rfl

section
variable (core block bar : Nat) (cov : List Nat) (w : Warp)

theorem nbarWoken_key : (nbarWoken core block bar cov w).key = w.key :=
  iteInduction (motive := fun x : Warp => x.key = w.key) (fun _ => rfl) fun _ => rfl

theorem nbarWoken_length : (nbarWoken core block bar cov w).threads.length = w.threads.length :=
  iteInduction (motive := fun x : Warp => x.threads.length = w.threads.length) (fun _ => rfl) fun _ => List.length_map ..

variable {core block bar cov w} {l : Nat} (hl : l < w.threads.length)
include hl

/-- A thread that does not wait stays as it is. -/
theorem nbarWoken_ready (h : (w.thread l).st = .ready) : (nbarWoken core block bar cov w).thread l = w.thread l := by
  unfold nbarWoken
  split
  · rfl
  · rw [thread_mapThreads w _ hl]
    split
    · rw [h]
      rfl
    · rfl

/-- A thread that waits at the barrier goes on behind its instruction. -/
theorem nbarWoken_waiting (hc : w.core = core) (hb : w.block = block) (hst : (w.thread l).st = .waiting) {ph : Bool}
    (hw : (w.thread l).wait = .nbar bar ph) :
    ((nbarWoken core block bar cov w).thread l).st = .ready ∧ ((nbarWoken core block bar cov w).thread l).pc = nextPc (w.thread l).pc := by
  have he : (nbarWoken core block bar cov w).thread l = (threadAcquires cov (w.thread l)).wake := by
    unfold nbarWoken
    rw [if_neg (by simp [hc, hb]), thread_mapThreads w _ hl, hw, hst]
    exact if_pos (by simp)
  rw [he]
  exact ⟨rfl, rfl⟩

end

/-! #### What an arrival does -/

/-- The number of threads that an `nbar` gives (R229). -/
def nbarNumber (f : Fields) (i : Iss) : Nat := if f.a = 0xF0 then f.im else readReg i.w f.a 0 false i.low

/-- A number that so many arrivals at a barrier cannot count towards (R229). -/
abbrev NbarBad (b : NBar) (n m : Nat) : Prop :=
  n = 0 ∨ 3072 < n ∨ (b.count = 0 ∧ n < m) ∨ (b.count ≠ 0 ∧ (n ≠ b.count ∨ b.count < b.arrived + m))

/-- What the threads that have arrived release, those of an issue with them. -/
def nbarCovered (s : State) (core k : Nat) (i : Iss) : List Nat := union (s.nbar core k).covered (i.w.coveredBy i.lanes)

/-- The state in which the last threads have arrived: the other phase, and the threads that waited go on. -/
def nbarEnded (s : State) (core k : Nat) (i : Iss) : State :=
  (s.setNbar core k { phase := !(s.nbar core k).phase }).nbarRelease core i.w.block k (nbarCovered s core k i)

/-- The state in which threads have arrived that are not the last. -/
def nbarCounted (s : State) (core k n : Nat) (i : Iss) : State :=
  s.setNbar core k { s.nbar core k with
    count := n, arrived := (s.nbar core k).arrived + i.lanes.length, covered := nbarCovered s core k i }

/-- The threads of an issue wait at a named barrier. -/
def nbarParked (s : State) (core k : Nat) (i : Iss) (w : Warp) : Warp :=
  w.setLanes i.lanes fun _ t => { t with st := .waiting, wait := .nbar k (s.nbar core k).phase }

/-- Threads of an issue acquire. -/
def acquires (i : Iss) (cov : List Nat) (w : Warp) : Warp := w.setLanes i.lanes fun _ t => threadAcquires cov t

section
variable {f : Fields} {sync : Bool} {i : Iss} {s : State} {core k : Nat} (hn : nbarOf s i.w (f.aux % 16) = some (core, k))
include hn

theorem nbarBody_eq : nbarBody f sync i s =
    if NbarBad (s.nbar core k) (nbarNumber f i) i.lanes.length then trapAll i 0x064
    else if i.w.busyLanes i.lanes || !gateOpen s i.w.core 2 (i.w.coveredBy i.lanes) then .hold (i.back s)
    else if (s.nbar core k).arrived + i.lanes.length = nbarNumber f i then
      .done (if sync then (nbarEnded s core k i).upd i (acquires i (nbarCovered s core k i)) else nbarEnded s core k i)
    else if sync then
      .jump ((nbarCounted s core k (nbarNumber f i) i).upd i (nbarParked s core k i)) (i.lanes.map fun l => (l, i.pc))
    else .done (nbarCounted s core k (nbarNumber f i) i) := by
  unfold nbarBody
  simp only [hn]
  refine if_congr ?_ rfl rfl
  unfold NbarBad nbarNumber
  by_cases hc : (s.nbar core k).count = 0 <;> simp [hc, or_assoc]

end

/-- The last threads of a number have arrived: the barrier is in its other phase, every warp's threads that wait there have gone on, and
those of the issue, which do not wait, are as ready as they were. -/
theorem nbarEnded_spec {i : Iss} {s : State} {core k : Nat} {x : Warp} (hx : s.warp? i.w.key = some x) (sync : Bool) :
    let cov := nbarCovered s core k i
    let t := if sync then (nbarEnded s core k i).upd i (acquires i cov) else nbarEnded s core k i
    t.mem = s.mem ∧ t.nbar core k = { phase := !(s.nbar core k).phase } ∧
    (∀ q, q ≠ i.w.key → t.warp? q = (s.warp? q).map (nbarWoken core i.w.block k cov)) ∧
    ∃ y, t.warp? i.w.key = some y ∧ y.threads.length = x.threads.length ∧
      ∀ l, l < x.threads.length → (x.thread l).st = .ready → (y.thread l).st = .ready := by
  intro cov t
  have hw (q : Nat) : (nbarEnded s core k i).warp? q = (s.warp? q).map (nbarWoken core i.w.block k cov) := by
    unfold nbarEnded
    rw [nbarRelease_eq, warp?_mapWarps _ fun _ => nbarWoken_key ..]
    rfl
  have hnb : (nbarEnded s core k i).nbar core k = { phase := !(s.nbar core k).phase } := nbar_setNbar ..
  have hy : (nbarEnded s core k i).warp? i.w.key = some (nbarWoken core i.w.block k cov x) := by rw [hw, hx]; rfl
  have hready (l : Nat) (hl : l < x.threads.length) (h : (x.thread l).st = .ready) :
      ((nbarWoken core i.w.block k cov x).thread l).st = .ready := (congrArg Thread.st (nbarWoken_ready hl h)).trans h
  cases sync with
  | false => exact ⟨rfl, hnb, fun q _ => hw q, _, hy, nbarWoken_length .., hready⟩
  | true =>
    have hk (y : Warp) : (acquires i cov y).key = y.key := setLanes_key ..
    refine ⟨upd_mem .., ((withWarp_sameButWarps ..).field (·.nbar core k)).trans hnb,
      fun q hq => (State.warp?_withWarp_ne hk hq).trans (hw q), _,
      State.warp?_withWarp hy ((hk _).trans (State.warp?_key hy)), (setLanes_length ..).trans (nbarWoken_length ..), fun l hl h => ?_⟩
    exact (setLanes_keeps (·.st) (nbarWoken core i.w.block k cov x) i.lanes (g := fun _ t => threadAcquires cov t) l fun _ _ => rfl).trans
      (hready l hl h)

theorem nbarArrivals : NamedBarriers := by
  intro s w f core k one
  have arrive {i : Instr} {op : Nat} {sync : Bool} (hf : fieldsOf i = some (op, f))
      (he : exec i s = issueSplit i s (allScalar f) {} (nbarBody f sync)) : one i sync := by
    intro h hs hn j b n bad
    have hw := warp?_self h.1
    have hc := counted_sameButWarps s w
    have hx := counted_warp? hw
    have hbar : (counted s w).nbar core k = b := hc.field (·.nbar core k)
    have hbody := nbarBody_eq (sync := sync) (i := j) ((hc.field (nbarOf · w (f.aux % 16))).trans hn)
    rw [hbar] at hbody
    have hlen : (w.countIssue w.bundle).threads.length = w.threads.length := countIssue_length ..
    have hst (l : Nat) : ((w.countIssue w.bundle).thread l).st = (w.thread l).st := countIssue_keeps (·.st) w w.bundle l
    refine ⟨fun hbad => ?_, fun hok hwait => ?_, fun hok hbusy hgate => ?_⟩
    · exact he.trans (issueSplit_trapped hf h hs (hbody.trans (if_pos hbad)))
    · have hwaits : (w.busyLanes j.lanes || !gateOpen (counted s w) w.core 2 (w.coveredBy j.lanes)) = true := by
        rcases hwait with hb | hg
        · rw [hb, Bool.true_or]
        · rw [hg, Bool.not_false, Bool.or_true]
      have hbody := (hbody.trans (if_neg hok)).trans (if_pos hwaits)
      exact he.trans (issueSplit_held hf h hs hbody)
    · have hgoes : ¬(w.busyLanes j.lanes || !gateOpen (counted s w) w.core 2 (w.coveredBy j.lanes)) = true := by
        rw [hbusy, hgate]
        exact Bool.false_ne_true
      have hbody := (hbody.trans (if_neg hok)).trans (if_neg hgoes)
      by_cases hlast : b.arrived + j.lanes.length = n
      · have hbody := hbody.trans (if_pos hlast)
        obtain ⟨hmem, hnb, hne, y, hy, hyl, hready⟩ := nbarEnded_spec (i := j) (core := core) (k := k) hx sync
        refine ⟨_, he.trans (issueSplit_done hf h hs hbody), (ends_mem ..).trans (hmem.trans (counted_mem s w)),
          fun hn => absurd hlast hn, fun _ hall => ⟨_, ends_warp? hy, fun l hl => ?_⟩, fun _ => ⟨?_, ?_⟩⟩
        · obtain ⟨hr, hlt⟩ := hall l (mem_lanes hl)
          refine ⟨(advance_keeps (·.st) y (fall w) l).trans (hready l (hlen ▸ hlt) ((hst l).trans hr)), ?_⟩
          exact advance_fall_pc f (mem_lanes hl) (by rw [hyl, hlen]; exact hlt)
        · exact ((ends_sameButWarps ..).field (·.nbar core k)).trans (hbar ▸ hnb)
        · intro q z l ph hq hz hcore hblock hl hwaits hwait
          have hz : (counted s w).warp? q = some z := (counted_warp?_ne hq).trans hz
          exact ⟨_, (ends_warp?_ne hq).trans ((hne q hq).trans (congrArg _ hz)), nbarWoken_waiting hl hcore hblock hwaits hwait⟩
      · have hbody := hbody.trans (if_neg hlast)
        have hcount : (nbarCounted (counted s w) core k n j).nbar core k =
            { b with count := n, arrived := b.arrived + j.lanes.length, covered := union b.covered (w.coveredBy j.lanes) } :=
          (nbar_setNbar ..).trans (by rw [nbarCovered, hbar]; rfl)
        cases sync with
        | true =>
          have hz : ((nbarCounted (counted s w) core k n j).upd j (nbarParked (counted s w) core k j)).warp? w.key =
              some (nbarParked (counted s w) core k j (w.countIssue w.bundle)) := State.warp?_withWarp hx (setLanes_key ..)
          refine ⟨_, he.trans (issueSplit_jump hf h hs hbody), ?_, fun _ => ⟨?_, fun _ => ⟨_, endsAt_warp? hz _, fun l hl hlt => ?_⟩⟩,
            fun hor => absurd hor (by simp [hlast]), fun hl => absurd hl hlast⟩
          · exact ((endsAt_sameButWarps ..).field (·.mem)).trans ((upd_mem ..).trans (counted_mem s w))
          · exact (((withWarp_sameButWarps ..).trans (endsAt_sameButWarps ..)).field (·.nbar core k)).trans hcount
          · have hlt' : l < (w.countIssue w.bundle).threads.length := hlen ▸ hlt
            have hparked : ((nbarParked (counted s w) core k j (w.countIssue w.bundle)).thread l).st = .waiting ∧
                ((nbarParked (counted s w) core k j (w.countIssue w.bundle)).thread l).wait = .nbar k b.phase :=
              setLanes_reaches (P := fun t => t.st = .waiting ∧ t.wait = .nbar k b.phase) hl hlt' fun _ => ⟨rfl, by rw [hbar]⟩
            refine ⟨(advance_keeps (·.st) ..).trans hparked.1, (advance_keeps (·.wait) ..).trans hparked.2, ?_⟩
            exact (advance_at_pc f j.lanes j.pc (mem_lanes hl) (by rw [nbarParked, setLanes_length]; exact hlt')).trans (if_pos hl)
        | false =>
          refine ⟨_, he.trans (issueSplit_done hf h hs hbody), (ends_mem ..).trans (counted_mem s w), fun _ => ⟨?_, fun hn => nomatch hn⟩,
            fun _ hall => ⟨_, ends_warp? hx, fun l hl => ?_⟩, fun hl => absurd hl hlast⟩
          · exact ((ends_sameButWarps ..).field (·.nbar core k)).trans hcount
          · obtain ⟨hr, hlt⟩ := hall l (mem_lanes hl)
            exact ⟨(advance_keeps (·.st) ..).trans ((hst l).trans hr), advance_fall_pc f (mem_lanes hl) (hlen ▸ hlt)⟩
  exact ⟨arrive rfl rfl, arrive rfl rfl⟩

/-- Settles O27: what `nbar` does is one function of the state, the number given and the threads that have arrived (`nbarBody_eq`). -/
theorem namedBarriers : Obligations.NamedBarriers := nbarArrivals

end Sys2Proof.Claims
end

section
namespace Sys2Proof.Claims

set_option Elab.async false

open Sys2Proof Sys2Proof.Machine

/-! ### Numbers in memory (01 R2), and bytes written at an on-chip home -/

/-- A number in memory is given by its bytes. -/
theorem memNat_congr {m m' : Memory} {a : Nat} (n : Nat) (h : ∀ i < n, memGet m (a + i) = memGet m' (a + i)) : memNat m a n = memNat m' a n := by
  induction n generalizing a with
  | zero => rfl
  | succ n ih =>
    unfold memNat
    rw [show memGet m a = memGet m' a from h 0 n.succ_pos, ih fun i hi => ?_]
    rw [Nat.add_assoc, Nat.add_comm 1]
    exact h (i + 1) (by omega)

/-- A number whose bytes stand in memory. -/
theorem memNat_of_bytes {m : Memory} {a n x : Nat} (h : ∀ i < n, memGet m (a + i) = BitVec.ofNat 8 (x / 256 ^ i)) :
    memNat m a n = x % 256 ^ n := by
  induction n generalizing a x with
  | zero => rw [Nat.pow_zero, Nat.mod_one]; rfl
  | succ n ih =>
    have hb : (memGet m a).toNat = x % 256 := by
      rw [show memGet m a = _ from h 0 n.succ_pos, BitVec.toNat_ofNat, Nat.pow_zero, Nat.div_one]
    have hr : memNat m (a + 1) n = x / 256 % 256 ^ n := ih fun i hi => by
      rw [Nat.add_assoc, Nat.add_comm 1, h (i + 1) (by omega), Nat.pow_succ', Nat.div_div_eq_div_mul]
    unfold memNat
    rw [hb, hr, Nat.pow_succ', Nat.mod_mul]

/-- A number just written. -/
theorem memNat_putAll_same {m : Memory} (h : m.wf = true) (a n x : Nat) : memNat (memPutAll m (cellsAt a (bytesOf n x))) a n = x % 256 ^ n := by
  refine memNat_of_bytes fun i hi => ?_
  rw [memGet_putAll_cellsAt h, length_bytesOf, if_pos (by omega), Nat.add_sub_cancel_left, getD_bytesOf x hi]

/-- A number that what is written does not overlap. -/
theorem memNat_putAll_apart {m : Memory} (h : m.wf = true) {a b : Nat} {bs : List Byte} {n : Nat} (hd : b + n ≤ a ∨ a + bs.length ≤ b) :
    memNat (memPutAll m (cellsAt a bs)) b n = memNat m b n :=
  memNat_congr n fun i hi => by rw [memGet_putAll_cellsAt h, if_neg (by omega)]

/-- Numbers written one after another at places apart all stand there in the end. -/
theorem memNat_writes {at_ x : Nat → Nat} {w n : Nat} {m : Memory} (h : m.wf = true)
    (hd : ∀ i j, i < j → j < n → at_ i + w ≤ at_ j ∨ at_ j + w ≤ at_ i) {i : Nat} (hi : i < n) :
    memNat ((List.range n).foldl (fun m j => memPutAll m (cellsAt (at_ j) (bytesOf w (x j)))) m) (at_ i) w = x i % 256 ^ w := by
  have hwf (n : Nat) : ((List.range n).foldl (fun m j => memPutAll m (cellsAt (at_ j) (bytesOf w (x j)))) m).wf = true :=
    List.foldlRecOn (motive := fun m : Memory => m.wf = true) _ _ h fun _ hm _ _ => memPutAll_wf _ hm
  induction n with
  | zero => omega
  | succ n ih =>
    rw [List.range_succ, List.foldl_append, List.foldl_cons, List.foldl_nil]
    by_cases he : i = n
    · subst he
      exact memNat_putAll_same (hwf i) ..
    · rw [memNat_putAll_apart (hwf n) (by rw [length_bytesOf]; exact hd i n (by omega) n.lt_succ_self)]
      exact ih (fun i j hij hj => hd i j hij (by omega)) (by omega)

@[simp] theorem poke_mem (s : State) (loc : Nat) (bs : List Byte) : (s.poke loc bs).mem = memPutAll s.mem (cellsAt loc bs) := rfl
@[simp] theorem poke_warps (s : State) (loc : Nat) (bs : List Byte) : (s.poke loc bs).warps = s.warps := rfl
@[simp] theorem poke_cores (s : State) (loc : Nat) (bs : List Byte) : (s.poke loc bs).cores = s.cores := rfl
@[simp] theorem poke_qwaits (s : State) (loc : Nat) (bs : List Byte) : (s.poke loc bs).qwaits = s.qwaits := rfl

end Sys2Proof.Claims
end

section
namespace Sys2Proof.Claims

set_option Elab.async false

open Sys2Proof Sys2Proof.Machine

/-! ### Queues (08 R230 to R233) -/

@[simp] theorem queue_setQueue (s : State) (core k : Nat) (q : QDesc) : (s.setQueue core k q).queue core k = q := by
  simp [State.queue, State.setQueue]

/-- A shape that `qinit` refuses (R232). -/
abbrev QinitBad (f : Fields) (i : Iss) (s : State) : Prop :=
  8 < f.im % 16 ∨ 2 ^ (f.im % 16) < bitsOf f.im 16 9 ∨ readReg i.w f.a 0 false i.low % 4 ≠ 0 ∨
    ((s.block? i.w.block).map (·.spad)).getD 0 < readReg i.w f.a 0 false i.low + 4 * 2 ^ (f.im % 16)

/-- What `qinit` does in its warp. -/
def qinitBody (f : Fields) (i : Iss) (s : State) : Eff :=
  match queueOf s i.w f.aux with
  | none => trapAll i 0x068
  | some (core, k, _) =>
    if QinitBad f i s then trapAll i 0x06A
    else .done (s.setQueue core k { base := BitVec.ofNat 32 (readReg i.w f.a 0 false i.low), logn := f.im % 16, valid := true
                                    allow := bitsOf f.im 16 9 })

theorem exec_qinit (f : Fields) (s : State) : exec (.qinit f) s = issueSplit (.qinit f) s (allScalar f) {} (qinitBody f) := by
  change execQinit f s = _
  unfold execQinit
  congr 1
  funext i u
  unfold qinitBody QinitBad
  cases queueOf u i.w f.aux with
  | none => rfl
  | some p => exact if_congr (by simp [or_assoc]) rfl rfl

/-- `qinit` by the checks of its shape. -/
theorem queueInits : QueueInits := by
  intro s w f h hs j logn allow base bad
  have hc := counted_sameButWarps s w
  have hq : queueOf (counted s w) j.w f.aux = queueOf s w f.aux := hc.field (queueOf · w f.aux)
  have hbad : QinitBad f j (counted s w) ↔ bad := iff_of_eq (hc.field (QinitBad f j))
  rw [exec_qinit]
  refine ⟨fun hn => issueSplit_trapped rfl h hs ?_, fun c k a hn => ⟨fun hb => issueSplit_trapped rfl h hs ?_, fun hok => ⟨_, issueSplit_done
    (t := (counted s w).setQueue c k { base := BitVec.ofNat 32 base, logn := logn, valid := true, allow := allow }) rfl h hs ?_, ?_, ?_⟩⟩⟩
  · rw [qinitBody, hq.trans hn]
    rfl
  · rw [qinitBody, hq.trans hn]
    exact if_pos (hbad.mpr hb)
  · rw [qinitBody, hq.trans hn]
    exact if_neg (mt hbad.mp hok)
  · exact (ends_mem ..).trans (counted_mem s w)
  · exact ((ends_sameButWarps ..).field (·.queue c k)).trans (queue_setQueue ..)

/-! #### The steps of a queue -/

section
variable (s : State) (core k sBase : Nat) (vals : List W32) (cov : List Nat)

theorem pushVals_queue : (s.pushVals core k sBase vals cov).queue core k =
    { s.queue core k with
      tail := (s.queue core k).tail + BitVec.ofNat 16 vals.length, allow := (s.queue core k).allow - vals.length
      covs := (s.queue core k).covs ++ vals.map fun _ => cov } := queue_setQueue ..

theorem pushVals_warps : (s.pushVals core k sBase vals cov).warps = s.warps := foldl_kept (·.warps) (fun s _ => poke_warps s _ _) ..

theorem pushVals_qwaits : (s.pushVals core k sBase vals cov).qwaits = s.qwaits := foldl_kept (·.qwaits) (fun s _ => poke_qwaits s _ _) ..

theorem pushVals_mem : (s.pushVals core k sBase vals cov).mem =
    (List.range vals.length).foldl (fun m j => memPutAll m
      (cellsAt ((s.queue core k).slot core sBase ((s.queue core k).tail.toNat + j)) (bytesOf 4 (vals.getD j 0).toNat))) s.mem := by
  change State.mem (List.foldl _ s _) = _
  generalize s.queue core k = q
  induction List.range vals.length generalizing s with
  | nil => rfl
  | cons j r ih =>
    rw [List.foldl_cons, List.foldl_cons, ih, poke_mem]

end

/-- The slots behind a point of the ring lie apart, as long as they are no more than the ring has. -/
theorem slots_apart (q : QDesc) (core sBase t : Nat) {i j : Nat} (h : i < j) (hj : j < 2 ^ q.logn) :
    q.slot core sBase (t + i) + 4 ≤ q.slot core sBase (t + j) ∨ q.slot core sBase (t + j) + 4 ≤ q.slot core sBase (t + i) := by
  have hne : (t + i) % 2 ^ q.logn ≠ (t + j) % 2 ^ q.logn := fun he => by
    have hm : i % 2 ^ q.logn = j % 2 ^ q.logn := Nat.ModEq.add_left_cancel' t he
    rw [Nat.mod_eq_of_lt hj, Nat.mod_eq_of_lt (by omega)] at hm
    omega
  unfold QDesc.slot locChip
  omega

/-- The values pushed stand in the slots behind TAIL. -/
theorem pushVals_slots {s : State} {core k sBase : Nat} {vals : List W32} {cov : List Nat} (h : s.mem.wf = true)
    (hlen : vals.length ≤ 2 ^ (s.queue core k).logn) {n : Nat} (hn : n < vals.length) :
    memNat (s.pushVals core k sBase vals cov).mem ((s.queue core k).slot core sBase ((s.queue core k).tail.toNat + n)) 4 =
      (vals.getD n 0).toNat := by
  rw [pushVals_mem, memNat_writes (x := fun j => (vals.getD j 0).toNat) h
    (fun i j hij hj => slots_apart _ core sBase _ hij (by omega)) hn]
  exact Nat.mod_eq_of_lt (vals.getD n 0).isLt

/-- The warp whose waiting or issuing pop takes these values, and what their pushes released. -/
def popped (x : QWait) (vals cov : List Nat) (w : Warp) : Warp :=
  (w.setLanes x.lanes fun _ t => threadAcquires cov t).putAll
    (if isScal x.dst then destWrites x.dst false (x.lanes.headD 0) (vals.headD 0)
     else ((List.range x.lanes.length).map fun j => destWrites x.dst false (x.lanes.getD j 0) (vals.getD j 0)).flatten)

/-- A warp with the predicates of a timed form. -/
def timedPred (x : QWait) (ok : Bool) (w : Warp) : Warp :=
  match x.pred with
  | none => w
  | some p => w.putAll (x.lanes.flatMap fun l => destWrites p false l (bitOf ok))

theorem timedPred_key (x : QWait) (ok : Bool) (w : Warp) : (timedPred x ok w).key = w.key := by
  unfold timedPred
  split
  · rfl
  · exact putAll_key ..

theorem queuePred_eq (s : State) (x : QWait) (ok : Bool) :
    s.queuePred x ok = match x.pred with | none => s | some _ => s.withWarp x.warp (timedPred x ok) := by
  unfold State.queuePred timedPred
  cases x.pred <;> rfl

theorem queuePred_sameButWarps (s : State) (x : QWait) (ok : Bool) : SameButWarps s (s.queuePred x ok) := by
  rw [queuePred_eq]
  split
  · exact .refl s
  · exact withWarp_sameButWarps ..

theorem queuePred_warp? {s : State} {x : QWait} {w : Warp} (h : s.warp? x.warp = some w) (ok : Bool) :
    (s.queuePred x ok).warp? x.warp = some (timedPred x ok w) := by
  rw [queuePred_eq]
  cases hp : x.pred with
  | none => exact h.trans (by rw [timedPred, hp])
  | some p => exact State.warp?_withWarp h ((timedPred_key ..).trans (State.warp?_key h))

theorem timedPred_length (x : QWait) (ok : Bool) (w : Warp) : (timedPred x ok w).threads.length = w.threads.length := by
  unfold timedPred
  split
  · rfl
  · exact putAll_length ..

theorem timedPred_keeps {α : Type} (π : Thread → α) (x : QWait) (ok : Bool) (w : Warp) (m : Nat)
    (h : ∀ t v p, π { t with v := v, p := p } = π t := by intros; rfl) : π ((timedPred x ok w).thread m) = π (w.thread m) := by
  unfold timedPred
  split
  · rfl
  · exact putAll_keeps π _ _ m h

theorem queueDo_push {x : QWait} (h : x.push = true) (s : State) (sBase : Nat) :
    s.queueDo x sBase = s.pushVals x.owner x.id sBase x.vals x.covered := if_pos h

/-- The queue and the values of a pop. -/
theorem queueDo_pop {x : QWait} (h : x.push = false) (s : State) (sBase : Nat) : s.queueDo x sBase =
    (s.setQueue x.owner x.id { s.queue x.owner x.id with
      head := (s.queue x.owner x.id).head + BitVec.ofNat 16 x.count, allow := (s.queue x.owner x.id).allow + x.count
      covs := (s.queue x.owner x.id).covs.drop x.count }).withWarp x.warp (popped x
        ((List.range x.count).map fun j => memNat s.mem ((s.queue x.owner x.id).slot x.owner sBase ((s.queue x.owner x.id).head.toNat + j)) 4)
        (((s.queue x.owner x.id).covs.take x.count).foldl union [])) :=
  if_neg (by simp [h])

theorem popped_key (x : QWait) (vals cov : List Nat) (w : Warp) : (popped x vals cov w).key = w.key :=
  (putAll_key ..).trans (setLanes_key ..)

/-! #### A push or a pop as it issues -/

/-- What a push or a pop puts to its queue. -/
def queueRequest (f : Fields) (push : Bool) (i : Iss) (s : State) (core k : Nat) : QWait :=
  { owner := core, id := k, warp := i.w.key, lanes := i.lanes, push := push
    vals := if !push then [] else if isVec f.a then i.lanes.map fun l => BitVec.ofNat 32 (if f.a = 0xF1 then f.im else readReg i.w f.a 0 false l)
      else [BitVec.ofNat 32 (if f.a = 0xF1 then f.im else readReg i.w f.a 0 false i.low)]
    covered := i.w.coveredBy i.lanes, dst := f.d, pred := if f.ty == 1 then some f.b else none
    deadline := if f.ty == 1 then some (s.cyclesOf i.w.core + timeoutOf i f.c) else none, span := timeoutOf i f.c }

/-- The warp whose threads wait at a queue. -/
def queueParked (x : QWait) (w : Warp) : Warp :=
  w.setLanes x.lanes fun _ t => { t with st := .waiting, wait := .queue x.push x.owner x.id }

/-- The state in which a push or a pop waits, after what waits already. -/
def queueJoined (s : State) (i : Iss) (x : QWait) : State := { s.upd i (queueParked x) with qwaits := s.qwaits ++ [x] }

theorem queueBody_eq {f : Fields} {push : Bool} {i : Iss} {s : State} {core k : Nat} {a : Allot} (h : queueOf s i.w f.aux = some (core, k, a)) :
    queueBody f push i s =
      if !(s.queue core k).valid then trapAll i 0x068
      else if 2 ^ (s.queue core k).logn < (queueRequest f push i s core k).count then trapAll i 0x069
      else if push && (i.w.busyLanes i.lanes || !gateOpen s i.w.core 3 (i.w.coveredBy i.lanes)) then .hold (i.back s)
      else if (s.queue core k).ready push (queueRequest f push i s core k).count then
        .done ((s.queueDo (queueRequest f push i s core k) a.sBase).queuePred (queueRequest f push i s core k) true)
      else if f.ty = 1 ∧ timeoutOf i f.c = 0 then .done (s.queuePred (queueRequest f push i s core k) false)
      else .jump (queueJoined s i (queueRequest f push i s core k)) (i.lanes.map fun l => (l, i.pc)) := by
  unfold queueBody
  simp only [h]
  have hj : { s.upd i fun w => w.setLanes i.lanes fun _ th => { th with st := .waiting, wait := .queue push core k } with
      qwaits := (s.upd i fun w => w.setLanes i.lanes fun _ th => { th with st := .waiting, wait := .queue push core k }).qwaits ++
        [queueRequest f push i s core k] } = queueJoined s i (queueRequest f push i s core k) :=
    congrArg (fun q => { s.upd i (queueParked (queueRequest f push i s core k)) with qwaits := q ++ [queueRequest f push i s core k] })
      ((withWarp_sameButWarps s i.w.key _).field (·.qwaits))
  congr 4
  refine if_congr (by simp) rfl (congrArg (Eff.jump · _) hj)

end Sys2Proof.Claims
end

section
namespace Sys2Proof.Claims

set_option Elab.async false

open Sys2Proof Sys2Proof.Machine

/-! ### Pushes and pops that take place as they issue (08 R233) -/

/-! #### The scalar and vector registers of a warp, whatever else of it changes -/

/-- Warps with the same scalar and vector registers. -/
def SameVals (x y : Warp) : Prop := y.s = x.s ∧ y.threads.length = x.threads.length ∧ ∀ l, (y.thread l).v = (x.thread l).v

section
variable {x y z : Warp}

theorem SameVals.trans (h : SameVals x y) (hz : SameVals y z) : SameVals x z :=
  ⟨hz.1.trans h.1, hz.2.1.trans h.2.1, fun l => (hz.2.2 l).trans (h.2.2 l)⟩

theorem thread_of_length_le {w : Warp} {l : Nat} (h : w.threads.length ≤ l) : w.thread l = {} := by simp [Warp.thread, h]

/-- A register write gives the same values in warps that have the same. -/
theorem SameVals.put (h : SameVals x y) (r : RegWrite) : SameVals (x.put r) (y.put r) := by
  obtain ⟨hs, hlen, hv⟩ := h
  obtain ⟨ref, v⟩ := r
  have set (m : Nat) {g : Thread → Thread} (hg : ∀ t u : Thread, t.v = u.v → (g t).v = (g u).v) :
      SameVals (x.setThread m g) (y.setThread m g) := by
    refine ⟨hs, by rw [setThread_length, setThread_length, hlen], fun l => ?_⟩
    rcases Nat.lt_or_ge l x.threads.length with hl | hl
    · rw [thread_setThread_of_lt m g hl, thread_setThread_of_lt m g (hlen ▸ hl)]
      split
      · exact hg _ _ (hv l)
      · exact hv l
    · rw [thread_of_length_le (by rwa [setThread_length, hlen]), thread_of_length_le (by rwa [setThread_length])]
  cases ref with
  | v m k => exact set m fun t u he => by simp [he]
  | s k => exact ⟨congrArg (listAt · k _) hs, hlen, hv⟩
  | p m k =>
    unfold Warp.put
    dsimp only
    split
    · exact ⟨hs, hlen, hv⟩
    · exact set m fun _ _ he => he

theorem SameVals.putFrom (h : SameVals x y) (limit limit' : Option Nat) (rs : List RegWrite) :
    SameVals (x.putFrom limit rs) (y.putFrom limit' rs) := by
  have hp : SameVals (rs.foldl Warp.put x) (rs.foldl Warp.put y) := by
    induction rs generalizing x y with
    | nil => exact h
    | cons r rs ih => exact ih (h.put r)
  exact hp

theorem SameVals.putAll (h : SameVals x y) (rs : List RegWrite) : SameVals (x.putAll rs) (y.putAll rs) := h.putFrom none none rs

theorem sameVals_setLanes (w : Warp) (ls : List Nat) {g : Nat → Thread → Thread} (h : ∀ l t, (g l t).v = t.v) : SameVals w (w.setLanes ls g) :=
  ⟨List.foldlRecOn (motive := fun x : Warp => x.s = w.s) ls _ rfl fun _ hx _ _ => hx, setLanes_length .., fun m => setLanes_keeps (·.v) w ls m h⟩

end

theorem sameVals_countIssue (w : Warp) (b : List Nat) : SameVals w (w.countIssue b) :=
  ⟨rfl, countIssue_length .., countIssue_keeps (·.v) w b⟩

theorem advance_length (w : Warp) (pcs : List (Nat × W64)) : (w.advance pcs).threads.length = w.threads.length := by
  rw [advance_threads]
  exact foldl_kept (fun x : Warp => x.threads.length) (fun _ _ => setThread_length ..) pcs w

theorem sameVals_advance (w : Warp) (pcs : List (Nat × W64)) : SameVals w (w.advance pcs) :=
  ⟨(advance_sameButThreads w pcs).field (·.s), advance_length .., advance_keeps (·.v) w pcs⟩

/-- A predicate write touches no other register. -/
theorem sameVals_put_pred (w : Warp) (l k : Nat) (v : W64) : SameVals w (w.put ⟨.p l k, v⟩) := by
  unfold Warp.put
  dsimp only
  split
  · exact ⟨rfl, rfl, fun _ => rfl⟩
  · exact ⟨rfl, setThread_length .., fun m => setThread_keeps (·.v) fun _ => rfl⟩

theorem sameVals_putAll_preds (w : Warp) {rs : List RegWrite} (h : ∀ r ∈ rs, ∃ l k, r.ref = .p l k) : SameVals w (w.putAll rs) := by
  refine List.foldlRecOn (motive := fun x : Warp => SameVals w x) rs Warp.put ⟨rfl, rfl, fun _ => rfl⟩ fun x hx r hr => hx.trans ?_
  obtain ⟨l, k, hk⟩ := h r hr
  obtain ⟨ref, v⟩ := r
  cases hk
  exact sameVals_put_pred ..

/-- The writes of a predicate destination. -/
theorem destWrites_of_isPred {x : BitVec 8} (h : isPred x = true) (wide : Bool) (l v : Nat) :
    destWrites x wide l v = [⟨.p l (x.toNat - 0xC0), BitVec.ofNat 64 v⟩] := by
  obtain ⟨h1, h2⟩ : 192 ≤ x.toNat ∧ x.toNat < 200 := by simpa [isPred] using h
  obtain ⟨k, hk, rfl⟩ : ∃ k, k < 8 ∧ x = BitVec.ofNat 8 (0xC0 + k) := ⟨x.toNat - 192, by omega, BitVec.eq_of_toNat_eq (by
    rw [BitVec.toNat_ofNat]
    omega)⟩
  rw [destWrites_pred wide l v hk]
  simp [BitVec.toNat_ofNat, show (192 + k) % 256 = 192 + k by omega]

/-- The predicate of a timed form touches no other register. -/
theorem timedPred_sameVals {x : QWait} (h : ∀ p, x.pred = some p → isPred p = true) (ok : Bool) (w : Warp) : SameVals w (timedPred x ok w) := by
  unfold timedPred
  split
  · exact ⟨rfl, rfl, fun _ => rfl⟩
  · next p hp =>
    refine sameVals_putAll_preds w fun r hr => ?_
    obtain ⟨l, _, hl⟩ := List.mem_flatMap.mp hr
    rw [destWrites_of_isPred (h p hp), List.mem_singleton] at hl
    exact ⟨_, _, congrArg RegWrite.ref hl⟩

/-- A checked instruction's B is one that its table entry takes. -/
theorem b_ok_of_checkFields {e : Entry} {f : Fields} {vregs sregs : Nat} (h : checkFields e f vregs sregs = none) :
    e.b.ok vregs sregs f.b = true := by
  unfold checkFields at h
  dsimp only at h
  split at h
  · cases h
  split at h
  · cases h
  split at h
  · cases h
  · split_ifs at h with _ _ hb
    simpa using hb

end Sys2Proof.Claims
end

section
namespace Sys2Proof.Claims

set_option Elab.async false

open Sys2Proof Sys2Proof.Machine

/-! #### What a push or a pop asks of its queue -/

section
variable (f : Fields) (push : Bool) (i : Iss) (s : State) (core k : Nat)

/-- The number that a push takes from a lane. -/
def pushOperand (f : Fields) (i : Iss) (l : Nat) : Nat := if f.a = 0xF1 then f.im else readReg i.w f.a 0 false l

/-- The numbers that a push puts into its queue. -/
def pushed (f : Fields) (i : Iss) : List Nat := if isVec f.a then i.lanes.map (pushOperand f i) else [pushOperand f i i.low]

theorem pushed_length : (pushed f i).length = if isVec f.a then i.lanes.length else 1 := by
  unfold pushed
  rw [apply_ite List.length, List.length_map, List.length_singleton]

theorem queueRequest_vals : (queueRequest f true i s core k).vals = (pushed f i).map (BitVec.ofNat 32) := by
  unfold pushed
  rw [apply_ite (List.map (BitVec.ofNat 32)), List.map_map]
  rfl

theorem queueRequest_count : (queueRequest f push i s core k).count =
    if push then (if isVec f.a then i.lanes.length else 1) else if isScal f.d then 1 else i.lanes.length := by
  unfold QWait.count
  cases push with
  | true =>
    rw [← pushed_length f i, ← List.length_map (as := pushed f i) (BitVec.ofNat 32), ← queueRequest_vals f i s core k]
    rfl
  | false => rfl

/-- What a pop takes goes to its lanes in order. -/
theorem popped_writes (vals : List Nat) (h : vals.length = (queueRequest f false i s core k).count) :
    (if isScal f.d then destWrites f.d false (i.lanes.headD 0) (vals.headD 0)
      else ((List.range i.lanes.length).map fun j => destWrites f.d false (i.lanes.getD j 0) (vals.getD j 0)).flatten) =
    ((List.range (if isScal f.d then [i.low] else i.lanes).length).map fun n =>
      destWrites f.d false ((if isScal f.d then [i.low] else i.lanes).getD n 0) (vals.getD n 0)).flatten := by
  split
  · rw [Iss.low]
    cases vals <;> simp
  · rfl

end

/-- The predicate of a timed push or pop is one. -/
theorem queueRequest_pred {s : State} {w : Warp} {i : Instr} {f : Fields} (h : Issues s w i f) (hi : i = .qpush f ∨ i = .qpop f)
    (push : Bool) (j : Iss) (u : State) (core k : Nat) : ∀ p, (queueRequest f push j u core k).pred = some p → isPred p = true := by
  intro p hp
  have hty : f.ty = 1 ∧ f.b = p := by simpa [queueRequest] using hp
  obtain ⟨e, vregs, sregs, he, hc⟩ := checked_of_issues h
  have hb := b_ok_of_checkFields hc
  have heb : e.b = oPred := by
    rcases hi with rfl | rfl
    all_goals
      cases he
      change (if (f.ty == 1) = true then oPred else oNone) = oPred
      rw [hty.1]
      rfl
  rw [heb, hty.2] at hb
  exact isPred_of_oPred hb

/-! #### Pushes and pops at a valid queue that no release holds -/

section
variable {s : State} {w : Warp} {f : Fields} {push : Bool} {c k : Nat} {a : Allot} (hq : queueOf s w f.aux = some (c, k, a))
  (hv : (s.queue c k).valid = true) (hroom : (queueRequest f push (issueOf w f) (counted s w) c k).count ≤ 2 ^ (s.queue c k).logn)
  (hfree : push = true → w.busyLanes (issueOf w f).lanes = false ∧ gateOpen (counted s w) w.core 3 (w.coveredBy (issueOf w f).lanes) = true)
include hq hv hroom hfree

theorem queueBody_served : queueBody f push (issueOf w f) (counted s w) =
    if (s.queue c k).ready push (queueRequest f push (issueOf w f) (counted s w) c k).count then
      .done (((counted s w).queueDo (queueRequest f push (issueOf w f) (counted s w) c k) a.sBase).queuePred
        (queueRequest f push (issueOf w f) (counted s w) c k) true)
    else if f.ty = 1 ∧ timeoutOf (issueOf w f) f.c = 0 then
      .done ((counted s w).queuePred (queueRequest f push (issueOf w f) (counted s w) c k) false)
    else .jump (queueJoined (counted s w) (issueOf w f) (queueRequest f push (issueOf w f) (counted s w) c k))
      ((issueOf w f).lanes.map fun l => (l, (issueOf w f).pc)) := by
  have hc := counted_sameButWarps s w
  have hqc : queueOf (counted s w) (issueOf w f).w f.aux = some (c, k, a) := (hc.field (queueOf · w f.aux)).trans hq
  have hcq : (counted s w).queue c k = s.queue c k := hc.field (·.queue c k)
  have hgoes : ¬(push && (w.busyLanes (issueOf w f).lanes || !gateOpen (counted s w) w.core 3 (w.coveredBy (issueOf w f).lanes))) = true := by
    intro hn
    obtain ⟨hp, hn⟩ := Bool.and_eq_true_iff.mp hn
    rw [(hfree hp).1, (hfree hp).2] at hn
    exact absurd hn (by simp)
  rw [queueBody_eq hqc, hcq, if_neg (by simp [hv]), if_neg (by omega)]
  exact if_neg hgoes

theorem queueBody_goes (hr : (s.queue c k).ready push (queueRequest f push (issueOf w f) (counted s w) c k).count = true) :
    queueBody f push (issueOf w f) (counted s w) = .done
      (((counted s w).queueDo (queueRequest f push (issueOf w f) (counted s w) c k) a.sBase).queuePred
        (queueRequest f push (issueOf w f) (counted s w) c k) true) :=
  (queueBody_served hq hv hroom hfree).trans (if_pos hr)

theorem queueBody_waits (hr : (s.queue c k).ready push (queueRequest f push (issueOf w f) (counted s w) c k).count = false) :
    queueBody f push (issueOf w f) (counted s w) =
      if f.ty = 1 ∧ timeoutOf (issueOf w f) f.c = 0 then
        .done ((counted s w).queuePred (queueRequest f push (issueOf w f) (counted s w) c k) false)
      else .jump (queueJoined (counted s w) (issueOf w f) (queueRequest f push (issueOf w f) (counted s w) c k))
        ((issueOf w f).lanes.map fun l => (l, (issueOf w f).pc)) :=
  (queueBody_served hq hv hroom hfree).trans (if_neg (by simp [hr]))

end

theorem queueSteps : QueueSteps := by
  intro s w f c k a hq j q hv hwf
  have hc := counted_sameButWarps s w
  have hcq : (counted s w).queue c k = q := hc.field (·.queue c k)
  refine ⟨?_, ?_⟩
  · intro h hs hbusy hgate one vals hroom hallow
    let x := queueRequest f true j (counted s w) c k
    let u := (counted s w).pushVals c k a.sBase x.vals x.covered
    have hvals : x.vals = vals.map (BitVec.ofNat 32) := queueRequest_vals ..
    have hlen : x.vals.length = vals.length := by rw [hvals, List.length_map]
    have hcount : x.count = vals.length := by
      rw [queueRequest_count]
      exact (pushed_length f j).symm
    have hbody := queueBody_goes (push := true) hq hv (hcount.symm ▸ hroom) (fun _ => ⟨hbusy, hgate⟩)
      (by rw [hcount]; simp [QDesc.ready, hv, q, hallow])
    have ht : SameButWarps u (ends w (u.queuePred x true)) := (queuePred_sameButWarps ..).trans (ends_sameButWarps ..)
    have htq := (ht.field (·.queue c k)).trans (pushVals_queue ..)
    rw [hcq, hlen] at htq
    refine ⟨_, issueSplit_done (t := u.queuePred x true) rfl h hs hbody, (congrArg QDesc.tail htq :), (congrArg QDesc.head htq :),
      (congrArg QDesc.allow htq :), (ht.field (·.qwaits)).trans ((pushVals_qwaits ..).trans (hc.field (·.qwaits))), fun n hn => ?_⟩
    have hslot := pushVals_slots (s := counted s w) (core := c) (k := k) (sBase := a.sBase) (vals := x.vals) (cov := x.covered) (n := n)
      ((counted_mem s w).symm ▸ hwf) (by rwa [hlen, hcq]) (by rwa [hlen])
    rw [hcq] at hslot
    rw [ht.field (·.mem)]
    refine hslot.trans ?_
    rw [hvals, List.getD_eq_getElem _ _ (by rwa [List.length_map]), List.getElem_map, List.getD_eq_getElem _ _ hn]
    exact BitVec.toNat_ofNat ..
  · intro h hs ls hroom hheld
    let x := queueRequest f false j (counted s w) c k
    let cov := (q.covs.take x.count).foldl union []
    let vals := (List.range x.count).map fun n => memNat (counted s w).mem (q.slot c a.sBase (q.head.toNat + n)) 4
    let u := (counted s w).setQueue c k
      { q with head := q.head + BitVec.ofNat 16 x.count, allow := q.allow + x.count, covs := q.covs.drop x.count }
    let v := u.withWarp w.key (popped x vals cov)
    have hcount : x.count = ls.length := by
      rw [queueRequest_count]
      exact (apply_ite List.length (isScal f.d = true) [j.low] j.lanes).symm
    have hdo : (counted s w).queueDo x a.sBase = v := (queueDo_pop rfl ..).trans (by rw [show (counted s w).queue x.owner x.id = q from hcq]; rfl)
    have hbody := queueBody_goes (push := false) hq hv (hcount.symm ▸ hroom) nofun
      (by rw [hcount]; simp [QDesc.ready, hv, q, hheld])
    rw [show (counted s w).queueDo (queueRequest f false (issueOf w f) (counted s w) c k) a.sBase = v from hdo] at hbody
    have ht : SameButWarps u (ends w (v.queuePred x true)) :=
      (withWarp_sameButWarps ..).trans ((queuePred_sameButWarps ..).trans (ends_sameButWarps ..))
    have htq := (ht.field (·.queue c k)).trans (queue_setQueue ..)
    rw [hcount] at htq
    have hx : u.warp? w.key = some (w.countIssue w.bundle) := counted_warp? (warp?_self h.1)
    have hy := queuePred_warp? (x := x) (State.warp?_withWarp (g := popped x vals cov) hx (popped_key ..)) true
    refine ⟨_, _, issueSplit_done rfl h hs hbody, ends_warp? hy, (ht.field (·.mem)).trans (counted_mem s w), (congrArg QDesc.head htq :),
      (congrArg QDesc.tail htq :), (congrArg QDesc.allow htq :), (ht.field (·.qwaits)).trans (hc.field (·.qwaits)), ?_⟩
    have hwrites : (if isScal x.dst then destWrites x.dst false (x.lanes.headD 0) (vals.headD 0)
        else ((List.range x.lanes.length).map fun n => destWrites x.dst false (x.lanes.getD n 0) (vals.getD n 0)).flatten) =
        ((List.range ls.length).map fun n =>
          destWrites f.d false (ls.getD n 0) (memNat s.mem (q.slot c a.sBase (q.head.toNat + n)) 4)).flatten := by
      refine (popped_writes f j (counted s w) c k vals (by simp [vals, x])).trans (congrArg List.flatten (List.map_congr_left fun n hn => ?_))
      have hn : n < x.count := hcount ▸ List.mem_range.mp hn
      rw [List.getD_eq_getElem vals _ (by simpa [vals] using hn), List.getElem_map, List.getElem_range, counted_mem]
    have hput : SameVals (w.putAll _) (popped x vals cov (w.countIssue w.bundle)) :=
      ((sameVals_countIssue w w.bundle).trans (sameVals_setLanes _ x.lanes (g := fun _ t => threadAcquires cov t) fun _ _ => rfl)).putAll _
    have hall := hput.trans ((timedPred_sameVals (queueRequest_pred h (.inr rfl) false j (counted s w) c k) true _).trans
      (sameVals_advance _ (fall w)))
    rw [hwrites] at hall
    exact ⟨hall.1, hall.2.2⟩

/-- Settles O28: a push and a pop that their queue can take leave its descriptor, its slots and their registers as the rule has them. -/
theorem queueOperations : Obligations.QueueOperations := ⟨queueInits, queueSteps⟩

end Sys2Proof.Claims
end

section
namespace Sys2Proof.Claims

set_option Elab.async false

open Sys2Proof Sys2Proof.Machine

/-! ### Waiting at queues (08 R233) -/

/-- The predicates that a timed form leaves. -/
theorem timedPred_pred {x : QWait} {p : BitVec 8} (hp : x.pred = some p) (hpred : isPred p = true) (hk : p.toNat - 0xC0 < 7) (ok : Bool) (w : Warp)
    {l : Nat} (hl : l ∈ x.lanes) (hlt : l < w.threads.length) : ((timedPred x ok w).thread l).pred (p.toNat - 0xC0) = ok := by
  have hw : timedPred x ok w = w.putAll (x.lanes.map fun l => ⟨.p l (p.toNat - 0xC0), BitVec.ofNat 64 (bitOf ok)⟩) := by
    unfold timedPred
    rw [hp]
    simp only [destWrites_of_isPred hpred, List.map_eq_flatMap]
  rw [hw, putAll_preds (b := fun _ _ => ok) ?_ w hlt, if_pos ?_]
  · simpa using hl
  · intro r hr
    obtain ⟨m, _, rfl⟩ := List.mem_map.mp hr
    exact ⟨m, _, hk, rfl, by cases ok <;> simp [bitOf]⟩

theorem queueWaits : QueueWaits := by
  intro s w i f push c k a hq hi h j q n time hv hroom hfree hr
  obtain ⟨op, split, hf, hs, he, hi⟩ : ∃ op split, fieldsOf i = some (op, f) ∧ Whole w split ∧
      exec i s = issueSplit i s split {} (queueBody f push) ∧ (i = .qpush f ∨ i = .qpop f) := by
    rcases hi with ⟨rfl, rfl, hs⟩ | ⟨rfl, rfl, hs⟩
    · exact ⟨_, _, rfl, hs, rfl, .inl rfl⟩
    · exact ⟨_, _, rfl, hs, rfl, .inr rfl⟩
  let x := queueRequest f push j (counted s w) c k
  have hc := counted_sameButWarps s w
  have hx := counted_warp? (warp?_self h.1)
  have hcount : x.count = n := queueRequest_count ..
  have hbody := queueBody_waits (f := f) hq hv (hcount.symm ▸ hroom) hfree (hcount.symm ▸ hr)
  have hlen : (w.countIssue w.bundle).threads.length = w.threads.length := countIssue_length ..
  by_cases hz : f.ty = 1 ∧ time = 0
  · have hbody := hbody.trans (if_pos hz)
    have ht : SameButWarps s (ends w ((counted s w).queuePred x false)) :=
      hc.trans ((queuePred_sameButWarps ..).trans (ends_sameButWarps ..))
    refine ⟨_, _, he.trans (issueSplit_done hf h hs hbody), ends_warp? (queuePred_warp? (x := x) hx false), ht.field (·.mem),
      ht.field (·.queue c k), fun _ => ⟨ht.field (·.qwaits), fun l hl hlt => ⟨?_, fun hk => ?_⟩⟩, fun hn => absurd hz hn⟩
    · exact advance_fall_pc f (mem_lanes hl) (by rwa [timedPred_length, hlen])
    · have hp : x.pred = some f.b := if_pos (by simp [hz.1])
      exact (advance_keeps (·.pred _) ..).trans
        (timedPred_pred hp (queueRequest_pred h hi push j (counted s w) c k f.b hp) hk false _ hl (hlen ▸ hlt))
  · have hbody := hbody.trans (if_neg hz)
    have hy : (queueJoined (counted s w) j x).warp? w.key = some (queueParked x (w.countIssue w.bundle)) :=
      State.warp?_withWarp (g := queueParked x) hx (setLanes_key ..)
    have ht := endsAt_sameButWarps w (queueJoined (counted s w) j x) (j.lanes.map fun l => (l, j.pc))
    have hu : SameButWarps s ((counted s w).upd j (queueParked x)) := hc.trans (withWarp_sameButWarps ..)
    refine ⟨_, _, he.trans (issueSplit_jump hf h hs hbody), endsAt_warp? hy _, (ht.field (·.mem)).trans (hu.field (·.mem)),
      (ht.field (·.queue c k)).trans (hu.field (·.queue c k)), fun hn => absurd hn hz,
      fun _ => ⟨⟨x, (ht.field (·.qwaits)).trans (congrArg (· ++ [x]) (hc.field (·.qwaits))), rfl, rfl, rfl, rfl, rfl, fun hty => ?_⟩,
        fun l hl hlt => ⟨?_, ?_⟩⟩⟩
    · exact (if_pos (by simp [hty])).trans (congrArg (fun n => some (n + time)) (hc.field (·.cyclesOf w.core)))
    · exact (advance_keeps (·.st) ..).trans (setLanes_reaches (P := fun t => t.st = .waiting) hl (hlen ▸ hlt) fun _ => rfl)
    · exact (advance_at_pc f j.lanes j.pc (mem_lanes hl) (by rwa [queueParked, setLanes_length, hlen])).trans (if_pos hl)

end Sys2Proof.Claims
end

section
namespace Sys2Proof.Claims

set_option Elab.async false

open Sys2Proof Sys2Proof.Machine

/-! ### The end of a wait at a queue (08 R233) -/

/-- A wait is over in a state: nothing waits for it any more, and its threads have gone on from where they stood in a warp. -/
def Woken (x : QWait) (w : Warp) (t : State) : Prop :=
  (∀ y ∈ t.qwaits, ¬ (y.warp = x.warp ∧ y.lanes = x.lanes)) ∧
    ∃ y, t.warp? x.warp = some y ∧ ∀ l ∈ x.lanes, l < w.threads.length → x.lanes.count l = 1 →
      (y.thread l).st = .ready ∧ (y.thread l).pc = nextPc (w.thread l).pc

/-- Warps whose threads stand at the same PCs. -/
def SamePlaces (w v : Warp) : Prop := v.threads.length = w.threads.length ∧ ∀ l, (v.thread l).pc = (w.thread l).pc

/-- All that ending a wait leaves is what the state is but for its warps and its waits. -/
theorem queueWake_sameButWarps (s : State) (x : QWait) :
    SameButWarps { s with qwaits := s.qwaits.filter fun y => !(y.warp == x.warp && y.lanes == x.lanes) } (s.queueWake x) :=
  withWarp_sameButWarps ..

theorem queueWake_woken {s : State} {x : QWait} {w v : Warp} (h : s.warp? x.warp = some v) (hp : SamePlaces w v) : Woken x w (s.queueWake x) := by
  refine ⟨fun y hy he => ?_, _, State.warp?_withWarp h ((setLanes_key ..).trans (State.warp?_key h)), fun l hl hlt hone => ?_⟩
  · rw [(queueWake_sameButWarps s x).field (·.qwaits)] at hy
    have hne := (List.mem_filter.mp hy).2
    simp [he.1, he.2] at hne
  · rw [thread_setLanes_once hone (hp.1 ▸ hlt)]
    exact ⟨rfl, congrArg nextPc (hp.2 l)⟩

theorem queuePred_places {s : State} {x : QWait} {w v : Warp} (h : s.warp? x.warp = some v) (hp : SamePlaces w v) (ok : Bool) :
    ∃ y, (s.queuePred x ok).warp? x.warp = some y ∧ SamePlaces w y :=
  ⟨_, queuePred_warp? h ok, (timedPred_length ..).trans hp.1, fun l => (timedPred_keeps (·.pc) ..).trans (hp.2 l)⟩

/-- A step of a queue moves no thread of the warp that waits. -/
theorem queueDo_places {s : State} {x : QWait} {w : Warp} (h : s.warp? x.warp = some w) (sBase : Nat) :
    ∃ y, (s.queueDo x sBase).warp? x.warp = some y ∧ SamePlaces w y := by
  cases hp : x.push with
  | true =>
    rw [queueDo_push hp]
    exact ⟨w, (congrArg (List.find? _) (pushVals_warps ..)).trans h, rfl, fun _ => rfl⟩
  | false =>
    rw [queueDo_pop hp]
    refine ⟨_, State.warp?_withWarp h ((popped_key ..).trans (State.warp?_key h)), ?_, fun l => ?_⟩
    · exact (putAll_length ..).trans (setLanes_length ..)
    · exact (putAll_keeps (·.pc) ..).trans (setLanes_keeps (·.pc) w x.lanes (g := fun _ t => threadAcquires _ t) l fun _ _ => rfl)

/-- A wait that ends without its step. -/
theorem timedOut {s : State} {x : QWait} {w : Warp} (h : s.warp? x.warp = some w) :
    Woken x w ((s.queuePred x false).queueWake x) ∧ ((s.queuePred x false).queueWake x).mem = s.mem ∧
      ((s.queuePred x false).queueWake x).queue x.owner x.id = s.queue x.owner x.id := by
  obtain ⟨y, hy, hp⟩ := queuePred_places h ⟨rfl, fun _ => rfl⟩ false
  have hq := queuePred_sameButWarps s x false
  have hk := queueWake_sameButWarps (s.queuePred x false) x
  exact ⟨queueWake_woken hy hp, (hk.field (·.mem)).trans (hq.field (·.mem)),
    (hk.field (·.queue x.owner x.id)).trans (hq.field (·.queue x.owner x.id))⟩

/-- A wait that ends with its step. -/
theorem stepped {s : State} {x : QWait} {w : Warp} (h : s.warp? x.warp = some w) (sBase : Nat) :
    Woken x w (((s.queueDo x sBase).queuePred x true).queueWake x) ∧
      (((s.queueDo x sBase).queuePred x true).queueWake x).queue x.owner x.id = (s.queueDo x sBase).queue x.owner x.id := by
  obtain ⟨v, hv, hp⟩ := queueDo_places h sBase
  obtain ⟨y, hy, hp⟩ := queuePred_places hv hp true
  exact ⟨queueWake_woken hy hp, ((queueWake_sameButWarps ..).field (·.queue x.owner x.id)).trans
    ((queuePred_sameButWarps ..).field (·.queue x.owner x.id))⟩

/-- The first wait of a queue that takes place: a push if any can, else a pop. -/
theorem execQueueStep_first {s : State} {x : QWait}
    (hx : ((s.qwaits.filter fun y => y.owner == x.owner && y.id == x.id).find? fun y =>
      y.push == x.push && (s.queue x.owner x.id).ready x.push y.count) =
      some x) (hl : ∀ y ∈ s.qwaits, s.late y = false)
    (hpop : x.push = false → ∀ y ∈ s.qwaits, y.owner = x.owner → y.id = x.id → y.push = true →
      (s.queue x.owner x.id).ready true y.count = false) :
    execQueueStep x.owner x.id s = .next (((s.queueDo x (s.queueBase x)).queuePred x true).queueWake x) := by
  have hlate : (s.qwaits.filter fun y => y.owner == x.owner && y.id == x.id).find? s.late = none :=
    List.find?_eq_none.mpr fun y hy => by simp [hl y (List.mem_filter.mp hy).1]
  unfold execQueueStep
  dsimp only
  rw [hlate]
  cases hp : x.push with
  | true =>
    rw [hp] at hx
    rw [hx]
    rfl
  | false =>
    rw [hp] at hx
    have hnone : ((s.qwaits.filter fun y => y.owner == x.owner && y.id == x.id).find? fun y =>
        y.push == true && (s.queue x.owner x.id).ready true y.count) = none := by
      refine List.find?_eq_none.mpr fun y hy => ?_
      obtain ⟨hm, hq⟩ := List.mem_filter.mp hy
      obtain ⟨ho, hi⟩ : y.owner = x.owner ∧ y.id = x.id := by simpa using hq
      intro hn
      obtain ⟨hpush, hr⟩ : y.push = true ∧ (s.queue x.owner x.id).ready true y.count = true := by simpa using hn
      rw [hpop hp y hm ho hi hpush] at hr
      exact absurd hr (by simp)
    rw [hnone, hx]
    rfl

theorem queueReleases : QueueReleases := by
  intro s x w hw hmem woken
  refine ⟨fun hx hl hpop => ?_, fun hx => ?_, fun l d hx hd hle => ?_⟩
  · obtain ⟨hwoken, hq⟩ := stepped hw (s.queueBase x)
    refine ⟨_, execQueueStep_first hx hl hpop, hwoken, fun hp => ?_, fun hp => ?_⟩
    · rw [hq, queueDo_push hp, pushVals_queue]
    · rw [hq, queueDo_pop hp, (withWarp_sameButWarps ..).field (·.queue x.owner x.id), queue_setQueue]
  · refine ⟨_, ?_, timedOut hw⟩
    change execQueueStep x.owner x.id s = _
    unfold execQueueStep
    dsimp only
    rw [hx]
  · refine ⟨_, ?_, timedOut hw⟩
    change execQueueTimeout x.warp l s = _
    unfold execQueueTimeout
    rw [hw]
    dsimp only
    rw [hx]
    dsimp only
    rw [hd]
    exact if_pos hle

end Sys2Proof.Claims
end

section
namespace Sys2Proof.Claims

set_option Elab.async false

open Sys2Proof Sys2Proof.Machine

/-! ### Phase exchange (08 R235, R236) -/

/-- The shadow banks of a D-core exchanged. -/
def swapBanks (s : State) (a : Allot) : State :=
  if coreIsL a.core then s else s.setCore a.core { s.core a.core with readable := 1 - (s.core a.core).readable }

/-- A warp whose live threads wait in the exchange, as it leaves them. -/
def swapped (block : Nat) (cov : List Nat) (w : Warp) : Warp :=
  if w.block != block then w else w.setLanes w.live fun _ t => (threadAcquires cov t).wake

theorem swapped_key (block : Nat) (cov : List Nat) (w : Warp) : (swapped block cov w).key = w.key :=
  iteInduction (motive := fun x : Warp => x.key = w.key) (fun _ => rfl) fun _ => setLanes_key ..

/-- SWAP when its block's threads and releases allow it. -/
theorem execSwap_ready {s : State} {b : Block} (h : s.block? b.id = some b) (hr : swapReady s b.id = true) : execSwap b.id s = .next
    { (if b.shadow then b.allots.foldl swapBanks s else s) with
      warps := (if b.shadow then b.allots.foldl swapBanks s else s).warps.map (swapped b.id (s.swapCov b.id)) } := by
  unfold execSwap
  rw [h]
  dsimp only
  rw [hr]
  cases hs : b.shadow with
  | true => rfl
  | false => rfl

theorem swapBanks_warps (s : State) (a : Allot) : (swapBanks s a).warps = s.warps :=
  iteInduction (motive := fun t : State => t.warps = s.warps) (fun _ => rfl) fun _ => rfl

theorem swapBanks_mem (s : State) (a : Allot) : (swapBanks s a).mem = s.mem :=
  iteInduction (motive := fun t : State => t.mem = s.mem) (fun _ => rfl) fun _ => rfl

theorem kvGet_kvSet_ne {α : Type} (l : List (Nat × α)) {k j : Nat} (x d : α) (h : j ≠ k) : kvGet (kvSet l k x) j d = kvGet l j d := by
  induction l with
  | nil => exact if_neg h.symm
  | cons a r ih =>
    obtain ⟨i, y⟩ := a
    unfold kvSet
    split
    · next hi => simp [kvGet, hi, h.symm]
    · simp only [kvGet, ih]

/-- An exchange at a core changes the banks of that core alone. -/
theorem readable_swapBanks {a : Allot} {c : Nat} (hl : coreIsL c = false) (s : State) :
    ((swapBanks s a).core c).readable = if a.core = c then 1 - (s.core c).readable else (s.core c).readable := by
  unfold swapBanks
  by_cases hac : a.core = c
  · subst hac
    simp [hl]
  · rw [if_neg hac]
    split
    · rfl
    · exact congrArg Core.readable (kvGet_kvSet_ne _ _ _ (Ne.symm hac))

/-- Each core of the block has its banks exchanged, as none is named twice. -/
theorem readable_swapAll {as : List Allot} (hn : (as.map (·.core)).Nodup) {c : Nat} (hl : coreIsL c = false) (s : State) :
    ((as.foldl swapBanks s).core c).readable = if c ∈ as.map (·.core) then 1 - (s.core c).readable else (s.core c).readable := by
  induction as generalizing s with
  | nil => rfl
  | cons a r ih =>
    obtain ⟨ha, hr⟩ := List.nodup_cons.mp hn
    rw [List.foldl_cons, ih hr, readable_swapBanks hl]
    by_cases hac : a.core = c
    · subst hac
      simp only [ha, if_false, if_true, List.map_cons, List.mem_cons, true_or]
    · simp only [hac, if_false, List.map_cons, List.mem_cons, Ne.symm hac, false_or]

/-- The threads of a block that goes on. -/
theorem swapped_thread {block : Nat} {cov : List Nat} {w : Warp} (hb : w.block = block) {l : Nat} (hl : l ∈ w.live) (hlt : l < w.threads.length) :
    ((swapped block cov w).thread l).st = .ready ∧ ((swapped block cov w).thread l).pc = nextPc (w.thread l).pc := by
  have ht : (swapped block cov w).thread l = (threadAcquires cov (w.thread l)).wake := by
    unfold swapped
    have hn : w.live.Nodup := List.nodup_range.filter _
    rw [if_neg (by simp [hb]), thread_setLanes _ hn hlt, if_pos hl]
  rw [ht]
  exact ⟨rfl, rfl⟩

theorem swaps : Swaps := by
  intro s b hb hr
  have hw : (if b.shadow then b.allots.foldl swapBanks s else s).warps = s.warps :=
    iteInduction (motive := fun t : State => t.warps = s.warps) (fun _ => foldl_kept State.warps swapBanks_warps ..) fun _ => rfl
  have hm : (if b.shadow then b.allots.foldl swapBanks s else s).mem = s.mem :=
    iteInduction (motive := fun t : State => t.mem = s.mem) (fun _ => foldl_kept State.mem swapBanks_mem ..) fun _ => rfl
  refine ⟨_, execSwap_ready hb hr, hm, fun k y l hy hblock hl hlt => ⟨swapped b.id (s.swapCov b.id) y, ?_, swapped_thread hblock hl hlt⟩,
    fun hn c hc => ?_⟩
  · rw [warp?_mapWarps _ (swapped_key b.id (s.swapCov b.id))]
    exact congrArg (Option.map _) ((congrArg (List.find? _) hw).trans hy)
  · change ((if b.shadow then b.allots.foldl swapBanks s else s).core c).readable = _
    cases hs : b.shadow with
    | true => simpa using readable_swapAll hn hc s
    | false => simp

/-- Settles O29: a wait at a queue ends with its step or with its time, and SWAP wakes each live thread of its block once. -/
theorem queueWaiting : Obligations.QueueWaiting := ⟨queueWaits, queueReleases, swaps⟩

end Sys2Proof.Claims
end

section
namespace Sys2Proof.Claims

set_option Elab.async false

open Sys2Proof Sys2Proof.Machine

/-! ### Barrier objects (08 R218 to R222) -/

/-- An object whose fields fit their places in its 12 bytes (R218). -/
structure BarFits (b : BarObj) : Prop where
  pend : b.pend < 2 ^ 16
  expect : b.expect < 2 ^ 16
  phase : b.phase < 16
  txb : b.txb < 2 ^ 24
  ovr : b.ovr < 2 ^ 16
  owner : b.owner < 32
  mark : b.mark < 256
  low : b.low < 4
  high : b.high < 8

theorem bitsOf_lt (x lo n : Nat) : bitsOf x lo n < 2 ^ n := Nat.mod_lt _ (Nat.two_pow_pos n)

/-- The fields read of an object fit. -/
theorem barOf_fits (x : Nat) : BarFits (barOf x) :=
  ⟨bitsOf_lt .., bitsOf_lt .., bitsOf_lt .., bitsOf_lt .., bitsOf_lt .., bitsOf_lt .., bitsOf_lt .., bitsOf_lt .., bitsOf_lt ..⟩

theorem bar_fits (s : State) (loc : Nat) : BarFits (s.bar loc) := barOf_fits _

theorem bits_lt {b : BarObj} (h : BarFits b) : b.bits < 256 ^ 12 := by
  obtain ⟨h1, h2, h3, h4, h5, h6, h7, h8, h9⟩ := h
  have he : bitOf b.err < 2 := bitOf_lt _
  have ht : bitOf b.txa < 2 := bitOf_lt _
  unfold BarObj.bits
  omega

/-- An object whose fields fit is what its bits read as. -/
theorem barOf_bits {b : BarObj} (h : BarFits b) : barOf b.bits = b := by
  obtain ⟨pend, expect, phase, err, txa, txb, ovr, owner, mark, low, high⟩ := b
  obtain ⟨h1, h2, h3, h4, h5, h6, h7, h8, h9⟩ := h
  dsimp only at h1 h2 h3 h4 h5 h6 h7 h8 h9
  have he : bitOf err < 2 := bitOf_lt _
  have ht : bitOf txa < 2 := bitOf_lt _
  have hbit (x : Bool) : (bitOf x == 1) = x := by cases x <;> rfl
  unfold barOf BarObj.bits bitsOf
  dsimp only
  generalize hE : bitOf err = e at *
  generalize hT : bitOf txa = t at *
  have herr : (e == 1) = err := hE ▸ hbit err
  have htxa : (t == 1) = txa := hT ▸ hbit txa
  congr 1
  · omega
  · omega
  · omega
  · exact Eq.trans (congrArg (· == 1) (by omega)) herr
  · exact Eq.trans (congrArg (· == 1) (by omega)) htxa
  · omega
  · omega
  · omega
  · omega
  · omega
  · omega

theorem setBar_mem (s : State) (loc : Nat) (b : BarObj) : (s.setBar loc b).mem = memPutAll s.mem (cellsAt loc (bytesOf 12 b.bits)) := rfl

/-- An object just written is read. -/
theorem bar_setBar {s : State} (h : s.mem.wf = true) {b : BarObj} (hb : BarFits b) (loc : Nat) : (s.setBar loc b).bar loc = b := by
  rw [State.bar, setBar_mem, memNat_putAll_same h, Nat.mod_eq_of_lt (bits_lt hb), barOf_bits hb]

/-! #### The threads that wait at an object -/

/-- A warp whose threads that wait at an object have gone on, or wait on, as a rule gives by their phases. -/
def atObject (s : State) (loc : Nat) (g : Nat → Thread → BitVec 8 → Thread) (w : Warp) : Warp :=
  { w with threads := w.threads.map fun t => match t.wait with
    | .bwait o ph deadline _ pred =>
      if t.st != .waiting || o != loc then t
      else if deadline < s.cyclesOf w.core then t.barWake pred false []
      else g ph t pred
    | _ => t }

theorem barWaiters_eq (s : State) (loc : Nat) (g : Nat → Thread → BitVec 8 → Thread) :
    s.barWaiters loc g = { s with warps := s.warps.map (atObject s loc g) } := rfl

section
variable (s : State) (loc : Nat) (g : Nat → Thread → BitVec 8 → Thread) {w : Warp} {l : Nat} (hl : l < w.threads.length)
include hl

/-- A thread that does not wait stays as it is. -/
theorem atObject_ready (h : (w.thread l).st ≠ .waiting) : (atObject s loc g w).thread l = w.thread l := by
  unfold atObject
  rw [thread_mapThreads w _ hl]
  split
  · rw [if_pos (by simp [h])]
  · rfl

theorem atObject_waiting (h : (w.thread l).st = .waiting) {ph dl sp : Nat} {pr : BitVec 8} (hw : (w.thread l).wait = .bwait loc ph dl sp pr) :
    (atObject s loc g w).thread l = if dl < s.cyclesOf w.core then (w.thread l).barWake pr false [] else g ph (w.thread l) pr := by
  unfold atObject
  rw [thread_mapThreads w _ hl, hw]
  exact if_neg (by simp [h])

end

/-- A thread that leaves its wait at an object is ready behind its instruction. -/
theorem barWake_goes (t : Thread) (pred : BitVec 8) (p : Bool) (cov : List Nat) :
    (t.barWake pred p cov).st = .ready ∧ (t.barWake pred p cov).pc = nextPc t.pc := by
  refine ⟨rfl, congrArg nextPc ?_⟩
  unfold threadAcquires
  dsimp only
  split <;> rfl

/-- The predicate that it leaves with. -/
theorem barWake_pred (t : Thread) {pred : BitVec 8} (p : Bool) (cov : List Nat) (h : pred.toNat - 0xC0 < 7) :
    (t.barWake pred p cov).pred (pred.toNat - 0xC0) = p := by
  have hp : (t.barWake pred p cov).p = if p then t.p ||| BitVec.ofNat 8 (2 ^ (pred.toNat - 0xC0))
      else t.p &&& ~~~BitVec.ofNat 8 (2 ^ (pred.toNat - 0xC0)) := by
    unfold Thread.barWake
    simp only [show pred.toNat - 0xC0 ≠ 7 by omega, if_false]
    rfl
  rw [Thread.pred, hp, getLsbD_putBit _ _ (by omega), if_pos rfl]
  simp only [Bool.or_eq_right_iff_imp, beq_iff_eq]
  omega

/-! #### An update of an object -/

/-- The state in which an update has been written, with what it releases. -/
def barWritten (s : State) (loc : Nat) (b : BarObj) (cov : List Nat) : State :=
  let s := s.setBarCov loc b.phase (union (s.barCov loc b.phase) cov)
  (s.setBarCov loc 16 (union (s.barCov loc 16) cov)).setBar loc b.complete

/-- A warp as an update of an object leaves it. -/
def barMoved (s : State) (loc : Nat) (b : BarObj) (cov : List Nat) (w : Warp) : Warp :=
  if b.complete.phase = b.phase then w
  else atObject (barWritten s loc b cov) loc (fun ph t pred =>
    if ph % 16 = b.complete.phase then t else t.barWake pred true ((barWritten s loc b cov).barCov loc (ph % 16))) w

theorem barUpdate_mem (s : State) (loc : Nat) (b : BarObj) (cov : List Nat) : (s.barUpdate loc b cov).mem = (s.setBar loc b.complete).mem :=
  iteInduction (motive := fun t : State => t.mem = (s.setBar loc b.complete).mem) (fun _ => rfl) fun _ => rfl

theorem barUpdate_warps (s : State) (loc : Nat) (b : BarObj) (cov : List Nat) :
    (s.barUpdate loc b cov).warps = s.warps.map (barMoved s loc b cov) := by
  unfold State.barUpdate barMoved
  dsimp only
  split
  · exact (List.map_id' _).symm
  · rfl

theorem barMoved_key (s : State) (loc : Nat) (b : BarObj) (cov : List Nat) (w : Warp) : (barMoved s loc b cov w).key = w.key :=
  iteInduction (motive := fun x : Warp => x.key = w.key) (fun _ => rfl) fun _ => rfl

theorem barUpdate_warp? (s : State) (loc : Nat) (b : BarObj) (cov : List Nat) (k : Nat) :
    (s.barUpdate loc b cov).warp? k = (s.warp? k).map (barMoved s loc b cov) :=
  (congrArg (List.find? _) (barUpdate_warps ..)).trans (warp?_mapWarps s (barMoved_key s loc b cov) k)

/-- The completion of an object keeps its fields in their places. -/
theorem complete_fits {b : BarObj} (h : BarFits b) : BarFits b.complete := by
  unfold BarObj.complete
  split
  · exact { h with pend := h.expect, phase := Nat.mod_lt _ (by decide) }
  · exact h

theorem barUpdate_bar {s : State} (h : s.mem.wf = true) {b : BarObj} (hb : BarFits b) (loc : Nat) (cov : List Nat) :
    (s.barUpdate loc b cov).bar loc = b.complete :=
  (congrArg (fun m => barOf (memNat m loc 12)) (barUpdate_mem s loc b cov)).trans (bar_setBar h (complete_fits hb) loc)

end Sys2Proof.Claims
end

section
namespace Sys2Proof.Claims

set_option Elab.async false

open Sys2Proof Sys2Proof.Machine

/-! ### `bwait` and `btest` (08 R226, R227) -/

theorem endsAt_mem (w : Warp) (t : State) (q : List (Nat × W64)) : (endsAt w t q).mem = t.mem := (endsAt_sameButWarps w t q).field (·.mem)

theorem objChk_counted (i : Iss) (s : State) (w : Warp) (f : Fields) : objChk i (counted s w) f = objChk i s f :=
  (counted_sameButWarps s w).field (objChk i · f)

/-- A change of some lanes keeps in a lane's thread what its change of that lane keeps. -/
theorem setLanes_keeps_at {α : Type} (π : Thread → α) (w : Warp) (ls : List Nat) {g : Nat → Thread → Thread} (m : Nat)
    (h : ∀ t, π (g m t) = π t) :
    π ((w.setLanes ls g).thread m) = π (w.thread m) := by
  refine List.foldlRecOn (motive := fun x : Warp => π (x.thread m) = π (w.thread m)) ls _ rfl fun x hx l _ => ?_
  by_cases hl : l = m
  · subst hl
    exact (setThread_keeps π h).trans hx
  · exact (congrArg π (thread_setThread_ne _ (Ne.symm hl))).trans hx

section
variable (f : Fields) (i : Iss) (s : State) (loc : Nat)

/-- How many phases an object is ahead of the one that a lane of `bwait` names. -/
def bwaitLag (l : Nat) : Nat := ((s.bar loc).phase + 16 - readReg i.w f.b 0 false l % 16) % 16

/-- A thread as `bwait` leaves it on a core. -/
def bwaitThread (core l : Nat) (t : Thread) : Thread :=
  if bwaitLag f i s loc l = 0 then
    (if timeoutOf i f.c = 0 then t
     else { t with
      st := .waiting
      wait := .bwait loc (readReg i.w f.b 0 false l % 16) (s.cyclesOf core + timeoutOf i f.c) (timeoutOf i f.c) f.d })
  else threadAcquires (s.barCov loc (readReg i.w f.b 0 false l % 16)) t

/-- The lanes of a `bwait` that wait at the object. -/
def bwaitWaits : List Nat := i.lanes.filter fun l => bwaitLag f i s loc l == 0 && timeoutOf i f.c != 0

/-- The predicates of those that do not. -/
def bwaitPreds : List RegWrite :=
  (i.lanes.filter fun l => !(bwaitWaits f i s loc).contains l).flatMap fun l => destWrites f.d false l (bitOf (bwaitLag f i s loc l != 0))

/-- What `bwait` does in its warp. -/
def bwaitBody (i : Iss) (s : State) : Eff :=
  match objChk i s f with
  | .error t => .trap t
  | .ok loc =>
    if !objReady i.w loc then .hold (i.back s)
    else if (s.bar loc).mark != 0xB5 then trapAll i 0x062
    else if !(i.lanes.filter fun l => decide (8 ≤ bwaitLag f i s loc l)).isEmpty then
      .trap { cause := 0x061, lanes := i.lanes.filter fun l => decide (8 ≤ bwaitLag f i s loc l) }
    else .jump ((s.upd i fun w => w.setLanes i.lanes (bwaitThread f i s loc w.core)).upd i fun w => w.putAll (bwaitPreds f i s loc))
      ((bwaitWaits f i s loc).map fun l => (l, i.pc))

theorem exec_bwait : exec (.bwait f) s = issueSplit (.bwait f) s false {} (bwaitBody f) := by
  change execBwait f s = _
  unfold execBwait issue
  congr 1

end

/-- What `bwait` makes of an object that it may read. -/
theorem bwaitBody_read {f : Fields} {i : Iss} {s : State} {loc : Nat} (h : objChk i s f = .ok loc) (hr : objReady i.w loc = true) :
    bwaitBody f i s =
      if (s.bar loc).mark != 0xB5 then trapAll i 0x062
      else if !(i.lanes.filter fun l => decide (8 ≤ bwaitLag f i s loc l)).isEmpty then
        .trap { cause := 0x061, lanes := i.lanes.filter fun l => decide (8 ≤ bwaitLag f i s loc l) }
      else .jump ((s.upd i fun w => w.setLanes i.lanes (bwaitThread f i s loc w.core)).upd i fun w => w.putAll (bwaitPreds f i s loc))
        ((bwaitWaits f i s loc).map fun l => (l, i.pc)) := by
  unfold bwaitBody
  rw [h]
  exact if_neg (by simp [hr])

/-- The predicates that the lanes of a `bwait` leave with. -/
theorem bwaitPreds_pred {f : Fields} (hd : isPred f.d = true) (hk : f.d.toNat - 0xC0 < 7) (i : Iss) (s : State) (loc : Nat) (w : Warp) {l : Nat}
    (hl : l ∈ i.lanes) (hw : l ∉ bwaitWaits f i s loc) (hlt : l < w.threads.length) :
    ((w.putAll (bwaitPreds f i s loc)).thread l).pred (f.d.toNat - 0xC0) = (bwaitLag f i s loc l != 0) := by
  have he : bwaitPreds f i s loc = (i.lanes.filter fun l => !(bwaitWaits f i s loc).contains l).map fun l =>
      ⟨.p l (f.d.toNat - 0xC0), BitVec.ofNat 64 (bitOf (bwaitLag f i s loc l != 0))⟩ := by
    unfold bwaitPreds
    simp only [destWrites_of_isPred hd, List.map_eq_flatMap]
  rw [he, putAll_preds (b := fun l _ => bwaitLag f i s loc l != 0) ?_ w hlt, if_pos ?_]
  · simpa using ⟨hl, hw⟩
  · intro r hr
    obtain ⟨m, _, rfl⟩ := List.mem_map.mp hr
    exact ⟨m, _, hk, rfl, by cases bwaitLag f i s loc m != 0 <;> simp [bitOf]⟩

theorem bwait_pred {s : State} {w : Warp} {f : Fields} (h : Issues s w (.bwait f) f) : isPred f.d = true := by
  obtain ⟨e, vregs, sregs, he, hc⟩ := checked_of_issues h
  have hd := dest_ok_of_checkFields hc
  cases he
  exact isPred_of_oPred hd

theorem barrierWaits : BarrierWaits := by
  intro s w f loc h j d time k hobj hready
  have hc := counted_sameButWarps s w
  have hlag (l : Nat) : bwaitLag f j (counted s w) loc l = d l := hc.field (fun s => bwaitLag f j s loc l)
  have hmark : ((counted s w).bar loc).mark = (s.bar loc).mark := hc.field (fun s => (s.bar loc).mark)
  have hbody := bwaitBody_read (i := j) ((objChk_counted j s w f).trans hobj) hready
  simp only [hlag, hmark] at hbody
  have hwhole : Whole w false := whole_false w
  have hwaits {l : Nat} : l ∈ bwaitWaits f j (counted s w) loc ↔ l ∈ j.lanes ∧ d l = 0 ∧ time ≠ 0 := by
    rw [bwaitWaits, List.mem_filter, hlag]
    simp only [Bool.and_eq_true, beq_iff_eq, bne_iff_ne]
    rfl
  rw [exec_bwait]
  refine ⟨fun hm hlt8 => ?_, fun hm => issueSplit_trapped rfl h hwhole (hbody.trans (if_pos (by simpa using hm))), fun hm hex => ?_⟩
  · have hnone : (j.lanes.filter fun l => decide (8 ≤ d l)) = [] := by simpa [List.filter_eq_nil_iff] using hlt8
    have hbody := (hbody.trans (if_neg (by simp [hm]))).trans (if_neg (by simp [hnone]))
    let x := w.countIssue w.bundle
    let z := x.setLanes j.lanes (bwaitThread f j (counted s w) loc w.core)
    have hx : (counted s w).warp? w.key = some x := counted_warp? (warp?_self h.1)
    have hz : ((counted s w).upd j fun v => v.setLanes j.lanes (bwaitThread f j (counted s w) loc v.core)).warp? w.key = some z :=
      State.warp?_withWarp hx (setLanes_key ..)
    have hzk : z.key = w.key := setLanes_key ..
    have hzlen : z.threads.length = w.threads.length := (setLanes_length ..).trans (countIssue_length ..)
    refine ⟨_, _, issueSplit_jump rfl h hwhole hbody,
      endsAt_warp? (State.warp?_withWarp (g := fun v => v.putAll (bwaitPreds f j (counted s w) loc)) hz ((putAll_key ..).trans hzk)) _,
      (endsAt_mem ..).trans ((upd_mem ..).trans ((upd_mem ..).trans (counted_mem s w))), fun l hl hlt => ⟨fun h0 ht => ?_, fun hgo => ?_⟩⟩
    · have hwt : bwaitThread f j (counted s w) loc w.core l = fun t => { t with
          st := .waiting, wait := .bwait loc (readReg w f.b 0 false l % 16) (s.cyclesOf w.core + time) time f.d } := by
        funext t
        exact ((if_pos ((hlag l).trans h0)).trans (if_neg ht)).trans (by rw [hc.field (·.cyclesOf w.core)]; rfl)
      have hzl : (z.thread l).st = .waiting ∧
          (z.thread l).wait = .bwait loc (readReg w f.b 0 false l % 16) (s.cyclesOf w.core + time) time f.d :=
        setLanes_reaches (P := fun t => t.st = .waiting ∧ t.wait = _) hl (by rwa [countIssue_length]) fun t => by
          rw [hwt]
          exact ⟨rfl, rfl⟩
      refine ⟨(advance_keeps (·.st) ..).trans ((putAll_keeps (·.st) ..).trans hzl.1), ?_,
        (advance_keeps (·.wait) ..).trans ((putAll_keeps (·.wait) ..).trans hzl.2)⟩
      refine (advance_at_pc f _ j.pc (mem_lanes hl) (by rw [putAll_length, hzlen]; exact hlt)).trans (if_pos (hwaits.mpr ⟨hl, h0, ht⟩))
    · have hnot : l ∉ bwaitWaits f j (counted s w) loc := fun hn => by
        obtain ⟨_, h0, ht⟩ := hwaits.mp hn
        exact hgo.elim (absurd h0) (absurd · ht)
      refine ⟨?_, (advance_at_pc f _ j.pc (mem_lanes hl) (by rw [putAll_length, hzlen]; exact hlt)).trans (if_neg hnot), fun hk => ?_⟩
      · have hkeep (t : Thread) : (bwaitThread f j (counted s w) loc w.core l t).st = t.st := by
          unfold bwaitThread
          split
          · next h0 => exact congrArg Thread.st (if_pos (hgo.resolve_left fun hn => hn ((hlag l).symm.trans h0)))
          · rfl
        exact (advance_keeps (·.st) ..).trans ((putAll_keeps (·.st) ..).trans
          ((setLanes_keeps_at (·.st) x j.lanes l hkeep).trans (countIssue_keeps (·.st) w w.bundle l)))
      · have hd := bwait_pred h
        have hd8 : f.d.toNat < 0xC8 := (by simpa [isPred] using hd : 0xC0 ≤ f.d.toNat ∧ f.d.toNat < 0xC8).2
        have hk : f.d.toNat - 0xC0 < 7 := by omega
        exact (advance_keeps (·.pred _) ..).trans ((bwaitPreds_pred hd hk j (counted s w) loc z hl hnot (hzlen.symm ▸ hlt)).trans (by
          rw [hlag]
          exact (decide_not ..).symm))
  · have hsome : (j.lanes.filter fun l => decide (8 ≤ d l)) ≠ [] := by simpa [List.filter_eq_nil_iff] using hex
    exact issueSplit_trapped rfl h hwhole ((hbody.trans (if_neg (by simp [hm]))).trans (if_pos (by simpa using hex)))

/-! #### The end of a wait by its time, and `btest` -/

theorem bwaitTimeout_ends {s : State} {x : Warp} {lane o ph dl sp : Nat} {pr : BitVec 8} (hx : s.warp? x.key = some x)
    (hl : lane < x.threads.length) (hst : (x.thread lane).st = .waiting) (hw : (x.thread lane).wait = .bwait o ph dl sp pr)
    (hle : dl ≤ s.cyclesOf x.core) : ∃ t y, exec (.bwaitTimeout x.key lane) s = .next t ∧ t.warp? x.key = some y ∧
      y.thread lane = (x.thread lane).barWake pr false [] := by
  let ls := (List.range x.threads.length).filter fun l => (x.thread l).waitsTill o dl
  let g (_ : Nat) (t : Thread) : Thread := match t.wait with
    | .bwait _ _ _ _ pred => t.barWake pred false []
    | _ => t
  have hk : (x.setLanes ls g).key = x.key := setLanes_key ..
  have hmem : lane ∈ ls := List.mem_filter.mpr ⟨List.mem_range.mpr hl, by simp [Thread.waitsTill, hw, hst]⟩
  have hnd : ls.Nodup := List.nodup_range.filter _
  refine ⟨s.setWarp (x.setLanes ls g), x.setLanes ls g, ?_, warp?_setWarp_of_key hx hk, ?_⟩
  · change execBwaitTimeout x.key lane s = _
    unfold execBwaitTimeout
    rw [hx]
    dsimp only
    rw [hw]
    exact if_pos (by simp [hst, hle])
  · rw [thread_setLanes g hnd hl, if_pos hmem]
    dsimp only [g]
    rw [hw]

/-- What `btest` does in its warp with an object that it may read. -/
theorem btestBody_read {f : Fields} {s : State} {w : Warp} {loc : Nat} (h : Issues s w (.btest f) f) (hs : Whole w (allScalar f))
    (hobj : objChk (issueOf w f) s f = .ok loc) (hready : objReady w loc = true) : exec (.btest f) s = .next (ends w
      ((if f.ty = 2 then (counted s w).barUpdate loc { (counted s w).bar loc with err := false, ovr := 0 } [] else counted s w).withWarp w.key fun x =>
        x.putAll ((if isScal f.d then [(issueOf w f).low] else (issueOf w f).lanes).flatMap fun l =>
          destWrites f.d true l (memNat s.mem (if f.ty = 0 then loc else loc + 8) 8)))) := by
  have hobj : objChk (issueOf w f) (counted s w) f = .ok loc := (objChk_counted ..).trans hobj
  change execBtest f s = _
  unfold execBtest
  refine issueSplit_done rfl h hs ?_
  dsimp only
  rw [hobj]
  dsimp only
  rw [if_neg (by simp [show objReady (issueOf w f).w loc = true from hready]), counted_mem]
  rfl

/-- An object on which something is pending completes no phase. -/
theorem complete_of_pend {b : BarObj} (h : 0 < b.pend) : b.complete = b := if_neg (by simp [Nat.ne_of_gt h])

/-- `btest` that clears ERR and OVR. -/
theorem btest_clears {s : State} {w : Warp} {loc : Nat} {x : Warp} (hx : s.warp? w.key = some x) (h : s.mem.wf = true)
    (hp : 0 < (s.bar loc).pend) :
    (s.barUpdate loc { s.bar loc with err := false, ovr := 0 } []).warp? w.key = some x ∧
      (s.barUpdate loc { s.bar loc with err := false, ovr := 0 } []).bar loc = { s.bar loc with err := false, ovr := 0 } := by
  have hc := complete_of_pend (b := { s.bar loc with err := false, ovr := 0 }) hp
  have hf : BarFits { s.bar loc with err := false, ovr := 0 } := { bar_fits s loc with ovr := Nat.two_pow_pos 16 }
  refine ⟨?_, (barUpdate_bar h hf loc []).trans hc⟩
  rw [barUpdate_warp?, hx]
  exact congrArg some (if_pos (congrArg BarObj.phase hc))

theorem barrierTests : BarrierTests := by
  intro s
  constructor
  · intro x lane o ph dl sp pr hx hl hst hw hle
    obtain ⟨t, y, ht, hy, he⟩ := bwaitTimeout_ends hx hl hst hw hle
    obtain ⟨hready, hpc⟩ := barWake_goes (x.thread lane) pr false []
    exact ⟨t, y, ht, hy, he ▸ hready, he ▸ hpc, fun hk => he ▸ barWake_pred _ false [] hk⟩
  · intro w f loc h hs hobj hready j put
    have hx := btestBody_read h hs hobj hready
    refine ⟨fun hty => ?_, fun hty hwf hpend => ?_⟩
    · rw [if_neg hty] at hx
      exact hx
    · rw [if_pos hty] at hx
      have hb : (counted s w).bar loc = s.bar loc := (counted_sameButWarps s w).field (·.bar loc)
      obtain ⟨hwarp, hbar⟩ := btest_clears (s := counted s w) (counted_warp? (warp?_self h.1)) (by rwa [counted_mem]) (hb.symm ▸ hpend)
      have hput (x : Warp) : (put x).key = x.key := putAll_key ..
      refine ⟨_, _, hx, ends_warp? (State.warp?_withWarp (g := put) hwarp (hput _)), ?_, ?_⟩
      · exact ((withWarp_sameButWarps ..).trans (ends_sameButWarps ..) |>.field (·.bar loc)).trans (hbar.trans (by rw [hb]))
      · have hv : SameVals (put w) _ := ((sameVals_countIssue w w.bundle).putAll _).trans (sameVals_advance _ (fall w))
        exact ⟨hv.1, hv.2.2⟩

/-- Settles O26: what `bwait` makes of an object is one function of its phase and the lanes' phases (`bwaitBody_read`). -/
theorem barrierWaiters : Obligations.BarrierWaiters := ⟨barrierWaits, barrierTests⟩

end Sys2Proof.Claims
end

section
namespace Sys2Proof.Claims

set_option Elab.async false

open Sys2Proof Sys2Proof.Machine

/-! ### Updates of barrier objects (08 R219 to R225, R534) -/

/-! #### The issue -/

/-- The warp that waits at an update until its bank has performed it. -/
def barHeld (i : Iss) (loc : Nat) (op : BarOp) (w : Warp) : Warp :=
  { w with hold := .barrier i.all, barOps := [{ loc := loc, op := op, lanes := i.lanes }] }

section
variable {f : Fields} {op : Iss → BarOp} {i : Iss} {s : State}

theorem barBody_error {t : Trap} (h : objChk i s f = .error t) : barBody f op i s = .trap t := by
  unfold barBody
  rw [h]

theorem barBody_empty {loc : Nat} (h : objChk i s f = .ok loc) (ho : op i = .init 0) : barBody f op i s = trapAll i 0x065 := by
  unfold barBody
  rw [h]
  dsimp only
  rw [ho]
  rfl

theorem barBody_holds {loc : Nat} (h : objChk i s f = .ok loc) (ho : op i ≠ .init 0) :
    barBody f op i s = .hold (s.upd i (barHeld i loc (op i))) := by
  unfold barBody
  rw [h]
  dsimp only
  split
  · next he => exact absurd he ho
  · rfl

end

theorem barrierIssues : BarrierIssues := by
  intro s w f hs j n one
  have update {i : Instr} {k : Nat} {op : Iss → BarOp} (hf : fieldsOf i = some (k, f))
      (he : exec i s = issueSplit i s (allScalar f) {} (barBody f op)) : one i (op j) := by
    intro h
    refine ⟨fun t ht => ?_, fun loc hloc => ⟨fun ho => ?_, fun ho => ?_⟩⟩
    · exact he.trans (issueSplit_trapped hf h hs (barBody_error ((objChk_counted ..).trans ht)))
    · exact he.trans (issueSplit_trapped hf h hs (barBody_empty ((objChk_counted ..).trans hloc) ho))
    · exact he.trans (issueSplit_held hf h hs (barBody_holds ((objChk_counted ..).trans hloc) ho))
  exact ⟨update (op := fun i => .init (barCount i f i.low % 65536)) rfl rfl,
    update (op := fun i => .arrive ((i.lanes.map fun l => barCount i f l % 65536).sum)) rfl rfl,
    update (op := fun i => .expect (barCount i f i.low) false) rfl rfl, update (op := fun i => .expect (barCount i f i.low) true) rfl rfl⟩

/-! #### What the bank does -/

theorem ended_eq_complete (c : BarObj) : ended c = c.complete := if_congr (by simp) rfl rfl

/-- The warp whose update has been performed, still at its instruction. -/
def unbarred (x : Warp) : Warp := { x with barOps := [] }

section
variable {s : State} {x : Warp} {p : BarPend} (h : AtBank s x p)
include h

theorem exec_barrierUpdate : exec (.barrierUpdate x.key) s = match p.op with
    | .init n => .next ((s.setWarp (unbarred x).release).barInit p.loc n)
    | op => match barResult (s.bar p.loc) op (x.coveredBy p.lanes) with
      | .same => .next (s.setWarp (unbarred x).release)
      | .done b cov => .next ((s.setWarp (unbarred x).release).barUpdate p.loc b cov)
      | .bad cause b => .next (takeTrap ((match b with | some b => s.setBar p.loc b | none => s).setWarp (unbarred x))
          (heldIss (unbarred x) p.lanes) { cause := cause, lanes := p.lanes }) := by
  obtain ⟨hx, hb, hopen, _⟩ := h
  change execBarrierUpdate x.key s = _
  unfold execBarrierUpdate
  rw [hx]
  dsimp only
  rw [hb]
  dsimp only
  rw [if_neg (by simp [hopen])]
  rfl

theorem exec_barrierUpdate_init {n : Nat} (ho : p.op = .init n) :
    exec (.barrierUpdate x.key) s = .next ((s.setWarp (unbarred x).release).barInit p.loc n) := by
  rw [exec_barrierUpdate h, ho]

theorem exec_barrierUpdate_done {b : BarObj} {cov : List Nat} (ho : ∀ n, p.op ≠ .init n)
    (hr : barResult (s.bar p.loc) p.op (x.coveredBy p.lanes) = .done b cov) :
    exec (.barrierUpdate x.key) s = .next ((s.setWarp (unbarred x).release).barUpdate p.loc b cov) := by
  rw [exec_barrierUpdate h]
  split
  · next n he => exact absurd he (ho n)
  · rw [hr]

theorem exec_barrierUpdate_bad {cause : Nat} {b : Option BarObj} (ho : ∀ n, p.op ≠ .init n)
    (hr : barResult (s.bar p.loc) p.op (x.coveredBy p.lanes) = .bad cause b) :
    exec (.barrierUpdate x.key) s = .next (takeTrap ((match b with | some b => s.setBar p.loc b | none => s).setWarp (unbarred x))
      (heldIss (unbarred x) p.lanes) { cause := cause, lanes := p.lanes }) := by
  rw [exec_barrierUpdate h]
  split
  · next n he => exact absurd he (ho n)
  · rw [hr]

end

/-! #### What an object makes of an update -/

section
variable {b : BarObj} {cov : List Nat}

/-- An arrival at an object. -/
theorem barResult_arrive (hm : b.mark = 0xB5) (n : Nat) : barResult b (.arrive n) cov =
    if b.pend < n then .bad 0x060 (some b.refuse) else if n = 0 then .same else .done { b with pend := b.pend - n } cov :=
  if_neg (by simp [hm])

/-- An expectation at an object. -/
theorem barResult_expect (hm : b.mark = 0xB5) (m : Nat) (a : Bool) : barResult b (.expect m a) cov =
    if 2 ^ 24 ≤ b.txb + m ∨ a = true ∧ b.pend = 0 then .bad 0x060 (some b.refuse)
    else .done { b with txb := b.txb + m, txa := true, pend := b.pend - bitOf a } (if a then cov else []) := by
  refine (if_neg (by simp [hm])).trans (if_congr ?_ rfl ?_)
  · simp only [Bool.or_eq_true, decide_eq_true_eq, Bool.and_eq_true, beq_iff_eq]
    exact or_congr_left (by omega)
  · cases a <;> rfl

theorem barResult_arrives {n : Nat} (hm : b.mark = 0xB5) (h0 : 0 < n) (hle : n ≤ b.pend) :
    barResult b (.arrive n) cov = .done { b with pend := b.pend - n } cov := by
  rw [barResult_arrive hm, if_neg (by omega), if_neg (by omega)]

theorem barResult_expects {m : Nat} {a : Bool} (hm : b.mark = 0xB5) (hlt : b.txb + m < 2 ^ 24) (hp : a = true → 0 < b.pend) :
    barResult b (.expect m a) cov =
      .done { b with txb := b.txb + m, txa := true, pend := b.pend - bitOf a } (if a then cov else []) := by
  rw [barResult_expect hm, if_neg]
  rintro (h | ⟨ha, h⟩)
  · omega
  · exact (hp ha).ne' h

theorem barResult_unmarked {op : BarOp} (hm : b.mark ≠ 0xB5) (ho : ∀ n, op ≠ .init n) : barResult b op cov = .bad 0x062 none := by
  cases op with
  | init n => exact absurd rfl (ho n)
  | arrive n => exact if_pos (by simp [hm])
  | expect m a => exact if_pos (by simp [hm])

theorem barResult_refused {op : BarOp} (hm : b.mark = 0xB5)
    (h : (∃ n, op = .arrive n ∧ b.pend < n) ∨ (∃ m a, op = .expect m a ∧ (2 ^ 24 ≤ b.txb + m ∨ a = true ∧ b.pend = 0))) :
    barResult b op cov = .bad 0x060 (some b.refuse) := by
  rcases h with ⟨n, rfl, hlt⟩ | ⟨m, a, rfl, hover⟩
  · exact (barResult_arrive hm n).trans (if_pos hlt)
  · exact (barResult_expect hm m a).trans (if_pos hover)

end

/-! #### A refused update -/

/-- A fault outside undo mode that no prefix precedes, without an address: its record names its cause (R456). -/
theorem takeTrap_cause {s : State} {i : Iss} {cause : Nat} {ls : List Nat} (hc : cause < 512) :
    ∃ r, (takeTrap s i { cause := cause, lanes := ls }).recs = s.recs ++ [r] ∧ (inUndo i.w ls = false → r.cause = cause) := by
  unfold takeTrap
  refine ⟨_, rfl, fun hu => ?_⟩
  unfold Rec.cause
  rw [hu]
  change bitsOf (BitVec.ofNat 64 (cause + _ * 2 ^ 9 + _ * 2 ^ 10 + _ * 2 ^ 11 + _ * 2 ^ 12 + _ * 2 ^ 14 + _ * 2 ^ 17 + _ * 2 ^ 32)).toNat 0 9 = cause
  rw [BitVec.toNat_ofNat, bitsOf]
  omega

theorem refuse_fits {b : BarObj} (h : BarFits b) : BarFits b.refuse := { h with ovr := Nat.lt_of_le_of_lt (Nat.min_le_right ..) (by decide) }

/-- An update that its object does not take. -/
theorem barrierUpdate_refused {s : State} {x : Warp} {p : BarPend} (h : AtBank s x p) {cause : Nat} {b : Option BarObj} (hc : cause < 512)
    (ho : ∀ n, p.op ≠ .init n) (hr : barResult (s.bar p.loc) p.op (x.coveredBy p.lanes) = .bad cause b) :
    ∃ t r, exec (.barrierUpdate x.key) s = .next t ∧ t.mem = (match b with | some b => s.setBar p.loc b | none => s).mem ∧
      t.recs = s.recs ++ [r] ∧ (inUndo x p.lanes = false → r.cause = cause) := by
  obtain ⟨r, hrec, hcause⟩ := takeTrap_cause (s := (match b with | some b => s.setBar p.loc b | none => s).setWarp (unbarred x))
    (i := heldIss (unbarred x) p.lanes) (ls := p.lanes) hc
  refine ⟨_, r, exec_barrierUpdate_bad h ho hr, takeTrap_mem .., hrec.trans ?_, hcause⟩
  cases b <;> rfl

theorem barrierRefusals : BarrierRefusals := by
  intro s x p h b
  refine ⟨fun n hop hm => ?_, fun hm hbad => ?_⟩
  · have ho (k : Nat) : p.op ≠ .init k := by
      rcases hop with he | ⟨a, he⟩ <;> rw [he] <;> nofun
    exact barrierUpdate_refused h (by decide) ho (barResult_unmarked hm ho)
  · have ho (k : Nat) : p.op ≠ .init k := by
      rcases hbad with ⟨n, he, _⟩ | ⟨m, a, he, _⟩ <;> rw [he] <;> nofun
    obtain ⟨t, r, ht, hmem, hrec, hcause⟩ := barrierUpdate_refused h (by decide) ho (barResult_refused hm hbad)
    refine ⟨t, r, ht, ?_, hrec, hcause⟩
    have hbar := bar_setBar h.2.2.2 (refuse_fits (bar_fits s p.loc)) p.loc
    unfold State.bar
    rw [hmem]
    exact hbar

end Sys2Proof.Claims
end

section
namespace Sys2Proof.Claims

set_option Elab.async false

open Sys2Proof Sys2Proof.Machine

/-! #### An update that its object takes (08 R219, R223 to R225) -/

theorem unbarred_release_key (x : Warp) : (unbarred x).release.key = x.key := (pass_sameButThreads ..).field (·.key)

section
variable {s : State} {x : Warp} {p : BarPend}

theorem released_warp? (h : s.warp? x.key = some x) : (s.setWarp (unbarred x).release).warp? x.key = some (unbarred x).release :=
  warp?_setWarp_of_key h (unbarred_release_key x)

theorem released_warp?_ne {k : Nat} (hk : k ≠ x.key) : (s.setWarp (unbarred x).release).warp? k = s.warp? k :=
  warp?_setWarp_ne s fun he => hk (he.trans (unbarred_release_key x))

end

/-! The object that `binit` makes. -/

/-- A fresh object (R223). -/
def freshBar (loc n : Nat) : BarObj :=
  { pend := n, expect := n, phase := 0, err := false, txa := false, txb := 0, ovr := 0, owner := coreLocal (locCore loc), mark := 0xB5 }

theorem coreLocal_lt (k : Nat) : coreLocal k < 32 := by
  unfold coreLocal
  split <;> omega

theorem freshBar_fits (loc : Nat) {n : Nat} (h : n < 65536) : BarFits (freshBar loc n) :=
  ⟨h, h, Nat.zero_lt_succ _, Nat.two_pow_pos _, Nat.two_pow_pos _, coreLocal_lt _, Nat.lt_add_of_pos_right (n := 181) (k := 75) (by decide),
    Nat.zero_lt_succ _, Nat.zero_lt_succ _⟩

/-- The owner fits its five bits (R218). -/
theorem freshBar_owner (loc n : Nat) : freshBar loc n = { freshBar loc n with owner := coreLocal (locCore loc) % 32 } := by
  rw [Nat.mod_eq_of_lt (coreLocal_lt _)]
  rfl

/-- The threads that wait at an object which `binit` makes compare their phases with 0 (R223). -/
def initThread (all : List Nat) (ph : Nat) (t : Thread) (pred : BitVec 8) : Thread :=
  let d := (16 - ph % 16) % 16
  if d = 0 then t else t.barWake pred (decide (d < 8)) (if d < 8 then all else [])

theorem barInit_eq (s : State) (loc n : Nat) : s.barInit loc n =
    (List.range 16).foldl (fun s k => s.setBarCov loc k [])
      ((s.setBar loc (freshBar loc n)).barWaiters loc (initThread (s.barCov loc 16))) := rfl

theorem setBarCovs_mem (s : State) (loc : Nat) (ks : List Nat) : (ks.foldl (fun s k => s.setBarCov loc k []) s).mem = s.mem :=
  foldl_kept State.mem (g := fun s k => s.setBarCov loc k []) (fun _ _ => rfl) ks s

theorem setBarCovs_warps (s : State) (loc : Nat) (ks : List Nat) : (ks.foldl (fun s k => s.setBarCov loc k []) s).warps = s.warps :=
  foldl_kept State.warps (g := fun s k => s.setBarCov loc k []) (fun _ _ => rfl) ks s

theorem barInit_mem (s : State) (loc n : Nat) : (s.barInit loc n).mem = (s.setBar loc (freshBar loc n)).mem := by
  rw [barInit_eq, setBarCovs_mem]
  rfl

theorem barInit_warps (s : State) (loc n : Nat) :
    (s.barInit loc n).warps = s.warps.map (atObject (s.setBar loc (freshBar loc n)) loc (initThread (s.barCov loc 16))) := by
  rw [barInit_eq, setBarCovs_warps]
  rfl

theorem barInit_warp? (s : State) (loc n k : Nat) :
    (s.barInit loc n).warp? k = (s.warp? k).map (atObject (s.setBar loc (freshBar loc n)) loc (initThread (s.barCov loc 16))) :=
  (congrArg (List.find? _) (barInit_warps ..)).trans
    (warp?_mapWarps s (g := atObject (s.setBar loc (freshBar loc n)) loc (initThread (s.barCov loc 16))) (fun _ => rfl) k)

theorem barInit_bar {s : State} (h : s.mem.wf = true) (loc : Nat) {n : Nat} (hn : n < 65536) : (s.barInit loc n).bar loc = freshBar loc n :=
  (congrArg (fun m => barOf (memNat m loc 12)) (barInit_mem s loc n)).trans (bar_setBar h (freshBar_fits loc hn) loc)

/-! The threads that wait on a phase that ends. -/

/-- A phase that ends is not the next one. -/
theorem complete_phase_ne {b : BarObj} (hp : b.pend = 0) (ht : b.txb = 0) : b.complete.phase ≠ b.phase := by
  have hc : b.complete.phase = (b.phase + 1) % 16 := congrArg BarObj.phase (if_pos (by simp [hp, ht]))
  omega

theorem barMoved_waiting {s : State} {loc : Nat} {b : BarObj} {cov : List Nat} {w : Warp} {l ph dl sp : Nat} {pr : BitVec 8}
    (hc : b.complete.phase ≠ b.phase) (hl : l < w.threads.length) (hst : (w.thread l).st = .waiting)
    (hw : (w.thread l).wait = .bwait loc ph dl sp pr) (hph : ph % 16 = b.phase) :
    ((barMoved s loc b cov w).thread l).st = .ready ∧ ((barMoved s loc b cov w).thread l).pc = nextPc (w.thread l).pc := by
  rw [barMoved, if_neg hc, atObject_waiting _ _ _ hl hst hw]
  split
  · exact barWake_goes ..
  · rw [if_neg (hph.trans_ne hc.symm)]
    exact barWake_goes ..

/-- The threads of the warp whose update has been performed are not at the object. -/
theorem barMoved_ready {s : State} {loc : Nat} {b : BarObj} {cov : List Nat} {w : Warp} {l : Nat} (hl : l < w.threads.length)
    (h : (w.thread l).st ≠ .waiting) : (barMoved s loc b cov w).thread l = w.thread l := by
  unfold barMoved
  split
  · rfl
  · exact atObject_ready _ _ _ hl h

theorem arrive_fits {b : BarObj} (h : BarFits b) (n : Nat) : BarFits { b with pend := b.pend - n } :=
  { h with pend := Nat.lt_of_le_of_lt (Nat.sub_le ..) h.pend }

theorem expect_fits {b : BarObj} (h : BarFits b) {m : Nat} (a : Bool) (hm : b.txb + m < 2 ^ 24) :
    BarFits { b with txb := b.txb + m, txa := true, pend := b.pend - bitOf a } :=
  { h with txb := hm, pend := Nat.lt_of_le_of_lt (Nat.sub_le ..) h.pend }

theorem barrierUpdates : BarrierUpdates := by
  intro s x p h b
  have hfits := bar_fits s p.loc
  have hwf := h.2.2.2
  refine ⟨fun n ho hn => ?_, fun n ho hm h0 hle => ?_, fun m a ho hm hlt hpend => ?_⟩
  · exact ⟨_, exec_barrierUpdate_init h ho, (barInit_bar (s := s.setWarp _) hwf p.loc hn).trans (freshBar_owner ..)⟩
  · refine ⟨_, exec_barrierUpdate_done h (fun k => by rw [ho]; nofun) (by rw [ho]; exact barResult_arrives hm h0 hle), ?_, ?_⟩
    · exact (barUpdate_bar (s := s.setWarp _) hwf (arrive_fits hfits n) p.loc _).trans (ended_eq_complete _).symm
    · rintro hp ht k y l _ ph dl sp pr hk hy hl hst hw rfl hph
      refine ⟨barMoved (s.setWarp (unbarred x).release) p.loc { b with pend := b.pend - n } (x.coveredBy p.lanes) y, ?_,
        barMoved_waiting (complete_phase_ne (b := { b with pend := b.pend - n }) (Nat.sub_eq_zero_of_le hp.le) ht) hl hst hw hph⟩
      rw [barUpdate_warp?, released_warp?_ne hk, hy]
      rfl
  · refine ⟨_, exec_barrierUpdate_done h (fun k => by rw [ho]; nofun) (by rw [ho]; exact barResult_expects hm hlt hpend), ?_⟩
    exact (barUpdate_bar (s := s.setWarp _) hwf (expect_fits hfits a hlt) p.loc _).trans (ended_eq_complete _).symm

end Sys2Proof.Claims
end

section
namespace Sys2Proof.Claims

set_option Elab.async false

open Sys2Proof Sys2Proof.Machine

/-! #### From the issue of an update to the bundle behind it (08 R219, R534) -/

/-- A bundle that goes on whole goes where each of its lanes goes. -/
theorem pass_bundle_pc {w : Warp} (g : Nat → W64) {l : Nat} (hl : l ∈ w.bundle) (hlt : l < w.threads.length) :
    ((w.pass (w.bundle.map fun l => (l, g l))).thread l).pc = g l := by
  have hmine (m : Nat) (hm : m ∈ w.bundle) : ((w.bundle.map fun l => (l, g l)).any fun p => p.1 == m) = true := by simpa using hm
  have hall : ¬(w.unran.any fun m => (w.thread m).mayIssue && !((w.bundle.map fun l => (l, g l)).any fun p => p.1 == m)) = true := by
    simp only [List.any_eq_true, not_exists, not_and]
    intro m hm
    rw [hmine m (List.mem_filter.mp hm).1]
    simp
  unfold Warp.pass
  dsimp only
  rw [if_neg hall]
  refine advance_pc hlt (by simpa using .inr hl) fun p hp he => ?_
  rcases List.mem_append.mp hp with hp | hp
  · have := (List.mem_filter.mp hp).2
    rw [he, hmine l hl] at this
    exact absurd this (by simp)
  · obtain ⟨m, _, rfl⟩ := List.mem_map.mp hp
    exact congrArg g he

/-- The bank has performed a warp's update: its object is as given, and the warp is behind its instruction. -/
def Performs (s : State) (x : Warp) (p : BarPend) (c : BarObj) : Prop :=
  ∃ u y, exec (.barrierUpdate x.key) s = .next u ∧ u.bar p.loc = c ∧ u.warp? x.key = some y ∧ y.hold = .free ∧ y.barOps = [] ∧
    ∀ l, l < x.threads.length → (x.thread l).st ≠ .waiting → y.thread l = (unbarred x).release.thread l

theorem pass_length (w : Warp) (pcs : List (Nat × W64)) : (w.pass pcs).threads.length = w.threads.length := by
  unfold Warp.pass Warp.markRan
  dsimp only
  split
  · exact foldl_kept (fun x : Warp => x.threads.length) (fun _ _ => setThread_length ..) pcs w
  · exact advance_length ..

theorem unbarred_release_length (x : Warp) : (unbarred x).release.threads.length = x.threads.length := pass_length ..

theorem unbarred_release_st (x : Warp) (l : Nat) : ((unbarred x).release.thread l).st = (x.thread l).st := pass_keeps (·.st) ..

theorem unbarred_release_hold (x : Warp) : (unbarred x).release.hold = .free ∧ (unbarred x).release.barOps = [] :=
  ⟨(pass_sameButThreads ..).field (·.hold), (pass_sameButThreads ..).field (·.barOps)⟩

section
variable {s : State} {x : Warp} {p : BarPend} (h : AtBank s x p)
include h

theorem performs_init {n : Nat} (ho : p.op = .init n) (hn : n < 65536) : Performs s x p (freshBar p.loc n) := by
  obtain ⟨hhold, hops⟩ := unbarred_release_hold x
  refine ⟨_, atObject ((s.setWarp (unbarred x).release).setBar p.loc (freshBar p.loc n)) p.loc
    (initThread ((s.setWarp (unbarred x).release).barCov p.loc 16)) (unbarred x).release, exec_barrierUpdate_init h ho,
    barInit_bar (s := s.setWarp _) h.2.2.2 p.loc hn, ?_, hhold, hops, fun l hl hst => ?_⟩
  · rw [barInit_warp?, released_warp? h.1]
    rfl
  · exact atObject_ready _ _ _ (by rwa [unbarred_release_length]) (by rwa [unbarred_release_st])

theorem performs_done {b : BarObj} {cov : List Nat} (ho : ∀ n, p.op ≠ .init n)
    (hr : barResult (s.bar p.loc) p.op (x.coveredBy p.lanes) = .done b cov) (hb : BarFits b) : Performs s x p (ended b) := by
  obtain ⟨hhold, hops⟩ := unbarred_release_hold x
  have hmoved : (barMoved (s.setWarp (unbarred x).release) p.loc b cov (unbarred x).release).hold = .free ∧
      (barMoved (s.setWarp (unbarred x).release) p.loc b cov (unbarred x).release).barOps = [] := by
    unfold barMoved
    split <;> exact ⟨hhold, hops⟩
  refine ⟨_, _, exec_barrierUpdate_done h ho hr,
    (barUpdate_bar (s := s.setWarp _) h.2.2.2 hb p.loc cov).trans (ended_eq_complete b).symm, ?_, hmoved.1, hmoved.2, fun l hl hst => ?_⟩
  · rw [barUpdate_warp?, released_warp? h.1]
    rfl
  · exact barMoved_ready (by rwa [unbarred_release_length]) (by rwa [unbarred_release_st])

end

/-- The updates that release what their threads know (R219). -/
def releasing : BarOp → Bool
  | .arrive _ => true
  | .expect _ a => a
  | .init _ => false

theorem coveredBy_countIssue (w : Warp) (b ls : List Nat) : (w.countIssue b).coveredBy ls = w.coveredBy ls := by
  unfold Warp.coveredBy
  simp only [countIssue_keeps (·.covered)]

/-- A warp that takes the place of those of its key, with their writes that have not entered the order, leaves what waits for them. -/
theorem gateOpen_setWarp {s : State} {v : Warp} (h : ∀ x ∈ s.warps, x.key = v.key → x.fifo ++ x.failed = v.fifo ++ v.failed)
    (core scope : Nat) (cov : List Nat) : gateOpen (s.setWarp v) core scope cov = gateOpen s core scope cov := by
  have hf (wid : Nat) : inFifo (s.setWarp v) wid = inFifo s wid := by
    unfold inFifo State.setWarp
    dsimp only
    rw [List.any_map, Bool.eq_iff_iff, List.any_eq_true, List.any_eq_true]
    refine exists_congr fun x => and_congr_right fun hx => ?_
    by_cases hk : x.key = v.key
    · simp [hk, h x hx hk]
    · simp [hk]
  unfold gateOpen reachedViews
  simp only [hf]
  rfl

/-- The gate of a release is as open when the warp waits at its update as when it has counted the issue. -/
theorem gateOpen_held {s : State} {w : Warp} (hx : s.warp? w.key = some w) (i : Iss) (loc : Nat) (op : BarOp) (core scope : Nat) (cov : List Nat) :
    gateOpen ((counted s w).withWarp w.key (barHeld i loc op)) core scope cov = gateOpen (counted s w) core scope cov := by
  rw [State.withWarp_eq _ (counted_warp? hx)]
  refine gateOpen_setWarp (fun x hm hk => ?_) core scope cov
  rw [counted, State.withWarp_eq _ hx] at hm
  obtain ⟨y, _, rfl⟩ := List.mem_map.mp hm
  split
  · rfl
  · next hne =>
    rw [if_neg hne] at hk
    exact absurd (beq_iff_eq.mpr hk) hne

section
variable {s : State} {w : Warp} {f : Fields} {loc : Nat} {op : BarOp}

/-- The warp that waits at its update is at its bank, when the update is ready to be performed. -/
theorem atBank_of_held (hx : s.warp? w.key = some w) (hready : objReady w loc = true) (hwf : s.mem.wf = true)
    (hr : releasing op = true → w.busyLanes (issueOf w f).lanes = false ∧
      gateOpen (counted s w) w.core 3 (w.coveredBy (issueOf w f).lanes) = true) :
    AtBank ((counted s w).withWarp w.key (barHeld (issueOf w f) loc op)) (barHeld (issueOf w f) loc op (w.countIssue w.bundle))
      { loc := loc, op := op, lanes := (issueOf w f).lanes } := by
  have hs := withWarp_sameButWarps (counted s w) w.key (barHeld (issueOf w f) loc op)
  refine ⟨State.warp?_withWarp (counted_warp? hx) rfl, rfl, ?_, (hs.field (·.mem)).symm ▸ (counted_mem s w).symm ▸ hwf⟩
  change (objReady w loc && (!releasing op || (!w.busyLanes (issueOf w f).lanes &&
    gateOpen ((counted s w).withWarp w.key (barHeld (issueOf w f) loc op)) w.core 3
      ((w.countIssue w.bundle).coveredBy (issueOf w f).lanes)))) = true
  rw [hready, coveredBy_countIssue, gateOpen_held hx]
  cases hrel : releasing op with
  | false => rfl
  | true =>
    rw [(hr hrel).1, (hr hrel).2]
    rfl

/-- An update that is performed once it has issued. -/
theorem completes_of_performs {i : Instr} {k : Nat} {o : Iss → BarOp} {c : BarObj} (hf : fieldsOf i = some (k, f))
    (he : exec i s = issueSplit i s (allScalar f) {} (barBody f o)) (h : Issues s w i f) (hs : Whole w (allScalar f))
    (hobj : objChk (issueOf w f) s f = .ok loc) (hne : o (issueOf w f) ≠ .init 0)
    (hall : ∀ l ∈ w.bundle, (w.thread l).st = .ready ∧ l < w.threads.length)
    (hp : Performs ((counted s w).withWarp w.key (barHeld (issueOf w f) loc (o (issueOf w f))))
      (barHeld (issueOf w f) loc (o (issueOf w f)) (w.countIssue w.bundle))
      { loc := loc, op := o (issueOf w f), lanes := (issueOf w f).lanes } c) :
    ∃ t u y, exec i s = .next t ∧ exec (.barrierUpdate w.key) t = .next u ∧ u.bar loc = c ∧
      u.warp? w.key = some y ∧ y.hold = .free ∧ y.barOps = [] ∧ ∀ l ∈ w.bundle, (y.thread l).pc = nextPc (w.thread l).pc := by
  obtain ⟨u, y, hu, hbar, hy, hhold, hops, hthread⟩ := hp
  refine ⟨_, u, y, he.trans (issueSplit_held hf h hs (barBody_holds ((objChk_counted ..).trans hobj) hne)), hu, hbar, hy, hhold, hops,
    fun l hl => ?_⟩
  obtain ⟨hst, hlt⟩ := hall l hl
  have hlt' : l < (w.countIssue w.bundle).threads.length := by rwa [countIssue_length]
  have hpc (m : Nat) : ((w.countIssue w.bundle).thread m).pc = (w.thread m).pc := countIssue_keeps (·.pc) w w.bundle m
  have hready : ((w.countIssue w.bundle).thread l).st = .ready := (countIssue_keeps (·.st) w w.bundle l).trans hst
  rw [hthread l hlt' (hready.trans_ne (by decide)), ← hpc l]
  exact pass_bundle_pc (w := { unbarred (barHeld (issueOf w f) loc (o (issueOf w f)) (w.countIssue w.bundle)) with hold := .free })
    (fun m => nextPc ((w.countIssue w.bundle).thread m).pc) hl hlt'

end

theorem barrierCompletions : BarrierCompletions := by
  intro s w f loc hs hobj hready hwf hall j b n sum open_ completes
  have hfits := bar_fits s loc
  have held (op : BarOp) : SameButWarps s ((counted s w).withWarp w.key (barHeld j loc op)) :=
    (counted_sameButWarps s w).trans (withWarp_sameButWarps ..)
  have hbar (op : BarOp) : ((counted s w).withWarp w.key (barHeld j loc op)).bar loc = b := (held op).field (·.bar loc)
  refine ⟨fun h hn => ?_, fun h hm h0 hle ho => ?_, fun h hm hlt => ?_, fun h hm hlt hp ho => ?_⟩
  · have hp := performs_init (atBank_of_held (f := f) (op := .init (n j.low % 65536)) (warp?_self h.1) hready hwf nofun) rfl
      (Nat.mod_lt _ (by decide))
    exact completes_of_performs (o := fun i => .init (barCount i f i.low % 65536)) rfl rfl h hs hobj (fun he => hn (BarOp.init.inj he)) hall
      (freshBar_owner loc _ ▸ hp)
  · have hp := performs_done (atBank_of_held (f := f) (op := .arrive sum) (warp?_self h.1) hready hwf fun _ => ho) nofun
      (by rw [hbar]; exact barResult_arrives hm h0 hle) (arrive_fits hfits sum)
    exact completes_of_performs (o := fun i => .arrive ((i.lanes.map fun l => barCount i f l % 65536).sum)) rfl rfl h hs hobj nofun hall hp
  · have hp := performs_done (atBank_of_held (f := f) (op := .expect (n j.low) false) (warp?_self h.1) hready hwf nofun) nofun
      (by rw [hbar]; exact barResult_expects hm hlt nofun) (expect_fits hfits false hlt)
    exact completes_of_performs (o := fun i => .expect (barCount i f i.low) false) rfl rfl h hs hobj nofun hall hp
  · have hp := performs_done (atBank_of_held (f := f) (op := .expect (n j.low) true) (warp?_self h.1) hready hwf fun _ => ho) nofun
      (by rw [hbar]; exact barResult_expects hm hlt fun _ => hp) (expect_fits hfits true hlt)
    exact completes_of_performs (o := fun i => .expect (barCount i f i.low) true) rfl rfl h hs hobj nofun hall hp

/-- Settles O25: a bank performs the update of an object, whose fields fit their places, or refuses it with its cause (`exec_barrierUpdate`). -/
theorem barrierObjects : Obligations.BarrierObjects := ⟨barrierIssues, barrierCompletions, barrierUpdates, barrierRefusals⟩

end Sys2Proof.Claims
end

section
namespace Sys2Proof.Claims

set_option Elab.async false

open Sys2Proof Sys2Proof.Machine

/-! ### Requests of atomics (08 R210 to R212) -/

/-- What is pushed has any property that its requests and the one it was pushed with give. -/
theorem Pushes.imp {key : Nat} {P Q : FifoEnt → Prop} {rs : List (Nat × W64 × List Host.Cell)} {s t : State} (h : Pushes key P rs s t)
    (hq : ∀ e, requestOf e ∈ rs → P e → Q e) : Pushes key Q rs s t := by
  refine ⟨h.mem, fun x hx => ?_⟩
  obtain ⟨y, es, hy, hes, hr, hp⟩ := h.warp x hx
  exact ⟨y, es, hy, hes, hr, fun e he => hq e (hr ▸ List.mem_map_of_mem he) (hp e he)⟩

section
variable (opc : Nat) (ret : Bool) (f : Fields) (i : Iss) (m : Mods)

/-- What a lane of an atomic asks of its home. -/
def atomicKind (lane : Nat) : FifoKind :=
  .atomic f.pol (16 * opc + f.ty) (readReg i.w f.c 0 (atomBytes f.pol == 8) lane)
    (if opc = 0x81 then readReg i.w f.d 0 (atomBytes f.pol == 8) lane else 0) ret f.d (m.ord == 2 || m.ord == 4)

/-- The entry of a lane of an atomic. -/
def atomicPost (lane : Nat) : Post :=
  { op := i.w.nextOp, kind := atomicKind opc ret f i m lane, m := m, pc := i.pcCur, ep := i.w.ep, since := i.w.since }

/-- The request of a lane of an atomic. -/
def atomicRequest (c : LaneChk) : Nat × W64 × List Host.Cell := (c.lane, c.addr, cellsAt c.loc (List.replicate (atomBytes f.pol) 0))

/-- The entry of a lane behind the older ones, with its block asked for. -/
def pushAtomic (s : State) (c : LaneChk) : State :=
  pushEntry i.w.key (atomicPost opc ret f i m c.lane) c.lane c.addr (cellsAt c.loc (List.replicate (atomBytes f.pol) 0))
    (s.requestBlock i.w.ctx m.pol c)

/-- The warp that has an atomic in flight: with a scoreboard slot where it returns a value, else counted in ST (R212). -/
def atomicStarted (w : Warp) : Warp :=
  if ret then { w with nextOp := i.w.nextOp + 1, sb := w.sb ++ [(i.w.nextOp, f.d, atomBytes f.pol == 8)] }
  else { w with nextOp := i.w.nextOp + 1, st := w.st + 1 }

end

theorem atomicBody_issueOf (opc : Nat) (ret : Bool) (f : Fields) (w : Warp) (u : State) : atomicBody opc ret f (issueOf w f) u =
    let cs := checksAt u w f false 2 0 (atomBytes f.pol)
    accessBody (issueOf w f) (if ret then [1, 2, 3, 4] else [1, 3]) 2 cs u (.done
      ((cs.foldl (pushAtomic opc ret f (issueOf w f) (modsAt w f false 0)) (fillLanes u w cs)).upd (issueOf w f)
        (atomicStarted ret f (issueOf w f)))) := rfl

/-- The properties of the entries of an atomic. -/
def AtomicEntry (opc : Nat) (ret : Bool) (f : Fields) (i : Iss) (m : Mods) (e : FifoEnt) : Prop :=
  EntryOf (atomicPost opc ret f i m e.lane) e

theorem pushAtomic_pushes (opc : Nat) (ret : Bool) (f : Fields) (i : Iss) (m : Mods) (s : State) (c : LaneChk) :
    Pushes i.w.key (AtomicEntry opc ret f i m) [atomicRequest f c] s (pushAtomic opc ret f i m s c) := by
  have hb : Pushes i.w.key (EntryOf (atomicPost opc ret f i m c.lane)) [] s (s.requestBlock i.w.ctx m.pol c) :=
    .of_caches (requestBlock_caches ..) (requestBlock_mem ..)
  refine (hb.trans (pushEntry_pushes i.w.key (atomicPost opc ret f i m c.lane) c.lane c.addr _ _)).imp fun e hr he => ?_
  have hl : e.lane = c.lane := congrArg Prod.fst (List.mem_singleton.mp hr)
  rwa [AtomicEntry, hl]

/-- What the lanes of an atomic leave: their entries behind the older ones. -/
theorem pushAtomics_spec {s : State} {x : Warp} {i : Iss} (hx : s.warp? i.w.key = some x) (opc : Nat) (ret : Bool) (f : Fields) (m : Mods)
    (cs : List LaneChk) : (cs.foldl (pushAtomic opc ret f i m) s).mem = s.mem ∧
    ∃ y es, (cs.foldl (pushAtomic opc ret f i m) s).warp? i.w.key = some y ∧ Queued es x y ∧ es.map requestOf = cs.map (atomicRequest f) ∧
      ∀ e ∈ es, AtomicEntry opc ret f i m e := by
  have h := Pushes.foldl (l := cs) (fun t c _ => pushAtomic_pushes opc ret f i m t c) s
  rw [List.map_eq_flatMap]
  exact ⟨h.mem, h.warp x hx⟩

theorem atomicStarted_key (ret : Bool) (f : Fields) (i : Iss) (w : Warp) : (atomicStarted ret f i w).key = w.key :=
  iteInduction (motive := fun x : Warp => x.key = w.key) (fun _ => rfl) fun _ => rfl

theorem atomicStarted_spec (ret : Bool) (f : Fields) (i : Iss) {es : List FifoEnt} {x y : Warp} (h : Queued es x y) :
    let z := atomicStarted ret f i y
    z.fifo = x.fifo ++ es ∧ z.nextOp = i.w.nextOp + 1 ∧
      (if ret then z.sb = x.sb ++ [(i.w.nextOp, f.d, atomBytes f.pol == 8)] ∧ z.st = x.st else z.sb = x.sb ∧ z.st = x.st + 1) ∧
      SameRegs x z := by
  obtain ⟨hrest, hregs⟩ := h
  have hf : y.fifo = x.fifo ++ es := by rw [hrest]
  have hsb : y.sb = x.sb := by rw [hrest]
  have hst : y.st = x.st := by rw [hrest]
  cases ret with
  | true => exact ⟨hf, rfl, ⟨congrArg (· ++ _) hsb, hst⟩, hregs⟩
  | false => exact ⟨hf, rfl, ⟨hsb, congrArg (· + 1) hst⟩, hregs⟩

/-- Whether an atomic returns the old value, by its opcode (R210). -/
def returns (op : Nat) : Bool := op == 0x80 || op == 0x81 || op == 0x83 || op == 0x85

/-- The body of each atomic, and the orders that it takes. -/
theorem exec_of_atomic {i : Instr} {f : Fields} {op : Nat} {ords : List Nat} (hr : accessRule i = some (f, false, 2, ords, 0, atomBytes f.pol))
    (hf : fieldsOf i = some (op, f)) (s : State) : exec i s = issueSplit i s (allScalar f) {} (atomicBody op (returns op) f) ∧
      ords = if returns op then [1, 2, 3, 4] else [1, 3] := by
  cases i with
  | atom | cas | redm | fatom | fredm | amxr =>
    cases hr
    cases hf
    exact ⟨rfl, rfl⟩
  | _ => cases hr

theorem atomicRequests : AtomicRequests := by
  intro s w i f op ords hr hf cs m ret hacc
  obtain ⟨h, hs, hm, hc⟩ := hacc
  obtain ⟨he, rfl⟩ := exec_of_atomic hr hf s
  have hb := atomicBody_issueOf op ret f w (counted s w)
  dsimp only at hb
  rw [checksAt_counted] at hb
  have ht := he.trans (issueSplit_done hf h hs (hb.trans (accessBody_goes hm (accessStop_none hc))))
  have hx := ((fillLanes_caches (counted s w) w cs).warp? w.key).trans (counted_warp? (warp?_self h.1))
  obtain ⟨hmem, y, es, hy, hq, hreq, hes⟩ := pushAtomics_spec (i := issueOf w f) hx op ret f m cs
  have hz := State.warp?_withWarp (g := atomicStarted ret f (issueOf w f)) hy ((atomicStarted_key ..).trans (State.warp?_key hy))
  have ha := advance_sameButThreads (atomicStarted ret f (issueOf w f) y) (fall w)
  obtain ⟨hfifo, hop, hcount, hregs⟩ := atomicStarted_spec ret f (issueOf w f) hq
  refine ⟨_, _, es, ht, ends_warp? hz, (ha.field (·.fifo)).trans hfifo, (ha.field (·.nextOp)).trans hop, ?_, hreq, fun e hm => ?_,
    (ends_mem ..).trans ((upd_mem ..).trans hmem), sameRegs_ends hregs⟩
  · rw [ha.field (·.sb), ha.field (·.st)]
    exact hcount
  · obtain ⟨hkind, hop, hrel, hscope, _⟩ := hes e hm
    exact ⟨hop, hscope, hrel, hkind⟩

end Sys2Proof.Claims
end

section
namespace Sys2Proof.Claims

set_option Elab.async false

open Sys2Proof Sys2Proof.Machine

/-! ### Atomics at their home (08 R210, R211, R213 to R216, 11 R298) -/

/-! #### What an access of an agent leaves of the homes -/

/-- A state with other warps, another order and other fabric ports, and all else as it was. -/
def SameHomes (s t : State) : Prop := t = { s with warps := t.warps, order := t.order, links := t.links }

section
variable {s t u : State}

theorem SameHomes.trans (h : SameHomes s t) (hu : SameHomes t u) : SameHomes s u := by
  unfold SameHomes at h hu ⊢
  rw [hu, h]

theorem SameHomes.field {α : Type} (π : State → α) (h : SameHomes s t)
    (hπ : ∀ ws o l, π { s with warps := ws, order := o, links := l } = π s := by intros; rfl) : π t = π s :=
  (congrArg π h).trans (hπ ..)

end

theorem setWarp_sameHomes (s : State) (w : Warp) : SameHomes s (s.setWarp w) := rfl

theorem joinReleases_sameHomes (s : State) (key lane since : Nat) (gains : List Nat) : SameHomes s (s.joinReleases key lane since gains) := by
  unfold State.joinReleases
  split <;> rfl

theorem learn_sameHomes (s : State) (key lane since : Nat) (acq : Option Nat) (wids : List Nat) :
    SameHomes s (s.learn key lane since acq wids) := by
  unfold State.learn
  split
  · rfl
  · exact (setWarp_sameHomes ..).trans (joinReleases_sameHomes ..)

theorem crossed_sameHomes (s : State) (loc : Nat) : SameHomes s (s.crossed loc) := by
  unfold State.crossed
  split <;> rfl

/-- What names an entry of a FIFO, and the cells that it is about. -/
def idCells (e : FifoEnt) : Nat × List Host.Cell := (e.wid, e.cells)

/-- Warps with the same registers whose FIFOs hold the same entries. -/
structure SameEntries (w y : Warp) : Prop where
  fifo : y.fifo.map idCells = w.fifo.map idCells
  regs : SameRegs w y

theorem SameEntries.trans {w x y : Warp} (h : SameEntries w x) (hy : SameEntries x y) : SameEntries w y :=
  ⟨hy.fifo.trans h.fifo, sameRegs_trans h.regs hy.regs⟩

theorem sameRegs_setThread (w : Warp) (l : Nat) {g : Thread → Thread} (h : ∀ t, (g t).v = t.v ∧ (g t).p = t.p) : SameRegs w (w.setThread l g) :=
  ⟨rfl, fun _ => ⟨setThread_keeps (·.v) fun t => (h t).1, setThread_keeps (·.p) fun t => (h t).2⟩⟩

theorem joinReleases_warp? {s : State} {key : Nat} {w : Warp} (h : s.warp? key = some w) (lane since : Nat) (gains : List Nat) :
    ∃ y, (s.joinReleases key lane since gains).warp? key = some y ∧ SameEntries w y := by
  unfold State.joinReleases
  rw [h]
  dsimp only
  refine ⟨_, warp?_setWarp_of_key h ?_, ?_, ?_⟩
  · dsimp only
    split <;> exact (show w.key = key from State.warp?_key h)
  · rw [List.map_map]
    refine List.map_congr_left fun e _ => ?_
    dsimp only [Function.comp]
    split <;> rfl
  · refine iteInduction (motive := fun x : Warp => SameRegs w { x with fifo := _ }) (fun _ => ?_) (fun _ => ⟨rfl, fun _ => ⟨rfl, rfl⟩⟩)
    exact sameRegs_setThread w lane fun _ => ⟨rfl, rfl⟩

/-- What a thread learns joins its covered set and the releases behind its access. -/
theorem learn_warp? {s : State} {key : Nat} {w : Warp} (h : s.warp? key = some w) (lane since : Nat) (acq : Option Nat) (wids : List Nat) :
    ∃ y, (s.learn key lane since acq wids).warp? key = some y ∧ SameEntries w y := by
  unfold State.learn
  rw [h]
  dsimp only
  obtain ⟨y, hy, hs⟩ := joinReleases_warp? (s := s.setWarp (w.setThread lane (threadReads s.order w.core key acq wids)))
    (warp?_setWarp_of_key h (show w.key = key from State.warp?_key h)) lane since (gainsOf s.order w.core key acq wids)
  have hw : SameEntries w (w.setThread lane (threadReads s.order w.core key acq wids)) := ⟨rfl, sameRegs_setThread w lane fun _ => ⟨rfl, rfl⟩⟩
  exact ⟨y, hy, hw.trans hs⟩

/-! #### A write accepted at its home -/

/-- Memory, its marks of damage, the order and the ports aside, a state as another. -/
def SameAgents (s t : State) : Prop :=
  t = { s with mem := t.mem, softWords := t.softWords, badWords := t.badWords, order := t.order, ports := t.ports }

section
variable {s t u : State}

theorem SameAgents.trans (h : SameAgents s t) (hu : SameAgents t u) : SameAgents s u := by
  unfold SameAgents at h hu ⊢
  rw [hu, h]

theorem SameAgents.field {α : Type} (π : State → α) (h : SameAgents s t)
    (hπ : ∀ m sw bw o p, π { s with mem := m, softWords := sw, badWords := bw, order := o, ports := p } = π s := by intros; rfl) : π t = π s :=
  (congrArg π h).trans (hπ ..)

theorem SameAgents.foldl {α : Type} {g : State → α → State} (l : List α) (hg : ∀ t a, SameAgents t (g t a)) : SameAgents s (l.foldl g s) :=
  List.foldlRecOn (motive := SameAgents s) l g rfl fun t h a _ => h.trans (hg t a)

end

theorem allocate_sameAgents (s : State) (l : Line) : SameAgents s (s.allocate l) := by
  rw [State.allocate_eq]
  rfl

theorem install_sameAgents (s : State) (k : Blk) (bs : List Byte) : SameAgents s (s.install k bs) :=
  SameAgents.trans (t := { s with mem := _ }) rfl (allocate_sameAgents ..)

theorem repair_sameAgents (s : State) (locs : List Nat) (loc : Nat) : SameAgents s (s.repair locs loc) := by
  unfold State.repair
  extract_lets word burst u
  have hu : SameAgents s u := by
    dsimp only [u]
    split
    · split <;> rfl
    · rfl
  split
  · exact hu.trans rfl
  · exact hu

theorem touchLine_sameAgents (s : State) (k : Blk) (locs : List Nat) (tag : WriterTag) : SameAgents s (s.touchLine k locs tag) := by
  have hh : SameAgents s (s.hold k) := by
    rw [State.hold_eq]
    rfl
  refine hh.trans (SameAgents.foldl locs fun t x => ?_)
  split <;> rfl

/-- The state in which the block of a write has been filled. -/
def filledFor (s : State) (w : Warp) (e : FifoEnt) (loc : Nat) : State :=
  if s.needsFill (s.blockOf w.ctx (ptrOff e.va) loc) then (match s.fillBlock (s.blockOf w.ctx (ptrOff e.va) loc) with
    | .ok bs => s.install (s.blockOf w.ctx (ptrOff e.va) loc) bs
    | .error _ => s) else s

theorem filledFor_sameAgents (s : State) (w : Warp) (e : FifoEnt) (loc : Nat) : SameAgents s (filledFor s w e loc) := by
  unfold filledFor
  split
  · split
    · exact install_sameAgents ..
    · rfl
  · rfl

theorem filledFor_wf {s : State} (h : s.mem.wf = true) (w : Warp) (e : FifoEnt) (loc : Nat) : (filledFor s w e loc).mem.wf = true := by
  unfold filledFor
  split
  · split
    · rw [State.install, State.allocate_eq]
      exact memPutAll_wf _ h
    · exact h
  · exact h

/-- Where the cells of a write lie now. -/
def homeCells (s : State) (cells : List Host.Cell) : List Host.Cell := cells.map fun c => (s.homeLoc c.1, c.2)

theorem acceptWrite_sameAgents (s : State) (w : Warp) (e : FifoEnt) (whole : List Nat) (cells : List Host.Cell) :
    SameAgents s (acceptWrite s w e whole cells) := by
  unfold acceptWrite
  dsimp only
  split
  · refine SameAgents.trans ?_ (touchLine_sameAgents ..)
    exact ((filledFor_sameAgents s w e ((homeCells s cells).headD (0, 0)).1).trans
      (SameAgents.foldl (homeCells s cells) fun t c => repair_sameAgents t whole c.1)).trans rfl
  · rfl

theorem repair_mem (s : State) (locs : List Nat) (loc : Nat) : (s.repair locs loc).mem = s.mem := by
  unfold State.repair
  extract_lets word burst u
  have hu : u.mem = s.mem := by
    dsimp only [u]
    split
    · split <;> rfl
    · rfl
  split <;> exact hu

theorem touchLine_mem (s : State) (k : Blk) (locs : List Nat) (tag : WriterTag) : (s.touchLine k locs tag).mem = s.mem := by
  have hh : (s.hold k).mem = s.mem := by rw [State.hold_eq]
  refine (foldl_kept State.mem (fun t x => ?_) locs _).trans hh
  split <;> rfl

/-- A write in the global space is made in a block that has been filled where it needs to be; another is made at once. -/
theorem acceptWrite_mem (s : State) (w : Warp) (e : FifoEnt) (whole : List Nat) (cells : List Host.Cell) :
    (acceptWrite s w e whole cells).mem = memPutAll
      (if e.space = 0 then filledFor s w e ((homeCells s cells).headD (0, 0)).1 else s).mem (homeCells s cells) := by
  unfold acceptWrite
  dsimp only
  split
  · rw [touchLine_mem]
    refine congrArg (memPutAll · _) ?_
    exact foldl_kept State.mem (fun t (c : Host.Cell) => repair_mem t whole c.1) (homeCells s cells) _
  · rfl

end Sys2Proof.Claims
end

section
namespace Sys2Proof.Claims

set_option Elab.async false

open Sys2Proof Sys2Proof.Machine

/-! #### One lane of an atomic at its home -/

/-- A register write changes registers alone. -/
theorem put_eq (w : Warp) (r : RegWrite) : w.put r = { w with threads := (w.put r).threads, s := (w.put r).s } := by
  unfold Warp.put
  split
  · rfl
  · rfl
  · split <;> rfl

theorem putFrom_field {α : Type} (π : Warp → α) (w : Warp) (limit : Option Nat) (rs : List RegWrite)
    (h : ∀ w ts s o, π { w with threads := ts, s := s, overs := o } = π w := by intros; rfl) : π (w.putFrom limit rs) = π w := by
  have hf : π (rs.foldl Warp.put w) = π w := foldl_kept π (fun w r => by rw [put_eq]; exact h w _ _ w.overs) rs w
  exact (h (rs.foldl Warp.put w) _ _ _).trans hf

/-- The old value of an atomic. -/
def oldValue (s : State) (e : FifoEnt) : Nat := natOfBytes ((e.cells.map fun c => s.homeLoc c.1).map (memGet s.mem))

/-- The warp that an atomic has left, with the old value where it returns one. -/
def returned (w : Warp) (e : FifoEnt) (ret : Bool) (dst : BitVec 8) (old : Nat) : Warp :=
  let v : Warp := { w with fifo := w.fifo.filter fun x => x.wid != e.wid }
  if ret then v.putFrom (some e.wid) (destWrites dst (e.cells.length == 8) e.lane old) else v

/-- The writes that an atomic reads. -/
def readWriters (s : State) (e : FifoEnt) : List Nat := union [] ((e.cells.map fun c => s.homeLoc c.1).map fun l => kvGet s.order.last l 0)

/-- The state in which an atomic has read. -/
def atomicHasRead (s : State) (w : Warp) (e : FifoEnt) (ret : Bool) (dst : BitVec 8) (acq : Bool) : State :=
  (s.setWarp (returned w e ret dst (oldValue s e))).learn w.key e.lane e.wid (if acq then some e.scope else none) (readWriters s e)

theorem performAtomic_eq (s : State) (w : Warp) (e : FifoEnt) (ty op operand compare : Nat) (ret : Bool) (dst : BitVec 8) (acq : Bool) :
    performAtomic s w e ty op operand compare ret dst acq =
      match atomicNew (op / 16) (op % 16) ty (oldValue s e) operand compare with
      | none => atomicHasRead s w e ret dst acq
      | some v => acceptWrite { atomicHasRead s w e ret dst acq with
          order := chainMeta (atomicHasRead s w e ret dst acq).order e.wid w.core w.key e.scope (readWriters s e) }
          w e [] (cellsAt ((e.cells.headD (0, 0)).1) (bytesOf e.cells.length v)) := rfl

section
variable {s : State} {w : Warp} (e : FifoEnt) (ty op operand compare : Nat) (ret : Bool) (dst : BitVec 8) (acq : Bool)

theorem returned_key (old : Nat) : (returned w e ret dst old).key = w.key := by
  unfold returned
  dsimp only
  split
  · exact putFrom_field (·.key) ..
  · rfl

theorem returned_fifo (old : Nat) : (returned w e ret dst old).fifo = w.fifo.filter fun x => x.wid != e.wid := by
  unfold returned
  dsimp only
  split
  · exact putFrom_field (·.fifo) ..
  · rfl

theorem atomicHasRead_sameHomes : SameHomes s (atomicHasRead s w e ret dst acq) := (setWarp_sameHomes ..).trans (learn_sameHomes ..)

/-- The warp of an atomic that has been performed. -/
theorem performAtomic_warp? (h : s.warp? w.key = some w) : ∃ y,
    (performAtomic s w e ty op operand compare ret dst acq).warp? w.key = some y ∧ SameEntries (returned w e ret dst (oldValue s e)) y := by
  obtain ⟨y, hy, hs⟩ := learn_warp? (s := s.setWarp (returned w e ret dst (oldValue s e))) (warp?_setWarp_of_key h (returned_key ..))
    e.lane e.wid (if acq then some e.scope else none) (readWriters s e)
  refine ⟨y, ?_, hs⟩
  rw [performAtomic_eq]
  split
  · exact hy
  · exact ((acceptWrite_sameAgents ..).field (·.warp? w.key)).trans hy

theorem performAtomic_paging : (performAtomic s w e ty op operand compare ret dst acq).paging = s.paging := by
  have hr := (atomicHasRead_sameHomes (s := s) (w := w) e ret dst acq).field (·.paging)
  rw [performAtomic_eq]
  split
  · exact hr
  · exact ((acceptWrite_sameAgents ..).field (·.paging)).trans hr

theorem headD_homeCells (s : State) (a v : Nat) {n : Nat} (h : 0 < n) : ((homeCells s (cellsAt a (bytesOf n v))).headD (0, 0)).1 = s.homeLoc a := by
  obtain ⟨m, rfl⟩ : ∃ m, n = m + 1 := ⟨n - 1, by omega⟩
  rw [bytesOf, List.range_succ_eq_map, List.map_cons, cellsAt_cons]
  rfl

/-- The cells of a value at the home of an atomic. -/
def newCells (s : State) (e : FifoEnt) (v : Nat) : List Host.Cell :=
  homeCells s (cellsAt ((e.cells.headD (0, 0)).1) (bytesOf e.cells.length v))

/-- What an atomic leaves in memory: its new value at its home, after a fill of its block where that is needed. -/
theorem performAtomic_mem : ∃ m : Memory, (s.mem.wf = true → m.wf = true) ∧
    ((e.space = 0 → s.needsFill (s.blockOf w.ctx (ptrOff e.va) (s.homeLoc (e.cells.headD (0, 0)).1)) = false) →
      0 < e.cells.length → m = s.mem) ∧
    (performAtomic s w e ty op operand compare ret dst acq).mem =
      match atomicNew (op / 16) (op % 16) ty (oldValue s e) operand compare with
      | none => s.mem
      | some v => memPutAll m (newCells s e v) := by
  have hr := atomicHasRead_sameHomes (s := s) (w := w) e ret dst acq
  rw [performAtomic_eq]
  split
  · exact ⟨s.mem, id, fun _ _ => rfl, hr.field (·.mem)⟩
  · next v _ =>
    have hu : SameHomes s { atomicHasRead s w e ret dst acq with
        order := chainMeta (atomicHasRead s w e ret dst acq).order e.wid w.core w.key e.scope (readWriters s e) } := hr.trans rfl
    generalize ({ atomicHasRead s w e ret dst acq with
        order := chainMeta (atomicHasRead s w e ret dst acq).order e.wid w.core w.key e.scope (readWriters s e) } : State) = u at hu
    have hm : u.mem = s.mem := hu.field (·.mem)
    refine ⟨_, fun hwf => ?_, fun hn hlen => ?_, (acceptWrite_mem ..).trans (congrArg (memPutAll _) (hu.field (homeCells · _)))⟩
    · split
      · exact filledFor_wf (hm ▸ hwf) ..
      · exact hm ▸ hwf
    · split
      · next h0 =>
        rw [headD_homeCells _ _ _ hlen]
        refine (congrArg State.mem (if_neg ?_)).trans hm
        rw [hu.field fun s => s.needsFill (s.blockOf w.ctx (ptrOff e.va) (s.homeLoc (e.cells.headD (0, 0)).1)), hn h0]
        exact Bool.false_ne_true
      · exact hm

end

/-! #### The end of an operation -/

theorem raiseLate_spec (s : State) {w : Warp} (h : s.warp? w.key = some w) (kind : Nat) (pc : W64) (ep : W32) (since : Nat)
    (bad : List (Nat × W64 × Nat)) (batch : Nat) (undo : Bool) (acts : Resolves) :
    (raiseLate s w kind pc ep since bad batch undo acts).mem = s.mem ∧
      ∃ y, (raiseLate s w kind pc ep since bad batch undo acts).warp? w.key = some y ∧ y.fifo = w.fifo ∧ SameRegs w y :=
  ⟨rfl, _, State.warp?_setWarp (s := s.raise ..) h, rfl, rfl, fun _ => ⟨rfl, rfl⟩⟩

theorem settleOp_mem (s : State) (key : Nat) (e : FifoEnt) : (settleOp s key e).mem = s.mem := by
  unfold settleOp
  split
  · rfl
  · dsimp only
    split_ifs <;> rfl

/-- An operation that ends, or takes its record, leaves FIFO and registers. -/
theorem settleOp_warp? {s : State} {key : Nat} {w : Warp} (h : s.warp? key = some w) (e : FifoEnt) :
    ∃ y, (settleOp s key e).warp? key = some y ∧ y.fifo = w.fifo ∧ SameRegs w y := by
  have hk := State.warp?_key h
  have set (v : Warp) (hv : v.key = key) (hf : v.fifo = w.fifo) (hr : SameRegs w v) :
      ∃ y, (s.setWarp v).warp? key = some y ∧ y.fifo = w.fifo ∧ SameRegs w y := ⟨v, warp?_setWarp_of_key h hv, hf, hr⟩
  have raised (u : State) (hu : u.warp? key = s.warp? key) : ∃ y, u.warp? key = some y ∧ y.fifo = w.fifo ∧ SameRegs w y :=
    ⟨w, hu.trans h, rfl, rfl, fun _ => ⟨rfl, rfl⟩⟩
  have late := raiseLate_spec s (hk ▸ h)
  rw [hk] at late
  unfold settleOp
  rw [h]
  dsimp only
  split_ifs
  · exact raised s rfl
  · exact set _ hk rfl ⟨rfl, fun _ => ⟨rfl, rfl⟩⟩
  · exact set w hk rfl ⟨rfl, fun _ => ⟨rfl, rfl⟩⟩
  · exact set _ hk rfl ⟨rfl, fun _ => ⟨rfl, rfl⟩⟩
  · exact (late ..).2
  · exact (late ..).2
  · exact raised _ rfl
  · exact raised _ rfl

end Sys2Proof.Claims
end

section
namespace Sys2Proof.Claims

set_option Elab.async false

open Sys2Proof Sys2Proof.Machine

/-! #### HOME_RMW: the lanes of a run, one after another (08 R211) -/

theorem performNext_atomic {key : Nat} {s : State} {w : Warp} (h : s.warp? key = some w) {e : FifoEnt}
    {ty op operand compare : Nat} {ret : Bool} {dst : BitVec 8} {acq : Bool} (he : e.kind = .atomic ty op operand compare ret dst acq) :
    performNext key s e = performAtomic s w e ty op operand compare ret dst acq := by
  unfold performNext
  rw [h, he]

theorem isAtomic_kind {k : FifoKind} (h : k.isAtomic = true) :
    ∃ ty op operand compare ret dst acq, k = .atomic ty op operand compare ret dst acq := by
  cases k with
  | atomic => exact ⟨_, _, _, _, _, _, _, rfl⟩
  | _ => cases h

section
variable {key : Nat} {s : State} {w : Warp}

/-- A lane that performs leaves the FIFO. -/
theorem performNext_fifo (h : s.warp? key = some w) {e : FifoEnt} (he : e.kind.isAtomic = true) : ∃ y,
    (performNext key s e).warp? key = some y ∧ y.fifo.map (·.wid) = (w.fifo.map (·.wid)).filter fun k => k != e.wid := by
  obtain ⟨ty, op, operand, compare, ret, dst, acq, hk⟩ := isAtomic_kind he
  have hkey := State.warp?_key h
  subst hkey
  obtain ⟨y, hy, hs⟩ := performAtomic_warp? e ty op operand compare ret dst acq h
  refine ⟨y, (performNext_atomic h hk).symm ▸ hy, ?_⟩
  have hw : y.fifo.map (·.wid) = (returned w e ret dst (oldValue s e)).fifo.map (·.wid) := by
    simpa [idCells, Function.comp_def] using congrArg (List.map Prod.fst) hs.fifo
  rw [hw, returned_fifo, List.filter_map]
  rfl

/-- The lanes of a run that have performed have left the FIFO, and no other. -/
theorem run_fifo (h : s.warp? key = some w) {run : List FifoEnt} (hr : ∀ e ∈ run, e.kind.isAtomic = true) : ∃ y,
    (run.foldl (performNext key) s).warp? key = some y ∧
      y.fifo.map (·.wid) = (w.fifo.map (·.wid)).filter fun k => !(run.map (·.wid)).contains k := by
  induction run generalizing s w with
  | nil => exact ⟨w, h, by simp⟩
  | cons e r ih =>
    obtain ⟨x, hx, hxf⟩ := performNext_fifo h (hr e (List.mem_cons_self ..))
    obtain ⟨y, hy, hyf⟩ := ih hx fun q hq => hr q (List.mem_cons_of_mem _ hq)
    refine ⟨y, hy, ?_⟩
    rw [hyf, hxf, List.filter_filter]
    refine List.filter_congr fun k _ => ?_
    rw [List.map_cons, List.contains_cons, Bool.not_or, Bool.and_comm]
    rfl

end

/-- Entries with numbers of their own are found by them. -/
theorem filter_wid_eq {es run : List FifoEnt} {p : FifoEnt → Bool} (hn : (es.map (·.wid)).Nodup) (hr : run = es.filter p) :
    (es.map (·.wid)).filter (fun k => !(run.map (·.wid)).contains k) = (es.filter fun e => !p e).map (·.wid) := by
  rw [List.filter_map]
  refine congrArg (List.map _) (List.filter_congr fun e he => ?_)
  have hp : e.wid ∈ run.map (·.wid) ↔ p e = true := by
    rw [hr, List.mem_map]
    refine ⟨fun ⟨q, hq, hw⟩ => ?_, fun h => ⟨e, List.mem_filter.mpr ⟨he, h⟩, rfl⟩⟩
    obtain ⟨hq, hpq⟩ := List.mem_filter.mp hq
    rwa [← List.inj_on_of_nodup_map hn hq he hw]
  dsimp only [Function.comp]
  rw [List.contains_eq_mem]
  exact congrArg not (Bool.eq_iff_iff.mpr (decide_eq_true_iff.trans hp))

/-- HOME_RMW at a home that accepts the head atomic. -/
theorem exec_homeRmw {s : State} {x : Warp} {e : FifoEnt} {r : List FifoEnt} (hx : s.warp? x.key = some x) (hf : x.fifo = e :: r)
    (he : e.kind.isAtomic = true) (hl : ∀ q ∈ runOf x e, mayLeave s x q = true) (hb : x.blocked.contains e.op = false)
    (hh : homeStatus s x e [] true = .accepted) : exec (.homeRmw x.key) s =
      .next (settleOp ((runOf x e).foldl (performNext x.key) (s.crossed (((e.cells.map (·.1)).headD 0)))) x.key e) := by
  have hall : (runOf x e).all (mayLeave s x) = true := List.all_eq_true.mpr hl
  change execHomeRmw x.key s = _
  unfold execHomeRmw
  rw [hx]
  dsimp only
  rw [hf]
  dsimp only
  rw [if_neg (by rw [he, hall, hb]; simp), hh]

theorem atomicNew_eq (opc sub ty old c cmp : Nat) : atomicNew opc sub ty old c cmp =
    if opc = 0x80 ∨ opc = 0x82 then some (atomVal sub (ty == 1 || ty == 3) (8 * atomBytes ty) old c)
    else if opc = 0x83 ∨ opc = 0x84 then some (fatomVal sub ty old c)
    else if opc = 0x81 then (if old = cmp then some c else none) else some c := by
  unfold atomicNew
  split
  · simp
  · simp
  · simp
  · simp
  · simp
  · next h0 h1 h2 h3 h4 => rw [if_neg (by tauto), if_neg (by tauto), if_neg h4]

/-! #### Atomics that name one location -/

theorem natOfBytes_memGet (m : Memory) (a n : Nat) : natOfBytes ((List.range n).map fun k => memGet m (a + k)) = memNat m a n := by
  induction n generalizing a with
  | zero => rfl
  | succ n ih =>
    rw [List.range_succ_eq_map, List.map_cons, List.map_map]
    change (memGet m a).toNat + 256 * natOfBytes _ = (memGet m a).toNat + 256 * memNat m (a + 1) n
    rw [← ih (a + 1)]
    simp only [Function.comp_def, Nat.succ_eq_add_one, Nat.add_assoc, Nat.add_comm 1]

theorem map_fst_cellsAt (a : Nat) (bs : List Byte) : (cellsAt a bs).map (·.1) = (List.range bs.length).map (a + ·) := by
  induction bs generalizing a with
  | nil => rfl
  | cons b r ih =>
    rw [cellsAt_cons, List.map_cons, ih, List.length_cons, List.range_succ_eq_map, List.map_cons, List.map_map]
    simp only [Function.comp_def, Nat.succ_eq_add_one, Nat.add_assoc, Nat.add_comm 1, Nat.add_zero]

theorem atomBytes_pos (ty : Nat) : 0 < atomBytes ty := by
  unfold atomBytes
  split <;> decide

section
variable {s : State} {e : FifoEnt} {a n : Nat} (hc : e.cells = cellsAt a (List.replicate n 0))
include hc

theorem length_atomCells : e.cells.length = n := by rw [hc, length_cellsAt, List.length_replicate]

theorem headD_atomCells (hn : 0 < n) : (e.cells.headD (0, 0)).1 = a := by
  obtain ⟨m, rfl⟩ : ∃ m, n = m + 1 := ⟨n - 1, by omega⟩
  rw [hc, List.replicate_succ, cellsAt_cons]
  rfl

theorem oldValue_eq : oldValue s e = natOfBytes ((List.range n).map fun k => memGet s.mem (s.homeLoc (a + k))) := by
  unfold oldValue
  rw [hc, show (fun c : Host.Cell => s.homeLoc c.1) = s.homeLoc ∘ (·.1) from rfl, ← List.map_map, map_fst_cellsAt, List.length_replicate,
    List.map_map, List.map_map]
  rfl

theorem newCells_eq (hn : 0 < n) (v : Nat) : newCells s e v = (cellsAt a (bytesOf n v)).map fun c => (s.homeLoc c.1, c.2) := by
  rw [newCells, headD_atomCells hc hn, length_atomCells hc]
  rfl

end

/-- An atomic that its home accepts needs no fill: it reads its block (R349). -/
theorem needsFill_of_accepted {s : State} {x : Warp} {e : FifoEnt} (h : homeStatus s x e [] true = .accepted) (h0 : e.space = 0)
    (hlen : 0 < e.cells.length) : s.needsFill (s.blockOf x.ctx (ptrOff e.va) (s.homeLoc (e.cells.headD (0, 0)).1)) = false := by
  have hhead : (e.cells.map fun c => s.homeLoc c.1).headD 0 = s.homeLoc (e.cells.headD (0, 0)).1 := by
    cases hc : e.cells with
    | nil => simp [hc] at hlen
    | cons c r => rfl
  by_contra hn
  rw [Bool.not_eq_false] at hn
  unfold homeStatus at h
  dsimp only at h
  rw [if_neg (by omega), if_neg (by simp [h0]), hhead, hn] at h
  split at h
  · cases h
  · simp at h

section
variable {s : State} {x : Warp} {e : FifoEnt} {ty op operand cmp a : Nat} {ret acq : Bool} {dst : BitVec 8}
  (hc : e.cells = cellsAt a (List.replicate (atomBytes ty) 0))
include hc

/-- What one lane of an atomic leaves in memory. -/
theorem performAtomic_mem_accepted (hh : e.space = 0 → s.needsFill (s.blockOf x.ctx (ptrOff e.va) (s.homeLoc (e.cells.headD (0, 0)).1)) = false) :
    (performAtomic s x e ty op operand cmp ret dst acq).mem =
      match atomicNew (op / 16) (op % 16) ty (natOfBytes ((List.range (atomBytes ty)).map fun k => memGet s.mem (s.homeLoc (a + k)))) operand cmp with
      | some v => memPutAll s.mem ((cellsAt a (bytesOf (atomBytes ty) v)).map fun c => (s.homeLoc c.1, c.2))
      | none => s.mem := by
  obtain ⟨m, _, hm, hmem⟩ := performAtomic_mem (s := s) (w := x) e ty op operand cmp ret dst acq
  rw [hmem, oldValue_eq hc, hm hh (by rw [length_atomCells hc]; exact atomBytes_pos ty)]
  cases atomicNew (op / 16) (op % 16) ty _ operand cmp with
  | none => rfl
  | some v => exact congrArg (memPutAll s.mem) (newCells_eq hc (atomBytes_pos ty) v)

end

theorem returned_regs (x : Warp) (e : FifoEnt) (ret : Bool) (dst : BitVec 8) (old : Nat) :
    if ret then SameVals (x.putAll (destWrites dst (e.cells.length == 8) e.lane old)) (returned x e ret dst old)
    else SameRegs x (returned x e ret dst old) := by
  cases ret with
  | true =>
    have h : SameVals x { x with fifo := x.fifo.filter fun q => q.wid != e.wid } := ⟨rfl, rfl, fun _ => rfl⟩
    exact h.putFrom none (some e.wid) _
  | false => exact ⟨rfl, fun _ => ⟨rfl, rfl⟩⟩

theorem homeLoc_of_noMoves {s : State} (h : s.paging.moves = []) (l : Nat) : s.homeLoc l = l := by
  unfold State.homeLoc
  rw [h]
  rfl

theorem pow_bytes (n : Nat) : 256 ^ n = 2 ^ (8 * n) := by rw [Nat.pow_mul]

section
variable {key ty op a : Nat} {ret acq : Bool} {dst : BitVec 8}

/-- An integer atomic that performs leaves its new value at its location (08 R213). -/
theorem performNext_memNat {s : State} {w : Warp} {q : FifoEnt} {o c : Nat} {d : BitVec 8} (h : s.warp? key = some w)
    (hwf : s.mem.wf = true) (hm : s.paging.moves = []) (hk : q.kind = .atomic ty op o c ret d acq)
    (hc : q.cells = cellsAt a (List.replicate (atomBytes ty) 0)) (ho : op / 16 = 0x82) :
    (performNext key s q).mem.wf = true ∧ (performNext key s q).paging.moves = [] ∧ memNat (performNext key s q).mem a (atomBytes ty) =
      atomVal (op % 16) (ty == 1 || ty == 3) (8 * atomBytes ty) (memNat s.mem a (atomBytes ty)) o % 2 ^ (8 * atomBytes ty) := by
  obtain ⟨m, hmwf, _, hmem⟩ := performAtomic_mem (s := s) (w := w) q ty op o c ret d acq
  have hold : oldValue s q = memNat s.mem a (atomBytes ty) := by
    simp only [oldValue_eq hc, homeLoc_of_noMoves hm, natOfBytes_memGet]
  have hnew (v : Nat) : newCells s q v = cellsAt a (bytesOf (atomBytes ty) v) := by
    simp only [newCells_eq hc (atomBytes_pos ty), homeLoc_of_noMoves hm, Prod.mk.eta, List.map_id']
  rw [atomicNew_eq, if_pos (.inr ho), hold] at hmem
  dsimp only at hmem
  rw [hnew] at hmem
  rw [performNext_atomic h hk, performAtomic_paging, hmem, memNat_putAll_same (hmwf hwf), pow_bytes]
  exact ⟨memPutAll_wf _ (hmwf hwf), hm, rfl⟩

/-- The lanes of a run each work on what the one before left (08 R211). -/
theorem run_memNat {run : List FifoEnt} {s : State} {w : Warp} (h : s.warp? key = some w) (hwf : s.mem.wf = true) (hm : s.paging.moves = [])
    (ho : op / 16 = 0x82) (hk : ∀ q ∈ run, ∃ o c d, q.kind = .atomic ty op o c ret d acq)
    (hc : ∀ q ∈ run, q.cells = cellsAt a (List.replicate (atomBytes ty) 0)) :
    memNat (run.foldl (performNext key) s).mem a (atomBytes ty) = run.foldl (fun v q => match q.kind with
      | .atomic _ _ o _ _ _ _ => atomVal (op % 16) (ty == 1 || ty == 3) (8 * atomBytes ty) v o % 2 ^ (8 * atomBytes ty)
      | _ => v) (memNat s.mem a (atomBytes ty)) := by
  induction run generalizing s w with
  | nil => rfl
  | cons q r ih =>
    obtain ⟨o, c, d, hq⟩ := hk q (List.mem_cons_self ..)
    obtain ⟨y, hy, _⟩ := performNext_fifo h (e := q) (by rw [hq]; rfl)
    obtain ⟨hywf, hym, hval⟩ := performNext_memNat h hwf hm hq (hc q (List.mem_cons_self ..)) ho
    rw [List.foldl_cons, List.foldl_cons, ih hy hywf hym (fun x hx => hk x (List.mem_cons_of_mem _ hx)) fun x hx => hc x (List.mem_cons_of_mem _ hx),
      hval, hq]

end

theorem runOf_cells {x : Warp} {e q : FifoEnt} (h : q ∈ runOf x e) : q.cells = e.cells := by
  have hq := (List.mem_filter.mp h).2
  rw [Bool.and_eq_true] at hq
  exact eq_of_beq hq.2

/-- Without the head entry, a FIFO with numbers of its own is its rest. -/
theorem filter_wid_tail {e : FifoEnt} {r : List FifoEnt} (h : ((e :: r).map (·.wid)).Nodup) : (e :: r).filter (fun q => q.wid != e.wid) = r := by
  obtain ⟨he, _⟩ := List.nodup_cons.mp h
  rw [List.filter_cons_of_neg (by simp), List.filter_eq_self]
  exact fun q hq => bne_iff_ne.mpr fun hw => he (List.mem_map.mpr ⟨q, hq, hw⟩)

theorem atomics : Atomics := by
  intro s x e r ty op operand cmp a ret acq dst hx hf hnd hk hcells hleave hblocked hhome
  have hat : e.kind.isAtomic = true := by rw [hk]; rfl
  have hexec := exec_homeRmw hx hf hat hleave hblocked hhome
  have hu := crossed_sameHomes s ((e.cells.map (·.1)).headD 0)
  have hux : (s.crossed ((e.cells.map (·.1)).headD 0)).warp? x.key = some x := (congrArg (·.warp? x.key) (State.crossed_eq s _)).trans hx
  generalize s.crossed ((e.cells.map (·.1)).headD 0) = u at hexec hu hux
  refine ⟨fun hall => ?_, fun hone => ?_, ?_⟩
  · obtain ⟨y, hy, hyf⟩ := run_fifo hux hall
    obtain ⟨z, hz, hzf, _⟩ := settleOp_warp? hy e
    refine ⟨_, z, hexec, hz, ?_⟩
    rw [hzf, hyf]
    exact filter_wid_eq hnd rfl
  · intro n old sgn new
    rw [hone, List.foldl_cons, List.foldl_nil, performNext_atomic hux hk] at hexec
    obtain ⟨y, hy, hs⟩ := performAtomic_warp? e ty op operand cmp ret dst acq hux
    obtain ⟨z, hz, hzf, hzr⟩ := settleOp_warp? hy e
    have hold : oldValue u e = old := (hu.field (oldValue · e)).trans (oldValue_eq hcells)
    refine ⟨_, z, hexec, hz, ?_, ?_, ?_⟩
    · have hzs := hs.fifo
      rw [returned_fifo, hf, filter_wid_tail (hf ▸ hnd)] at hzs
      rw [hzf]
      exact hzs
    · have hfill : e.space = 0 → u.needsFill (u.blockOf x.ctx (ptrOff e.va) (u.homeLoc (e.cells.headD (0, 0)).1)) = false := fun h0 =>
        (hu.field fun s => s.needsFill (s.blockOf x.ctx (ptrOff e.va) (s.homeLoc (e.cells.headD (0, 0)).1))).trans
          (needsFill_of_accepted hhome h0 (by rw [length_atomCells hcells]; exact atomBytes_pos ty))
      have hmem := (settleOp_mem _ x.key e).trans (performAtomic_mem_accepted (op := op) (operand := operand) (cmp := cmp) (ret := ret)
        (acq := acq) (dst := dst) hcells hfill)
      rw [atomicNew_eq, hu.field (·.mem), hu.field State.homeLoc] at hmem
      exact hmem
    · have hr := returned_regs x e ret dst (oldValue u e)
      rw [length_atomCells hcells, hold] at hr
      have hzs := sameRegs_trans hs.regs hzr
      rw [hold] at hzs
      split
      · next h =>
        rw [if_pos h] at hr
        obtain ⟨hrs, _, hrv⟩ := hr
        exact ⟨hzs.1.trans hrs, fun l => (hzs.2 l).1.trans (hrv l)⟩
      · next h =>
        rw [if_neg h] at hr
        exact sameRegs_trans hr hzs
  · intro _ _ hall ho hwf hm
    refine ⟨_, hexec, ?_⟩
    have hrun := run_memNat hux (hu.field (·.mem) ▸ hwf) ((hu.field (·.paging.moves)).trans hm) ho hall
      fun q hq => (runOf_cells hq).trans hcells
    rw [hu.field (·.mem)] at hrun
    exact (congrArg (memNat · a (atomBytes ty)) (settleOp_mem ..)).trans hrun

/-- Settles O21: an atomic is requested at issue, and HOME_RMW performs the lanes of a run one after another at their home. -/
theorem atomicsAtHome : Obligations.AtomicsAtHome := ⟨atomicRequests, atomics⟩

end Sys2Proof.Claims
end

section
namespace Sys2Proof.Claims

set_option Elab.async false

open Sys2Proof Sys2Proof.Machine

/-! ### `tdef`, `tstat` and `trel` (09 R242 to R245, R266 to R268) -/

@[simp] theorem tile_setTile (s : State) (core k : Nat) (t : Tile) : (s.setTile core k t).tile core k = t := by
  simp [State.tile, State.setTile]

/-- What a `tdef` finds of its block's table does not depend on the warps, nor do the other tile instructions. -/
theorem tileHome_counted {s : State} {w : Warp} {r : Option (Nat × Block × Allot)} (f : Fields) (h : tileHome s w = r) :
    tileHome (counted s w) (issueOf w f).w = r :=
  ((counted_sameButWarps s w).field (tileHome · w)).trans h

theorem tile_counted (s : State) (w : Warp) (core k : Nat) : (counted s w).tile core k = s.tile core k :=
  (counted_sameButWarps s w).field (·.tile core k)

theorem current_counted (s : State) (w : Warp) (core : Nat) (b : Block) (a : Allot) (h : Nat) :
    (counted s w).current core b a h = s.current core b a h :=
  (counted_sameButWarps s w).field (·.current core b a h)

theorem tileDefinitions : TileDefinitions := by
  intro s w f core b a h hs hhome j w0 w1 t pred free
  have hh := tileHome_counted f hhome
  have legal (hok : descBad w0 w1 = false) : ¬descBad w0 w1 = true := by simp [hok]
  have lowest (n : Nat) (hn : n < b.tiles) (hfree : free n = true) (hleast : ∀ m, m < n → free m = false) :
      (List.range b.tiles).find? (fun n => !(s.tile core (a.tBase + n)).inUse) = some n :=
    List.find?_range_eq_some.mpr ⟨hfree, List.mem_range.mpr hn, fun m hm => by simpa [free] using hleast m hm⟩
  have none_free (hfull : ∀ n, n < b.tiles → free n = false) :
      (List.range b.tiles).find? (fun n => !(s.tile core (a.tBase + n)).inUse) = none :=
    List.find?_eq_none.mpr fun n hn => by simpa [free] using hfull n (List.mem_range.mp hn)
  refine ⟨fun hbad => issueSplit_trapped rfl h hs ?_, fun hok hout => issueSplit_trapped rfl h hs ?_, fun hok hin =>
    ⟨fun n hn hfree hleast => issueSplit_done rfl h hs ?_, fun hfull => ⟨fun hty => issueSplit_trapped rfl h hs ?_,
      fun hty => issueSplit_done rfl h hs ?_⟩⟩⟩
  all_goals simp only [hh, tile_counted]
  · exact if_pos hbad
  · exact (if_neg (legal hok)).trans (if_pos hout)
  · refine (if_neg (legal hok)).trans ((if_neg (Nat.not_lt.mpr hin)).trans ?_)
    rw [lowest n hn hfree hleast]
    rfl
  · refine (if_neg (legal hok)).trans ((if_neg (Nat.not_lt.mpr hin)).trans ?_)
    rw [none_free hfull]
    exact if_neg (by simp [hty])
  · refine (if_neg (legal hok)).trans ((if_neg (Nat.not_lt.mpr hin)).trans ?_)
    rw [none_free hfull]
    exact if_pos hty

theorem tileQueries : TileQueries := by
  intro s w f core b a hhome j h
  have hh := tileHome_counted f hhome
  have hcur : (counted s w).current core b a (handleOf (issueOf w f) f) = s.current core b a h := current_counted ..
  refine ⟨fun hi hs => issueSplit_done rfl hi hs ?_, fun hi hs => ⟨fun hn => issueSplit_trapped rfl hi hs ?_, fun k hk =>
    ⟨_, issueSplit_done (t := (counted s w).setTile core k (if (s.tile core k).users = 0 then (s.tile core k).freed
      else { s.tile core k with relPending := true, state := .draining })) rfl hi hs ?_, ?_, ?_⟩⟩⟩
  · simp only [hh, hcur, tile_counted]
    rfl
  · simp only [hh, hcur, hn]
    rfl
  · simp only [hh, hcur, hk, tile_counted]
  · exact (ends_mem ..).trans (counted_mem s w)
  · exact ((ends_sameButWarps ..).field (·.tile core k)).trans (tile_setTile ..)

/-- Settles O30: what the tile instructions make of their block's table is read off its lowest free entry, or off the entry of a handle. -/
theorem tileTable : Obligations.TileTable := ⟨tileDefinitions, tileQueries⟩

end Sys2Proof.Claims
end

section
namespace Sys2Proof.Claims

set_option Elab.async false

open Sys2Proof Sys2Proof.Machine

/-! ### `tld` and `tstr` (09 R240, R246, R269) -/

/-- Bytes that a tile access moves in a lane. -/
def tileBytes (f : Fields) : Nat := if f.ty = 3 then 8 else 4

/-- The word of the tile that a lane names. -/
def tileWord (f : Fields) (i : Iss) (l : Nat) : Nat := (readReg i.w f.b 0 false l + f.im) % 2 ^ 32

/-- A lane names a word beyond the tile, or half a pair of words (R269). -/
abbrev TileBeyond (f : Fields) (i : Iss) (t : Tile) : Prop :=
  ∃ l ∈ i.lanesFor (allScalar f), t.bytes / 4 < tileWord f i l + tileBytes f / 4 ∨ tileBytes f = 8 ∧ tileWord f i l % 2 = 1

/-- A tile access as it starts. -/
def tileOpOf (f : Fields) (store : Bool) (i : Iss) (s : State) (core k loc : Nat) : TileOp :=
  { id := s.order.next, tile := k, core := core, store := store
    writes := if store then [] else (i.lanesFor (allScalar f)).map fun l => (l, f.d, loc + 4 * tileWord f i l, tileBytes f)
    data := if store then (i.lanesFor (allScalar f)).flatMap fun l =>
      cellsAt (loc + 4 * tileWord f i l) (bytesOf (tileBytes f) (readReg i.w f.c 0 (tileBytes f == 8) l)) else [] }

/-- A warp with one more access of a tile under way. -/
def tileUser (op : TileOp) (w : Warp) : Warp := { w with tm := w.tm + 1, tileOps := w.tileOps ++ [op] }

section
variable {f : Fields} {store : Bool} {i : Iss} {s : State}

theorem tileBody_away (h : tileHome s i.w = none) : tileBody f store i s = trapAll i 0x06E := by
  unfold tileBody
  rw [h]

theorem tileBody_eq {core k : Nat} {b : Block} {a : Allot} (hh : tileHome s i.w = some (core, b, a))
    (hk : s.current core b a (handleOf i f) = some k) : tileBody f store i s =
    if (s.tile core k).state ≠ .ready then .hold (i.back s)
    else if TileBeyond f i (s.tile core k) then trapAll i 0x06D
    else .done ((s.newWid.2.claimTile core k).upd i (tileUser (tileOpOf f store i s core k ((s.tile core k).loc core b a)))) := by
  unfold tileBody
  simp only [hh, hk]
  refine if_congr (by simp) rfl (if_congr ?_ rfl rfl)
  simp [TileBeyond, tileWord, tileBytes]

end

theorem tileAccesses : TileAccesses := by
  intro s w f one
  have access {i : Instr} {op : Nat} {store : Bool} (hf : fieldsOf i = some (op, f))
      (he : exec i s = issueSplit i s (allScalar f) {} (tileBody f store)) : one i store := by
    intro h hs j n ls word
    have hx := counted_warp? (warp?_self h.1)
    refine ⟨fun hn => he.trans (issueSplit_trapped hf h hs (tileBody_away (tileHome_counted f hn))), fun core b a k hh hk => ?_⟩
    intro t
    have hbody := tileBody_eq (store := store) (tileHome_counted f hh) ((current_counted ..).trans hk)
    rw [tile_counted] at hbody
    refine ⟨fun hst => he.trans (issueSplit_held hf h hs (hbody.trans (if_pos hst))), fun hst hbad =>
      he.trans (issueSplit_trapped hf h hs (hbody.trans ((if_neg (not_not.mpr hst)).trans (if_pos hbad)))), fun hst hin => ?_⟩
    have hfits : ¬ TileBeyond f j t := by
      rintro ⟨l, hl, hout⟩
      have hl := hin l hl
      rcases hout with hlt | ⟨h8, hodd⟩
      · exact absurd hl.1 (Nat.not_le.mpr hlt)
      · exact absurd ((hl.2 h8).symm.trans hodd) (by decide)
    have hdone := hbody.trans ((if_neg (not_not.mpr hst)).trans (if_neg hfits))
    have hu : ((counted s w).newWid.2.claimTile core k).warp? w.key = some (w.countIssue w.bundle) := hx
    have hy := ends_withWarp_warp? hu (g := tileUser (tileOpOf f store j (counted s w) core k (t.loc core b a))) fun _ => rfl
    have ht := advance_sameButThreads (tileUser (tileOpOf f store j (counted s w) core k (t.loc core b a)) (w.countIssue w.bundle)) (fall w)
    refine ⟨_, _, tileOpOf f store j (counted s w) core k (t.loc core b a), he.trans (issueSplit_done hf h hs hdone), hy,
      (ends_mem ..).trans ((upd_mem ..).trans (counted_mem s w)), ht.field (·.tm), ht.field (·.tileOps), rfl, rfl, rfl, ?_, rfl, rfl,
      sameRegs_ends ⟨rfl, fun _ => ⟨rfl, rfl⟩⟩⟩
    refine (congrArg Tile.users ((((withWarp_sameButWarps ..).trans (ends_sameButWarps ..)).field (·.tile core k)).trans
      (tile_setTile ..))).trans ?_
    exact congrArg (·.users + 1) (tile_counted s w core k)
  exact ⟨access rfl rfl, access rfl rfl⟩

end Sys2Proof.Claims
end

section
namespace Sys2Proof.Claims

set_option Elab.async false

open Sys2Proof Sys2Proof.Machine

/-! ### The end of a tile access (09 R245, R246, R269) -/

/-- The registers that a tile access writes, with the tile's words. -/
def tileWrites (m : Memory) (op : TileOp) : List RegWrite :=
  op.writes.flatMap fun p => destWrites p.2.1 (p.2.2.2 == 8) p.1 (memNat m p.2.2.1 p.2.2.2)

/-- The warp that its oldest tile access has left. -/
def tileTaken (x : Warp) (r : List TileOp) : Warp := { x with tileOps := r, tm := x.tm - 1 }

/-- That warp with the results. -/
def tileLeft (m : Memory) (x : Warp) (op : TileOp) (r : List TileOp) : Warp := (tileTaken x r).putFrom (some op.id) (tileWrites m op)

/-- The same results in the checkpoint of run-ahead (R339). -/
def tileSnare (m : Memory) (op : TileOp) (y : Warp) (n : Snare) : Snare :=
  let z := { y with threads := n.saveThreads, s := n.saveS }.putFrom (some op.id) (tileWrites m op)
  if n.running then { n with saveThreads := z.threads, saveS := z.s } else n

/-- The warp with the results in both places. -/
def tileFinished (m : Memory) (x : Warp) (op : TileOp) (r : List TileOp) : Warp :=
  { tileLeft m x op r with snare := (tileLeft m x op r).snare.map (tileSnare m op (tileLeft m x op r)) }

/-- The state in which the words of a store have entered the core's view. -/
def tileStored (s : State) (op : TileOp) : State := if op.store then s.pokeCells op.core op.data else s

theorem exec_tileOpComplete {s : State} {x : Warp} {op : TileOp} {r : List TileOp} (hx : s.warp? x.key = some x) (h : x.tileOps = op :: r) :
    exec (.tileOpComplete x.key) s = .next ((tileStored (s.setWarp (tileFinished s.mem x op r)) op).dropTile op.core op.tile) := by
  change execTileOpComplete x.key s = _
  unfold execTileOpComplete
  simp only [hx, h]
  rfl

theorem tileStored_mem (s : State) (op : TileOp) : (tileStored s op).mem = if op.store then memPutAll s.mem op.data else s.mem := by
  unfold tileStored
  split <;> rfl

theorem tileStored_warps (s : State) (op : TileOp) : (tileStored s op).warps = s.warps :=
  iteInduction (motive := fun t : State => t.warps = s.warps) (fun _ => rfl) fun _ => rfl

theorem tileStored_cores (s : State) (op : TileOp) : (tileStored s op).cores = s.cores :=
  iteInduction (motive := fun t : State => t.cores = s.cores) (fun _ => rfl) fun _ => rfl

/-- One user less: a pending release frees the entry with its last user (R245). -/
theorem tile_dropTile (s : State) (core k : Nat) : (s.dropTile core k).tile core k =
    if (s.tile core k).users ≤ 1 ∧ (s.tile core k).relPending then { gen := (s.tile core k).gen % 255 + 1 }
    else { s.tile core k with users := (s.tile core k).users - 1 } :=
  (tile_setTile ..).trans (if_congr (by simp) rfl rfl)

theorem tileCompletions : TileCompletions := by
  intro s x op r hx h
  have hv : SameVals (x.putAll (tileWrites s.mem op)) (tileFinished s.mem x op r) :=
    SameVals.putFrom (x := x) (y := tileTaken x r) ⟨rfl, rfl, fun _ => rfl⟩ none (some op.id) (tileWrites s.mem op)
  have hk : (tileFinished s.mem x op r).key = x.key := putFrom_field (·.key) (tileTaken x r) (some op.id) (tileWrites s.mem op)
  have hops : (tileFinished s.mem x op r).tileOps = r := putFrom_field (·.tileOps) (tileTaken x r) (some op.id) (tileWrites s.mem op)
  have htm : (tileFinished s.mem x op r).tm = x.tm - 1 := putFrom_field (·.tm) (tileTaken x r) (some op.id) (tileWrites s.mem op)
  have hw : s.warp? (tileFinished s.mem x op r).key = some x := hk.symm ▸ hx
  refine ⟨_, _, exec_tileOpComplete hx h, ?_, hops, htm, tileStored_mem .., ⟨hv.1, hv.2.2⟩, ?_⟩
  · exact (congrArg (List.find? _) (tileStored_warps ..)).trans (hk ▸ State.warp?_setWarp hw)
  · have ht : (tileStored (s.setWarp (tileFinished s.mem x op r)) op).tile op.core op.tile = s.tile op.core op.tile :=
      congrArg (fun cs => kvGet (kvGet cs op.core ({} : Core)).tiles op.tile {}) (tileStored_cores ..)
    rw [tile_dropTile, ht]

end Sys2Proof.Claims
end

section
namespace Sys2Proof.Claims

set_option Elab.async false

open Sys2Proof Sys2Proof.Machine

/-! ### `atab` and BANK_FLIP (05 R137, R164) -/

/-- The state in which a warp waits for the activation table at an offset of its block's scratchpad. -/
def atabAsked (i : Iss) (s : State) (b : Block) (o : Nat) : State :=
  (s.setCore i.w.homeCore { s.core i.w.homeCore with
    atab := some (i.w.key, locChip 1 i.w.homeCore (((b.allotOn i.w.homeCore).map (·.sBase)).getD 0 + o), i.lanes) }).upd i
      fun w => { w with hold := .atab i.all }

/-- `atab` by the checks of its table's place (R164). -/
theorem atabIssues {s : State} {w : Warp} {f : Fields} {b : Block} (h : Issues s w (.atab f) f) (hs : Whole w (allScalar f))
    (hb : s.block? w.block = some b) :
    let j := issueOf w f
    let o := (readReg w f.a 0 false j.low + f.im) % 2 ^ 32
    (o % 16 ≠ 0 → exec (.atab f) s = .next (takeTrap s j { cause := 0x087, lanes := j.lanes, addr := BitVec.ofNat 64 (2 ^ 60 + o) })) ∧
    (o % 16 = 0 → b.spad < o + 3088 →
      exec (.atab f) s = .next (takeTrap s j { cause := 0x086, lanes := j.lanes, addr := BitVec.ofNat 64 (2 ^ 60 + o) })) ∧
    (o % 16 = 0 → o + 3088 ≤ b.spad →
      (coreIsL w.homeCore = true → exec (.atab f) s = .next (takeTrap s j { cause := 0x045, lanes := j.lanes })) ∧
      (coreIsL w.homeCore = false → (s.core w.homeCore).atab ≠ none → exec (.atab f) s = .next (held s w)) ∧
      (coreIsL w.homeCore = false → (s.core w.homeCore).atab = none → exec (.atab f) s = .next (atabAsked j (counted s w) b o))) := by
  intro j o
  have hb' : (counted s w).block? (issueOf w f).w.block = some b := ((counted_sameButWarps s w).field (·.block? w.block)).trans hb
  have hcore : (counted s w).core (issueOf w f).w.homeCore = s.core w.homeCore := (counted_sameButWarps s w).field (·.core w.homeCore)
  have aligned (h0 : o % 16 = 0) : ¬ (o % 16 != 0) = true := by simp [h0]
  refine ⟨fun h0 => issueSplit_trapped rfl h hs ?_, fun h0 hout => issueSplit_trapped rfl h hs ?_, fun h0 hin =>
    ⟨fun hl => issueSplit_trapped rfl h hs ?_, fun hl ha => issueSplit_held rfl h hs ?_, fun hl ha => issueSplit_held rfl h hs ?_⟩⟩
  all_goals simp only [hb', hcore]
  · exact if_pos (by rw [bne_iff_ne]; exact h0)
  · exact (if_neg (aligned h0)).trans (if_pos hout)
  all_goals refine (if_neg (aligned h0)).trans ((if_neg (Nat.not_lt.mpr hin)).trans ?_)
  · exact if_pos hl
  · exact (if_neg (by rw [Bool.not_eq_true]; exact hl)).trans (if_pos (Option.isSome_iff_ne_none.mpr ha))
  · refine (if_neg (by rw [Bool.not_eq_true]; exact hl)).trans ((if_neg (by simp [ha])).trans ?_)
    unfold atabAsked
    rw [hcore]
    rfl

/-- A warp is found in a state whose cores alone have changed. -/
theorem atabAsked_spec {i : Iss} {s : State} {x : Warp} (hx : s.warp? i.w.key = some x) (b : Block) (o : Nat) :
    (atabAsked i s b o).warp? i.w.key = some { x with hold := .atab i.all } ∧ (atabAsked i s b o).core i.w.homeCore =
      { s.core i.w.homeCore with
        atab := some (i.w.key, locChip 1 i.w.homeCore (((b.allotOn i.w.homeCore).map (·.sBase)).getD 0 + o), i.lanes) } :=
  ⟨State.warp?_withWarp (s := s.setCore ..) hx (show x.key = i.w.key from State.warp?_key hx),
    ((withWarp_sameButWarps ..).field (·.core i.w.homeCore)).trans (State.setCore_core ..)⟩

/-- A core with an activation table in the bank that is not current. -/
def actLoaded (c : Core) (t : List Byte) : Core :=
  let x := if c.actCur then 0 else 1
  let bank : ActBank := { valid := actValid t, bytes := t }
  { c with atab := none, act0 := if x = 0 then bank else c.act0, act1 := if x = 1 then bank else c.act1 }

/-- That bank is the current one once the banks have changed places. -/
theorem actBank_flipped (c : Core) (t : List Byte) :
    ({ actLoaded c t with actCur := !c.actCur } : Core).actBank = { valid := actValid t, bytes := t } := by
  unfold Core.actBank actLoaded
  cases c.actCur <;> rfl

/-- BANK_FLIP, with no `act` of the bank under way and no atomic that decides a byte of the table. -/
theorem exec_bankFlip {s : State} {w : Warp} {core loc : Nat} {lanes : List Nat} {t : List Byte}
    (ha : (s.core core).atab = some (w.key, loc, lanes)) (hw : s.warp? w.key = some w)
    (hb : actBusy s core (if (s.core core).actCur then 0 else 1) = false) (ht : threadBytes s w loc 3088 = some t) :
    exec (.bankFlip core) s = .next (if actValid t
      then (s.setCore core { actLoaded (s.core core) t with actCur := !(s.core core).actCur }).setWarp w.release
      else takeTrap (s.setCore core (actLoaded (s.core core) t)) (heldIss w lanes) { cause := 0x045, lanes := lanes }) := by
  change execBankFlip core s = _
  unfold execBankFlip
  simp only [ha, hw, hb, ht, Bool.false_eq_true, if_false]
  exact (apply_ite Host.Outcome.next ..).symm

theorem activationTables : ActivationTables := by
  intro s w
  refine ⟨fun f b h hs hb => ?_, fun core loc lanes t ha hw => ?_⟩
  · intro j c o
    obtain ⟨hodd, hout, hin⟩ := atabIssues h hs hb
    obtain ⟨hx, hcore⟩ := atabAsked_spec (i := j) (counted_warp? (warp?_self h.1)) b o
    refine ⟨hodd, hout, fun h0 hle => (hin h0 hle).1, fun h0 hle => (hin h0 hle).2.1, fun h0 hle hl hn =>
      ⟨_, _, (hin h0 hle).2.2 hl hn, hx, rfl, congrArg Core.atab hcore, (congrArg Core.actCur hcore).trans ?_⟩⟩
    exact (counted_sameButWarps s w).field fun u => (u.core w.homeCore).actCur
  · intro c x hb ht
    have he := exec_bankFlip ha hw hb ht
    refine ⟨fun hv => ?_, fun hv => ?_⟩
    · rw [if_pos hv] at he
      have hk : w.release.key = w.key := (pass_sameButThreads ..).field (·.key)
      have hcore := State.setCore_core s core { actLoaded c t with actCur := !c.actCur }
      refine ⟨_, w.release, he, congrArg Core.actCur hcore, ((congrArg Core.actBank hcore).trans (actBank_flipped c t)).trans (by rw [hv]),
        congrArg Core.atab hcore, ?_, (pass_sameButThreads ..).field (·.hold)⟩
      have hs : (s.setCore core { actLoaded c t with actCur := !c.actCur }).warp? w.release.key = some w := hk.symm ▸ hw
      exact hk ▸ State.warp?_setWarp hs
    · rw [if_neg (by simp [hv])] at he
      obtain ⟨y, r, hy, _, _, hstop, _⟩ := takeTrap_raises (s := s.setCore core (actLoaded c t)) (i := heldIss w lanes) rfl hw 0x045 lanes
      have hcur : ((s.setCore core (actLoaded c t)).core core).actCur = c.actCur := by
        rw [State.setCore_core]
        rfl
      exact ⟨_, y, he, hcur, hy, hstop⟩

/-- Settles O31: a tile access starts with a place in TM and ends with its words moved, and BANK_FLIP loads the bank that is not current. -/
theorem tileWords : Obligations.TileWords := ⟨tileAccesses, tileCompletions, activationTables⟩

end Sys2Proof.Claims
end

section
namespace Sys2Proof.Claims

set_option Elab.async false

open Sys2Proof Sys2Proof.Machine

/-- An instruction that nothing stops is the effect of its body there. -/
theorem issueSplit_congr {s : State} {w : Warp} {i : Instr} {op : Nat} {f : Fields} {split : Bool} {blank : Blank}
    {body body' : Iss → State → Eff} (hf : fieldsOf i = some (op, f)) (h : Issues s w i f) (hs : Whole w split)
    (hb : body (issueOf w f) (counted s w) = body' (issueOf w f) (counted s w)) :
    issueSplit i s split blank body = issueSplit i s split blank body' := by
  rw [issueSplit_of_issues hf h hs, issueSplit_of_issues hf h hs, hb]

/-! ### `kick` (09 R252, R253, R265) -/

/-- The number of records that a `kick` names. -/
def kickCount (f : Fields) (i : Iss) : Nat := if f.b = 0xF0 then f.aux else readReg i.w f.b 0 false i.low

/-- Kicks of a core with records that have not started take all the places that there are for them (R252). -/
abbrev KicksFull (c : Core) : Prop := 32 ≤ (c.kicks.filter c.kickPending).length

/-- A kick as it waits for its gate. -/
def kickOf (f : Fields) (i : Iss) (s : State) (core : Nat) (b : Block) (p : W64) : Kick :=
  { id := (s.core core).kickCt, warp := i.w.key, block := b.id, off := ptrOff p, n := kickCount f i, left := kickCount f i
    seed := ((i.w.thread i.low).rngs >>> 32).truncate 32, tag := tagOf s i.w i.low true i.pc i.w.ep i.w.since
    gate := kickGate s (i.w.coveredBy i.lanes) }

/-- A core with one kick more. -/
def withKick (c : Core) (k : Kick) : Core := { c with kicks := c.kicks ++ [k], kickCt := c.kickCt + 1 }

/-- A warp with one kick more. -/
def kicked (w : Warp) : Warp := { w with cp := w.cp + 1 }

/-- What `kick` does in its warp, by the checks of its place in their order. -/
def kickBody (f : Fields) (core : Nat) (b : Block) (r : Option Nat) (p : W64) (i : Iss) (s : State) : Eff :=
  if ptrSpace p ≠ 1 then .trap { cause := 0x0C5, lanes := i.lanes, addr := p }
  else if kickCount f i = 0 ∨ 256 < kickCount f i then trapAll i 0x111
  else if r ≠ none ∨ b.spad < ptrOff p + 64 * kickCount f i then .trap { cause := 0x0C6, lanes := i.lanes, addr := p }
  else if ptrOff p % 64 ≠ 0 then .trap { cause := 0x0C7, lanes := i.lanes, addr := p }
  else if i.w.busyLanes i.lanes then .hold (i.back s)
  else if KicksFull (s.core core) then .hold (i.back s)
  else .done ((s.setCore core (withKick (s.core core) (kickOf f i s core b p))).upd i kicked)

/-- A covered write that a kick waits for is one of those covered. -/
theorem mem_kickGate {s : State} {cov : List Nat} {wid : Nat} (h : wid ∈ kickGate s cov) : wid ∈ cov := by
  obtain ⟨w, _, hw⟩ := List.mem_flatMap.mp h
  obtain ⟨e, he, rfl⟩ := List.mem_map.mp hw
  have hc := (List.mem_filter.mp he).2
  simp only [Bool.and_eq_true, List.contains_iff_mem] at hc
  exact hc.1.2

section
variable {s : State} {w : Warp} {f : Fields} {core : Nat} {b : Block} {a : Allot} {r : Option Nat} {p : W64}
  (h : Issues s w (.kick f) f) (hs : Whole w (allScalar f)) (hh : tileHome s w = some (core, b, a))
  (he : effective (BitVec.ofNat 64 (readReg w f.a 0 true (issueOf w f).low)) (signedOf 32 f.im) 0 = (r, p))
include h hs hh he

theorem exec_kick : exec (.kick f) s = issueSplit (.kick f) s (allScalar f) {} (kickBody f core b r p) := by
  refine issueSplit_congr rfl h hs ?_
  have he : effective (BitVec.ofNat 64 (readReg (issueOf w f).w f.a 0 true (issueOf w f).low)) (signedOf 32 f.im) 0 = (r, p) := he
  simp only [tileHome_counted f hh, he]
  refine if_congr (by simp) rfl (if_congr (by simp [kickCount]) rfl (if_congr ?_ rfl (if_congr (by simp) rfl rfl)))
  simp [kickCount, Option.isSome_iff_ne_none]

end

section
variable {f : Fields} {core : Nat} {b : Block} {r : Option Nat} {p : W64} {i : Iss}

theorem count_in_range (h1 : 1 ≤ kickCount f i) (h256 : kickCount f i ≤ 256) : ¬ (kickCount f i = 0 ∨ 256 < kickCount f i) := by omega

theorem place_inside (hr : r = none) (hle : ptrOff p + 64 * kickCount f i ≤ b.spad) :
    ¬ (r ≠ none ∨ b.spad < ptrOff p + 64 * kickCount f i) := by
  rintro (hn | hlt)
  · exact hn hr
  · exact absurd hle (Nat.not_le.mpr hlt)

/-- A kick whose records lie in the scratchpad waits, or is made. -/
theorem kickBody_placed (h5 : ptrSpace p = 1) (h1 : 1 ≤ kickCount f i) (h256 : kickCount f i ≤ 256) (hr : r = none)
    (hle : ptrOff p + 64 * kickCount f i ≤ b.spad) (h7 : ptrOff p % 64 = 0) (s : State) : kickBody f core b r p i s =
    if i.w.busyLanes i.lanes then .hold (i.back s)
    else if KicksFull (s.core core) then .hold (i.back s)
    else .done ((s.setCore core (withKick (s.core core) (kickOf f i s core b p))).upd i kicked) :=
  (if_neg (not_not.mpr h5)).trans ((if_neg (count_in_range h1 h256)).trans ((if_neg (place_inside hr hle)).trans (if_neg (not_not.mpr h7))))

end

/-- `kick`: what it does is one function of the pointer and the count (`exec_kick`). -/
theorem kicks : Kicks := by
  intro s w f core b a r p h hs hh j n c full he
  have hexec := exec_kick h hs hh he
  have hn : n = kickCount f j := rfl
  clear_value n
  subst hn
  have hc : (counted s w).core core = c := (counted_sameButWarps s w).field (·.core core)
  refine ⟨fun h5 => ?_, fun h5 hbad => ?_, fun h5 h1 h256 hout => ?_, fun h5 h1 h256 hr hle h7 => ?_, fun h5 h1 h256 hr hle h7 hwait => ?_,
    fun h5 h1 h256 hr hle h7 hbusy hfull => ?_⟩
  · exact hexec.trans (issueSplit_trapped rfl h hs (if_pos h5))
  · exact hexec.trans (issueSplit_trapped rfl h hs ((if_neg (not_not.mpr h5)).trans (if_pos hbad)))
  · exact hexec.trans (issueSplit_trapped rfl h hs
      ((if_neg (not_not.mpr h5)).trans ((if_neg (count_in_range h1 h256)).trans (if_pos hout))))
  · exact hexec.trans (issueSplit_trapped rfl h hs ((if_neg (not_not.mpr h5)).trans ((if_neg (count_in_range h1 h256)).trans
      ((if_neg (place_inside hr hle)).trans (if_pos h7)))))
  · refine hexec.trans (issueSplit_held rfl h hs ((kickBody_placed h5 h1 h256 hr hle h7 (counted s w)).trans ?_))
    rw [hc]
    split
    · rfl
    · next hb => exact if_pos (hwait.resolve_left hb)
  · have hbody := (kickBody_placed (core := core) h5 h1 h256 hr hle h7 (counted s w)).trans (if_neg (Bool.eq_false_iff.mp hbusy))
    rw [hc] at hbody
    have hx : ((counted s w).setCore core (withKick c (kickOf f j (counted s w) core b p))).warp? w.key = some (w.countIssue w.bundle) :=
      counted_warp? (warp?_self h.1)
    have hy := advance_sameButThreads (kicked (w.countIssue w.bundle)) (fall w)
    refine ⟨_, _, kickOf f j (counted s w) core b p, hexec.trans (issueSplit_done rfl h hs (hbody.trans (if_neg hfull))),
      ends_withWarp_warp? hx fun _ => rfl, hy.field (·.cp), ?_, rfl, rfl, rfl, rfl, rfl, rfl, fun _ => mem_kickGate,
      (ends_mem ..).trans ((upd_mem ..).trans (counted_mem s w)), sameRegs_ends ⟨rfl, fun _ => ⟨rfl, rfl⟩⟩⟩
    refine (((withWarp_sameButWarps ..).trans (ends_sameButWarps ..)).field fun u => (u.core core).kicks).trans ?_
    rw [State.setCore_core]
    rfl

/-! ### KICK_GATE (09 R252, R253) -/

/-- A record as it comes behind those of its core. -/
def recOf (id kick head place off : Nat) : CopyRec := { id := id, kick := kick, head := head, place := place, off := off }

theorem newRec_core (s : State) (core kick head place off : Nat) : (newRec s core kick head place off).core core =
    { s.core core with recs := (s.core core).recs ++ [recOf s.order.next kick head place off] } := State.setCore_core ..

/-- A kick's records come in order, and nothing but the core's list of records tells of them. -/
theorem newRecs_spec (core kick : Nat) (off : Nat → Nat) (js : List Nat) (s : State) :
    let t := js.foldl (fun s j => newRec s core kick j 1 (off j)) s
    t.mem = s.mem ∧ t.warps = s.warps ∧ ∃ rs, t.core core = { s.core core with recs := (s.core core).recs ++ rs } ∧
      rs.map (fun r => (r.kick, r.head, r.place, r.off, r.st)) = js.map fun j => (kick, j, 1, off j, RecSt.new) := by
  induction js generalizing s with
  | nil => exact ⟨rfl, rfl, [], by rw [List.append_nil]; rfl, rfl⟩
  | cons j js ih =>
    obtain ⟨hm, hw, rs, hrs, hmap⟩ := ih (newRec s core kick j 1 (off j))
    refine ⟨hm, hw, recOf s.order.next kick j 1 (off j) :: rs, hrs.trans ?_, congrArg _ hmap⟩
    rw [newRec_core, List.append_assoc]
    rfl

theorem kickGates : KickGates := by
  intro s core k hk hgate
  let c : Core := { s.core core with kicks := (s.core core).kicks.map fun x => if x.id == k.id then { x with gated := true } else x }
  have hexec : exec (.kickGate core) s = .next ((List.range k.n).foldl (fun s j => newRec s core k.id j 1 (k.off + 64 * j)) (s.setCore core c)) := by
    change execKickGate core s = _
    unfold execKickGate
    simp only [hk]
    refine if_neg ?_
    simp only [List.any_eq_true, not_exists, not_and]
    intro wid hw
    simp [hgate wid hw]
  obtain ⟨hm, hw, rs, hrs, hmap⟩ := newRecs_spec core k.id (k.off + 64 * ·) (List.range k.n) (s.setCore core c)
  rw [State.setCore_core] at hrs
  refine ⟨_, rs, hexec, hm, hw, congrArg Core.recs hrs, hmap, fun x hx hid => ?_⟩
  rw [hrs] at hx
  obtain ⟨y, _, rfl⟩ := List.mem_map.mp hx
  by_cases hy : y.id == k.id
  · rw [if_pos hy]
  · rw [if_neg hy] at hid
    exact absurd (beq_iff_eq.mpr hid) hy

end Sys2Proof.Claims
end

section
namespace Sys2Proof.Claims

set_option Elab.async false

open Sys2Proof Sys2Proof.Machine

/-! ### The records of a copy engine (09 R248 to R252) -/

theorem rec?_id {c : Core} {i : Nat} {r : CopyRec} (h : c.rec? i = some r) : r.id = i := by
  have := List.find?_some h
  simpa using this

theorem setCopy_core (s : State) (core : Nat) (r : CopyRec) : (s.setCopy core r).core core =
    { s.core core with recs := (s.core core).recs.map fun x => if x.id == r.id then r else x } := State.setCore_core ..

@[simp] theorem setCopy_mem (s : State) (core : Nat) (r : CopyRec) : (s.setCopy core r).mem = s.mem := rfl
@[simp] theorem setCopy_recs (s : State) (core : Nat) (r : CopyRec) : (s.setCopy core r).recs = s.recs := rfl

/-- The record put under an id that a record has is the one read there. -/
theorem rec?_setCopy {s : State} {core : Nat} {r x : CopyRec} (h : (s.core core).rec? r.id = some x) :
    ((s.setCopy core r).core core).rec? r.id = some r := by
  rw [setCopy_core]
  unfold Core.rec? at h ⊢
  have hid (y : CopyRec) : ((if y.id == r.id then r else y).id == r.id) = (y.id == r.id) := by
    split
    · next hy => simp [hy]
    · rfl
  rw [List.find?_map]
  simp only [Function.comp_def, hid, h]
  exact congrArg some (if_pos (List.find?_some h))

/-- A record put back keeps the tiles of its core. -/
theorem tile_setCopy (s : State) (core : Nat) (r : CopyRec) (k : Nat) : (s.setCopy core r).tile core k = s.tile core k := by
  rw [State.tile, setCopy_core]
  rfl

/-! ### The start of a record (09 R252, R254 to R258, R264) -/

/-- A record with its 64 bytes, read where they have not been (R254). -/
def fetched (s : State) (core : Nat) (a : Allot) (r : CopyRec) : CopyRec :=
  if r.words.isEmpty then
    { r with words := (List.range 8).map fun j => BitVec.ofNat 64 (memNat s.mem (locChip 1 core (a.sBase + r.off + 8 * j)) 8) } else r

theorem fetched_keeps {α : Type} (π : CopyRec → α) (s : State) (core : Nat) (a : Allot) (r : CopyRec)
    (h : ∀ ws, π { r with words := ws } = π r := by intros; rfl) : π (fetched s core a r) = π r := by
  unfold fetched
  split
  · exact h _
  · rfl

/-- The state in which a record has been refused at its start. -/
def refuseRec (s : State) (core : Nat) (k : Kick) (b : Block) (r : CopyRec) (cause : Nat) : State :=
  raiseCopy (s.setCopy core { r with st := .refused }) core k r cause 0 (BitVec.ofNat 64 (r.off % 2 ^ 32)) true
    ((cause == 0x114 || cause == 0x06C) && !r.bad b.spad) false

/-- What the tiles of a record that passes its other checks make of its start (R252, R255, R257). -/
def startTiles (s : State) (core : Nat) (k : Kick) (b : Block) (r : CopyRec) : TilesAt → State
  | .bad c => refuseRec s core k b r c
  | .hold => s.setCopy core { r with st := .held }
  | .waitTable =>
    s.setCopy core { r with st := if ((s.core core).recs.filter fun x => x.st == .waiting && x.id != r.id).length < 64 then .waiting else .held }
  | .ok => runRec s core r

/-- The first word of a record that names a writer outside undo mode tells its cause in its low 9 bits (R457). -/
theorem tagWords_cause {t : WriterTag} (hu : t.undo = false) {cause : Nat} (hc : cause < 512) (allow batch : Nat) (addr detail : W64) :
    bitsOf ((tagWords t cause allow batch addr detail).getD 0 0).toNat 0 9 = cause := by
  unfold tagWords
  rw [hu, if_neg Bool.false_ne_true]
  unfold id
  split
  · change bitsOf (BitVec.ofNat 64 (cause + 2 ^ 9 + _ * 2 ^ 10 + 2 ^ 13 + allow * 2 ^ 14 + _ * 2 ^ 17 + _ * 2 ^ 32)).toNat 0 9 = cause
    rw [BitVec.toNat_ofNat, bitsOf]
    omega
  · change bitsOf (BitVec.ofNat 64
      (cause + 2 ^ 9 + _ * 2 ^ 10 + _ * 2 ^ 11 + _ * 2 ^ 12 + allow * 2 ^ 14 + _ * 2 ^ 17 + _ * 2 ^ 32)).toNat 0 9 = cause
    rw [BitVec.toNat_ofNat, bitsOf]
    omega

theorem refuseRec_spec {s : State} {core : Nat} {k : Kick} {b : Block} {r x : CopyRec} (hr : (s.core core).rec? r.id = some x)
    (hu : k.tag.undo = false) {cause : Nat} (hc : cause < 512) :
    ∃ x y, ((refuseRec s core k b r cause).core core).rec? r.id = some x ∧ x.st = .refused ∧
      (refuseRec s core k b r cause).recs = s.recs ++ [y] ∧ y.cause = cause ∧ y.ctx = k.tag.ctx :=
  ⟨{ r with st := .refused }, _, rec?_setCopy (r := { r with st := .refused }) hr, rfl, rfl, tagWords_cause hu hc .., rfl⟩

section
variable {s : State} {core : Nat} {r : CopyRec} {k : Kick} {b : Block} {a : Allot} (hh : copyHome s core r = some (k, b, a))
include hh

theorem startRec_restored (h : r.st = .restored) : startRec s core r = s.setCopy core { fetched s core a r with st := .running } := by
  unfold startRec
  simp only [hh]
  exact if_pos ((fetched_keeps (·.st) s core a r).trans h)

theorem startRec_far (h : r.st ≠ .restored) (hfar : 65536 < r.place ∧ r.passed = false) :
    startRec s core r = refuseRec s core k b (fetched s core a r) 0x114 := by
  unfold startRec
  simp only [hh]
  refine (if_neg fun hq => h ((fetched_keeps (·.st) s core a r).symm.trans hq)).trans (if_pos ?_)
  change (decide (65536 < (fetched s core a r).place) && !(fetched s core a r).passed) = true
  rw [fetched_keeps (·.place) s core a r, fetched_keeps (·.passed) s core a r]
  simpa using hfar

/-- A record within the limit of its chain, or that a resolution has let go on, is checked: first by its words, then by its tiles. -/
theorem startRec_near (h : r.st ≠ .restored) (hnear : ¬ (65536 < r.place ∧ r.passed = false)) : startRec s core r =
    if (fetched s core a r).bad b.spad then refuseRec s core k b (fetched s core a r) 0x110
    else startTiles s core k b (fetched s core a r) (tilesAt s core b a (fetched s core a r)) := by
  unfold startRec
  simp only [hh]
  refine (if_neg fun hq => h ((fetched_keeps (·.st) s core a r).symm.trans hq)).trans ((if_neg ?_).trans rfl)
  change ¬ (decide (65536 < (fetched s core a r).place) && !(fetched s core a r).passed) = true
  rw [fetched_keeps (·.place) s core a r, fetched_keeps (·.passed) s core a r]
  simpa using hnear

end

theorem plan_keeps {α : Type} (π : CopyRec → α) (r : CopyRec) (h : ∀ ps n, π { r with pieces := ps, unit := n } = π r := by intros; rfl) :
    π r.plan = π r := h _ _

/-- A tile that does not become READY is in the state that it enters. -/
theorem state_tileTo (s : State) (core k : Nat) {st : TileState} (h : st ≠ .ready) : ((s.tileTo core k st).tile core k).state = st := by
  unfold State.tileTo
  rw [tile_setTile]
  exact if_neg (by simp [h])

theorem recs_setTile (s : State) (core k : Nat) (t : Tile) : ((s.setTile core k t).core core).recs = (s.core core).recs := by
  rw [State.setTile, State.setCore_core]

/-- The side of a record that is a tile, in the state in which the record has it. -/
def runSide (s : State) (core : Nat) (r : CopyRec) : State :=
  if r.srcKind = 2 || r.dstKind = 2 then
    (s.claimTile core (r.tile % 256)).tileTo core (r.tile % 256) (if r.dstKind = 2 then .filling else .draining)
  else s

/-- The table tile of a record, in the state in which the record reads it. -/
def runTable (s : State) (core : Nat) (r : CopyRec) : State :=
  if r.expands then (s.claimTile core (r.ttab % 256)).tileTo core (r.ttab % 256) .draining else s

theorem runRec_eq (s : State) (core : Nat) (r : CopyRec) :
    runRec s core r = (runTable (runSide s core r) core r).setCopy core { r with st := .running }.plan := rfl

/-- Memory and the lists of records are as they were. -/
def SameRecs (core : Nat) (s t : State) : Prop := t.mem = s.mem ∧ t.recs = s.recs ∧ (t.core core).recs = (s.core core).recs

theorem SameRecs.trans {core : Nat} {s t u : State} (h : SameRecs core s t) (hu : SameRecs core t u) : SameRecs core s u :=
  ⟨hu.1.trans h.1, hu.2.1.trans h.2.1, hu.2.2.trans h.2.2⟩

theorem claimed_sameRecs (s : State) (core k : Nat) (st : TileState) : SameRecs core s ((s.claimTile core k).tileTo core k st) :=
  ⟨rfl, rfl, (recs_setTile ..).trans (recs_setTile ..)⟩

theorem runSide_sameRecs (s : State) (core : Nat) (r : CopyRec) : SameRecs core s (runSide s core r) :=
  iteInduction (motive := SameRecs core s) (fun _ => claimed_sameRecs ..) fun _ => ⟨rfl, rfl, rfl⟩

theorem runTable_sameRecs (s : State) (core : Nat) (r : CopyRec) : SameRecs core s (runTable s core r) :=
  iteInduction (motive := SameRecs core s) (fun _ => claimed_sameRecs ..) fun _ => ⟨rfl, rfl, rfl⟩

theorem dstKind_of_srcKind {r : CopyRec} (h : r.srcKind = 2) : r.dstKind = 0 := by
  unfold CopyRec.srcKind at h
  have hop : r.op = 1 := by
    by_contra hne
    rw [if_neg hne] at h
    split at h <;> omega
  simp [CopyRec.dstKind, hop]

/-- A record that runs: its tiles are in its hands, in the states that R245 gives. -/
theorem runRec_spec {s : State} {core : Nat} {r x : CopyRec} (hr : (s.core core).rec? r.id = some x) :
    (runRec s core r).mem = s.mem ∧ (runRec s core r).recs = s.recs ∧
    ((runRec s core r).core core).rec? r.id = some { r with st := .running }.plan ∧
    (r.expands = false → r.dstKind = 2 → ((runRec s core r).tile core (r.tile % 256)).state = .filling) ∧
    (r.expands = false → r.srcKind = 2 → ((runRec s core r).tile core (r.tile % 256)).state = .draining) ∧
    (r.expands = true → ((runRec s core r).tile core (r.ttab % 256)).state = .draining) := by
  obtain ⟨hm, hrecs, hcore⟩ := (runSide_sameRecs s core r).trans (runTable_sameRecs (runSide s core r) core r)
  have hfound : ((runTable (runSide s core r) core r).core core).rec? r.id = some x := (congrArg (List.find? _) hcore).trans hr
  have plain (he : r.expands = false) : runTable (runSide s core r) core r = runSide s core r := if_neg (by simp [he])
  have hid : { r with st := .running }.plan.id = r.id := plan_keeps (·.id) { r with st := .running }
  rw [runRec_eq]
  refine ⟨(setCopy_mem ..).trans hm, (setCopy_recs ..).trans hrecs, hid ▸ rec?_setCopy (hid.symm ▸ hfound),
    fun he hd => ?_, fun he hk => ?_, fun he => ?_⟩
  all_goals rw [tile_setCopy]
  · rw [plain he, runSide, if_pos (by simp [hd]), if_pos hd]
    exact state_tileTo _ _ _ nofun
  · rw [plain he, runSide, if_pos (by simp [hk]), if_neg (by simp [dstKind_of_srcKind hk])]
    exact state_tileTo _ _ _ nofun
  · rw [runTable, if_pos he]
    exact state_tileTo _ _ _ nofun

theorem copyStarts : CopyStarts := by
  intro s core r k b a hn hr hh read q hu refused
  have hexec : exec (.copyRecordStart core) s = .next (startRec s core r) := by
    change execCopyRecordStart core s = _
    unfold execCopyRecordStart
    simp only [hn]
  have hid : q.id = r.id := fetched_keeps (·.id) s core a r
  have refuse {c : Nat} (hc : c < 512) (he : startRec s core r = refuseRec s core k b q c) : refused c := by
    obtain ⟨x, y, hx, hst, hrec, hcause, hctx⟩ := refuseRec_spec (b := b) (hid.symm ▸ hr) hu hc
    exact ⟨_, x, y, hexec.trans (congrArg _ he), hid ▸ hx, hst, hrec, hcause, hctx⟩
  refine ⟨fun h => hexec.trans (congrArg _ (startRec_restored hh h)), ?_⟩
  intro far h
  have hnear (hf : ¬ far) := startRec_near hh h hf
  refine ⟨fun hf => refuse (by decide) (startRec_far hh h hf), fun hf hb => refuse (by decide) ((hnear hf).trans (if_pos hb)),
    fun hf hb c hc hlt => refuse hlt ?_, fun hf hb hok => ?_⟩
  · refine (hnear hf).trans ((if_neg (Bool.eq_false_iff.mp hb)).trans ?_)
    exact congrArg (startTiles s core k b q) hc
  · have he : startRec s core r = runRec s core q :=
      (hnear hf).trans ((if_neg (Bool.eq_false_iff.mp hb)).trans (congrArg (startTiles s core k b q) hok))
    obtain ⟨hm, hrecs, hx, hdst, hsrc, htab⟩ := runRec_spec (hid.symm ▸ hr)
    exact ⟨_, { q with st := .running }.plan, hexec.trans (congrArg _ he), hid ▸ hx, plan_keeps (·.st) { q with st := .running },
      plan_keeps (·.words) { q with st := .running }, hm, hrecs, fun h1 h2 _ => hdst h1 h2, hsrc, htab⟩

end Sys2Proof.Claims
end

section
namespace Sys2Proof.Claims

set_option Elab.async false

open Sys2Proof Sys2Proof.Machine

/-! ### Pieces of a copy (09 R258, R308) -/

theorem getElem?_listAt_self {α : Type} {l : List α} {i : Nat} {x : α} (g : α → α) (h : l[i]? = some x) : (listAt l i g)[i]? = some (g x) := by
  induction l generalizing i with
  | nil => simp at h
  | cons y r ih =>
    cases i with
    | zero => simpa [listAt] using congrArg (Option.map g) h
    | succ n => exact ih (by simpa using h)

/-- A piece put into its record is read there. -/
theorem pieces_setPiece {r : CopyRec} {n : Nat} {p : Piece} (h : r.pieces[n]? = some p) (q : Piece) : (r.setPiece n q).pieces[n]? = some q :=
  getElem?_listAt_self (fun _ => q) h

/-! #### ENGINE_READ -/

/-- A TLB fill leaves the records of a core's copy engine. -/
theorem fill_copyRecs (s : State) (core ctx va : Nat) : ((s.fill core ctx va).core core).recs = (s.core core).recs := by
  have hput (t : TlbEnt) (u : State) :
      ((u.setCore core { u.core core with tlb := (t :: (u.core core).tlb).take 512 }).core core).recs = (u.core core).recs := by
    rw [State.setCore_core]
  unfold State.fill
  refine iteInduction (motive := fun t : State => (t.core core).recs = (s.core core).recs) (fun _ => rfl) fun _ => ?_
  split
  · refine (hput ..).trans ?_
    split
    · split <;> rfl
    · rfl
  split
  · exact iteInduction (motive := fun t : State => (t.core core).recs = (s.core core).recs) (fun _ => hput ..) fun _ => rfl
  · rfl

theorem fillLanes_copyRecs (s : State) (w : Warp) (cs : List LaneChk) : ((fillLanes s w cs).core w.core).recs = (s.core w.core).recs :=
  foldl_kept (fun s : State => (s.core w.core).recs)
    (fun s _ => iteInduction (motive := fun t : State => (t.core w.core).recs = (s.core w.core).recs) (fun _ => fill_copyRecs ..) fun _ => rfl) cs s

/-- Bytes of no page need no translation. -/
theorem fillLanes_onChip {cs : List LaneChk} (h : ∀ c ∈ cs, ptrSpace c.addr ≠ 0) (s : State) (w : Warp) : fillLanes s w cs = s :=
  foldl_fixed fun c hc => if_neg (by simp [h c hc])

theorem holdSide_mem (s : State) (ctx : Nat) (cs : List LaneChk) : (s.holdSide ctx cs).mem = s.mem := by
  rw [State.holdSide_eq]

theorem holdSide_cores (s : State) (ctx : Nat) (cs : List LaneChk) : (s.holdSide ctx cs).cores = s.cores := by
  rw [State.holdSide_eq]

/-- The units of a piece, each with the bytes of its source. -/
abbrev sourceUnits (s : State) (w : Warp) (core : Nat) (b : Block) (a : Allot) (r : CopyRec) (p : Piece) : List (Nat × List (List LaneChk)) :=
  p.units.map fun n => (n, sideBytes s w core b a r false n)

/-- Every byte of the sources of some units. -/
abbrev unitBytes (us : List (Nat × List (List LaneChk))) : List LaneChk := us.flatMap fun u => u.2.flatten

/-- The state in which the blocks and translations of some bytes are in their caches. -/
abbrev sourceHeld (s : State) (w : Warp) (core : Nat) (cs : List LaneChk) : State := (fillLanes s { w with core := core } cs).holdSide w.ctx cs

theorem sourceHeld_recs (s : State) (w : Warp) (core : Nat) (cs : List LaneChk) : ((sourceHeld s w core cs).core core).recs = (s.core core).recs :=
  (congrArg (fun l : List (Nat × Core) => (kvGet l core {}).recs) (holdSide_cores ..)).trans (fillLanes_copyRecs s { w with core := core } cs)

/-- The units' bytes as the destination has them. -/
abbrev convUnits (h : State) (core : Nat) (b : Block) (a : Allot) (k : Kick) (r : CopyRec) (us : List (Nat × List (List LaneChk))) :
    Option (List (List Byte)) :=
  us.mapM fun u => convUnit h core b a k r u.1 (u.2.map fun run => run.map fun c => memGet h.mem (h.homeLoc c.loc))

section
variable {s : State} {core i n : Nat} {r : CopyRec} {p : Piece} {k : Kick} {b : Block} {a : Allot} {w : Warp}
  (hr : (s.core core).rec? i = some r) (hp : r.pieces[n]? = some p) (hh : copyHome s core r = some (k, b, a)) (hw : s.warp? k.warp = some w)
  (hst : r.st = .running) (hmiss : p.missing = false) (hfail : p.failed = false) (hwrit : p.written = false)
include hr hp hh hw hst hmiss hfail hwrit

theorem exec_engineRead {ds : List (List Byte)} (hstop : r.stopped = false) (hdata : p.data = none)
    (hok : readSide s w.ctx (unitBytes (sourceUnits s w core b a r p)) = .ok)
    (hconv : convUnits (sourceHeld s w core (unitBytes (sourceUnits s w core b a r p))) core b a k r (sourceUnits s w core b a r p) = some ds) :
    exec (.engineRead core 0 i n) s = .next ((sourceHeld s w core (unitBytes (sourceUnits s w core b a r p))).setCopy core
      (r.setPiece n { p with data := some ds.flatten })) := by
  change execEngineRead core 0 i n s = _
  unfold execEngineRead
  rw [if_pos rfl]
  unfold copyRead
  simp only [hr, hp, hh, hw, hok, hconv]
  exact congrArg _ (if_neg (by simp [hst, hstop, hdata, hmiss, hfail, hwrit]))

end

/-! #### ENGINE_WRITE -/

/-- On-chip bytes written one by one, each at its home. -/
theorem writeBytes_onChip (ctx view : Nat) (tag : WriterTag) (whole : List Nat) {xs : List (LaneChk × Byte)}
    (h : ∀ x ∈ xs, ptrSpace x.1.addr ≠ 0) (ws : List Nat) (s : State) :
    let u := xs.foldl (writeByte ctx view tag whole) (ws, s)
    SameAgents s u.2 ∧ u.1.length = ws.length + xs.length ∧ u.2.mem = memPutAll s.mem (xs.map fun x => (s.homeLoc x.1.loc, x.2)) := by
  induction xs generalizing ws s with
  | nil => exact ⟨rfl, rfl, rfl⟩
  | cons x r ih =>
    let t := enterOrder s.newWid.2 s.newWid.1 [(s.homeLoc x.1.loc, x.2)] view
    have hx : writeByte ctx view tag whole (ws, s) x = (ws ++ [s.newWid.1], t) := if_neg (h x (List.mem_cons_self ..))
    have ht : SameAgents s t := rfl
    obtain ⟨ha, hl, hm⟩ := ih (fun y hy => h y (List.mem_cons_of_mem _ hy)) (ws ++ [s.newWid.1]) t
    rw [List.foldl_cons, hx]
    refine ⟨ht.trans ha, hl.trans (by simp; omega), hm.trans ?_⟩
    rw [ht.field State.homeLoc]
    rfl

/-- The bytes that one ENGINE_WRITE writes are bytes of the piece. -/
theorem lt_of_mem_putNow {s : State} {ctx : Nat} {cs : List LaneChk} {put : List Nat} {m : Nat} (h : m ∈ putNow s ctx cs put) : m < cs.length :=
  List.mem_range.mp (List.mem_filter.mp h).1

theorem foldl_crossed (s : State) (cs : List LaneChk) : SameHomes s (cs.foldl (fun s c => s.crossed c.loc) s) :=
  List.foldlRecOn (motive := SameHomes s) cs _ rfl fun t ht c _ => ht.trans (crossed_sameHomes t c.loc)

theorem coverRegion_mem (s : State) (ctx rcb : Nat) (ws : List Nat) : (s.coverRegion ctx rcb ws).mem = s.mem := by
  unfold State.coverRegion
  split <;> rfl

theorem coverRegion_core (s : State) (ctx rcb core : Nat) (ws : List Nat) : (s.coverRegion ctx rcb ws).core core = s.core core := by
  unfold State.coverRegion
  split <;> rfl

/-- Every byte of a piece on its destination. -/
abbrev destBytes (s : State) (w : Warp) (core : Nat) (b : Block) (a : Allot) (r : CopyRec) (p : Piece) : List LaneChk :=
  (p.units.flatMap fun n => sideBytes s w core b a r true n).flatten

/-- More of a piece's bytes have been written: the numbers of their writes, and the state that these leave. -/
def pieceWritten (core n : Nat) (r : CopyRec) (p : Piece) (k : Kick) (len : Nat) (now : List Nat) (x : List Nat × State) : State :=
  (x.2.coverRegion k.tag.ctx k.tag.region x.1).setCopy core (r.setPiece n (p.with_ len now x.1))

/-- A piece is written when all its bytes are, and drops what it has read then alone. -/
theorem with_written (p : Piece) (n : Nat) (put ws : List Nat) {bs : List Byte} (h : p.data = some bs) :
    ((p.with_ n put ws).written = true ↔ ∀ m, m < n → m ∈ p.put ∨ m ∈ put) ∧
    ((p.with_ n put ws).written = false → (p.with_ n put ws).data = some bs) := by
  unfold Piece.with_
  refine ⟨by simp [mem_union], fun hw => ?_⟩
  exact (if_neg (Bool.eq_false_iff.mp hw)).trans h

/-- What one ENGINE_WRITE writes of a piece on chip (R308). -/
theorem putBytes_onChip {cs : List LaneChk} (h : ∀ c ∈ cs, ptrSpace c.addr ≠ 0) (s : State) (ctx view : Nat) (tag : WriterTag) (bs : List Byte)
    (put : List Nat) :
    let u := putBytes s ctx view tag cs bs put
    (∃ n, SameAgents { s with free := n } u.2) ∧ u.1.length = (putNow s ctx cs put).length ∧
      u.2.mem = memPutAll s.mem ((putNow s ctx cs put).filterMap fun m => (cs[m]?).map fun c => (s.homeLoc c.loc, bs.getD m 0)) := by
  let xs := (putNow s ctx cs put).filterMap fun j => (cs[j]?).map fun c => (c, bs.getD j 0)
  have hxs (x : LaneChk × Byte) (hx : x ∈ xs) : ptrSpace x.1.addr ≠ 0 := by
    obtain ⟨j, _, hj⟩ := List.mem_filterMap.mp hx
    obtain ⟨c, hc, rfl⟩ := Option.map_eq_some_iff.mp hj
    exact h c (List.mem_of_getElem? hc)
  have hall (j : Nat) (hj : j ∈ putNow s ctx cs put) : ((cs[j]?).map fun c => (c, bs.getD j 0)).isSome := by
    simp [lt_of_mem_putNow hj]
  obtain ⟨ha, hl, hm⟩ := writeBytes_onChip ctx view tag (cs.map fun c => s.homeLoc c.loc) hxs [] { s with free := s.free + max 128 cs.length }
  refine ⟨⟨_, ha⟩, hl.trans ?_, hm.trans (congrArg (memPutAll s.mem) ?_)⟩
  · rw [List.length_nil, Nat.zero_add]
    exact List.filterMap_length_eq_length.mpr hall
  · rw [List.map_filterMap]
    refine congrArg (List.filterMap · _) (funext fun j => ?_)
    rw [Option.map_map]
    rfl

section
variable {s : State} {core i n : Nat} {r : CopyRec} {p : Piece} {k : Kick} {b : Block} {a : Allot} {w : Warp}
  (hr : (s.core core).rec? i = some r) (hp : r.pieces[n]? = some p) (hh : copyHome s core r = some (k, b, a)) (hw : s.warp? k.warp = some w)
  (hst : r.st = .running) (hmiss : p.missing = false) (hfail : p.failed = false) (hwrit : p.written = false)
include hr hp hh hw hst hmiss hfail hwrit

theorem exec_engineWrite {bs : List Byte} (hdata : p.data = some bs) (hok : writeSide s w.ctx (destBytes s w core b a r p) = .ok)
    (hon : ∀ c ∈ destBytes s w core b a r p, ptrSpace c.addr ≠ 0) :
    let cs := destBytes s w core b a r p
    let u := cs.foldl (fun s c => s.crossed c.loc) s
    exec (.engineWrite core 0 i n) s =
      .next (pieceWritten core n r p k cs.length (putNow u w.ctx cs p.put) (putBytes u w.ctx core k.tag cs bs p.put)) := by
  change execEngineWrite core 0 i n s = _
  unfold execEngineWrite
  rw [if_pos rfl]
  unfold copyWrite
  simp only [hr, hp, hh, hw, hdata, hok, fillLanes_onChip hon]
  exact congrArg _ (if_neg (by simp [hst, hmiss, hfail, hwrit]))

end

theorem copyPieces : CopyPieces := by
  intro s core i n r p k b a w hr hp hh hw hst hmiss hfail hwrit
  have hid : r.id = i := rec?_id hr
  refine ⟨fun ds hstop hdata => ?_, fun bs hdata => ?_⟩
  · intro us cs h hok hconv
    have hfound : (h.core core).rec? i = some r := (congrArg (List.find? _) (sourceHeld_recs s w core cs)).trans hr
    refine ⟨_, _, exec_engineRead hr hp hh hw hst hmiss hfail hwrit hstop hdata hok hconv, setCopy_mem ..,
      hid ▸ rec?_setCopy (r := r.setPiece n { p with data := some ds.flatten }) (hid.symm ▸ hfound), pieces_setPiece hp _, fun hon => ?_⟩
    exact (setCopy_mem ..).trans ((holdSide_mem ..).trans (congrArg State.mem (fillLanes_onChip hon ..)))
  · intro cs now hok hon
    have hu : SameHomes s (cs.foldl (fun s c => s.crossed c.loc) s) := foldl_crossed s cs
    have hnow : putNow (cs.foldl (fun s c => s.crossed c.loc) s) w.ctx cs p.put = now := hu.field (putNow · w.ctx cs p.put)
    have hhome : (cs.foldl (fun s c => s.crossed c.loc) s).homeLoc = s.homeLoc := hu.field State.homeLoc
    obtain ⟨⟨f, ha⟩, hl, hm⟩ := putBytes_onChip hon (cs.foldl (fun s c => s.crossed c.loc) s) w.ctx core k.tag bs p.put
    have hexec := exec_engineWrite hr hp hh hw hst hmiss hfail hwrit hdata hok hon
    dsimp only at hexec
    rw [hnow] at hexec hl hm
    rw [hhome, hu.field (·.mem)] at hm
    generalize putBytes (cs.foldl (fun s c => s.crossed c.loc) s) w.ctx core k.tag cs bs p.put = x at hexec ha hl hm
    obtain ⟨hwritten, hkept⟩ := with_written p cs.length now x.1 hdata
    have hcore : (x.2.coverRegion k.tag.ctx k.tag.region x.1).core core = s.core core :=
      (coverRegion_core ..).trans ((ha.field (·.core core)).trans (hu.field (·.core core)))
    have hfound : ((x.2.coverRegion k.tag.ctx k.tag.region x.1).core core).rec? i = some r := (congrArg (Core.rec? · i) hcore).trans hr
    exact ⟨_, _, p.with_ cs.length now x.1, hexec, hid ▸ rec?_setCopy (r := r.setPiece n (p.with_ cs.length now x.1)) (hid.symm ▸ hfound),
      pieces_setPiece hp _, rfl, List.length_append.trans (congrArg (p.wids.length + ·) hl), hwritten, hkept,
      (setCopy_mem ..).trans ((coverRegion_mem ..).trans hm)⟩

end Sys2Proof.Claims
end

section
namespace Sys2Proof.Claims

set_option Elab.async false

open Sys2Proof Sys2Proof.Machine

/-! ### BYTE_ARRIVE (09 R259, R260, 08 R219) -/

/-- A record with one of its pieces counted. -/
def countedPiece (r : CopyRec) (n : Nat) (p : Piece) : CopyRec :=
  { r.setPiece n { p with counted := true } with counted := r.counted + p.bytes }

/-- A piece that is not the last of its chunk to be counted. -/
theorem exec_byteArrive {s : State} {core i n : Nat} {r : CopyRec} {p : Piece} {k : Kick} {b : Block} {a : Allot}
    (hr : (s.core core).rec? i = some r) (hp : r.pieces[n]? = some p) (hh : copyHome s core r = some (k, b, a)) (hst : r.st = .running)
    (hwrit : p.written = true) (hcount : p.counted = false) (hgate : gateOpen s core 3 p.wids = true)
    (hfull : (r.setPiece n { p with counted := true }).pieces.all (·.counted) = false) :
    exec (.byteArrive core i n) s = .next (if r.nocount then s.setCopy core (countedPiece r n p)
      else copyArriveBar (s.setCopy core (countedPiece r n p)) core k (countedPiece r n p) a p.bytes p.wids) := by
  change execByteArrive core i n s = _
  unfold execByteArrive
  simp only [hr, hp, hh]
  refine (if_neg (by simp [hst, hwrit, hcount, hgate])).trans ?_
  simp only [hfull, Bool.false_and, Bool.false_eq_true, if_false]
  rfl

theorem barUpdate_cores (s : State) (loc : Nat) (b : BarObj) (cov : List Nat) : (s.barUpdate loc b cov).cores = s.cores := by
  have hw : (barWritten s loc b cov).cores = s.cores := rfl
  unfold State.barUpdate
  dsimp only
  by_cases h : b.complete.phase = b.phase
  · rw [if_pos h]
    exact hw
  · rw [if_neg h]
    exact hw

/-- An arrival at a record's barrier object leaves the cores. -/
theorem copyArriveBar_cores (s : State) (core : Nat) (k : Kick) (r : CopyRec) (a : Allot) (n : Nat) (cov : List Nat) :
    (copyArriveBar s core k r a n cov).cores = s.cores := by
  unfold copyArriveBar
  dsimp only
  split
  · exact (State.raise_cores ..).trans (poke_cores ..)
  · exact barUpdate_cores ..

/-- The bytes that an object expects become so many less. -/
theorem copyArriveBar_expected {s : State} {core : Nat} {r : CopyRec} {a : Allot} {n : Nat} (k : Kick) (cov : List Nat)
    (ht : (s.bar (locChip 1 core (a.sBase + r.barOff))).txa = true) (hn : n ≤ (s.bar (locChip 1 core (a.sBase + r.barOff))).txb) :
    copyArriveBar s core k r a n cov = s.barUpdate (locChip 1 core (a.sBase + r.barOff))
      { s.bar (locChip 1 core (a.sBase + r.barOff)) with txb := (s.bar (locChip 1 core (a.sBase + r.barOff))).txb - n } cov :=
  if_neg (by simp [ht, hn])

/-- A write of an object leaves every byte outside its 12 bytes. -/
theorem memGet_setBar_outside {s : State} (h : s.mem.wf = true) (loc : Nat) (b : BarObj) {x : Nat} (hx : x < loc ∨ loc + 12 ≤ x) :
    memGet (s.setBar loc b).mem x = memGet s.mem x := by
  rw [setBar_mem, memGet_putAll_cellsAt h, length_bytesOf, if_neg (by omega)]

theorem byteArrivals : ByteArrivals := by
  intro s core i n r p k b a hr hp hh hst hwrit hcount hgate hfull
  have hid : r.id = i := rec?_id hr
  have hexec := exec_byteArrive hr hp hh hst hwrit hcount hgate hfull
  have hx : ((s.setCopy core (countedPiece r n p)).core core).rec? i = some (countedPiece r n p) :=
    hid ▸ rec?_setCopy (r := countedPiece r n p) (hid.symm ▸ hr)
  have hpiece : (countedPiece r n p).pieces[n]? = some { p with counted := true } := pieces_setPiece hp _
  cases hn : r.nocount with
  | true =>
    rw [hn, if_pos rfl] at hexec
    exact ⟨_, _, hexec, hx, rfl, hpiece, fun _ => rfl, fun hf => absurd hf.symm Bool.false_ne_true⟩
  | false =>
    rw [hn, if_neg Bool.false_ne_true] at hexec
    refine ⟨_, _, hexec, (congrArg (fun l : List (Nat × Core) => (kvGet l core {}).rec? i) (copyArriveBar_cores ..)).trans hx, rfl, hpiece,
      fun hf => absurd hf Bool.false_ne_true, ?_⟩
    intro loc o _ hwf ht hb hpend
    have hc := complete_of_pend (b := { o with txb := o.txb - p.bytes }) hpend
    have hfits : BarFits { o with txb := o.txb - p.bytes } :=
      { bar_fits s loc with txb := Nat.lt_of_le_of_lt (Nat.sub_le ..) (bar_fits s loc).txb }
    rw [show copyArriveBar (s.setCopy core (countedPiece r n p)) core k (countedPiece r n p) a p.bytes p.wids =
      (s.setCopy core (countedPiece r n p)).barUpdate loc { o with txb := o.txb - p.bytes } p.wids from copyArriveBar_expected k p.wids ht hb]
    refine ⟨(barUpdate_bar (s := s.setCopy core (countedPiece r n p)) hwf hfits loc p.wids).trans hc, fun y hy => ?_⟩
    rw [barUpdate_mem]
    exact memGet_setBar_outside (s := s.setCopy core (countedPiece r n p)) hwf loc _ hy

/-- Settles O32: what `kick` makes is one function of its place, a record's start is the first of its checks that fails, and a piece
moves the bytes that it names, at their homes. -/
theorem copyEngine : Obligations.CopyEngine := ⟨kicks, kickGates, copyStarts, copyPieces, byteArrivals⟩

end Sys2Proof.Claims
end
